-- ==== Sys2Proof/Word.lean ====
section
/-! DEFINITION. The words of the machine: the widths the manual computes with. -/

namespace Sys2Proof

/-- A byte of memory (R6). -/
abbrev Byte := BitVec 8

/-- A 32-bit lane value, instruction word or memory word (R61, R79). -/
abbrev W32 := BitVec 32

/-- A 64-bit scalar register, system register or virtual address (R61, R76, R183). -/
abbrev W64 := BitVec 64

/-- A swatch: the 448 signature bits of a release (R211). -/
abbrev Swatch := BitVec 448

end Sys2Proof
end

