-- ==== Sys2Proof/Syntax.lean ====
section
/-! DEFINITION. The syntax of Opkai: operand words, extension words, and ONE inductive with a constructor for every row of
the opcode table. Word instructions carry their operand word as R79 and R82 lay it out; the rows without an encoding are
events of the device, the host, the fabric and the management port, and carry the data the event brings. -/

namespace Sys2Proof

/-- The fields of a kind 01 (broadcast) extension word, Table 3-4. `z1` and `z2` are the bits that must be zero. -/
structure K01 where
  c   : BitVec 7
  bsc : Bool
  bhi : Bool
  z1  : BitVec 3
  sel : BitVec 4
  na  : Bool
  aa  : Bool
  nb  : Bool
  ab  : Bool
  nc  : Bool
  ac  : Bool
  z2  : BitVec 8
  deriving DecidableEq, Repr

/-- The fields of a kind 10 (parameter) extension word, Table 3-5. -/
structure K10 where
  scope : BitVec 3
  order : BitVec 2
  scale : BitVec 2
  size  : BitVec 2
  sx    : Bool
  ccls  : BitVec 2
  sel   : BitVec 4
  val   : BitVec 14
  deriving DecidableEq, Repr

/-- The extension word of an instruction (R82): none, a kind 00 immediate, a kind 01 or a kind 10 word. -/
inductive Ext where
  | none
  | imm (v : BitVec 30)
  | bro (k : K01)
  | par (k : K10)
  deriving DecidableEq, Repr

/-- The operand part of an instruction word (Table 3-1), with its extension word. The opcode says what D, A and B mean. -/
structure Opnd where
  st : BitVec 3
  d  : BitVec 7
  a  : BitVec 7
  b  : BitVec 7
  x  : Ext
  deriving DecidableEq, Repr

/-- The master of a register-window access (R312). -/
inductive Master where
  | host
  | mgmt
  deriving DecidableEq, Repr

/-- The read-modify-write operations of ATOM and RED (Table 11-3), and the compare-and-swap of CAS. -/
inductive RmwOp where
  | add | min | max | and | or | xor | xchg | fadd | fmin | fmax
  deriving DecidableEq, Repr

/-- The source of a peer's request (R320): its module and its requester there. -/
structure PeerId where
  module : Nat
  req    : Nat
  deriving DecidableEq, Repr

/-- A peer's request (R200, R320): its source, its sequence number at the home, and the HDM offset that it goes to. -/
structure PeerReq where
  src : PeerId
  seq : Nat
  hdm : Nat
  deriving DecidableEq, Repr

/-- The read-modify-write a peer asks for (Table 10-4): the operation, signed or not, the size in bytes and the operand,
or a compare-and-swap with its expected and new values. -/
inductive PeerRmw where
  | rmw (op : RmwOp) (signed : Bool) (size : Nat) (x : W64)
  | cas (size : Nat) (expected new : W64)
  deriving DecidableEq, Repr

/-- One instruction or event: a constructor for every row of the opcode table, in its order. -/
inductive Instr where
  | nop (o : Opnd)
  | yieldpt (o : Opnd)
  | exit (o : Opnd)
  | ret (o : Opnd)
  | rfe (o : Opnd)
  | svc (o : Opnd)
  | trap (o : Opnd)
  | bra (o : Opnd)
  | brc (o : Opnd)
  | bzm (o : Opnd)
  | call (o : Opnd)
  | mode (o : Opnd)
  | mfsr (o : Opnd)
  | mtsr (o : Opnd)
  | migrate (o : Opnd)
  | launch (o : Opnd)
  | tlbinv (o : Opnd)
  | harvest (o : Opnd)
  | mappg (o : Opnd)
  | accsn (o : Opnd)
  | cmaint (o : Opnd)
  | sadd (o : Opnd)
  | ssub (o : Opnd)
  | smul (o : Opnd)
  | smulh (o : Opnd)
  | smad (o : Opnd)
  | sand (o : Opnd)
  | sor (o : Opnd)
  | sxor (o : Opnd)
  | sshl (o : Opnd)
  | sshr (o : Opnd)
  | ssra (o : Opnd)
  | smin (o : Opnd)
  | smax (o : Opnd)
  | scmp (o : Opnd)
  | ssel (o : Opnd)
  | smov (o : Opnd)
  | sli (o : Opnd)
  | spopc (o : Opnd)
  | sclz (o : Opnd)
  | sffs (o : Opnd)
  | vadd (o : Opnd)
  | vsub (o : Opnd)
  | vmul (o : Opnd)
  | vmulh (o : Opnd)
  | vmad (o : Opnd)
  | vand (o : Opnd)
  | vor (o : Opnd)
  | vxor (o : Opnd)
  | vshl (o : Opnd)
  | vshr (o : Opnd)
  | vsra (o : Opnd)
  | vmin (o : Opnd)
  | vmax (o : Opnd)
  | vabs (o : Opnd)
  | vcmp (o : Opnd)
  | vsel (o : Opnd)
  | vmov (o : Opnd)
  | vmovImm (o : Opnd)
  | vmovScalar (o : Opnd)
  | vpopc (o : Opnd)
  | vclz (o : Opnd)
  | vbfe (o : Opnd)
  | vbfi (o : Opnd)
  | fadd (o : Opnd)
  | fsub (o : Opnd)
  | fmul (o : Opnd)
  | fma (o : Opnd)
  | fmin (o : Opnd)
  | fmax (o : Opnd)
  | fcmp (o : Opnd)
  | frcp (o : Opnd)
  | frsq (o : Opnd)
  | fsqrt (o : Opnd)
  | fex2 (o : Opnd)
  | flg2 (o : Opnd)
  | ftrig (o : Opnd)
  | frnd (o : Opnd)
  | fcvt (o : Opnd)
  | fcls (o : Opnd)
  | fscl (o : Opnd)
  | shfl (o : Opnd)
  | shflScalar (o : Opnd)
  | shfx (o : Opnd)
  | vote (o : Opnd)
  | rfal (o : Opnd)
  | vred (o : Opnd)
  | vscan (o : Opnd)
  | viota (o : Opnd)
  | ld (o : Opnd)
  | st (o : Opnd)
  | lds (o : Opnd)
  | sts (o : Opnd)
  | sld (o : Opnd)
  | sst (o : Opnd)
  | ldacq (o : Opnd)
  | strel (o : Opnd)
  | fence (o : Opnd)
  | atom (o : Opnd)
  | cas (o : Opnd)
  | red (o : Opnd)
  | pfetch (o : Opnd)
  | mwait (o : Opnd)
  | barinit (o : Opnd)
  | bararv (o : Opnd)
  | barwait (o : Opnd)
  | cpy (o : Opnd)
  | cpywp (o : Opnd)
  | qnt (o : Opnd)
  | spres (o : Opnd)
  | spresW (o : Opnd)
  | spcom (o : Opnd)
  | tcfg (o : Opnd)
  | tld (o : Opnd)
  | tst (o : Opnd)
  | mma (o : Opnd)
  | mmax (o : Opnd)
  | mmaz (o : Opnd)
  | accld (o : Opnd)
  | accst (o : Opnd)
  | mbatch (o : Opnd)
  | mbwait (o : Opnd)
  | xscan (o : Opnd)
  | slmm (o : Opnd)
  | wrnd (o : Opnd)
  | wrndF32 (o : Opnd)
  | vemit (o : Opnd)
  | pemit (o : Opnd)
  | texs (o : Opnd)
  | texsL (o : Opnd)
  | texsB (o : Opnd)
  | texf (o : Opnd)
  | texfL (o : Opnd)
  | rtst (o : Opnd)
  | rtld (o : Opnd)
  | mlins (o : Opnd)
  | mlres (o : Opnd)
  | mlresClr (o : Opnd)
  | rayq (o : Opnd)
  | rayqBob (o : Opnd)
  | seam (o : Opnd)
  -- events: what engines, the dispatcher, the homes, the host, peers and the management port do
  | engineFaultDelivery (grp : Nat)
  | engineTranslationFault (cmd : Nat)
  | registerMissFetch (grp : Nat)
  | wakeBlockedGroup (grp : Nat)
  | ldthrExpiry (grp : Nat)
  | dispatchTakeRecord (queue : Nat)
  | dependenceRelease (queue : Nat)
  | panelPlace
  | panelComplete (panel : Nat)
  | preemptRequest (die : Nat)
  | panelEvict (panel : Nat)
  | idleEvictTimeout (panel : Nat)
  | panelRestore (panel : Nat)
  | sliceEnd (ctx die : Nat)
  | runBudgetExpiry (grp : Nat)
  | waitBudgetExpiry (grp : Nat)
  | contextSnapshot (ctx : Nat)
  | faultRecordPost (die : Nat)
  | eventWriteRetry
  | frespResume (index : Nat)
  | frespKill (index : Nat)
  | ctxPreempt (ctx : Nat)
  | ctxKill (ctx : Nat)
  | ctxStopResume (ctx : Nat)
  | registerWrite (off : Nat) (size : Nat) (value : W64)
  | spawnBinTimeout (die ctx : Nat) (entry : W64)
  | bobbinGroupPlace
  | copyCommandComplete (cmd : Nat) (bytes : Nat)
  | qntCommandComplete (cmd : Nat)
  | batchComplete (grp : Nat)
  | rayqCommandComplete (cmd : Nat)
  | seamComposite (key : Nat)
  | seamExchange (cmd : Nat)
  | seamComplete (key : Nat)
  | primitiveRasterise (die ctx : Nat) (args : W64)
  | fragmentGroupLaunch (die ctx : Nat) (args : W64)
  | passComplete (die ctx : Nat) (args : W64)
  | homeWritebackMerge (cluster : Nat) (line : Nat)
  | homeAtomic (req : Nat)
  | replicaMulticast (req : Nat)
  | requestReissueTimeout (req : Nat)
  | adFlushTimeout (core : Nat) (ctx : Nat) (page : Nat)
  | hostSnoop (pa : Nat)
  | hostMemWrite (hdm : Nat) (bytes : List Byte)
  | hostMemRead (hdm : Nat) (size : Nat)
  | peerRead (hdm : Nat) (size : Nat)
  | accessionedRead (hdm : Nat)
  | peerWrite (dest : PeerReq) (words : List W32) (mask : List Bool)
  | peerAtomic (src : PeerId) (seq : Nat) (hdm : Nat) (op : PeerRmw)
  | read (off : Nat)
  | write (off : Nat) (value : W64)
  | take (off : Nat)
  | give (off : Nat)
  | telem
  | reset (dies : BitVec 41)
  | spare (unit : Nat) (action : Nat)
  | clrfovf
  | cecWindowBoundary (unit : Nat)
  | hbmRowCopyDone (md : Nat)
  | powerWindowEnd (milliwatts : List Nat) (celsius : List Nat)
  | powerOnReset
  | svetfenLinkTrain (port : Nat) (lanes : Nat)
  | hostLinkTrain (width rate : Nat)
  | hostWindowRead (off : Nat) (size : Nat)
  | peerWindowReread (grp : Nat)
  | flitCrcDrop (req : Nat)
  deriving DecidableEq, Repr

end Sys2Proof
end

