-- ==== Sys2Proof/Machine/Forms.lean ====
section
/-! DEFINITION. The opcode map (Table 3-6) with its selectors (Table 3-7), the use of the kind 10 fields (R88, Table 3-8),
the register runs (Table 3-9), and the checks of Table 3-10 that need nothing but the words: sub-codes 0x05, 0x06 and the
part of 0x08 that does not depend on GMODE.ET. -/

namespace Sys2Proof.Machine

/-- The operand field classes of Table 3-2; `i hi` is an immediate from 0 to `hi`, `x hi` a selector from 0 to `hi`. -/
inductive Cls where
  | v | s | t | a | o | z
  | i (hi : Nat)
  | x (hi : Nat)
  deriving DecidableEq, Repr

/-- A row of the opcode map: the classes of D, A and B, the extension words it accepts, whether a broadcast scalar is allowed
(01b), the class of the kind 01 C field (`z` when there is none), whether kind 01 carries a selector and modifiers. -/
structure Form where
  d    : Cls
  a    : Cls
  b    : Cls
  none : Bool := true
  k00  : Bool := false
  k01  : Bool := false
  k10  : Bool := false
  bsc  : Bool := false
  c    : Cls := .z
  m    : Bool := false
  deriving DecidableEq, Repr

/-- The primary opcode of an instruction word (Table 3-6); an event has none and gives 0, which is unassigned. -/
def opcode : Instr → Nat
  | .nop _ | .yieldpt _ | .exit _ | .ret _ | .rfe _ | .svc _ | .trap _ => 0x01
  | .bra _ => 0x02 | .brc _ => 0x03 | .bzm _ => 0x04 | .call _ => 0x05 | .mode _ => 0x06 | .mfsr _ => 0x07
  | .mtsr _ => 0x08 | .migrate _ => 0x09 | .launch _ => 0x0A
  | .tlbinv _ | .harvest _ | .mappg _ | .accsn _ | .cmaint _ => 0x0B
  | .sadd _ => 0x10 | .ssub _ => 0x11 | .smul _ => 0x12 | .smulh _ => 0x13 | .smad _ => 0x14 | .sand _ => 0x15
  | .sor _ => 0x16 | .sxor _ => 0x17 | .sshl _ => 0x18 | .sshr _ => 0x19 | .ssra _ => 0x1A | .smin _ => 0x1B
  | .smax _ => 0x1C | .scmp _ => 0x1D | .ssel _ => 0x1E | .smov _ => 0x1F | .sli _ => 0x20 | .spopc _ => 0x21
  | .sclz _ => 0x22 | .sffs _ => 0x23
  | .vadd _ => 0x24 | .vsub _ => 0x25 | .vmul _ => 0x26 | .vmulh _ => 0x27 | .vmad _ => 0x28 | .vand _ => 0x29
  | .vor _ => 0x2A | .vxor _ => 0x2B | .vshl _ => 0x2C | .vshr _ => 0x2D | .vsra _ => 0x2E | .vmin _ => 0x2F
  | .vmax _ => 0x30 | .vabs _ => 0x31 | .vcmp _ => 0x32 | .vsel _ => 0x33
  | .vmov _ | .vmovImm _ | .vmovScalar _ => 0x34
  | .vpopc _ => 0x35 | .vclz _ => 0x36 | .vbfe _ => 0x37 | .vbfi _ => 0x38
  | .fadd _ => 0x39 | .fsub _ => 0x3A | .fmul _ => 0x3B | .fma _ => 0x3C | .fmin _ => 0x3D | .fmax _ => 0x3E
  | .fcmp _ => 0x3F | .frcp _ => 0x40 | .frsq _ => 0x41 | .fsqrt _ => 0x42 | .fex2 _ => 0x43 | .flg2 _ => 0x44
  | .ftrig _ => 0x45 | .frnd _ => 0x46 | .fcvt _ => 0x47 | .fcls _ => 0x48 | .fscl _ => 0x49
  | .shfl _ | .shflScalar _ => 0x4A
  | .shfx _ => 0x4B | .vote _ => 0x4C | .rfal _ => 0x4D | .vred _ => 0x4E | .vscan _ => 0x4F | .viota _ => 0x50
  | .ld _ => 0x51 | .st _ => 0x52 | .lds _ => 0x53 | .sts _ => 0x54 | .sld _ => 0x55 | .sst _ => 0x56
  | .ldacq _ => 0x57 | .strel _ => 0x58 | .fence _ => 0x59 | .atom _ => 0x5A | .cas _ => 0x5B | .red _ => 0x5C
  | .pfetch _ => 0x5D | .mwait _ => 0x5E | .barinit _ => 0x5F | .bararv _ => 0x60 | .barwait _ => 0x61
  | .cpy _ => 0x62 | .cpywp _ => 0x63 | .qnt _ => 0x64
  | .spres _ | .spresW _ => 0x65
  | .spcom _ => 0x66 | .tcfg _ => 0x67 | .tld _ => 0x68 | .tst _ => 0x69
  | .mma _ => 0x6A | .mmax _ => 0x6B | .mmaz _ => 0x6C | .accld _ => 0x6D | .accst _ => 0x6E
  | .mbatch _ => 0x6F | .mbwait _ => 0x70 | .xscan _ => 0x71 | .slmm _ => 0x72
  | .wrnd _ | .wrndF32 _ => 0x73
  | .vemit _ => 0x74 | .pemit _ => 0x75
  | .texs _ | .texsL _ | .texsB _ => 0x76
  | .texf _ | .texfL _ => 0x77
  | .rtst _ => 0x78 | .rtld _ => 0x79 | .mlins _ => 0x7A
  | .mlres _ | .mlresClr _ => 0x7B
  | .rayq _ | .rayqBob _ => 0x7C
  | .seam _ => 0x7D
  | .engineFaultDelivery _ | .engineTranslationFault _ | .registerMissFetch _ | .wakeBlockedGroup _
  | .ldthrExpiry _ | .dispatchTakeRecord _ | .dependenceRelease _ | .panelPlace | .panelComplete _
  | .preemptRequest _ | .panelEvict _ | .idleEvictTimeout _ | .panelRestore _ | .sliceEnd _ _
  | .runBudgetExpiry _ | .waitBudgetExpiry _ | .contextSnapshot _ | .faultRecordPost _ | .eventWriteRetry
  | .frespResume _ | .frespKill _ | .ctxPreempt _ | .ctxKill _ | .ctxStopResume _ | .registerWrite _ _ _
  | .spawnBinTimeout _ _ _ | .bobbinGroupPlace | .copyCommandComplete _ _ | .qntCommandComplete _
  | .batchComplete _ | .rayqCommandComplete _ | .seamComposite _ | .seamExchange _ | .seamComplete _
  | .primitiveRasterise _ _ _ | .fragmentGroupLaunch _ _ _ | .passComplete _ _ _ | .homeWritebackMerge _ _
  | .homeAtomic _ | .replicaMulticast _ | .requestReissueTimeout _ | .adFlushTimeout _ _ _ | .hostSnoop _
  | .hostMemWrite _ _ | .hostMemRead _ _ | .peerRead _ _ | .accessionedRead _ | .peerWrite ..
  | .peerAtomic .. | .read _ | .write _ _ | .take _ | .give _ | .telem | .reset _ | .spare .. | .clrfovf
  | .cecWindowBoundary _ | .hbmRowCopyDone _ | .powerWindowEnd _ _ | .powerOnReset | .svetfenLinkTrain _ _
  | .hostLinkTrain _ _ | .hostWindowRead _ _ | .peerWindowReread _ | .flitCrcDrop _ => 0x00

/-- The operand word of an event: all zero, never used. -/
def noOpnd : Opnd := ⟨0, 0, 0, 0, .none⟩

/-- The operand word of an instruction word. -/
def opnd : Instr → Opnd
  | .nop o | .yieldpt o | .exit o | .ret o | .rfe o | .svc o | .trap o | .bra o | .brc o | .bzm o | .call o
  | .mode o | .mfsr o | .mtsr o | .migrate o | .launch o | .tlbinv o | .harvest o | .mappg o | .accsn o
  | .cmaint o | .sadd o | .ssub o | .smul o | .smulh o | .smad o | .sand o | .sor o | .sxor o | .sshl o
  | .sshr o | .ssra o | .smin o | .smax o | .scmp o | .ssel o | .smov o | .sli o | .spopc o | .sclz o
  | .sffs o | .vadd o | .vsub o | .vmul o | .vmulh o | .vmad o | .vand o | .vor o | .vxor o | .vshl o
  | .vshr o | .vsra o | .vmin o | .vmax o | .vabs o | .vcmp o | .vsel o | .vmov o | .vmovImm o
  | .vmovScalar o | .vpopc o | .vclz o | .vbfe o | .vbfi o | .fadd o | .fsub o | .fmul o | .fma o | .fmin o
  | .fmax o | .fcmp o | .frcp o | .frsq o | .fsqrt o | .fex2 o | .flg2 o | .ftrig o | .frnd o | .fcvt o
  | .fcls o | .fscl o | .shfl o | .shflScalar o | .shfx o | .vote o | .rfal o | .vred o | .vscan o
  | .viota o | .ld o | .st o | .lds o | .sts o | .sld o | .sst o | .ldacq o | .strel o | .fence o | .atom o
  | .cas o | .red o | .pfetch o | .mwait o | .barinit o | .bararv o | .barwait o | .cpy o | .cpywp o | .qnt o
  | .spres o | .spresW o | .spcom o | .tcfg o | .tld o | .tst o | .mma o | .mmax o | .mmaz o | .accld o
  | .accst o | .mbatch o | .mbwait o | .xscan o | .slmm o | .wrnd o | .wrndF32 o | .vemit o | .pemit o
  | .texs o | .texsL o | .texsB o | .texf o | .texfL o | .rtst o | .rtld o | .mlins o | .mlres o
  | .mlresClr o | .rayq o | .rayqBob o | .seam o => o
  | .engineFaultDelivery _ | .engineTranslationFault _ | .registerMissFetch _ | .wakeBlockedGroup _
  | .ldthrExpiry _ | .dispatchTakeRecord _ | .dependenceRelease _ | .panelPlace | .panelComplete _
  | .preemptRequest _ | .panelEvict _ | .idleEvictTimeout _ | .panelRestore _ | .sliceEnd _ _
  | .runBudgetExpiry _ | .waitBudgetExpiry _ | .contextSnapshot _ | .faultRecordPost _ | .eventWriteRetry
  | .frespResume _ | .frespKill _ | .ctxPreempt _ | .ctxKill _ | .ctxStopResume _ | .registerWrite _ _ _
  | .spawnBinTimeout _ _ _ | .bobbinGroupPlace | .copyCommandComplete _ _ | .qntCommandComplete _
  | .batchComplete _ | .rayqCommandComplete _ | .seamComposite _ | .seamExchange _ | .seamComplete _
  | .primitiveRasterise _ _ _ | .fragmentGroupLaunch _ _ _ | .passComplete _ _ _ | .homeWritebackMerge _ _
  | .homeAtomic _ | .replicaMulticast _ | .requestReissueTimeout _ | .adFlushTimeout _ _ _ | .hostSnoop _
  | .hostMemWrite _ _ | .hostMemRead _ _ | .peerRead _ _ | .accessionedRead _ | .peerWrite ..
  | .peerAtomic .. | .read _ | .write _ _ | .take _ | .give _ | .telem | .reset _ | .spare .. | .clrfovf
  | .cecWindowBoundary _ | .hbmRowCopyDone _ | .powerWindowEnd _ _ | .powerOnReset | .svetfenLinkTrain _ _
  | .hostLinkTrain _ _ | .hostWindowRead _ _ | .peerWindowReread _ | .flitCrcDrop _ => noOpnd

/-- An instruction word, as against an event. -/
def isWord (i : Instr) : Bool := opcode i != 0

/-- The row of Table 3-6 of each opcode. Rows whose fields depend on a selector (0x01, 0x0B, 0x34, 0x4A) are finished by `form`. -/
def opForm (op : Nat) : Form :=
  if op = 0x01 then { d := .x 6, a := .z, b := .z }
  else if op = 0x02 then { d := .o, a := .o, b := .o }
  else if op = 0x03 then { d := .x 5, a := .s, b := .z, none := false, k00 := true }
  else if op = 0x04 then { d := .z, a := .s, b := .z, none := false, k00 := true }
  else if op = 0x05 then { d := .s, a := .z, b := .z, none := false, k00 := true }
  else if op = 0x06 then { d := .x 31, a := .z, b := .z, none := false, k00 := true }
  else if op = 0x07 then { d := .s, a := .z, b := .z, none := false, k00 := true }
  else if op = 0x08 then { d := .z, a := .s, b := .z, none := false, k00 := true }
  else if op = 0x09 ∨ op = 0x0A then { d := .s, a := .s, b := .z }
  else if op = 0x0B then { d := .z, a := .s, b := .z, none := false, k10 := true }
  else if op = 0x13 then { d := .s, a := .s, b := .s, k10 := true }
  else if op = 0x14 ∨ op = 0x1E then { d := .s, a := .s, b := .s, none := false, k01 := true, c := .s }
  else if op = 0x1B ∨ op = 0x1C then { d := .s, a := .s, b := .s, k00 := true, k10 := true }
  else if op = 0x1D then { d := .s, a := .s, b := .s, none := false, k10 := true }
  else if 0x10 ≤ op ∧ op ≤ 0x1A then { d := .s, a := .s, b := .s, k00 := true }
  else if op = 0x20 then { d := .s, a := .x 2, b := .z, none := false, k00 := true }
  else if op = 0x1F ∨ (0x21 ≤ op ∧ op ≤ 0x23) then { d := .s, a := .s, b := .z }
  else if (0x24 ≤ op ∧ op ≤ 0x27) ∨ op = 0x2F ∨ op = 0x30 ∨ (0x39 ≤ op ∧ op ≤ 0x3B) ∨ op = 0x3D ∨ op = 0x3E then
    { d := .v, a := .v, b := .v, k00 := true, k01 := true, bsc := true, m := true }
  else if op = 0x28 ∨ op = 0x3C then
    { d := .v, a := .v, b := .v, none := false, k01 := true, bsc := true, c := .v, m := true }
  else if (0x29 ≤ op ∧ op ≤ 0x2E) ∨ op = 0x37 ∨ op = 0x49 then
    { d := .v, a := .v, b := .v, k00 := true, k01 := true, bsc := true }
  else if op = 0x31 ∨ op = 0x35 ∨ op = 0x36 ∨ (0x40 ≤ op ∧ op ≤ 0x44) ∨ op = 0x46 ∨ op = 0x48 then
    { d := .v, a := .v, b := .z }
  else if op = 0x32 ∨ op = 0x3F then
    { d := .s, a := .v, b := .v, none := false, k01 := true, k10 := true, bsc := true, m := true }
  else if op = 0x33 then { d := .v, a := .v, b := .v, none := false, k01 := true, bsc := true, c := .s }
  else if op = 0x34 then { d := .v, a := .v, b := .z, k00 := true, k01 := true, bsc := true }
  else if op = 0x38 then { d := .v, a := .v, b := .v, none := false, k01 := true, bsc := true, c := .v }
  else if op = 0x45 then { d := .v, a := .v, b := .x 1 }
  else if op = 0x47 then { d := .v, a := .v, b := .z, none := false, k10 := true }
  else if op = 0x4A then { d := .v, a := .v, b := .v, k01 := true, bsc := true }
  else if op = 0x4B then { d := .v, a := .v, b := .i 63 }
  else if op = 0x4C then { d := .s, a := .v, b := .x 2 }
  else if op = 0x4D then { d := .s, a := .v, b := .z }
  else if op = 0x4E then { d := .s, a := .v, b := .x 5 }
  else if op = 0x4F then { d := .v, a := .v, b := .x 21 }
  else if op = 0x50 then { d := .v, a := .z, b := .x 1 }
  else if (0x51 ≤ op ∧ op ≤ 0x54) ∨ (0x5A ≤ op ∧ op ≤ 0x5C) then
    { d := .v, a := .s, b := .v, k00 := true, k10 := true }
  else if op = 0x55 ∨ op = 0x56 then { d := .s, a := .s, b := .s, k00 := true, k10 := true }
  else if op = 0x57 ∨ op = 0x60 then { d := .s, a := .s, b := .z, k00 := true, k10 := true }
  else if op = 0x58 ∨ op = 0x5E ∨ op = 0x5F ∨ op = 0x61 then { d := .z, a := .s, b := .s, k00 := true, k10 := true }
  else if op = 0x59 then { d := .z, a := .z, b := .z, none := false, k10 := true }
  else if op = 0x5D then { d := .z, a := .s, b := .v, k00 := true, k10 := true }
  else if op = 0x62 ∨ op = 0x64 ∨ op = 0x71 then { d := .z, a := .s, b := .z, none := false, k10 := true }
  else if op = 0x63 then { d := .s, a := .z, b := .z, none := false, k10 := true }
  else if op = 0x65 then { d := .v, a := .s, b := .s, k10 := true }
  else if op = 0x66 then { d := .z, a := .v, b := .z }
  else if op = 0x67 then { d := .t, a := .s, b := .z }
  else if op = 0x68 ∨ op = 0x69 then { d := .t, a := .s, b := .s, k00 := true, k10 := true }
  else if 0x6A ≤ op ∧ op ≤ 0x6C then { d := .a, a := .t, b := .t, k10 := true }
  else if op = 0x6D ∨ op = 0x6E ∨ op = 0x73 then { d := .a, a := .s, b := .z, k00 := true, k10 := true }
  else if op = 0x6F then { d := .s, a := .z, b := .z }
  else if op = 0x70 then { d := .z, a := .s, b := .z }
  else if op = 0x72 then { d := .a, a := .t, b := .t, none := false, k10 := true }
  else if op = 0x74 then { d := .v, a := .v, b := .z, none := false, k10 := true }
  else if op = 0x75 then { d := .v, a := .v, b := .z }
  else if op = 0x76 ∨ op = 0x77 ∨ op = 0x7C then { d := .v, a := .v, b := .s, k10 := true }
  else if 0x78 ≤ op ∧ op ≤ 0x7A then { d := .v, a := .v, b := .s }
  else if op = 0x7B then { d := .z, a := .s, b := .s, k10 := true }
  else if op = 0x7D then { d := .z, a := .s, b := .s, none := false, k10 := true }
  else { d := .z, a := .z, b := .z, none := false }

/-- The opcodes Table 3-6 leaves unassigned. -/
def opAssigned (op : Nat) : Bool :=
  (0x01 ≤ op ∧ op ≤ 0x0B) ∨ (0x10 ≤ op ∧ op ≤ 0x7D)

/-- The fields of one instruction: its opcode's row, finished by its selector. -/
def form : Instr → Form
  | .ret _ => { d := .x 6, a := .s, b := .z }
  | .svc _ | .trap _ => { d := .x 6, a := .z, b := .i 127 }
  | .harvest _ => { d := .z, a := .z, b := .z, none := false, k10 := true }
  | .mappg _ | .accsn _ => { d := .s, a := .s, b := .s, none := false, k10 := true }
  | .cmaint _ => { d := .z, a := .s, b := .s, none := false, k10 := true }
  | .vmovImm _ => { d := .v, a := .z, b := .z, none := false, k00 := true }
  | .vmovScalar _ => { d := .v, a := .z, b := .s, none := false, k01 := true, bsc := true }
  | .vmov _ => { d := .v, a := .v, b := .z }
  | .shflScalar _ => { d := .v, a := .v, b := .v, none := false, k01 := true, bsc := true }
  | .spresW _ => { d := .v, a := .s, b := .s, none := false, k10 := true }
  | .wrndF32 _ => { d := .a, a := .s, b := .z, none := false, k10 := true }
  | .texsL _ | .texsB _ | .texfL _ | .rayqBob _ => { d := .v, a := .v, b := .s, none := false, k10 := true }
  | .mlresClr _ => { d := .z, a := .s, b := .s, none := false, k10 := true }
  | i => opForm (opcode i)

/-- The kind 10 word with every field zero, which an absent extension word stands for (R87). -/
def par0 : K10 := ⟨0, 0, 0, 0, false, 0, 0, 0⟩

/-- The kind 10 fields an instruction acts by: those of its own kind 10 word, or the defaults of R87. -/
def parOf (o : Opnd) : K10 :=
  match o.x with
  | .par k => k
  | _ => par0

/-- The bytes of an access size code (Table 3-5). -/
def sizeBytes (c : BitVec 2) : Nat :=
  if c = 0 then 4 else if c = 1 then 1 else if c = 2 then 2 else 8

/-- The factor of an index scale code (Table 3-5). -/
def scaleOf (c : BitVec 2) : Nat :=
  if c = 0 then 4 else if c = 1 then 1 else if c = 2 then 2 else 8

/-- The selector a constructor stands for, where the table gives one row per selector value: the D field of opcode 0x01 and
the SEL field elsewhere. -/
def fixedD : Instr → Option Nat
  | .nop _ => some 0 | .yieldpt _ => some 1 | .exit _ => some 2 | .ret _ => some 3 | .rfe _ => some 4
  | .svc _ => some 5 | .trap _ => some 6
  | _ => none

/-- The element counts of the FCVT formats (R127): how many elements a 32-bit lane holds; F64 counts as one. -/
def fcvtCount (f : Nat) : Nat :=
  if f = 4 ∨ f = 5 then 2 else if f = 6 ∨ f = 7 then 4 else if f = 8 then 8 else 1

/-- FCVT's kind 10 fields: formats 0 to 8, no integer to integer conversion, PART below its limit (R127, R357). -/
def fcvtOk (k : K10) : Bool :=
  let dst := k.sel.toNat
  let src := (k.val.extractLsb' 0 4).toNat
  let part := (k.val.extractLsb' 4 3).toNat
  let nd := fcvtCount dst
  let ns := fcvtCount src
  let lim := if nd > 1 then nd else ns
  decide (dst ≤ 8 ∧ src ≤ 8 ∧ ¬(dst ≤ 1 ∧ src ≤ 1) ∧ part < lim) && (k.val.extractLsb' 7 7 == 0)

/-- The kind 10 word of an instruction keeps R88, Table 3-7 and Table 3-8: fields the opcode does not use are zero, and used
fields hold no reserved code. -/
def parOk : Instr → K10 → Bool
  | i, k =>
    let scopeAny : Bool := decide (k.scope.toNat ≤ 5)
    let scopeHi : Bool := decide (3 ≤ k.scope.toNat ∧ k.scope.toNat ≤ 5)
    let wd : Bool := k.size = 0 || k.size = 3
    let bh : Bool := k.size = 1 || k.size = 2
    -- the word with only the named fields kept; the rest must be zero
    let only (scope order scale size sx ccls sel val : Bool) : Bool :=
      (scope || k.scope = 0) && (order || k.order = 0) && (scale || k.scale = 0) && (size || k.size = 0) &&
      (sx || !k.sx) && (ccls || k.ccls = 0) && (sel || k.sel = 0) && (val || k.val = 0)
    let selOnly (hi : Nat) : Bool := only false false false false false false true false && decide (k.sel.toNat ≤ hi)
    let selIs (n : Nat) : Bool := only false false false false false false true false && decide (k.sel.toNat = n)
    match i with
    | .smulh _ | .smin _ | .smax _ => selOnly 1
    | .scmp _ | .vcmp _ => selOnly 9
    | .fcmp _ => selOnly 7
    | .fcvt _ => only false false false false false false true true && fcvtOk k
    | .ld _ => only false false true true true true false true && (!k.sx || bh)
    | .st _ | .sst _ => only false false true true false true false true
    | .lds _ => only false false true true true false false true && (!k.sx || bh)
    | .sts _ => only false false true true false false false true
    | .sld _ => only false false true true true true false true && (!k.sx || k.size != 3)
    | .ldacq _ => only true false false false false false false true && scopeAny
    | .strel _ => only true false false false false false true true && scopeAny && decide (k.sel.toNat ≤ 1)
    | .fence _ => only true true false false false false false false && scopeAny && k.order != 0
    | .atom _ => only true true true true true false true true && scopeAny && wd && decide (k.sel.toNat ≤ 9) &&
        (!k.sx || k.sel = 1 || k.sel = 2)
    | .cas _ => only true true true true false false false true && scopeAny && wd
    | .red _ => only true true true true true false true true && scopeAny && wd && decide (k.sel.toNat ≤ 9) &&
        k.sel != 6 && (k.order = 0 || k.order = 2) && (!k.sx || k.sel = 1 || k.sel = 2)
    | .pfetch _ => only false false true false false true false true
    | .mwait _ => only false false false true false false false true && wd
    | .barinit _ | .bararv _ | .barwait _ => only false false false false false false true true && decide (k.sel.toNat ≤ 1)
    | .cpy _ | .cpywp _ => selOnly 7
    | .qnt _ => selOnly 6
    | .spres _ => selIs 0
    | .spresW _ => selIs 1
    | .tld _ | .tst _ => only false false false false false true true true && decide (k.sel.toNat ≤ 3)
    | .mma _ | .mmax _ | .mmaz _ => only false false false false false false true true && decide (k.sel.toNat ≤ 3) &&
        (if k.sel = 0 then k.val = 0 else k.val.extractLsb' 6 8 = 0)
    | .accld _ | .accst _ => only false false false false false false false true
    | .xscan _ => selOnly 1
    | .slmm _ => only false false false false false false false true && decide (2 ≤ (k.val.extractLsb' 0 4).toNat) &&
        decide ((k.val.extractLsb' 0 4).toNat ≤ 9) && k.val.extractLsb' 10 4 = 0
    | .wrnd _ => only false false false false false false false true
    | .wrndF32 _ => only false false false false false false true true && k.sel = 1
    | .vemit _ => only false false false false false false false true && decide (3 ≤ k.val.toNat ∧ k.val.toNat ≤ 7)
    | .texs _ => selIs 0
    | .texsL _ => selIs 1
    | .texsB _ => only false false false false false false true true && k.sel = 2 && decide (k.val.toNat < 256)
    | .texf _ => selIs 0
    | .texfL _ => selIs 1
    | .mlres _ => selIs 0
    | .mlresClr _ => selIs 1
    | .rayq _ => selIs 0
    | .rayqBob _ => selIs 1
    | .seam _ => only true false false false false false true false && scopeHi && decide (k.sel.toNat ≤ 1)
    | .tlbinv o => only true false false false false false false true && scopeHi && decide (k.val.toNat ≤ 1) &&
        (k.val = 0 || o.a = 0)
    | .harvest _ => selIs 1
    | .mappg _ => selIs 2
    | .accsn _ => selIs 3
    | .cmaint _ => only true false false false false false true true && scopeHi && k.sel = 4 && decide (k.val.toNat ≤ 3)
    | _ => only false false false false false false false false

/-- The kind 01 word of an instruction keeps R84 and R85: zero bits zero, C zero where there is no third source, BSC and BHI
only where a broadcast is allowed, modifiers only on opcodes marked M, and NC, AC only with a C source. -/
def broOk (i : Instr) (k : K01) : Bool :=
  let f := form i
  let sel : Bool := match i with
    | .vcmp _ => decide (k.sel.toNat ≤ 9)
    | .fcmp _ => decide (k.sel.toNat ≤ 7)
    | _ => k.sel = 0
  let form2 : Bool := match i with
    | .vmovScalar _ | .shflScalar _ => k.bsc
    | .shfl _ => !k.bsc
    | _ => true
  k.z1 = 0 && k.z2 = 0 && sel && form2 && (f.c != .z || k.c = 0) && (f.bsc || !k.bsc) && (k.bsc || !k.bhi) &&
    (f.m || (!k.na && !k.aa && !k.nb && !k.ab)) && ((f.m && f.c != .z) || (!k.nc && !k.ac))

/-- The kind 00 word of an instruction: a branch offset is a multiple of 4, a system-register index has bits above [11:0]
zero, a MODE image has bits above [14:0] zero (R89). -/
def immOk : Instr → BitVec 30 → Bool
  | .brc _, v | .bzm _, v | .call _, v => v.extractLsb' 0 2 = 0
  | .mfsr _, v | .mtsr _, v => v.extractLsb' 12 18 = 0
  | .mode _, v => v.extractLsb' 15 15 = 0
  | _, _ => true

/-- A kind 00 word stands for the B operand of this instruction, whose B field must then be zero (R83, R399). -/
def immReplacesB (i : Instr) : Bool :=
  let op := opcode i
  decide ((0x10 ≤ op ∧ op ≤ 0x1C) ∨ (0x24 ≤ op ∧ op ≤ 0x49))

/-- A field value is allowed as far as sub-code 0x05 goes: zero fields, selectors and immediates in range. -/
def clsOk05 (c : Cls) (f : BitVec 7) : Bool :=
  match c with
  | .z => f = 0
  | .x hi | .i hi => decide (f.toNat ≤ hi)
  | _ => true

/-- A field value lies in its register class (R81, sub-code 0x06). -/
def clsOk06 (c : Cls) (f : BitVec 7) : Bool :=
  match c with
  | .s | .a => decide (f.toNat < 64)
  | .t => decide (f.toNat < 8)
  | _ => true

/-- VSCAN's selector: an operation from 0 to 5 in bits [3:0], .EX in bit [4], bits [6:5] zero. -/
def vscanSelOk (f : BitVec 7) : Bool :=
  decide ((f.extractLsb' 0 4).toNat ≤ 5) && f.extractLsb' 5 2 = 0

/-- The class of the B field as this word uses it: a broadcast names a scalar register. -/
def bClass (i : Instr) : Cls :=
  match (opnd i).x with
  | .bro k => if k.bsc then .s else (form i).b
  | .imm _ => if immReplacesB i then .z else (form i).b
  | _ => (form i).b

/-- No reserved field value (sub-code 0x05 of Table 3-10). -/
def ok05 (i : Instr) : Bool :=
  let o := opnd i
  let f := form i
  clsOk05 f.d o.d && clsOk05 f.a o.a && clsOk05 (bClass i) o.b &&
  (match fixedD i with
   | some n => decide (o.d.toNat = n)
   | none => true) &&
  (match i with
   | .vscan _ => vscanSelOk o.b
   | _ => true) &&
  (match o.x with
   | .none => true
   | .imm v => immOk i v
   | .bro k => broOk i k
   | .par k => parOk i k)

/-- Every operand field lies in its class (sub-code 0x06 of Table 3-10). -/
def ok06 (i : Instr) : Bool :=
  let o := opnd i
  let f := form i
  clsOk06 f.d o.d && clsOk06 f.a o.a && clsOk06 (bClass i) o.b &&
  (match o.x with
   | .bro k => clsOk06 f.c k.c
   | _ => true)

/-- The register files an operand field can name (Table 2-1). -/
inductive File where
  | v | s | t | a
  deriving DecidableEq, Repr

/-- A run of registers an instruction names (R90, Table 3-9), with its alignment and whether it is read and written. -/
structure Run where
  file  : File
  first : Nat
  count : Nat
  align : Nat
  src   : Bool
  dst   : Bool
  deriving DecidableEq, Repr

/-- Under GMODE.ET = 5 (FP64) a vector operand is an even pair (R63). -/
def etWidth (et : Nat) : Nat := if et = 5 then 2 else 1

/-- The B source of a vector instruction: a vector operand of `n` registers, a broadcast scalar, or an immediate. -/
def runsVecB (o : Opnd) (n : Nat) : List Run :=
  match o.x with
  | .imm _ => []
  | .bro k => if k.bsc then [⟨.s, o.b.toNat, 1, 1, true, false⟩] else [⟨.v, o.b.toNat, n, n, true, false⟩]
  | _ => [⟨.v, o.b.toNat, n, n, true, false⟩]

/-- The kind 01 C source, if the word has one. -/
def runsC (o : Opnd) (file : File) (n : Nat) : List Run :=
  match o.x with
  | .bro k => [⟨file, k.c.toNat, n, n, true, false⟩]
  | _ => []

/-- The B source of a scalar instruction. -/
def runsScalarB (o : Opnd) : List Run :=
  match o.x with
  | .imm _ => []
  | _ => [⟨.s, o.b.toNat, 1, 1, true, false⟩]

/-- The registers an instruction names under GMODE.ET = `et`, in the order D, A, B, C. DESIGN CHOICE (log 114): under FP64 the index
register vB of SHFL is one register, even or odd, and not a pair. -/
def runs (et : Nat) (i : Instr) : List Run :=
  let o := opnd i
  let d := o.d.toNat
  let a := o.a.toNat
  let b := o.b.toNat
  let k := parOf o
  let n := etWidth et
  let dn := if k.size = 3 then 2 else 1
  let sd : Run := ⟨.s, d, 1, 1, false, true⟩
  let ss (r : Nat) : Run := ⟨.s, r, 1, 1, true, false⟩
  let vd (n : Nat) : Run := ⟨.v, d, n, n, false, true⟩
  let vs (r n : Nat) : Run := ⟨.v, r, n, n, true, false⟩
  match i with
  | .nop _ | .yieldpt _ | .exit _ | .rfe _ | .svc _ | .trap _ | .bra _ | .mode _ | .harvest _ | .fence _ => []
  | .ret _ | .brc _ | .bzm _ | .mtsr _ | .mbwait _ => [ss a]
  | .call _ | .mfsr _ | .cpywp _ | .mbatch _ => [sd]
  | .migrate _ => [sd, ss a]
  | .launch _ => [⟨.s, d, 1, 1, true, true⟩, ss a]
  | .tlbinv _ => if k.val = 0 then [ss a] else []
  | .mappg _ | .accsn _ => [sd, ss a, ss b]
  | .cmaint _ => [ss a, ss b]
  | .sadd _ | .ssub _ | .smul _ | .smulh _ | .sand _ | .sor _ | .sxor _ | .sshl _ | .sshr _ | .ssra _ | .smin _
  | .smax _ | .scmp _ => [sd, ss a] ++ runsScalarB o
  | .smad _ | .ssel _ => [sd, ss a, ss b] ++ runsC o .s 1
  | .smov _ | .spopc _ | .sclz _ | .sffs _ => [sd, ss a]
  | .sli _ => [sd]
  | .vadd _ | .vsub _ | .vmul _ | .vmulh _ | .vshl _ | .vshr _ | .vsra _ | .vmin _ | .vmax _ | .vbfe _ =>
      [vd 1, vs a 1] ++ runsVecB o 1
  | .vmad _ | .vbfi _ => [vd 1, vs a 1] ++ runsVecB o 1 ++ runsC o .v 1
  | .vabs _ | .vpopc _ | .vclz _ => [vd 1, vs a 1]
  | .vand _ | .vor _ | .vxor _ => [vd n, vs a n] ++ runsVecB o n
  | .vcmp _ => [sd, vs a 1] ++ runsVecB o 1
  | .vsel _ => [vd n, vs a n] ++ runsVecB o n ++ runsC o .s 1
  | .vmov _ => [vd n, vs a n]
  | .vmovImm _ => [vd n]
  | .vmovScalar _ => [vd n, ss b]
  | .fadd _ | .fsub _ | .fmul _ | .fmin _ | .fmax _ => [vd n, vs a n] ++ runsVecB o n
  | .fma _ => [vd n, vs a n] ++ runsVecB o n ++ runsC o .v n
  | .fcmp _ => [sd, vs a n] ++ runsVecB o n
  | .frcp _ | .frsq _ | .fsqrt _ | .fex2 _ | .flg2 _ | .ftrig _ | .frnd _ | .fcls _ => [vd n, vs a n]
  | .fcvt _ =>
      let nd := if k.sel = 2 then 2 else 1
      let ns := if k.val.extractLsb' 0 4 = 2 then 2 else 1
      [vd nd, vs a ns]
  | .fscl _ => [vd n, vs a n] ++ (runsVecB o 1).map (fun r => if r.file = .v then { r with align := n } else r)
  | .shfl _ => [vd n, vs a n, vs b 1]
  | .shflScalar _ => [vd n, vs a n, ss b]
  | .shfx _ => [vd n, vs a n]
  | .vote _ | .rfal _ | .vred _ => [sd, vs a 1]
  | .vscan _ => [vd 1, vs a 1]
  | .viota _ => [vd 1]
  | .ld _ | .lds _ => [vd dn, ss a, vs b 1]
  | .st _ | .sts _ => [⟨.v, d, dn, dn, true, false⟩, ss a, vs b 1]
  | .sld _ => [sd, ss a, ss b]
  | .sst _ => [ss d, ss a, ss b]
  | .ldacq _ => [sd, ss a]
  | .strel _ | .mwait _ | .barinit _ | .barwait _ => [ss a, ss b]
  | .bararv _ => [⟨.s, d, 1, 1, true, true⟩, ss a]
  | .atom _ => [⟨.v, d, dn, dn, true, true⟩, ss a, vs b 1]
  | .red _ => [⟨.v, d, dn, dn, true, false⟩, ss a, vs b 1]
  | .cas _ => [⟨.v, d, 2 * dn, 2 * dn, true, true⟩, ss a, vs b 1]
  | .pfetch _ => [ss a, vs b 1]
  | .cpy _ | .qnt _ | .xscan _ => [⟨.s, a, 4, 4, true, false⟩]
  | .spres _ | .spresW _ => [vd 1, ss a, ⟨.s, b, 1, 1, false, true⟩]
  | .spcom _ => [vs a 1]
  | .tcfg _ => [⟨.t, d, 1, 1, false, false⟩, ss a]
  | .tld _ => [⟨.t, d, 1, 1, false, true⟩, ss a, ss b]
  | .tst _ => [⟨.t, d, 1, 1, true, false⟩, ss a, ss b]
  | .mma _ | .mmax _ | .mmaz _ =>
      [⟨.a, d, 1, 1, true, true⟩, ⟨.t, a, 1, 1, true, false⟩, ⟨.t, b, 1, 1, true, false⟩] ++
      (if k.sel = 0 then [] else [ss (k.val.extractLsb' 0 6).toNat])
  | .accld _ => [⟨.a, d, 1, 1, false, true⟩, ss a]
  | .accst _ => [⟨.a, d, 1, 1, true, false⟩, ss a]
  | .slmm _ => [⟨.a, d, 2, 2, true, true⟩, ⟨.t, a, 1, 1, true, false⟩, ⟨.t, b, 1, 1, true, false⟩,
      ss (k.val.extractLsb' 4 6).toNat]
  | .wrnd _ | .wrndF32 _ => [⟨.a, d, 2, 2, true, true⟩, ss a]
  | .vemit _ => [⟨.v, d, k.val.toNat + 1, 1, true, false⟩, vs a 1]
  | .pemit _ => [vd 1, vs a 1]
  | .texs _ | .texsL _ | .texsB _ | .texf _ | .texfL _ => [⟨.v, d, 4, 4, true, true⟩, vs a 1, ss b]
  | .rtst _ => [⟨.v, d, 4, 4, true, false⟩, vs a 1, ss b]
  | .rtld _ => [⟨.v, d, 4, 4, false, true⟩, vs a 1, ss b]
  | .mlins _ => [⟨.v, d, 3, 1, true, false⟩, vs a 1, ss b]
  | .mlres _ | .mlresClr _ | .seam _ => [ss a, ss b]
  | .rayq _ | .rayqBob _ => [⟨.v, d, 4, 4, true, false⟩, ⟨.v, a, 8, 8, true, false⟩, ss b]
  | _ => []

/-- Every run starts at its alignment (sub-code 0x08 of Table 3-10). -/
def ok08 (et : Nat) (i : Instr) : Bool := (runs et i).all (fun r => decide (r.first % r.align = 0))

/-- The lowest sub-code of Table 3-10 that the words alone break, if any (R94). -/
def staticFault (i : Instr) : Option Nat :=
  if !ok05 i then some 5 else if !ok06 i then some 6 else if !ok08 0 i then some 8 else none

end Sys2Proof.Machine
end

