-- ==== Sys2Proof/WellFormed.lean ====
section
/-! DEFINITION. Well-formed instructions: the words that no check of Table 3-10 refuses on the words alone, and the events
whose data name something the module has. -/

namespace Sys2Proof

open Machine

/-- The extension word is of a kind the opcode accepts, and present where one is required (R82, sub-code 0x04). -/
def extAccepted (f : Form) (x : Ext) : Bool :=
  match x with
  | .none => f.none
  | .imm _ => f.k00
  | .bro _ => f.k01
  | .par _ => f.k10

/-- The data of an event name a die, core, context, queue, port or unit that exists. -/
def eventOk : Instr → Bool
  | .engineFaultDelivery _ | .engineTranslationFault _ | .registerMissFetch _ | .wakeBlockedGroup _
  | .ldthrExpiry _ | .panelPlace | .panelComplete _ | .panelEvict _ | .idleEvictTimeout _ | .panelRestore _
  | .runBudgetExpiry _ | .waitBudgetExpiry _ | .eventWriteRetry | .frespResume _ | .frespKill _
  | .bobbinGroupPlace | .copyCommandComplete _ _ | .qntCommandComplete _ | .batchComplete _
  | .rayqCommandComplete _ | .seamComposite _ | .seamExchange _ | .seamComplete _ | .homeAtomic _
  | .replicaMulticast _ | .requestReissueTimeout _ | .hostSnoop _ | .telem | .reset _ | .clrfovf
  | .powerOnReset | .peerWindowReread _ | .flitCrcDrop _ | .read _ | .write _ _ | .take _ | .give _ | .hostWindowRead _ _
  | .registerWrite _ _ _ | .spare .. | .hostLinkTrain _ _ => true
  | .dispatchTakeRecord q | .dependenceRelease q => decide (q < 16)
  | .preemptRequest d => decide (d < 8)
  | .faultRecordPost d => decide (d < 9)
  | .sliceEnd c d => decide (c < 16 ∧ d < 8)
  | .contextSnapshot c | .ctxPreempt c | .ctxKill c | .ctxStopResume c => decide (c < 16)
  | .spawnBinTimeout d c _ => decide (d < 8 ∧ c < 16)
  | .primitiveRasterise d c _ | .fragmentGroupLaunch d c _ | .passComplete d c _ => decide (d < 8 ∧ c < 16)
  | .homeWritebackMerge cl _ => decide (cl < 96)
  | .adFlushTimeout c _ _ => decide (c < 386)
  | .hostMemWrite h bs => decide (h + bs.length ≤ 2048000000000)
  | .hostMemRead h n => decide (h + n ≤ 2048000000000)
  | .peerRead _ n => decide (4 ≤ n ∧ n ≤ 128)
  | .accessionedRead h => decide (h % 128 = 0)
  | .peerWrite r ws mask => decide (r.src.module < 65536 ∧ r.src.req < 65536 ∧ r.seq < 4096 ∧ r.hdm % 4 = 0 ∧ 1 ≤ ws.length ∧ ws.length ≤ 32 ∧ mask.length = ws.length)
  | .peerAtomic i q h _ => decide (i.module < 65536 ∧ i.req < 65536 ∧ q < 4096 ∧ h % 4 = 0)
  | .cecWindowBoundary u => decide (u < 576)
  | .hbmRowCopyDone n => decide (n < 32)
  | .powerWindowEnd p c => decide (p.length = 42 ∧ c.length = 42)
  | .svetfenLinkTrain p l => decide (p < 128 ∧ l ≤ 2)
  | _ => false

/-- A well-formed instruction: for a word, the extension word is accepted and no static check of Table 3-10 fails; for an
event, its data name something that exists. -/
def WellFormed (i : Instr) : Bool :=
  if isWord i then extAccepted (form i) (opnd i).x && (staticFault i).isNone else eventOk i

end Sys2Proof
end

