-- ==== Sys2Proof/Decode.lean ====
section
/-! DEFINITION. Decoding: from the words at the program counter to an instruction, or to the sub-code of Table 3-10 that
refuses them whatever the state holds. And the encoder, written from the same tables. -/

namespace Sys2Proof

open Machine

/-- The kind of an extension word, bits [31:30] (Table 3-3). -/
def extKind (w : W32) : Nat := (w.extractLsb' 30 2).toNat

/-- Read an extension word by its kind (Tables 3-3 to 3-5); kind 0b11 is illegal. -/
def decodeExt (w : W32) : Option Ext :=
  if extKind w = 0 then some (.imm (w.extractLsb' 0 30))
  else if extKind w = 1 then
    some (.bro { c := w.extractLsb' 23 7, bsc := w.getLsbD 22, bhi := w.getLsbD 21, z1 := w.extractLsb' 18 3,
                 sel := w.extractLsb' 14 4, na := w.getLsbD 13, aa := w.getLsbD 12, nb := w.getLsbD 11,
                 ab := w.getLsbD 10, nc := w.getLsbD 9, ac := w.getLsbD 8, z2 := w.extractLsb' 0 8 })
  else if extKind w = 2 then
    some (.par { scope := w.extractLsb' 27 3, order := w.extractLsb' 25 2, scale := w.extractLsb' 23 2,
                 size := w.extractLsb' 21 2, sx := w.getLsbD 20, ccls := w.extractLsb' 18 2,
                 sel := w.extractLsb' 14 4, val := w.extractLsb' 0 14 })
  else none

/-- Write an extension word (Tables 3-3 to 3-5). -/
def encodeExt : Ext → W32
  | .none => 0
  | .imm v => (0 : BitVec 2) ++ v
  | .bro k => (1 : BitVec 2) ++ k.c ++ BitVec.ofBool k.bsc ++ BitVec.ofBool k.bhi ++ k.z1 ++ k.sel ++
      BitVec.ofBool k.na ++ BitVec.ofBool k.aa ++ BitVec.ofBool k.nb ++ BitVec.ofBool k.ab ++
      BitVec.ofBool k.nc ++ BitVec.ofBool k.ac ++ k.z2
  | .par k => (2 : BitVec 2) ++ k.scope ++ k.order ++ k.scale ++ k.size ++ BitVec.ofBool k.sx ++ k.ccls ++
      k.sel ++ k.val

/-- The selector of a kind 10 word; 0 without one (R87). -/
def parSel (o : Opnd) : Nat := (parOf o).sel.toNat

/-- The constructor of opcode 0x01 by its D field (Table 3-7). -/
def decodeOp01 (o : Opnd) : Option Instr :=
  let d := o.d.toNat
  if d = 0 then some (.nop o) else if d = 1 then some (.yieldpt o) else if d = 2 then some (.exit o)
  else if d = 3 then some (.ret o) else if d = 4 then some (.rfe o) else if d = 5 then some (.svc o)
  else if d = 6 then some (.trap o) else none

/-- The constructor of opcode 0x0B by its SEL field (Table 6-9). -/
def decodeOp0B (o : Opnd) : Option Instr :=
  let n := parSel o
  if n = 0 then some (.tlbinv o) else if n = 1 then some (.harvest o) else if n = 2 then some (.mappg o)
  else if n = 3 then some (.accsn o) else if n = 4 then some (.cmaint o) else none

/-- The constructor of an assigned opcode (Table 3-6), by its selector where the table gives a row per selector; none for a
reserved selector of opcodes 0x01 and 0x0B. -/
def decodeOp (op : Nat) (o : Opnd) : Option Instr :=
  match op with
  | 0x01 => decodeOp01 o
  | 0x02 => some (.bra o) | 0x03 => some (.brc o) | 0x04 => some (.bzm o) | 0x05 => some (.call o)
  | 0x06 => some (.mode o) | 0x07 => some (.mfsr o) | 0x08 => some (.mtsr o) | 0x09 => some (.migrate o)
  | 0x0A => some (.launch o)
  | 0x0B => decodeOp0B o
  | 0x10 => some (.sadd o) | 0x11 => some (.ssub o) | 0x12 => some (.smul o) | 0x13 => some (.smulh o)
  | 0x14 => some (.smad o) | 0x15 => some (.sand o) | 0x16 => some (.sor o) | 0x17 => some (.sxor o)
  | 0x18 => some (.sshl o) | 0x19 => some (.sshr o) | 0x1A => some (.ssra o) | 0x1B => some (.smin o)
  | 0x1C => some (.smax o) | 0x1D => some (.scmp o) | 0x1E => some (.ssel o) | 0x1F => some (.smov o)
  | 0x20 => some (.sli o) | 0x21 => some (.spopc o) | 0x22 => some (.sclz o) | 0x23 => some (.sffs o)
  | 0x24 => some (.vadd o) | 0x25 => some (.vsub o) | 0x26 => some (.vmul o) | 0x27 => some (.vmulh o)
  | 0x28 => some (.vmad o) | 0x29 => some (.vand o) | 0x2A => some (.vor o) | 0x2B => some (.vxor o)
  | 0x2C => some (.vshl o) | 0x2D => some (.vshr o) | 0x2E => some (.vsra o) | 0x2F => some (.vmin o)
  | 0x30 => some (.vmax o) | 0x31 => some (.vabs o) | 0x32 => some (.vcmp o) | 0x33 => some (.vsel o)
  | 0x34 => match o.x with
    | .imm _ => some (.vmovImm o)
    | .bro _ => some (.vmovScalar o)
    | _ => some (.vmov o)
  | 0x35 => some (.vpopc o) | 0x36 => some (.vclz o) | 0x37 => some (.vbfe o) | 0x38 => some (.vbfi o)
  | 0x39 => some (.fadd o) | 0x3A => some (.fsub o) | 0x3B => some (.fmul o) | 0x3C => some (.fma o)
  | 0x3D => some (.fmin o) | 0x3E => some (.fmax o) | 0x3F => some (.fcmp o) | 0x40 => some (.frcp o)
  | 0x41 => some (.frsq o) | 0x42 => some (.fsqrt o) | 0x43 => some (.fex2 o) | 0x44 => some (.flg2 o)
  | 0x45 => some (.ftrig o) | 0x46 => some (.frnd o) | 0x47 => some (.fcvt o) | 0x48 => some (.fcls o)
  | 0x49 => some (.fscl o)
  | 0x4A => match o.x with
    | .bro k => if k.bsc then some (.shflScalar o) else some (.shfl o)
    | _ => some (.shfl o)
  | 0x4B => some (.shfx o) | 0x4C => some (.vote o) | 0x4D => some (.rfal o) | 0x4E => some (.vred o)
  | 0x4F => some (.vscan o) | 0x50 => some (.viota o) | 0x51 => some (.ld o) | 0x52 => some (.st o)
  | 0x53 => some (.lds o) | 0x54 => some (.sts o) | 0x55 => some (.sld o) | 0x56 => some (.sst o)
  | 0x57 => some (.ldacq o) | 0x58 => some (.strel o) | 0x59 => some (.fence o) | 0x5A => some (.atom o)
  | 0x5B => some (.cas o) | 0x5C => some (.red o) | 0x5D => some (.pfetch o) | 0x5E => some (.mwait o)
  | 0x5F => some (.barinit o) | 0x60 => some (.bararv o) | 0x61 => some (.barwait o) | 0x62 => some (.cpy o)
  | 0x63 => some (.cpywp o) | 0x64 => some (.qnt o)
  | 0x65 => if parSel o = 1 then some (.spresW o) else some (.spres o)
  | 0x66 => some (.spcom o) | 0x67 => some (.tcfg o) | 0x68 => some (.tld o) | 0x69 => some (.tst o)
  | 0x6A => some (.mma o) | 0x6B => some (.mmax o) | 0x6C => some (.mmaz o) | 0x6D => some (.accld o)
  | 0x6E => some (.accst o) | 0x6F => some (.mbatch o) | 0x70 => some (.mbwait o) | 0x71 => some (.xscan o)
  | 0x72 => some (.slmm o)
  | 0x73 => if parSel o = 1 then some (.wrndF32 o) else some (.wrnd o)
  | 0x74 => some (.vemit o) | 0x75 => some (.pemit o)
  | 0x76 => if parSel o = 1 then some (.texsL o) else if parSel o = 2 then some (.texsB o) else some (.texs o)
  | 0x77 => if parSel o = 1 then some (.texfL o) else some (.texf o)
  | 0x78 => some (.rtst o) | 0x79 => some (.rtld o) | 0x7A => some (.mlins o)
  | 0x7B => if parSel o = 1 then some (.mlresClr o) else some (.mlres o)
  | 0x7C => if parSel o = 1 then some (.rayqBob o) else some (.rayq o)
  | 0x7D => some (.seam o)
  | _ => none

/-- What the words at the program counter are: an instruction of 4 or 8 bytes, or the sub-code of Table 3-10 that refuses
them on the first word, the opcode or the extension word alone. -/
inductive Decoded where
  | instr (i : Instr) (len : Nat)
  | illegal (sub : Nat)
  deriving DecidableEq, Repr

/-- The first word says that an extension word follows (R79, R80). -/
def hasExt (w : W32) : Bool := w.getLsbD 28

/-- Decode a first word and, where XW is 1, its extension word (R79 to R94). Sub-codes in rising order: 0x01 a zero word, 0x02
an unassigned opcode, 0x03 extension kind 0b11, 0x04 an extension absent, present or of a kind not accepted, 0x05 a reserved
selector of opcode 0x01 or 0x0B. -/
def decode (w0 w1 : W32) : Decoded :=
  let op := (w0.extractLsb' 21 7).toNat
  if w0 = 0 then .illegal 1
  else if !opAssigned op then .illegal 2
  else
    match (if hasExt w0 then decodeExt w1 else some Ext.none) with
    | none => .illegal 3
    | some x =>
      if !extAccepted (opForm op) x then .illegal 4
      else
        match decodeOp op { st := w0.extractLsb' 29 3, d := w0.extractLsb' 14 7, a := w0.extractLsb' 7 7,
                            b := w0.extractLsb' 0 7, x := x } with
        | none => .illegal 5
        | some i => .instr i (if hasExt w0 then 8 else 4)

/-- An extension word is carried. -/
def extPresent : Ext → Bool
  | .none => false
  | _ => true

/-- The length of an instruction word in bytes (R80). -/
def instrLen (i : Instr) : Nat := if extPresent (opnd i).x then 8 else 4

/-- The first word of an instruction (Table 3-1). -/
def encodeFirst (i : Instr) : W32 :=
  let o := opnd i
  o.st ++ BitVec.ofBool (extPresent o.x) ++ BitVec.ofNat 7 (opcode i) ++ o.d ++ o.a ++ o.b

/-- The words of an instruction: the first word and its extension word (0 when it has none). -/
def encode (i : Instr) : W32 × W32 := (encodeFirst i, encodeExt (opnd i).x)

/-- The bytes of a 32-bit word, lowest address first (R6, R79). -/
def wordBytes (w : W32) : List Byte :=
  [w.extractLsb' 0 8, w.extractLsb' 8 8, w.extractLsb' 16 8, w.extractLsb' 24 8]

/-- The 32-bit word held by the first four bytes of a list, lowest address first. -/
def bytesWord : List Byte → W32
  | a :: b :: c :: d :: _ => d ++ c ++ b ++ a
  | _ => 0

/-- Decode the bytes at an instruction's address. -/
def decodeBytes (bs : List Byte) : Decoded := decode (bytesWord bs) (bytesWord (bs.drop 4))

/-- The bytes of an instruction whose bits, numbered as the opcode table numbers them, are `w`: the first word, then the
extension word, each little-endian; bits from `nbits` up are zero. -/
def tableBytes (nbits w : Nat) : List Byte :=
  let v := w % 2 ^ nbits
  wordBytes (BitVec.ofNat 32 v) ++ wordBytes (BitVec.ofNat 32 (v / 2 ^ 32))

/-- The instruction the decoder reads from an instruction whose bits are `w`. -/
def decodeTableWord (nbits w : Nat) : Option Instr :=
  match decodeBytes (tableBytes nbits w) with
  | .instr i _ => some i
  | .illegal _ => none

end Sys2Proof
end

