-- ==== Sys2Proof/Config.lean ====
section
/-! DEFINITION. What the manual leaves open. Every constant here is a free value: it has no body, so no proof can see what it
is, and a claim holds whatever it is. `n` is the counter `State.free`, which every use advances. -/

namespace Sys2Proof.Config

/-- Clocks an instruction takes beyond its beats and its STALL count (timing, R96; log 10). -/
opaque extraClocks (n : Nat) : Nat

/-- Which of two colliding lanes a store leaves at a byte (R203; log 11): true for the later lane. -/
opaque laterLane (n byte : Nat) : Bool

/-- Which of the two neighbouring values a faithful result takes (R359; log 12): true for the upper one. -/
opaque upperNeighbour (n lane : Nat) : Bool

/-- A 32-bit value the manual does not state (log 13). -/
opaque freeW32 (n i : Nat) : W32

/-- A 64-bit value the manual does not state (log 13). -/
opaque freeW64 (n i : Nat) : W64

/-- QUEUE of a record about a group that belongs to no bolt (Table 8-12; log 16), for the group with an id. -/
opaque recordQueue (id : Nat) : BitVec 4

/-- Whether a byte of a copy whose spans share storage takes the value that its source had before the command (R231; log 49). -/
opaque copyBefore (cmd byte : Nat) : Bool

/-- A byte of the image that an eviction leaves in a save record (R243; log 18). -/
opaque imageByte (seed key : Nat) : Byte

/-- Whether a matrix operation performs an element in its first turn (R69; log 7). -/
opaque firstTurn (seed element : Nat) : Bool

/-- A choice among `k` outcomes that the manual leaves open, taken modulo `k` (log 14). -/
opaque choose (n i : Nat) : Nat

end Sys2Proof.Config
end

