-- ==== Sys2Proof/Machine/Bits.lean ====
section
/-! DEFINITION. Bit fields, sign extension, byte order, lane lists and the swatch hash: the small operations every other file
computes with. -/

namespace Sys2Proof.Machine

/-- `n` bits of `x` from bit `lo` up. -/
def bitsOf (x lo n : Nat) : Nat := (x >>> lo) % 2 ^ n

/-- Bits [lo+n-1:lo] of a 64-bit word. -/
def fld (w : W64) (lo n : Nat) : Nat := bitsOf w.toNat lo n

/-- Bit `i` of a 64-bit word. -/
def bit (w : W64) (i : Nat) : Bool := w.getLsbD i

/-- `w` with its bits [lo+n-1:lo] replaced. -/
def setFld (w : W64) (lo n v : Nat) : W64 :=
  BitVec.ofNat 64 (w.toNat % 2 ^ lo + (v % 2 ^ n) * 2 ^ lo + (w.toNat / 2 ^ (lo + n)) * 2 ^ (lo + n))

/-- The low `n` bits of `x` read as a two's complement number. -/
def sextNat (n x : Nat) : Int :=
  if x % 2 ^ n < 2 ^ (n - 1) then (x % 2 ^ n : Nat) else ((x % 2 ^ n : Nat) : Int) - (2 ^ n : Nat)

/-- An integer modulo 2^64. -/
def w64 (x : Int) : W64 := BitVec.ofInt 64 x

/-- An integer modulo 2^32. -/
def w32 (x : Int) : W32 := BitVec.ofInt 32 x

/-- One bit as a word. -/
def boolW (b : Bool) : W64 := if b then 1 else 0

/-- The low bits [31:0] of a 64-bit word. -/
def lo32 (x : W64) : W32 := x.setWidth 32

/-- The high bits [63:32] of a 64-bit word. -/
def hi32 (x : W64) : W32 := (x >>> 32).setWidth 32

/-- The 64-bit word with the given halves. -/
def pair64 (lo hi : W32) : W64 := hi ++ lo

/-- `n` bytes of `x`, least significant first (R6). -/
def bytesOf : Nat → Nat → List Byte
  | 0, _ => []
  | n + 1, x => BitVec.ofNat 8 x :: bytesOf n (x / 256)

/-- The number whose bytes are given, least significant first (R6). -/
def natOf : List Byte → Nat
  | [] => 0
  | b :: r => b.toNat + 256 * natOf r

/-- The lanes of a group. -/
def laneIdx : List Nat := List.range 64

/-- The lanes whose bit is set, in ascending order. -/
def activeLanes (m : W64) : List Nat := laneIdx.filter (fun i => m.getLsbD i)

/-- The mask with the given lanes set. -/
def maskOf (ls : List Nat) : W64 := ls.foldl (fun m i => m ||| (1#64 <<< i)) 0

/-- Lane `i` of a vector value; a lane beyond the list reads zero. -/
def laneOf (l : List W32) (i : Nat) : W32 := l.getD i 0

/-- Set bits of a natural number below `2 ^ n`. -/
def popNat : Nat → Nat → Nat
  | 0, _ => 0
  | n + 1, x => x % 2 + popNat n (x / 2)

/-- The first index below `n`, counted from `i`, whose bit is set. -/
def lowestSet : Nat → Nat → Nat → Option Nat
  | 0, _, _ => none
  | n + 1, i, x => if x % 2 = 1 then some i else lowestSet n (i + 1) (x / 2)

/-- Leading zeros of a `w`-bit value. -/
def leadingZeros (w x : Nat) : Nat := if x = 0 then w else w - 1 - Nat.log2 x

/-- Every element replaced by its position and value. -/
def indexed {α : Type} : Nat → List α → List (Nat × α)
  | _, [] => []
  | i, x :: r => (i, x) :: indexed (i + 1) r

/-- Bits [63:57] equal bit 56 (R183). -/
def canonical (va : W64) : Bool := fld va 56 8 == 0 || fld va 56 8 == 255

/-- A 57-bit descriptor address, sign-extended from bit 56 (R231). -/
def sext57 (x : Nat) : W64 := w64 (sextNat 57 x)

/-! The swatch of R211 to R213. -/

/-- A 9-bit rotation. -/
def rot9 (c n : Nat) : Nat := ((c <<< n) ||| (c >>> (9 - n))) % 512

/-- One hash of a line key, with its row of Table 7-2. -/
def swatchHash (key : Nat) (n : List Nat) : Nat :=
  let g := (indexed 0 n).foldl (fun a e => a ^^^ rot9 (bitsOf key (9 * e.1) 9) e.2) 0
  if g < 448 then g else g - 448

/-- The three swatch bits of a line (R212). -/
def swatchBits (key : Nat) : List Nat :=
  [swatchHash key [0, 0, 0, 0, 0], swatchHash key [3, 1, 0, 4, 2], swatchHash key [6, 4, 7, 2, 5]]

/-- Add a line to a swatch (R212). -/
def swatchAdd (w : Swatch) (key : Nat) : Swatch :=
  (swatchBits key).foldl (fun a b => a ||| (1#448 <<< b)) w

/-- A swatch with more than 224 bits set is saturated (R213). -/
def swatchFull (w : Swatch) : Bool := decide (224 < popNat 448 w.toNat)

/-- The line hits the swatch (R213). -/
def swatchHit (w : Swatch) (key : Nat) : Bool :=
  swatchFull w || (swatchBits key).all (fun b => w.getLsbD b)

end Sys2Proof.Machine
end

