-- ==== Sys2Proof/Machine/Cells.lean ====
section
/-! DEFINITION. Sparse maps with natural-number keys, in ONE canonical form: keys strictly rising, and no entry equal to what
an unlisted key reads as. Every storage of the machine is one of these: memory, register files, scratchpad, frames, the
register window, and the tables of cores, dies and homes. `d` says what an unlisted key reads as. -/

namespace Sys2Proof.Machine

/-- A sparse map: the listed keys with their values. -/
abbrev Cells (α : Type) := List (Nat × α)

/-- The value at key `k`. -/
def cget {α : Type} (d : Nat → α) : Cells α → Nat → α
  | [], k => d k
  | (a, v) :: r, k => if a = k then v else cget d r k

/-- Put an entry at its place in rising key order. -/
def cput {α : Type} : Cells α → Nat → α → Cells α
  | [], k, v => [(k, v)]
  | (a, x) :: r, k, v => if k < a then (k, v) :: (a, x) :: r else (a, x) :: cput r k v

/-- Drop every entry at key `k`. -/
def cdel {α : Type} : Cells α → Nat → Cells α
  | [], _ => []
  | (a, x) :: r, k => if a = k then cdel r k else (a, x) :: cdel r k

/-- Write `v` at key `k`; writing what an unlisted key reads as removes the entry. -/
def cset {α : Type} [DecidableEq α] (d : Nat → α) (m : Cells α) (k : Nat) (v : α) : Cells α :=
  if v = d k then cdel m k else cput (cdel m k) k v

/-- Every entry differs from what its key would read as unlisted. -/
def cnondefault {α : Type} [DecidableEq α] (d : Nat → α) : Cells α → Bool
  | [] => true
  | (a, v) :: r => decide (v ≠ d a) && cnondefault d r

/-- The keys rise strictly. -/
def crising {α : Type} : Cells α → Bool
  | [] => true
  | (a, _) :: r => r.all (fun e => decide (a < e.1)) && crising r

/-- The canonical form of a sparse map. -/
def cwf {α : Type} [DecidableEq α] (d : Nat → α) (m : Cells α) : Bool :=
  crising m && cnondefault d m

/-- Write a list of keyed values, first to last. -/
def csetAll {α : Type} [DecidableEq α] (d : Nat → α) (m : Cells α) : List (Nat × α) → Cells α
  | [] => m
  | (k, v) :: r => csetAll d (cset d m k v) r

/-- Drop every entry whose key fails the test. -/
def ckeep {α : Type} (p : Nat → Bool) : Cells α → Cells α
  | [] => []
  | (a, x) :: r => if p a then (a, x) :: ckeep p r else ckeep p r

/-- What an unlisted key of a zero-filled map of `w`-bit values reads as. -/
def zero {w : Nat} : Nat → BitVec w := fun _ => 0

end Sys2Proof.Machine
end

