-- ==== Sys2Proof/Machine/State.lean ====
section
/-! DEFINITION. The state of the module as plain data: groups, panels, the caches and translation buffers, memory, the
engines' commands, the dispatcher, the device register window, and the two reasons a step can stop. -/

namespace Sys2Proof.Machine

/-- Reasons a step stops with a fault. There is none: every fault of the manual is a trap, a record or a kill, and so a next
state (08 Table 8-8). -/
inductive Fault : Type where
  deriving DecidableEq, Repr

/-- Reasons a step has no meaning. -/
inductive Refusal where
  /-- Raised by `exec` for an instruction that has no meaning yet; safe: nothing is claimed of it. -/
  | notModelled (mnemonic : String)
  /-- Raised by `step` when `State.inputs` lists a word instruction, which is fetched and never delivered as an event; safe:
  the list of inputs is the model's own and such a list describes no run of the device. -/
  | notEvent
  deriving DecidableEq, Repr

/-- The 64 lanes of a vector register. -/
abbrev Lanes := List W32

/-- Memory: the bytes at the storage keys of device, host and peer memory, in the canonical form of a sparse map. A byte that
nothing has written reads as zero (log 4). -/
abbrev Memory := List Host.Cell

/-- The canonical form of memory: keys strictly rising, and no byte listed that an unlisted key reads as. -/
def Memory.wf (m : Memory) : Bool := cwf zero m

/-- What a fixed-latency instruction makes visible at its distance L (R98, R78). -/
inductive Effect where
  | vec (reg : Nat) (lanes : List (Option W32))
  | sca (reg : Nat) (value : W64)
  | mode (value : W64)
  | tctl (tile : Nat) (value : W64)
  | fp (flags : BitVec 6)
  deriving DecidableEq, Repr

/-- A pending fixed-latency effect, with the issue distance that is left. -/
structure Pending where
  left : Nat
  eff  : Effect
  deriving DecidableEq, Repr

/-- An issued global memory instruction that is not finished, with its captured mask and operands (R269, R271). `lost` marks
a request dropped on the fabric until it is reissued, `tries` counts its reissues (R200), `overdue` marks a remote load that
has been outstanding for LDTHR clocks (Table 8-5), `tctl` is the tile control that a TLD or TST reads at issue (R415, R419), `olds` is
what the frame of an ACCLD or ACCST held before each ACCLD of another group that was performed while it was in flight (R337), `done` says
of an MLINS that its lanes have come between those of another group's (R300). -/
structure InFlight where
  id      : Nat
  pc      : W64
  word    : W32
  ext     : W32
  mask    : W64
  scal    : List W64
  vecs    : List Lanes
  tries   : Nat
  lost    : Bool
  overdue : Bool
  tctl    : W64
  olds    : List (List W32)
  done    : Bool
  deriving DecidableEq, Repr

/-- A replay entry (Table 8-10), with the tile control that its instruction read at issue (R419). -/
structure Replay where
  valid : Bool
  pc    : W64
  word  : W32
  ext   : W32
  mask  : W64
  cause : BitVec 8
  sub   : BitVec 8
  tctl  : W64
  deriving DecidableEq, Repr

/-- The kinds of matrix operation (R149). -/
inductive MatKind where
  | mma | mmax | mmaz | xscanRow | xscanCol | slmm | wrndF64 | wrndF32
  deriving DecidableEq, Repr

/-- An accepted matrix operation with everything it captured at issue (R139, R143, R153, R162), the view it was issued in among
it. `done` is set once the arrays have performed it; its flags and bound then wait for its batch (R78, R163). `paused` is the
address at which a running XSCAN met a page that is not mapped (R155, R236); `vecs` counts the vectors it has finished, `elems` the
elements of the next one that it has read, and `big` and `bad` are what those have shown. `seeds` are the choices that left some of
its frame elements for a later turn (R69). -/
structure MatOp where
  kind  : MatKind
  d     : Nat
  a     : Nat
  b     : Nat
  tctlA : W64
  tctlB : W64
  sel   : Nat
  scale : W64
  desc  : List W64
  off   : Nat
  k     : Nat
  rm    : BitVec 3
  priv  : Bool
  paused : Option W64
  done  : Bool
  mstat : BitVec 3
  slst  : BitVec 6
  bound : Option W32
  vecs  : Nat
  elems : Nat
  big   : Option Int
  bad   : Bool
  seeds : List Nat
  deriving DecidableEq, Repr

/-- A closed batch that has not completed (R151). -/
structure Batch where
  num : W32
  ops : List MatOp
  deriving DecidableEq, Repr

/-- An uncommitted spawn reservation of a group (R40, R42). -/
structure Reservation where
  die   : Nat
  ctx   : Nat
  entry : W64
  off   : Nat
  deriving DecidableEq, Repr

/-- A blocking point with its saved wake condition (Table 8-5): the kind, the object address or offset, the phase, expected
value, batch number, entry address or record number, and the access size or lane count. -/
structure Block where
  kind : Nat
  addr : W64
  val  : W64
  size : Nat
  deriving DecidableEq, Repr

/-- An engine fault posted to a group and not yet delivered (R236, R308, R263). -/
structure HeldFault where
  cause : Nat
  sub   : Nat
  addr  : W64
  deriving DecidableEq, Repr

/-- What a fragment group stands for: its pass (by die and ARGS address), tile, sequence number, and the pixels of each target, named
by the place of its colour plane, that it has already made an RTST to (R282, R293). -/
structure Frag where
  die  : Nat
  args : W64
  tile : Nat
  seq  : Nat
  made : List (Nat × W64)
  deriving DecidableEq, Repr

/-- The three kinds of group (R55, R56, R282). -/
inductive GroupKind where
  | bolt | bobbin | fragment
  deriving DecidableEq, Repr

/-- A group: its registers (02), its issue state (01, 03), its outstanding work (05, 08) and its trap registers (08). `idle` says that
the instruction it came to last had to wait (R251). -/
structure Group where
  live     : Bool
  exited   : Bool
  resident : Bool
  halted   : Bool
  id       : Nat
  panel    : Nat
  ctx      : Nat
  core     : Nat
  slot     : Nat
  kind     : GroupKind
  frag     : Option Frag
  part     : W64
  v        : Cells Lanes
  s        : Cells W64
  t        : Cells Byte
  tctl     : Cells W64
  gmode    : W64
  pc       : W64
  exmask   : W64
  gid      : W64
  pidx     : W64
  bid      : W64
  args     : W64
  fpstat   : BitVec 6
  mstat    : BitVec 3
  slstat   : BitVec 6
  slbnd    : W64
  pend     : List Pending
  priv     : Bool
  tvec     : W64
  tcause   : W64
  tfirst   : W64
  tfault   : W64
  tpc      : W64
  tmask    : W64
  tgmode   : W64
  tsave    : Cells W64
  rplq     : List Replay
  rplop    : W64
  wbudget  : W64
  runcnt   : W64
  vmctx    : W64
  frpool   : W64
  inflight : List InFlight
  swDie    : Swatch
  swMod    : Swatch
  swSys    : Swatch
  nb       : W32
  openSet  : List MatOp
  batches  : List Batch
  reserved : List Reservation
  block    : Option Block
  absent   : List Nat
  held     : List HeldFault
  refused  : Option W64
  stall    : Nat
  idle     : Bool
  waited   : Nat
  order    : Nat
  prio     : BitVec 2
  ccls     : BitVec 2
  deriving DecidableEq, Repr

/-- What a pre-emption request was made for (R254): the host, a waiting panel of a queue, an evicted panel, or a formed bobbin
group of a die. -/
inductive Request where
  | host | queue (n : Nat) | panel (id : Nat) | bobbin (die : Nat)
  deriving DecidableEq, Repr

/-- A panel: where it is, what it belongs to, and how it is being moved (R26, R243, R254, R255). `core` is the core it is on,
or the core it left while it is evicted; `request` is the pre-emption request that targets it; `save` is the address of its
save record, and `bud` its context's CTXBUD, as they stood when it was placed (R241, R243). -/
structure Panel where
  id       : Nat
  ctx      : Nat
  die      : Nat
  core     : Nat
  resident : Bool
  kind     : GroupKind
  bolt     : Option (Nat × Nat)
  groups   : Nat
  request  : Option Request
  record   : Nat
  save     : W64
  bud      : W64
  deriving DecidableEq, Repr

/-- A word of a cluster L1 (R172): its value, whether it is dirty, the storage it writes back to, the cache class and the allocation class
that it came under (R249, R175), the accession number that it is held under (R323), and its poison mark (R328). -/
structure L1Word where
  val    : W32
  dirty  : Bool
  store  : Nat
  quota  : BitVec 2
  alloc  : BitVec 2
  acc    : W64
  poison : Bool
  deriving DecidableEq, Repr

/-- A TLB entry of one core, or of the translation cache of IOD0 (core 384) or IOD1 (core 385) (R189, R195, R197): the leaf, where it lies, the A and D settings gathered and not yet in the table, and
those already written. -/
structure TlbEntry where
  core  : Nat
  ctx   : Nat
  base  : Nat
  bits  : Nat
  pte   : W64
  at_   : Nat
  a     : Bool
  d     : Bool
  aDone : Bool
  dDone : Bool
  deriving DecidableEq, Repr

/-- A leaf of device memory that a walk has found (R168, R171): its stack offset, HOME, IL, page size as a power of two, where it lies, and
the root and the address that the walk started from. -/
structure LeafMap where
  start : Nat
  home  : Nat
  il    : Nat
  bits  : Nat
  at_   : Nat
  root  : Nat
  base  : Nat
  deriving DecidableEq, Repr

/-- A line of a home cache (R460): its die, its line number (stack offset div 128), the class that filled it, whether it lies
at the lowest replacement priority, for a dirty line the bytes of the HBM copy beneath it, and the words of that copy that carry
poison (R328). The list holds the most recently used line first. -/
structure HomeLine where
  md  : Nat
  off : Nat
  cls : BitVec 2
  low : Bool
  old : Option (List Byte)
  marks : List Nat
  deriving DecidableEq, Repr

/-- The owner tag and the seen bit of a dirty word of a home cache (R177). -/
structure OwnerTag where
  cluster : Nat
  seen    : Bool
  deriving DecidableEq, Repr

/-- A recorded accession (R238): its number, the range and context that sealed it, and the storage it covers. -/
structure Accession where
  num    : W64
  ctx    : Nat
  base   : W64
  len    : Nat
  pieces : List (Nat × Nat)
  deriving DecidableEq, Repr

/-- A performed request in a home's deduplication window (R201, R320), which each pair of module and requester has to itself. -/
structure Performed where
  src  : PeerId
  md   : Nat
  seq  : Nat
  resp : W64
  deriving DecidableEq, Repr

/-- One ray of a RAYQ command (R301): its lane, the eight ray words, the four user words and its reserved spawn slot. -/
structure RayLane where
  lane : Nat
  ray  : List W32
  user : List W32
  slot : Nat
  deriving DecidableEq, Repr

/-- A storage unit of 4 KiB that a save record has filled (R243, R255): its number (storage key div 4,096), the choice that stands for its
open contents, and the storage keys of the bytes written since. -/
structure ImageUnit where
  unit    : Nat
  seed    : Nat
  written : List Nat
  deriving DecidableEq, Repr

/-- A layer: where its node lies (chain position and slot), or nowhere yet, and what it holds (R294). -/
structure Layer where
  place : Option (Nat × Nat)
  depth : W32
  col   : W64
  cov   : Nat
  mrg   : Bool
  deg   : Bool
  deriving DecidableEq, Repr

/-- A pixel as a participant of a composite holds it: colour and depth as stored, or the list of layers. -/
structure SeamPixel where
  col : List Byte
  z   : List Byte
  ls  : List Layer
  deriving DecidableEq, Repr

/-- What a seam command holds (R306 to R309): its target's descriptor, the seam descriptor's place and its list of modules, whether its
composite has formed, its rank among `parts`, the rounds it has performed, its gather, and the pixels and the free slots of tiles of its
target as the composite has left them so far, apart from what others store there (R309). -/
structure SeamInfo where
  ml       : Bool
  scope    : Nat
  tgt      : List Byte
  key      : Nat
  mods     : List Nat
  gather   : Bool
  started  : Bool
  rank     : Nat
  parts    : Nat
  round    : Nat
  gathered : Bool
  held     : List ((Nat × Nat) × SeamPixel)
  seats    : List (Nat × List (Nat × Nat))
  deriving DecidableEq, Repr

/-- What an engine command does (R231, R138, R301, R306), as captured at issue. A ray command holds the rays whose records
are still to be delivered. -/
inductive CmdKind where
  | copy (ch : Nat) (ssp dsp : Bool) (src dst rowlen nrows sstr dstr : Nat)
  | qnt (fmt : Nat) (d0 d1 d2 d3 : W64)
  | ray (bob : Bool) (desc : List W64) (rays : List RayLane)
  | seam (x : SeamInfo)
  deriving DecidableEq, Repr

/-- An accepted engine command (R229, R230): who issued it and in which view, the barrier phase it counts into (R226), the bytes
delivered, the source bytes read (R234), the lines it has written (R214), the address it is paused at (R236), for a copy whose spans
share storage what the bytes that it has written held before it (R231), for a QNT the codes of the elements that it has read, and once it
has read all of them what it writes where and the flags that it raises (R136), and whether its request is lost on the fabric, with its
reissues (R200). -/
structure Cmd where
  id     : Nat
  grp    : Nat
  panel  : Nat
  core   : Nat
  priv   : Bool
  kind   : CmdKind
  bar    : Option (Nat × Nat)
  done   : Nat
  read   : Nat
  lines  : Swatch
  paused : Option W64
  before : List (Nat × Byte)
  outs   : List (Nat × List Byte)
  srcs   : List Nat
  flags  : BitVec 6
  lost   : Bool
  tries  : Nat
  deriving DecidableEq, Repr

/-- A committed spawn record (R41, R57, R249): its slot and the classes of the group that committed it. -/
structure BinRec where
  off  : Nat
  prio : BitVec 2
  ccls : BitVec 2
  deriving DecidableEq, Repr

/-- A spawn bin (R38, R43, R221). -/
structure Bin where
  die    : Nat
  ctx    : Nat
  entry  : W64
  owner  : Nat
  recs   : List BinRec
  timer  : Bool
  swatch : Swatch
  deriving DecidableEq, Repr

/-- A bobbin group formed and not yet placed (R44, R45); `reported` marks one whose launch error has been posted. -/
structure Formed where
  die    : Nat
  ctx    : Nat
  entry  : W64
  offs   : List Nat
  swatch : Swatch
  prio   : BitVec 2
  ccls   : BitVec 2
  reported : Bool
  deriving DecidableEq, Repr

/-- An accepted primitive (R280): its sequence number, the classes of the bolt that emitted it, its three vertex records, and once it is
rasterised the tiles whose fragment groups are still to be launched. -/
structure Prim where
  seq   : Nat
  prio  : BitVec 2
  ccls  : BitVec 2
  verts : List W32
  tiles : Option (List Nat)
  deriving DecidableEq, Repr

/-- An open pass of a die (R277): its descriptor's words, the bolt that opened it with its classes, the next sequence number,
the buffered primitives and the counts. -/
structure Pass where
  die      : Nat
  args     : W64
  ctx      : Nat
  bolt     : W64
  prio     : BitVec 2
  ccls     : BitVec 2
  desc     : List W64
  next     : Nat
  prims    : List Prim
  accepted : Nat
  culled   : Nat
  deriving DecidableEq, Repr

/-- A taken bolt (R28, R31, R32, R34, R48): its record with the ring address it was read from, the die of its panels, whether
its dependences are met, the panels placed and completed, whether a panel waits for a save record with a record of type 5
posted, whether it lost a panel (R35), and the clusters that ran its panels (R221). -/
structure Bolt where
  queue     : Nat
  seq       : Nat
  ctx       : Nat
  die       : Nat
  addr      : W64
  prio      : BitVec 2
  ccls      : BitVec 2
  entry     : W64
  args      : W64
  grid      : W64
  part      : W64
  doneAddr  : W64
  doneVal   : W64
  deps      : List (W64 × W64)
  released  : Bool
  placed    : Nat
  completed : Nat
  starved   : Bool
  failed    : Bool
  clusters  : List Nat
  deriving DecidableEq, Repr

/-- An event record (Table 8-12) on its way to the event queue, with the context it concerns, the group that waits for its
answer, and whether it is fatal. -/
structure EvRec where
  type  : Nat
  cause : Nat
  sub   : Nat
  queue : Nat
  die   : Nat
  code  : Nat
  bid   : W64
  addr  : W64
  where_ : W64
  ctx   : Nat
  grp   : Option Nat
  deriving DecidableEq, Repr

/-- An output of the module: an MSI-X interrupt (R315), an answer to the host, a peer or the management port (R318, R321,
R325), in which `poisoned` lists the words that carry poison (R328), or a snoop sent to the host (R319). -/
inductive Output where
  | msix (vector : Nat)
  | data (bytes : List Byte) (poisoned : List Nat)
  | code (completion : Nat) (value : W64)
  | telem (values : List W64)
  | accession (num : W64) (bytes : List Byte) (poisoned : List Nat)
  | refused
  | backInvalidate (line : Nat)
  deriving DecidableEq, Repr

/-- A hardware error that the next instruction of a group meets (R327): a soft error corrected in a unit at a place (R329), an
uncorrectable error in the storage word at a key (R328), one in a word of a line of the group's cluster L1 (Table 10-7), a
double-bit error in a pool word that the panel reads (R72), or the poison that a translation buffer's OR has met in the table entry of a
context tag at a key (R195, R328). -/
inductive HwError where
  | corrected (unit place : Nat)
  | lostWord (key : Nat)
  | lostL1 (line word : Nat)
  | poolWord
  | poisonedPte (tag key : Nat)
  deriving DecidableEq, Repr

/-- Who makes requests that no instruction in flight and no command stands for (R200; log 74): IOD0 for a context, a group as it issues its next
instruction, the arrays for a group's XSCAN, and a cluster that writes a line back. -/
inductive Asker where
  | ioPort (ctx : Nat)
  | issuer (grp : Nat)
  | arrays (grp : Nat)
  | line (cluster line : Nat)
  deriving DecidableEq, Repr

/-- The module. `g` is the group whose turn it is, `others` every other group; the last fields are the model's own. `slotHeld` pairs
an issue slot that is stalled for want of room (R230, R149) with the group it waits for; `peerAccs` lists what the peer modules have
sealed, as storage key, length and number, which only they change (R239); `lastFix` is where the last correction of each unit was
(Table 10-8); `image` lists the storage that save records have filled, whose
bytes are open until they are written (R243); `leaves` lists the leaves of device memory that walks have found (R171); `lateWrites` holds
the writes of the register window that the trap operand block has made and that take effect next (R271, R311); `reqLost` pairs who has
lost a request with its reissues (R200); `lasting` says of a unit that its lasting fault has been noted (R329); `parts` says of the
occasions to come whether a matrix operation leaves some of its elements for a later turn, or an MLINS lets lanes of others in (R69,
R300). -/
structure State where
  g         : Group
  others    : List Group
  panels    : List Panel
  -- per-panel storage, keyed by panel: scratchpad bytes, frame words, write pointers
  scratch   : Cells Byte
  frames    : Cells W32
  wptr      : Cells W64
  -- cores and clusters
  cyc       : Cells W64
  tlb       : List TlbEntry
  leaves    : List LeafMap
  icache    : Cells (Option W32)
  l1        : Cells (Option L1Word)
  cmds      : List Cmd
  slotHeld  : List (Nat × Nat)
  -- compute dies
  spnbase   : Cells W64
  spnsize   : Cells W64
  spntmo    : Cells W64
  bins      : List Bin
  formed    : List Formed
  passes    : List Pass
  -- memory and homes
  mem       : Memory
  poison    : Cells Bool
  image     : List ImageUnit
  lines     : List HomeLine
  lostWays  : List (Nat × Nat)
  tags      : Cells (Option OwnerTag)
  accs      : List Accession
  accCount  : Nat
  peerAccs  : List (Nat × Nat × W64)
  performed : List Performed
  hostLines : List Nat
  -- the register window, the dispatcher and reporting
  win       : Cells W64
  lastQueue : Cells Nat
  bolts     : List Bolt
  snapped   : List Nat
  outbound  : List EvRec
  waiting   : List (Nat × Nat)
  hostLink  : Nat × Nat
  capStart  : Cells W64
  lastFix   : Cells Nat
  lasting   : Cells Bool
  spareRows : Cells Nat
  rowCopies : List (Nat × Nat)
  lateWrites : List (Nat × W64)
  reqLost   : List (Asker × Nat)
  -- the model's own: stores of the step under way, newest first; identifiers; free values; schedule; inputs; outputs
  wr        : List (Nat × Byte)
  nextId    : Nat
  free      : Nat
  holds     : List Bool
  parts     : List Bool
  refetch   : List Bool
  fills     : List (List W64)
  turns     : List Nat
  errors    : List HwError
  inputs    : List Instr
  outputs   : List Output
  deriving DecidableEq, Repr

/-- The lanes of a vector register that nothing has written. -/
def zeroLanes : Lanes := List.replicate 64 0

/-- TCTL at launch: TT 0, 64 rows, 64 columns (Table 2-3). -/
def tctlReset : W64 := 0x0000_0000_0002_0400

/-- GMODE at launch: MS names s1, every other field zero (Table 2-2). -/
def gmodeReset : W64 := 1

/-- A group record in which no group stands: what a launch starts from. At device reset no group exists, and the register
values below are the model's (log 2); a launch replaces those that R70 names. -/
def Group.empty : Group where
  live := false
  exited := false
  resident := false
  halted := false
  id := 0
  panel := 0
  ctx := 0
  core := 0
  slot := 0
  kind := .bolt
  frag := none
  part := 0
  v := []
  s := []
  t := []
  tctl := []
  gmode := gmodeReset
  pc := 0
  exmask := 0
  gid := 0
  pidx := 0
  bid := 0
  args := 0
  fpstat := 0
  mstat := 0
  slstat := 0
  slbnd := 0
  pend := []
  priv := false
  tvec := 0
  tcause := 0
  tfirst := 0
  tfault := 0
  tpc := 0
  tmask := 0
  tgmode := 0
  tsave := []
  rplq := []
  rplop := 0
  wbudget := 0
  runcnt := 0
  vmctx := 0
  frpool := 0
  inflight := []
  swDie := 0
  swMod := 0
  swSys := 0
  nb := 0
  openSet := []
  batches := []
  reserved := []
  block := none
  absent := []
  held := []
  refused := none
  stall := 0
  idle := false
  waited := 0
  order := 0
  prio := 0
  ccls := 0

/-- SPNTMO after reset (Table 1-4). -/
def spntmoReset : Nat → W64 := fun _ => 8192

/-- The device right after reset: no group, no panel, empty caches and queues, every register of the window at its reset
value, memory with nothing listed. -/
def State.reset : State where
  g := Group.empty
  others := []
  panels := []
  scratch := []
  frames := []
  wptr := []
  cyc := []
  tlb := []
  leaves := []
  icache := []
  l1 := []
  cmds := []
  slotHeld := []
  spnbase := []
  spnsize := []
  spntmo := []
  bins := []
  formed := []
  passes := []
  mem := []
  poison := []
  image := []
  lines := []
  lostWays := []
  tags := []
  accs := []
  accCount := 1
  peerAccs := []
  performed := []
  hostLines := []
  win := []
  lastQueue := []
  bolts := []
  snapped := []
  outbound := []
  waiting := []
  hostLink := (0, 0)
  capStart := []
  lastFix := []
  lasting := []
  spareRows := []
  rowCopies := []
  lateWrites := []
  reqLost := []
  wr := []
  nextId := 1
  free := 0
  holds := []
  parts := []
  refetch := []
  fills := []
  turns := []
  errors := []
  inputs := []
  outputs := []

end Sys2Proof.Machine
end

