-- ==== Sys2Proof/Machine/Window.lean ====
section
/-! DEFINITION. The device register window (10 R311 to R314, R322, R329, R330, R332; Tables 8-1, 8-2, 8-4, 8-11, 6-4): which
offsets are assigned, what each register holds at reset, which bits a write sets and which it clears. -/

namespace Sys2Proof.Machine

/-- Scheduling block base (Table 10-1). -/
def schedBase : Nat := 0x10_0000
/-- Fabric block base. -/
def fabBase : Nat := 0x20_0000
/-- Reliability block base. -/
def relBase : Nat := 0x30_0000
/-- Power block base. -/
def powBase : Nat := 0x40_0000
/-- Base of memory-side die `n`'s block. -/
def mdBase (n : Nat) : Nat := 0x100_0000 + 0x1_0000 * n

/-- Register `r` (an offset below 64) of context `c` (Table 8-1, R314). -/
def ctxReg (c r : Nat) : Nat := schedBase + 64 * c + r
/-- Register `r` of queue `n` (Table 8-2). -/
def queueReg (n r : Nat) : Nat := schedBase + 0x400 + 32 * n + r
/-- CCQ[c] (Table 8-4). -/
def ccqReg (c : Nat) : Nat := schedBase + 0x600 + 8 * c
/-- EQBASE, EQCTL, EQHEAD, EQTAIL, EQSTAT and FRESP (Table 8-11). -/
def eqBase : Nat := schedBase + 0x700
def eqCtl : Nat := schedBase + 0x708
def eqHead : Nat := schedBase + 0x710
def eqTail : Nat := schedBase + 0x718
def eqStat : Nat := schedBase + 0x720
def frespOff : Nat := schedBase + 0x728
/-- OWNLOG (Table 10-2), DEVID and MODID (R313). -/
def devidOff : Nat := 0
def modidOff : Nat := 8
def ownlogOff : Nat := 0x10
/-- RT[i], PMASK[i], PMASKH[i] (Table 10-5). -/
def rtReg (i : Nat) : Nat := fabBase + 0x100 + 8 * i
def pmaskReg (i : Nat) : Nat := fabBase + 0x180 + 8 * i
def pmaskhReg (i : Nat) : Nat := fabBase + 0x200 + 8 * i
/-- PWBASE[w], PWCTL[w], PWACC[w] at `r` = 0, 8, 16 (R322). -/
def pwReg (w r : Nat) : Nat := fabBase + 0x1000 + 32 * w + r
/-- PSTAT[p] (R330). -/
def pstatReg (p : Nat) : Nat := fabBase + 0x3000 + 8 * p
/-- SPHEAD, CFENCE[k], CEC[u] and word `i` of SPLOG (R329, R330). -/
def spheadOff : Nat := relBase + 8
def cfenceReg (k : Nat) : Nat := relBase + 0x100 + 8 * k
def cecReg (u : Nat) : Nat := relBase + 0x1000 + 8 * u
def splogReg (i : Nat) : Nat := relBase + 0x8000 + 8 * i
/-- PCAP[d], PMOD, PSTATE[d], TLATCH (Table 10-10). -/
def pcapReg (d : Nat) : Nat := powBase + 8 * d
def pmodOff : Nat := powBase + 0x200
def pstateReg (d : Nat) : Nat := powBase + 0x400 + 8 * d
def tlatchOff : Nat := powBase + 0x600

/-- The registers of the window. -/
inductive Reg where
  | devid | modid | ownlog
  | ctx (c r : Nat) | queue (n r : Nat) | ccq (c : Nat) | eq (r : Nat)
  | rt (i : Nat) | pmask (i : Nat) | pw (w r : Nat) | pstat (p : Nat)
  | sphead | cfence (k : Nat) | cec (u : Nat) | splog (i : Nat)
  | pcap (d : Nat) | pmod | pstate (d : Nat) | tlatch
  | mdrace (n : Nat) | blkctl (base : Nat)
  deriving DecidableEq, Repr

/-- The register of an 8-byte aligned offset of the scheduling block. -/
def schedReg (o : Nat) : Option Reg :=
  if o < 0x400 then some (.ctx (o / 64) (o % 64))
  else if o < 0x600 then if o % 32 < 24 then some (.queue ((o - 0x400) / 32) (o % 32)) else none
  else if o < 0x620 then some (.ccq ((o - 0x600) / 8))
  else if 0x700 ≤ o ∧ o < 0x730 then some (.eq (o - 0x700))
  else if o = 0xF_FFF8 then some (.blkctl schedBase)
  else none

/-- The register of an 8-byte aligned offset of the fabric block. -/
def fabReg (o : Nat) : Option Reg :=
  if 0x100 ≤ o ∧ o < 0x180 then some (.rt ((o - 0x100) / 8))
  else if 0x180 ≤ o ∧ o < 0x280 then some (.pmask ((o - 0x180) / 8))
  else if 0x1000 ≤ o ∧ o < 0x3000 then if o % 32 < 24 then some (.pw ((o - 0x1000) / 32) (o % 32)) else none
  else if 0x3000 ≤ o ∧ o < 0x3400 then some (.pstat ((o - 0x3000) / 8))
  else if o = 0xF_FFF8 then some (.blkctl fabBase)
  else none

/-- The register of an 8-byte aligned offset of the reliability block. -/
def relReg (o : Nat) : Option Reg :=
  if o = 8 then some .sphead
  else if 0x100 ≤ o ∧ o < 0x140 then some (.cfence ((o - 0x100) / 8))
  else if 0x1000 ≤ o ∧ o < 0x1000 + 8 * 576 then some (.cec ((o - 0x1000) / 8))
  else if 0x8000 ≤ o ∧ o < 0x9000 then some (.splog ((o - 0x8000) / 8))
  else if o = 0xF_FFF8 then some (.blkctl relBase)
  else none

/-- The register of an 8-byte aligned offset of the power block. -/
def powReg (o : Nat) : Option Reg :=
  if o < 8 * 42 then some (.pcap (o / 8))
  else if o = 0x200 then some .pmod
  else if 0x400 ≤ o ∧ o < 0x400 + 8 * 42 then some (.pstate ((o - 0x400) / 8))
  else if o = 0x600 then some .tlatch
  else if o = 0xF_FFF8 then some (.blkctl powBase)
  else none

/-- The register at a window offset; none where no block assigns it or the offset is not 8-byte aligned (R311). -/
def regAt (o : Nat) : Option Reg :=
  if o % 8 ≠ 0 then none
  else if o = 0 then some .devid
  else if o = 8 then some .modid
  else if o = 0x10 then some .ownlog
  else if o < schedBase then none
  else if o < fabBase then schedReg (o - schedBase)
  else if o < relBase then fabReg (o - fabBase)
  else if o < powBase then relReg (o - relBase)
  else if o < 0x50_0000 then powReg (o - powBase)
  else if 0x100_0000 ≤ o ∧ o < 0x120_0000 then
    if o % 0x1_0000 = 0 then some (.mdrace ((o - 0x100_0000) / 0x1_0000))
    else if o % 0x1_0000 = 0xFFF8 then some (.blkctl (o - 0xFFF8))
    else none
  else none

/-- The base of the block an offset lies in (Table 10-1), whether or not the offset is assigned; none outside every block. -/
def blockOf (o : Nat) : Option Nat :=
  if o < schedBase then some 0
  else if o < 0x50_0000 then some (o - o % 0x10_0000)
  else if 0x100_0000 ≤ o ∧ o < 0x120_0000 then some (o - o % 0x1_0000)
  else none

/-- Bits of a register that a write sets (Access RW). -/
def regRw : Reg → W64
  | .modid => 0xFFFF
  | .ctx _ r =>
    if r = 0 then 0x800F_FFFF_FFFE_FFFF
    else if r = 8 then 0xFFFF_FFFF_FFFF_FFFF
    else if r = 0x10 then 0x01FF_FFFF_FFFF_0000
    else if r = 0x18 then 0xFFFF
    else if r = 0x20 then 0x01FF_FFFF_FFFF_FFFF
    else if r = 0x28 then 0xFFFF_FFFF
    else if r = 0x30 then 0x81FF_FFFF_FFFF_FFFF
    else 0x01FF_FFFF_FFFF_FFC0
  | .queue _ r => if r = 0x10 then 0x7FFF else 0x01FF_FFFF_FFFF_FFFF
  | .ccq _ => 0x7F
  | .eq r => if r = 0 then 0x01FF_FFFF_FFFF_FFFF else if r = 8 then 0x1F else if r = 0x10 then 0xFFFF_FFFF else 0
  | .rt _ => 0xFFFF
  | .pmask _ => 0xFFFF_FFFF_FFFF_FFFF
  | .pw _ r => if r = 0 then 0x01FF_FFFF_FFFF else if r = 8 then 0x1FFF_FFFF_FFFF else 0xFFFF_FFFF_FFFF_FFFF
  | .pstat _ => 0x3
  | .sphead | .splog _ => 0xFFFF_FFFF_FFFF_FFFF
  | .cfence _ => 0xFFFF_FFFF_FFFF
  | .cec _ => 0xFFFF_0000_0000
  | .pcap _ | .pmod => 0xFFFF
  | .blkctl _ => 1
  | .devid | .ownlog | .pstate _ | .tlatch | .mdrace _ => 0

/-- Bits of a register that a written 1 clears (Access W1C). CTXMISC.STOP is not among them: writing 1 to it resumes the
context, which is an operation of its own (R261). -/
def regW1c : Reg → W64
  | .ownlog => 0xFFFF_FFFF_0000_0000
  | .eq r => if r = 0x20 then 1 else 0
  | .tlatch => 0x3FF_FFFF_FFFF
  | .mdrace _ => 0xFFFF_FFFF
  | _ => 0

/-- What a register holds at reset. -/
def regReset : Reg → W64
  | .devid => 0x4B90_0001_0000_0000
  | .ctx _ r => if r = 8 then 0x0100_0000_1000_0100 else if r = 0x28 then 0x0800_0000 else 0
  | .queue _ r => if r = 0x10 then 0x1000 else 0
  | .ccq _ => 16
  | .eq r => if r = 8 then 6 else 0
  | .cec _ => 0x0040_0000_0000
  | .pcap d => if d < 8 then 480 else if d < 40 then 75 else 400
  | .pmod => 6000
  | .pstate d => if d < 8 then 1200 else if d < 40 then 1600 else 1000
  | .blkctl base => if base = relBase ∨ base = powBase then 1 else 0
  | _ => 0

/-- What an unlisted window offset reads as. -/
def winReset (o : Nat) : W64 :=
  match regAt o with
  | some r => regReset r
  | none => 0

/-- The register at an offset of the window. -/
def rdWin (s : State) (o : Nat) : W64 := cget winReset s.win o

/-- The device sets a register of the window. -/
def wrWin (s : State) (o : Nat) (v : W64) : State := { s with win := cset winReset s.win o v }

/-- Log a refused access in OWNLOG (R311, R312): offset, master, and a count that sticks. -/
def logRefused (s : State) (o : Nat) (m : Master) : State :=
  let c := fld (rdWin s ownlogOff) 32 32
  let c' := if c = 0xFFFF_FFFF then c else c + 1
  let mb := match m with | .host => 0 | .mgmt => 1
  wrWin s ownlogOff (BitVec.ofNat 64 (o % 2 ^ 28 + mb * 2 ^ 28 + c' * 2 ^ 32))

end Sys2Proof.Machine
end

