-- ==== Sys2Proof/Machine/Memory.lean ====
section
/-! DEFINITION. Storage: bytes at their homes, the home caches with their quotas, owner tags and races (06 R176, R177, R460,
08 R250), the cluster L1s (06 R170 to R175), replicated pages (R180, R181), translation (R183 to R195). A storage key names
one byte: HBM of die d at stack offset f is d·2^36 + f, host memory is 2^48 + address, peer module m's HDM is
2^60 + m·2^41 + offset. A store of the step under way goes into the journal `wr`, which reads see and the end of the step
applies to memory. -/

namespace Sys2Proof.Machine

/-- The storage key of a byte of an HBM stack. -/
def hbmKey (md off : Nat) : Nat := md * 2 ^ 36 + off
/-- The storage key of a byte of host memory. -/
def hostKey (a : Nat) : Nat := 2 ^ 48 + a
/-- The storage key of a byte of a peer module's HDM. -/
def peerKey (m off : Nat) : Nat := 2 ^ 60 + m * 2 ^ 41 + off
/-- The key lies in device HBM. -/
def isHbm (k : Nat) : Bool := decide (k < 32 * 2 ^ 36)
/-- The key lies in a peer's HDM. -/
def isPeer (k : Nat) : Bool := decide (2 ^ 60 ≤ k)
/-- The size of a stack in bytes (Table 0-1). -/
def stackSize : Nat := 64_000_000_000

/-- The newest store of the journal at a key. -/
def journalAt : List (Nat × Byte) → Nat → Option Byte
  | [], _ => none
  | (a, b) :: r, k => if a = k then some b else journalAt r k

/-- The open byte that a save record's image holds at a storage key that nothing has written since (R243; log 18). -/
def imageAt : List ImageUnit → Nat → Option Byte
  | [], _ => none
  | u :: r, k =>
    if u.unit = k / 4096 then (if u.written.contains k then none else some (Config.imageByte u.seed k)) else imageAt r k

/-- The byte at a storage key. -/
def rb (s : State) (k : Nat) : Byte := (journalAt s.wr k).getD ((imageAt s.image k).getD (cget zero s.mem k))

/-- Store a byte at a storage key. -/
def wb (s : State) (k : Nat) (b : Byte) : State := { s with wr := (k, b) :: s.wr }

/-- The `n` bytes from a storage key up. -/
def rbs (s : State) (k : Nat) : Nat → List Byte
  | 0 => []
  | n + 1 => rb s k :: rbs s (k + 1) n

/-- Store bytes from a storage key up. -/
def wbs (s : State) (k : Nat) : List Byte → State
  | [] => s
  | b :: r => wbs (wb s k b) (k + 1) r

/-- The 32-bit word at a storage key. -/
def rw4 (s : State) (k : Nat) : W32 := BitVec.ofNat 32 (natOf (rbs s k 4))
/-- The 64-bit word at a storage key. -/
def rw8 (s : State) (k : Nat) : W64 := BitVec.ofNat 64 (natOf (rbs s k 8))

/-- The bytes of an image that a step has written are open no more. -/
def imageAfter (wr : List (Nat × Byte)) (u : ImageUnit) : ImageUnit :=
  { u with written := (wr.map (·.1)).foldl (fun a k => if k / 4096 = u.unit ∧ a.contains k = false then k :: a else a) u.written }

/-- The end of a step: the journal is applied to memory, oldest store first. Nothing else changes memory. -/
def commit (old new : State) : State :=
  { new with mem := csetAll zero old.mem new.wr.reverse, wr := [], image := new.image.map (imageAfter new.wr) }

/-! Home caches. -/

/-- WAYS of a cache class (Table 8-4). -/
def waysOf (s : State) (c : BitVec 2) : Nat := min 16 (fld (rdWin s (ccqReg c.toNat)) 0 5)
/-- KEEP of a cache class. -/
def keepOf (s : State) (c : BitVec 2) : Nat := fld (rdWin s (ccqReg c.toNat)) 5 2

/-- Least recently used of a list that holds the most recent first; lines at the lowest replacement priority go first
(Table 6-3). -/
def lruOf (l : List HomeLine) : Option HomeLine :=
  match (l.filter (·.low)).getLast? with
  | some h => some h
  | none => l.getLast?

/-- The highest KEEP present in a set, ties to the higher class number (R250, rule 3). -/
def worstClass (s : State) (inset : List HomeLine) : BitVec 2 :=
  inset.foldl (fun a h =>
    if keepOf s a < keepOf s h.cls ∨ (keepOf s a = keepOf s h.cls ∧ a.toNat < h.cls.toNat) then h.cls else a)
    (match inset with | [] => 0 | h :: _ => h.cls)

/-- The victim of a fill of class `c` into a set that holds `inset` and has `size` frames (R250). -/
def victimOf (s : State) (c : BitVec 2) (inset : List HomeLine) (size : Nat) : Option HomeLine :=
  let mine := inset.filter (fun h => h.cls == c)
  if waysOf s c ≤ mine.length then lruOf mine
  else if inset.length < size then none
  else
    let excess := inset.filter (fun h => decide (waysOf s h.cls < (inset.filter (fun x => x.cls == h.cls)).length))
    if excess.isEmpty then
      let w := worstClass s inset
      lruOf (inset.filter (fun h => h.cls == w))
    else lruOf excess

/-- Drop the owner tags of a line's 32 words (R177, R460). -/
def dropTags (s : State) (md off : Nat) : State :=
  { s with tags := ckeep (fun w => decide (w / 32 ≠ hbmKey md (off * 128) / 128)) s.tags }

/-- The frames of a set: sixteen less the disabled ones (Table 10-8). -/
def setSize (s : State) (md set : Nat) : Nat := 16 - (s.lostWays.filter (fun e => e.1 == md && e.2 == set)).length

/-- A storage word carries poison (R328). -/
def poisonAt (s : State) (k : Nat) : Bool := cget (fun _ => false) s.poison (k / 4)

/-- The words of a line of HBM that carry poison. -/
def lineMarks (s : State) (md off : Nat) : List Nat :=
  if s.poison.isEmpty then [] else (List.range 32).filter (fun i => poisonAt s (hbmKey md (off * 128) + 4 * i))

/-- A line carries poison in the words of a list and in no other. -/
def putMarks (s : State) (md off : Nat) (l : List Nat) : State :=
  if lineMarks s md off == l then s else
  { s with poison := (List.range 32).foldl (fun a i => cset (fun _ => false) a (hbmKey md (off * 128) / 4 + i) (l.contains i)) s.poison }

/-- Evict a home-cache line: memory already holds its bytes as the home's view, so a dirty line's HBM copy becomes them; a clean line
leaves the HBM copy with its own poison (R328). -/
def evictLine (s : State) (h : HomeLine) : State :=
  let s1 := if h.old.isNone then putMarks s h.md h.off h.marks else s
  dropTags { s1 with lines := s1.lines.filter (fun x => !(x.md == h.md && x.off == h.off)) } h.md h.off

/-- An access at the home of an HBM key: a hit makes the line the most recent of its set, a miss fills it unless the class
does not allocate; a write makes it dirty, and the HBM copy beneath is then kept (R460, Table 6-3, R249, R250). -/
def touch (s : State) (k : Nat) (quota alloc : BitVec 2) (write : Bool) : State :=
  if !isHbm k then s else
  let md := k / 2 ^ 36
  let off := k % 2 ^ 36 / 128
  let set := off % 32768
  match s.lines.find? (fun h => h.md == md && h.off == off) with
  | some h =>
    let old := if write && h.old.isNone then some (rbs s (hbmKey md (off * 128)) 128) else h.old
    { s with lines := { h with old := old } :: s.lines.filter (fun x => !(x.md == md && x.off == off)) }
  | none =>
    if alloc = 3 ∨ waysOf s quota = 0 ∨ setSize s md set = 0 then s else
    let inset := s.lines.filter (fun h => h.md == md && h.off % 32768 == set)
    let s1 := match victimOf s quota inset (setSize s md set) with | some v => evictLine s v | none => s
    let old := if write then some (rbs s (hbmKey md (off * 128)) 128) else none
    { s1 with lines := { md := md, off := off, cls := quota, low := alloc == 1, old := old, marks := lineMarks s1 md off } :: s1.lines }

/-- Before the home writes a line that the host may cache, it sends a back-invalidate (R319). -/
def backInvalidate (s : State) (k : Nat) : State :=
  if s.hostLines.contains (k / 128) then
    { s with hostLines := s.hostLines.filter (fun l => !(l == k / 128)), outputs := s.outputs ++ [.backInvalidate (k / 128)] }
  else s

/-- Count a race at a home (R177, Table 6-4). -/
def countRace (s : State) (k : Nat) : State :=
  let o := mdBase (k / 2 ^ 36)
  let c := fld (rdWin s o) 0 32
  let c' := if c = 0xFFFF_FFFF then c else c + 1
  wrWin s o (BitVec.ofNat 64 (c' + bitsOf (k % 2 ^ 36) 7 20 * 2 ^ 32))

/-- The home cache holds the line of a storage key. -/
def homeHolds (s : State) (k : Nat) : Bool := s.lines.any (fun h => h.md == k / 2 ^ 36 && h.off == k % 2 ^ 36 / 128)

/-- Who the home's write is for: a write-back names its cluster and sets owner tags; any other write clears them. Only a word that the
home cache holds has a tag (R177). -/
def tagWrite (s : State) (k : Nat) (cluster : Option Nat) : State :=
  if !isHbm k || !homeHolds s k then s else
  let w := k / 4
  match cluster with
  | none => { s with tags := cset (fun _ => none) s.tags w none }
  | some c =>
    let s1 := match cget (fun _ => none) s.tags w with
      | some t => if t.cluster ≠ c ∧ t.seen = false then countRace s k else s
      | none => s
    { s1 with tags := cset (fun _ => none) s1.tags w (some ⟨c, false⟩) }

/-- The owner tags of the words of `n` bytes are cleared by an atomic or a reduction, whether it writes or not (R177). -/
def clearOwners (s : State) (k n : Nat) : State :=
  (List.range ((n + 3) / 4)).foldl (fun a i => tagWrite a (k + 4 * i) none) s

/-- A write at the home of bytes within one word or two (R176): the line is touched, the host's copy invalidated, owner tags
changed, poison cleared where a whole word is covered (R328). -/
def homeWrite (s : State) (k : Nat) (bs : List Byte) (quota alloc : BitVec 2) (cluster : Option Nat) : State :=
  let s1 := backInvalidate (touch s k quota alloc true) k
  let ws := (List.range ((bs.length + 3) / 4)).map (fun i => k - k % 4 + 4 * i)
  let s2 := ws.foldl (fun a w => tagWrite a w cluster) s1
  let s3 := if 4 ≤ bs.length then ws.foldl (fun a w => { a with poison := cset (fun _ => false) a.poison (w / 4) false }) s2 else s2
  wbs s3 k bs

/-- The eight replicas of a registrar's byte (R180): one die in each quartet. -/
def replicaKeys (md off : Nat) : List Nat := (List.range 8).map (fun q => hbmKey (4 * q + md % 4) off)

/-- A store, atomic or reduction result at the registrar, multicast to every replica (R181). -/
def replicaWrite (s : State) (k : Nat) (bs : List Byte) (quota alloc : BitVec 2) : State :=
  (replicaKeys (k / 2 ^ 36) (k % 2 ^ 36)).foldl (fun a r => homeWrite a r bs quota alloc none) s

/-! Physical places. -/

/-- A translated byte address: its region, the storage key stores go to, the key loads are served from, the 45-bit line key
(R212) or the physical line of host and peer memory, and the page's SY, RP, AC and CC. For the register window `key` is the
window offset. -/
structure Phys where
  region : Nat
  key    : Nat
  rkey   : Nat
  line   : Nat
  sy     : Bool
  rp     : Bool
  ac     : Bool
  cc     : BitVec 2
  deriving DecidableEq, Repr

/-- The place `d` bytes further on in the same page with one home. -/
def Phys.plus (p : Phys) (d : Nat) : Phys :=
  { p with key := p.key + d, rkey := p.rkey + d, line := p.line + (p.key % 128 + d) / 128 }

/-- Who makes an access: core, context tag, root of the tables, view, quota class and instruction class. -/
structure Who where
  core  : Nat
  tag   : Nat
  root  : Nat
  priv  : Bool
  quota : BitVec 2
  alloc : BitVec 2
  deriving DecidableEq, Repr

/-- The effective allocation class (R175); a cache class that may hold no way acts as allocation class 3 (R250). -/
def effClass (s : State) (w : Who) (p : Phys) : BitVec 2 :=
  if waysOf s w.quota = 0 then 3 else if p.cc.toNat < w.alloc.toNat then w.alloc else p.cc

/-- The route entry of a peer window has a live port (R324). -/
def routeLive (s : State) (i : Nat) : Bool :=
  (List.range 128).any (fun p =>
    bit (rdWin s (if p < 64 then pmaskReg i else pmaskhReg i)) (p % 64) && decide (fld (rdWin s (pstatReg p)) 0 2 ≠ 0))

/-- ADDR of a table entry as a physical address. -/
def pteAddr (pte : W64) : Nat := fld pte 24 40 * 4096

/-- The size of a stack's interleaved share: die and offset of page offset `o` (R168). -/
def interleave (home il s o : Nat) : Nat × Nat :=
  if il = 0 then (home, s + o) else
  let n := 4 <<< (il - 1)
  let base := home - home % n
  let u := o / 4096
  (base + (home - base + u) % n, s + u / n * 4096 + o % 4096)

/-- Where a leaf puts a virtual address; none is the physical-address fault (R167, R322). The second component is false when
the access would end in the link fault instead (R321, R324). RP has an effect on device pages only (log 87). -/
def physOf (s : State) (die : Nat) (pte : W64) (base : Nat) (va : Nat) : Option Phys × Bool :=
  let pa := pteAddr pte
  let o := va - base
  let sy := bit pte 8
  let rp := bit pte 9 && decide (pa / 2 ^ 48 = 0)
  let ac := bit pte 10
  let cc := BitVec.ofNat 2 (fld pte 11 2)
  let region := pa / 2 ^ 48
  if region = 0 then
    let st := pa % 2 ^ 36
    let (md, off) := interleave (fld pte 13 5) (fld pte 18 3) st o
    if stackSize ≤ off then (none, true) else
    let line := (st + o) % 2 ^ 36 / 128 + md * 2 ^ 29
    let rk := if rp then hbmKey (4 * die + md % 4) off else hbmKey md off
    (some ⟨0, hbmKey md off, rk, line, sy, rp, ac, cc⟩, true)
  else if region = 1 then
    let a := (pa + o) % 2 ^ 48
    (some ⟨1, hostKey a, hostKey a, (2 ^ 48 + a) / 128, sy, rp, ac, cc⟩, true)
  else if region = 2 then
    let p := (pa + o) % 2 ^ 48
    let w := bitsOf p 40 8
    let off := p % 2 ^ 40
    let ctl := rdWin s (pwReg w 8)
    if !bit ctl 0 || decide (4096 * min (fld ctl 5 40) (2 ^ 28) ≤ off) then (none, true) else
    let h := fld (rdWin s (pwReg w 0)) 0 41 + off
    let k := peerKey (fld (rdWin s (rtReg (fld ctl 1 4))) 0 16) h
    (some ⟨2, k, k, (2 * 2 ^ 48 + p) / 128, sy, rp, ac, cc⟩, routeLive s (fld ctl 1 4) && decide (h < 2_048_000_000_000))
  else if region = 3 then
    (some ⟨3, (pa + o) % 2 ^ 48, (pa + o) % 2 ^ 48, 0, sy, rp, ac, cc⟩, true)
  else (none, true)

/-! Translation. -/

/-- How a walk ends (R186). -/
inductive Walk where
  | leaf (pte : W64) (base bits at_ : Nat)
  | fault
  | format
  | poison (sub : Nat)
  deriving DecidableEq, Repr

/-- The four levels: the lowest VA bit indexed, the index width, and the alignment of the table as a power of two
(Table 6-5). -/
def levels : List (Nat × Nat × Nat) := [(43, 14, 17), (30, 13, 16), (21, 9, 12), (16, 5, 12)]

/-- A leaf that breaks no rule of R186 for a page of 2^bits bytes. -/
def leafOk (pte : W64) (bits : Nat) : Bool :=
  let pa := pteAddr pte
  let il := fld pte 18 3
  let home := fld pte 13 5
  let page := 2 ^ bits
  let region := pa / 2 ^ 48
  let n := if il = 0 then 1 else 4 <<< (il - 1)
  fld pte 21 3 == 0 && decide (il ≤ 4) &&
  !(bit pte 9 && (il != 0 || bit pte 8)) &&
  (if region = 0 then bitsOf pa 36 12 == 0 && decide (4096 ≤ page / n) && pa % (page / n) == 0
   else pa % page == 0 && (!(region == 1 || region == 2) || (home == 0 && il == 0)))

/-- The pointer rules of R185 and R186 for a table address with its alignment and size. -/
def tableOk (pa align size : Nat) : Bool :=
  pa / 2 ^ 48 == 0 && bitsOf pa 41 7 == 0 && pa % 2 ^ align == 0 && decide (pa % 2 ^ 36 + size ≤ stackSize)

/-- The storage key of a table's byte (R186). -/
def tableKey (pa : Nat) : Nat := hbmKey (bitsOf pa 36 5) (pa % 2 ^ 36)

/-- The sub-code of an uncorrectable error in a storage word (R328): 2 where the home cache holds the line, else 1. DESIGN CHOICE (log 124):
of host and peer memory it is 1. -/
def homeSub (s : State) (k : Nat) : Nat := if homeHolds s k then 2 else 1

/-- Walk the levels that are left from the table at `pa` (R184 to R186). -/
def walkFrom (va : Nat) (quota : BitVec 2) : List (Nat × Nat × Nat) → Nat → State → Walk × State
  | [], _, s => (.format, s)
  | (sh, n, al) :: rest, pa, s =>
    if !tableOk pa al (8 * 2 ^ n) then (.format, s) else
    let k := tableKey pa + 8 * bitsOf va sh n
    let s1 := touch s k quota 0 false
    if poisonAt s k || poisonAt s (k + 4) then (.poison (homeSub s k), s1) else
    let e := rw8 s1 k
    if !bit e 0 then (.fault, s1)
    else if bit e 1 then
      if sh = 43 ∨ !leafOk e sh then (.format, s1)
      else (.leaf e (va - va % 2 ^ sh) sh k, s1)
    else if fld e 2 22 ≠ 0 then (.format, s1)
    else if sh = 16 then (.format, s1)
    else walkFrom va quota rest (pteAddr e) s1

/-- A walk from a root (R184). Addresses are taken modulo 2^57. -/
def walk (s : State) (root : Nat) (quota : BitVec 2) (va : W64) : Walk × State :=
  walkFrom (va.toNat % 2 ^ 57) quota levels root s

/-! The cluster L1. -/

/-- The key of word `i` of a line in a cluster's L1. -/
def l1Key (cluster line i : Nat) : Nat := (cluster * 2 ^ 48 + line) * 32 + i
/-- The cluster of an L1 key. -/
def l1Cluster (k : Nat) : Nat := k / 32 / 2 ^ 48
/-- The line of an L1 key. -/
def l1Line (k : Nat) : Nat := k / 32 % 2 ^ 48
/-- The slice that holds a line (R170): PA[8:7] XOR PA[10:9]. -/
def sliceOf (line : Nat) : Nat := (line % 4) ^^^ (line / 4 % 4)
/-- A word of a cluster L1. -/
def l1Get (s : State) (cluster line i : Nat) : Option L1Word := cget (fun _ => none) s.l1 (l1Key cluster line i)
/-- Set or drop a word of a cluster L1. -/
def l1Set (s : State) (cluster line i : Nat) (w : Option L1Word) : State :=
  { s with l1 := cset (fun _ => none) s.l1 (l1Key cluster line i) w }

/-- A fill that a cluster takes of words sets the seen bit of those that another cluster owns (R177); it takes the words that are not
valid in the L1 (log 88). -/
def seeLine (s : State) (k cluster line : Nat) : State :=
  { s with tags := s.tags.map (fun e =>
      if e.1 / 32 = k / 128 ∧ (l1Get s cluster line (e.1 % 32)).isNone = true then
        (e.1, e.2.map (fun t => if t.cluster = cluster then t else { t with seen := true }))
      else e) }

/-- The accession number that a peer window holds for its pages (R322, R323). -/
def windowNumber (s : State) (p : Phys) : W64 := rdWin s (pwReg (bitsOf p.line 33 8) 16)

/-- A PTE maps device memory as a leaf does that a walk has found. -/
def sameLeaf (m : LeafMap) (pte : W64) : Bool := pteAddr pte == m.start && fld pte 13 5 == m.home && fld pte 18 3 == m.il

/-- The tables at a root are in use: a group runs under them, they are those of context 0, through which records go (R272), or a queue of
a context that has them is enabled. -/
def rootUsed (s : State) (root : Nat) : Bool :=
  fld (rdWin s (ctxReg 0 0)) 17 35 * 2 ^ 17 == root ||
  (s.g :: s.others).any (fun g => g.live && fld g.vmctx 17 35 * 2 ^ 17 == root) ||
  (List.range 16).any (fun n =>
    let q := rdWin s (queueReg n 0x10)
    bit q 0 && fld (rdWin s (ctxReg (fld q 2 4) 0)) 17 35 * 2 ^ 17 == root)

/-- Storage can still be reached as a leaf has mapped it: a translation buffer holds the leaf, or a walk from its root, whose tables are in
use, finds it now (R171; log 86). -/
def leafStands (s : State) (m : LeafMap) : Bool :=
  s.tlb.any (fun e => e.at_ == m.at_ && e.bits == m.bits && sameLeaf m e.pte) ||
  (rootUsed s m.root && (match (walk s m.root 0 (BitVec.ofNat 64 m.base)).1 with
    | .leaf pte _ bits _ => bits == m.bits && sameLeaf m pte
    | _ => false))

/-- The storage of the line with a key, as a leaf maps it (R168, R171). -/
def storageIn (m : LeafMap) (line : Nat) : Option Nat :=
  let md := line / 2 ^ 29
  let x := line % 2 ^ 29 * 128
  if x < m.start ∨ m.start + 2 ^ m.bits ≤ x then none else
  let (d, off) := interleave m.home m.il m.start (x - m.start)
  if d = md then some (hbmKey md off) else none

/-- The key of the line at a storage key, as a leaf maps it (R168, R171). -/
def lineIn (m : LeafMap) (k : Nat) : Option Nat :=
  let md := k / 2 ^ 36
  let x := k % 2 ^ 36 - m.start
  let n := if m.il = 0 then 1 else 4 <<< (m.il - 1)
  let base := m.home - m.home % n
  let o := if m.il = 0 then x else (x / 4096 * n + (md + n - m.home) % n) * 4096 + x % 4096
  if k % 2 ^ 36 < m.start ∨ md < base ∨ base + n ≤ md ∨ 2 ^ m.bits ≤ o then none else some ((m.start + o) / 128 + md * 2 ^ 29)

/-- The storage that the key of a line names besides the line at a storage key: none where the supervisor keeps the map from keys to
storage one-to-one (R171; log 86). -/
def otherPlaces (s : State) (line own : Nat) : List Nat :=
  (s.leaves.filterMap (fun m => match storageIn m line with
    | some k => if k ≠ own ∧ leafStands s m then some k else none
    | none => none)).eraseDups

/-- The keys besides that of a line under which storage is reached. -/
def otherLines (s : State) (line : Nat) (stores : List Nat) : List Nat :=
  (s.leaves.flatMap (fun m => stores.filterMap (fun k => match lineIn m k with
    | some x => if x ≠ line ∧ leafStands s m then some x else none
    | none => none))).eraseDups

/-- The storage and the keys that a broken map adds to a place's own (R171). -/
def clashOf (s : State) (p : Phys) : List Nat × List Nat :=
  if p.region ≠ 0 then ([], []) else
  let own := p.key - p.key % 128
  let ps := otherPlaces s p.line own
  (ps, otherLines s p.line (own :: ps))

/-- What the L1s hold of word `i` of the lines with some keys. -/
def keyCopies (s : State) (lines : List Nat) (i : Nat) : List Nat :=
  s.l1.filterMap (fun e => match e.2 with
    | some x => if lines.contains (l1Line e.1) && e.1 % 32 == i then some x.val.toNat else none
    | none => none)

/-- The values of word `i` of a place's line that a broken map makes possible beside the one found: those of the storage and of the L1
copies concerned (R171). -/
def clashVals (s : State) (c : List Nat × List Nat) (p : Phys) (i : Nat) : List Nat :=
  if c.1.isEmpty && c.2.isEmpty then [] else
  ((p.rkey - p.rkey % 128) :: c.1).map (fun k => (rw4 s (k + 4 * i)).toNat) ++ keyCopies s (p.line :: c.2) i

/-- One of several values, freely; the first where there is no other. -/
def anyOf (s : State) (k : Nat) (x : Nat) (l : List Nat) : Nat :=
  if l.isEmpty then x else (x :: l).getD (Config.choose s.free k % (l.length + 1)) x

/-- Word `i` of a line as a fill brings it: the home's, or under a broken map any of the values concerned (R171; log 86). -/
def fetched (s : State) (w : Who) (p : Phys) (c : List Nat × List Nat) (i : Nat) : L1Word :=
  let own := p.rkey - p.rkey % 128 + 4 * i
  { val := BitVec.ofNat 32 (anyOf s own (rw4 s own).toNat (clashVals s c p i)), dirty := false, store := own
    quota := w.quota, alloc := effClass s w p, acc := if p.region = 2 then windowNumber s p else 0, poison := poisonAt s own }

/-- Fetch a line from its home; only words that are not valid are written (R172). -/
def fillLine (s : State) (w : Who) (p : Phys) : State :=
  let cl := w.core / 4
  let base := p.rkey - p.rkey % 128
  let s1 := seeLine (touch s base w.quota (effClass s w p) false) base cl p.line
  let c := clashOf s1 p
  (List.range 32).foldl (fun a i =>
    match l1Get a cl p.line i with
    | some _ => a
    | none => l1Set a cl p.line i (some (fetched a w p c i))) s1

/-- The storage word that a write-back of word `i` of a line lands at: its own, or where its line key names others too, one of all these
(R171; log 86). -/
def backPlace (s : State) (line i : Nat) (e : L1Word) : Nat :=
  anyOf s e.store e.store ((otherPlaces s line (e.store - e.store % 128)).map (fun k => k + 4 * i))

/-- The request of an asker has its answer: nothing of it is lost (R200). -/
def answered (a : Asker) (s : State) : State := { s with reqLost := s.reqLost.filter (fun e => e.1 != a) }

/-- Write a dirty word of a cluster back to its home, with its poison mark (R174, R249, R328). -/
def writeBackWord (s : State) (cl line i : Nat) : State :=
  match l1Get s cl line i with
  | some e =>
    if e.dirty then
      let k := backPlace s line i e
      let s1 := homeWrite s k (bytesOf 4 e.val.toNat) e.quota e.alloc (some cl)
      l1Set (answered (.line cl line) { s1 with poison := cset (fun _ => false) s1.poison (k / 4) e.poison }) cl line i (some { e with dirty := false })
    else s
  | none => s

/-- Write back and then drop a word of a cluster. -/
def dropWord (s : State) (cl line i : Nat) : State := l1Set (writeBackWord s cl line i) cl line i none

/-- The lines a cluster holds that satisfy a test, with their valid words. -/
def l1Words (s : State) (cl : Nat) (p : Nat → Bool) : List (Nat × Nat) :=
  (s.l1.filter (fun e => l1Cluster e.1 == cl && p (l1Line e.1))).map (fun e => (l1Line e.1, e.1 % 32))

/-- Write back every dirty word of a cluster's lines that satisfy a test (R174). -/
def writeBack (s : State) (cl : Nat) (p : Nat → Bool) : State :=
  (l1Words s cl p).foldl (fun a e => writeBackWord a cl e.1 e.2) s

/-- Discard every word of a cluster's lines that satisfy a test, dirty words too. -/
def discard (s : State) (cl : Nat) (p : Nat → Bool) : State :=
  { s with l1 := ckeep (fun k => !(l1Cluster k == cl && p (l1Line k))) s.l1 }

/-- Write back and then invalidate a cluster's lines that satisfy a test. -/
def flush (s : State) (cl : Nat) (p : Nat → Bool) : State := discard (writeBack s cl p) cl p

/-- The clusters other than `cl` that hold words of a line. -/
def otherHolders (s : State) (cl line : Nat) : List Nat :=
  ((s.l1.filter (fun e => l1Line e.1 == line && l1Cluster e.1 != cl)).map (fun e => l1Cluster e.1)).eraseDups

/-- Host lines are coherent among the clusters as well as with the host (R214, R316; log 20): before a cluster reads one, the
others' dirty words are written back, and before it writes one their copies are removed. -/
def hostReady (s : State) (cl : Nat) (p : Phys) (write : Bool) : State :=
  if p.region = 1 then
    (otherHolders s cl p.line).foldl
      (fun a c => if write then flush a c (fun l => l == p.line) else writeBack a c (fun l => l == p.line)) s
  else s

/-- Every line. -/
def allLines : Nat → Bool := fun _ => true

/-- The first and last word of a line that an access touches. -/
def wordsOf (p : Phys) (n : Nat) : List Nat :=
  let o := p.key % 128
  (List.range ((o % 4 + n + 3) / 4)).map (fun i => o / 4 + i)

/-- The access is performed at the home and not in the L1: of class 2 or 3 in device memory, or on a sync page (R175, R182, R369,
R411). -/
def atHome (s : State) (w : Who) (p : Phys) : Bool := p.sy || (p.region == 0 && decide (2 ≤ (effClass s w p).toNat))

/-- The number of the accession that covers a storage key, or 0 (R239). -/
def accessionOf (s : State) (k : Nat) : W64 :=
  match s.accs.find? (fun a => a.pieces.any (fun e => decide (e.1 ≤ k ∧ k < e.1 + e.2))) with
  | some a => a.num
  | none => 0

/-- The number that a peer gives with the line of a storage key, or 0 (R239, R321). -/
def peerNumber (s : State) (k : Nat) : W64 :=
  match s.peerAccs.find? (fun e => decide (e.1 ≤ k ∧ k < e.1 + e.2.1)) with
  | some e => e.2.2
  | none => 0

/-- What a load reads in word `i` of a line: the valid word. Where the supervisor has let a line key name two storage words, or two
keys one, it is open among the words concerned (R171; log 86). -/
def heldWord (s : State) (cl : Nat) (c : List Nat × List Nat) (p : Phys) (i : Nat) : Nat :=
  match l1Get s cl p.line i with
  | none => 0
  | some e => anyOf s (p.rkey - p.rkey % 128 + 4 * i) e.val.toNat (clashVals s c p i)

/-- The bytes of an L1 line's words from an offset of the line. -/
def l1Bytes (s : State) (cl : Nat) (p : Phys) (n : Nat) : List Byte :=
  let c := clashOf s p
  let ws := (wordsOf p n).flatMap (fun i => bytesOf 4 (heldWord s cl c p i))
  (ws.drop (p.key % 4)).take n

/-- The bytes that a load served at the home reads; under a broken map each word is open among those concerned (R171; log 86). -/
def homeBytes (s : State) (p : Phys) (n : Nat) : List Byte :=
  let c := clashOf s p
  if c.1.isEmpty && c.2.isEmpty then rbs s p.rkey n else
  let word (i : Nat) : Nat :=
    let own := p.rkey - p.rkey % 128 + 4 * i
    anyOf s own (rw4 s own).toNat (clashVals s c p i)
  (((wordsOf p n).flatMap (fun i => bytesOf 4 (word i))).drop (p.key % 4)).take n

/-- A load served at the home: the cluster's own copy of the words it reads is first written back and dropped, so that it sees its own
stores (R175, R206); host memory is read through the coherency agent (R316). -/
def loadHome (s : State) (w : Who) (p : Phys) (n : Nat) : List Byte × State :=
  let s1 := (wordsOf p n).foldl (fun a i => dropWord a (w.core / 4) p.line i) (hostReady s (w.core / 4) p false)
  let s2 := touch s1 p.rkey w.quota (effClass s w p) false
  (homeBytes s2 p n, s2)

/-- A load through a peer window (R323): from a line that the L1 keeps under the number that the window holds; else from the peer, which
gives its number with the line, and the line is kept where that is the window's number. A line of a sync page is never kept (R182). -/
def loadPeer (s : State) (w : Who) (p : Phys) (n : Nat) : List Byte × State :=
  let cl := w.core / 4
  let acc := windowNumber s p
  let kept (i : Nat) : Bool := match l1Get s cl p.line i with | some e => e.acc == acc | none => false
  if acc = 0 || p.sy then (rbs s p.rkey n, s)
  else if (wordsOf p n).all kept then (l1Bytes s cl p n, s)
  else if peerNumber s p.key = acc then
    let s1 := fillLine (discard s cl (fun l => l == p.line)) w p
    (l1Bytes s1 cl p n, s1)
  else (rbs s p.rkey n, s)

/-- A load of `n` bytes (R172, R175, R180, R369). An 8-byte load of an assigned offset reads the register window; any other access to the
window reads zero and is logged (R311). -/
def loadBytes (s : State) (w : Who) (p : Phys) (n : Nat) : List Byte × State :=
  let cl := w.core / 4
  if p.region = 3 then
    if n = 8 ∧ (regAt p.key).isSome then (bytesOf 8 (rdWin s p.key).toNat, s)
    else (bytesOf n 0, logRefused s p.key .host)
  else if p.region = 2 then loadPeer s w p n
  else if atHome s w p then loadHome s w p n
  else
    let s0 := hostReady s cl p false
    let s1 := if (wordsOf p n).all (fun i => (l1Get s0 cl p.line i).isSome) then s0 else fillLine s0 w p
    (l1Bytes s1 cl p n, s1)

/-- Merge bytes into a word from byte offset `o`. -/
def mergeBytes (old : W32) (o : Nat) (bs : List Byte) : W32 :=
  let b := bytesOf 4 old.toNat
  BitVec.ofNat 32 (natOf (b.take o ++ bs ++ b.drop (o + bs.length)))

/-- A store performed at the home: the cluster's own copy is written back first and dropped, and a replicated page is written
through its registrar (R175, R178, R181). A write to the register window that is no 8-byte store is logged and lost (R311). -/
def storeHome (s : State) (w : Who) (p : Phys) (bs : List Byte) : State :=
  if p.region = 3 then logRefused s p.key .host else
  let cl := w.core / 4
  let s1 := (wordsOf p bs.length).foldl (fun a i => dropWord a cl p.line i) (hostReady s cl p true)
  if p.rp then replicaWrite s1 p.key bs w.quota (effClass s w p)
  else homeWrite s1 p.key bs w.quota (effClass s w p) none

/-- A word as a store leaves it in the L1: dirty (R173). -/
def stored (s : State) (w : Who) (p : Phys) (i : Nat) (part : List Byte) : L1Word :=
  let own := p.key - p.key % 128 + 4 * i
  let old := l1Get s (w.core / 4) p.line i
  { val := mergeBytes ((old.map (·.val)).getD 0) (p.key % 4) part, dirty := true, store := own
    quota := w.quota, alloc := effClass s w p, acc := 0, poison := false }

/-- A store of `n` bytes (R173, R175, R181, R411). -/
def storeBytes (s : State) (w : Who) (p : Phys) (bs : List Byte) : State :=
  let cl := w.core / 4
  if atHome s w p || p.rp || decide (2 ≤ p.region) then storeHome s w p bs
  else
    let s0 := hostReady s cl p true
    let s1 := if bs.length < 4 ∧ (wordsOf p bs.length).any (fun i => (l1Get s0 cl p.line i).isNone) then fillLine s0 w p
      else s0
    (indexed 0 (wordsOf p bs.length)).foldl (fun a e =>
      l1Set a cl p.line e.2 (some (stored a w p e.2 (if bs.length < 4 then bs else (bs.drop (4 * e.1)).take 4)))) s1

/-! Translation buffers. -/

/-- Write an entry's gathered A and D to its PTE, if the PTE still has the same ADDR: an atomic OR at the home, which the home looks up in
either case (R195, R460). A poisoned PTE is left as it is, and its error is met next (R328; log 108). The OR comes under cache class 0
(log 107). -/
def writeAd (s : State) (e : TlbEntry) : State :=
  if !(e.a || e.d) then s else
  let s1 := touch s e.at_ 0 0 false
  if poisonAt s1 e.at_ || poisonAt s1 (e.at_ + 4) then { s1 with errors := s1.errors ++ [.poisonedPte e.ctx e.at_] } else
  let now := rw8 s1 e.at_
  if fld now 24 40 ≠ fld e.pte 24 40 then s1 else
  let new := now ||| (if e.a then 0x40 else 0) ||| (if e.d then 0x80 else 0)
  homeWrite s1 e.at_ (bytesOf 8 new.toNat) 0 0 none

/-- Remove TLB entries, writing their A and D (R195, R197). -/
def dropTlb (s : State) (p : TlbEntry → Bool) : State :=
  let s1 := (s.tlb.filter p).foldl writeAd s
  { s1 with tlb := s1.tlb.filter (fun e => !p e) }

/-- The entry of a core's TLB that translates an address. -/
def tlbFind (s : State) (core tag va : Nat) : Option TlbEntry :=
  s.tlb.find? (fun e => e.core == core && e.ctx == tag && decide (e.base ≤ va ∧ va < e.base + 2 ^ e.bits))

/-- The leaves that walks have found, with one more where it maps device memory (R171). -/
def addLeaf (l : List LeafMap) (root base : Nat) (pte : W64) (bits k : Nat) : List LeafMap :=
  let m : LeafMap := ⟨pteAddr pte, fld pte 13 5, fld pte 18 3, bits, k, root, base⟩
  if l.contains m || m.start / 2 ^ 48 != 0 then l
  else m :: l.filter (fun x => !(x.at_ == k && x.root == root && x.base == base))

/-- Translate for a core: TLB, then walk (R187, R189). -/
def xlate (s : State) (w : Who) (va : W64) : Walk × State :=
  let a := va.toNat % 2 ^ 57
  match tlbFind s w.core w.tag a with
  | some e => (.leaf e.pte e.base e.bits e.at_, s)
  | none =>
    match walk s w.root w.quota va with
    | (.leaf pte base bits k, s1) =>
      (.leaf pte base bits k, { s1 with
        leaves := addLeaf s1.leaves w.root base pte bits k
        tlb := s1.tlb ++ [⟨w.core, w.tag, base, bits, pte, k, false, false, false, false⟩] })
    | r => r

/-- An access through an entry gathers A, and a store D, unless they are already written (R195, R196). -/
def gather (s : State) (core tag va : Nat) (store : Bool) : State :=
  { s with tlb := s.tlb.map (fun e =>
      if e.core == core && e.ctx == tag && decide (e.base ≤ va ∧ va < e.base + 2 ^ e.bits) then
        { e with a := e.a || !e.aDone, d := e.d || (store && !e.dDone) }
      else e) }

end Sys2Proof.Machine
end

