-- ==== Sys2Proof/Machine/Tacks.lean ====
section
/-! DEFINITION. Tacks (07 R234, R235; 05 R154): the ranges of the accepted engine commands and matrix operations of a core,
computed from the commands themselves, so that a tack is live exactly while its command is. -/

namespace Sys2Proof.Machine

/-- A registered range: `rows` rows of `len` bytes at `stride`, of which the first `skip` bytes in row order are done. It lies
in scratchpad of panel `owner`, or in virtual memory of context `owner`. -/
structure Tack where
  core   : Nat
  sp     : Bool
  owner  : Nat
  dst    : Bool
  start  : Nat
  stride : Nat
  len    : Nat
  rows   : Nat
  skip   : Nat
  deriving DecidableEq, Repr

/-- Row `r` of a range holds a live byte of [lo, hi). -/
def Tack.rowHits (t : Tack) (lo hi r : Nat) : Bool :=
  let from_ := t.start + r * t.stride + (t.skip - r * t.len)
  let to_ := t.start + r * t.stride + t.len
  decide (t.skip < (r + 1) * t.len) && decide (from_ < hi) && decide (lo < to_)

/-- A live byte of the range lies in [lo, hi). -/
def Tack.hits (t : Tack) (lo hi : Nat) : Bool := (List.range t.rows).any (fun r => t.rowHits lo hi r)

/-- Two ranges share a live byte. -/
def Tack.overlaps (t u : Tack) : Bool :=
  t.sp == u.sp && t.owner == u.owner &&
  (List.range u.rows).any (fun r =>
    decide (u.skip < (r + 1) * u.len) &&
    t.hits (u.start + r * u.stride + (u.skip - r * u.len)) (u.start + r * u.stride + u.len))

/-- The panel with an id. -/
def panelOf (s : State) (id : Nat) : Option Panel := s.panels.find? (fun p => p.id == id)

/-- The context of a panel. -/
def panelCtx (s : State) (id : Nat) : Nat := (panelOf s id).map (·.ctx) |>.getD 0

/-- Element bits and block size of a QNT format (Table 3-7, Table 4-3). -/
def qntBits (fmt : Nat) : Nat := if fmt = 2 ∨ fmt = 4 ∨ fmt = 6 then 4 else 8
def qntBlock (fmt : Nat) : Nat := if fmt = 4 then 8 else 32

/-- The block scales that QNT writes, a byte each, and the offset and length of the FB4 band scales after them (R136). -/
def qntBlocks (fmt rows cols : Nat) : Nat := rows * cols / qntBlock fmt
def bandsAt (rows cols : Nat) : Nat := (rows * cols / 8 + 1) / 2 * 2
def bandBytes (fmt rows : Nat) : Nat := if fmt = 4 then 2 * ((rows + 63) / 64) else 0

/-- The bytes from a QNT's first scale to its last (R136). -/
def qntScaleBytes (fmt rows cols : Nat) : Nat :=
  if fmt = 4 then bandsAt rows cols + bandBytes fmt rows else qntBlocks fmt rows cols

/-- The address field of a descriptor word: a 57-bit virtual address taken as 64 bits, or a scratchpad offset. -/
def descAddr (d : W64) : Nat := if bit d 63 then fld d 0 57 else (sext57 (fld d 0 57)).toNat

/-- The tacks of an engine command (R234, R138, R304). DESIGN CHOICE (log 120): a QNT takes one entry for each contiguous range that it
writes, so that FB4's block scales and band scales are two. -/
def cmdTacks (s : State) (c : Cmd) : List Tack :=
  let own (sp : Bool) : Nat := if sp then c.panel else panelCtx s c.panel
  match c.kind with
  | .copy _ ssp dsp src dst rowlen nrows sstr dstr =>
    [⟨c.core, ssp, own ssp, false, src, sstr, rowlen, nrows, c.done⟩,
     ⟨c.core, dsp, own dsp, true, dst, dstr, rowlen, nrows, c.done⟩]
  | .qnt fmt d0 d1 d2 d3 =>
    let rows := fld d3 0 12
    let cols := fld d3 12 12
    let eb := rows * cols * qntBits fmt / 8
    let sb := qntBlocks fmt rows cols
    let scl := if bit d1 63 then fld d2 0 57 else (sext57 (fld d2 0 57)).toNat
    [⟨c.core, bit d0 63, own (bit d0 63), false, descAddr d0, fld d3 24 20, cols * (if fld d3 44 2 = 0 then 4 else 2), rows, c.read⟩,
     ⟨c.core, bit d1 63, own (bit d1 63), true, descAddr d1, 0, eb, 1, c.done⟩,
     ⟨c.core, bit d1 63, own (bit d1 63), true, scl, 0, sb, 1, c.done - eb⟩] ++
    (if fmt = 4 then [⟨c.core, bit d1 63, own (bit d1 63), true, scl + bandsAt rows cols, 0, bandBytes fmt rows, 1, c.done - eb - sb⟩] else [])
  | .ray bob desc _ =>
    if bob then [] else [⟨c.core, true, c.panel, true, fld (desc.getD 3 0) 0 21, 0, 2048, 1, 0⟩]
  | .seam .. => []

/-- TT, ROWS and COLS of a TCTL word (Table 2-3). -/
def tcTT (w : W64) : Nat := fld w 0 4
def tcRows (w : W64) : Nat := fld w 4 7
def tcCols (w : W64) : Nat := fld w 11 8

/-- Bytes of scales of an operand with `r` rows of `k` elements, the FB4 band scale apart (R143). -/
def scaleCount (sel r k : Nat) : Nat := r * ((k + (if sel = 2 then 8 else 32) - 1) / (if sel = 2 then 8 else 32))

/-- The scratchpad bytes a scale descriptor names for one operand: offset and length (R143). DESIGN CHOICE (log 119): they are one range,
with the byte between an odd count of FB4 block scales and the band scale in it. -/
def scaleRange (sel off r k : Nat) : Nat × Nat :=
  let n := scaleCount sel r k
  (off, if sel = 2 then (n + 1) / 2 * 2 + 2 else n)

/-- A scratchpad range of a matrix operation that does not shrink (R154): offset, row stride, row length, rows, whether it is
written. -/
structure MatRange where
  off    : Nat
  stride : Nat
  len    : Nat
  rows   : Nat
  out    : Bool
  deriving DecidableEq, Repr

/-- The scratchpad ranges of a matrix operation (R154). -/
def matRanges (m : MatOp) : List MatRange :=
  match m.kind with
  | .mma | .mmax | .mmaz =>
    if m.sel = 0 then [] else
    let k := tcCols m.tctlA
    let n := if m.kind = .mmax then tcCols m.tctlB else tcRows m.tctlB
    let a := scaleRange m.sel (fld m.scale 0 21) (tcRows m.tctlA) k
    let b := scaleRange m.sel (fld m.scale 32 21) n k
    [⟨a.1, 0, a.2, 1, false⟩, ⟨b.1, 0, b.2, 1, false⟩]
  | .xscanRow | .xscanCol =>
    let d0 := m.desc.getD 0 0
    let d2 := m.desc.getD 2 0
    let esz := if bit d2 37 then 4 else 8
    let cnt := fld d2 0 12
    let klen := fld d2 12 25
    let out : MatRange := ⟨fld (m.desc.getD 1 0) 0 21, 0, 2 * cnt, 1, true⟩
    if bit d0 63 then
      let rows := if m.kind = .xscanRow then cnt else klen
      let len := if m.kind = .xscanRow then klen * esz else cnt * esz
      [⟨fld d0 0 57, fld (m.desc.getD 3 0) 0 40, len, rows, false⟩, out]
    else [out]
  | .slmm => [⟨fld m.scale 0 21, 0, 2 * tcRows m.tctlA, 1, false⟩, ⟨fld m.scale 32 21, 0, 2 * tcRows m.tctlB, 1, false⟩]
  | .wrndF64 => [⟨m.off, 0, 8192, 1, true⟩]
  | .wrndF32 => [⟨m.off, 0, 4096, 1, true⟩]

/-- Every accepted matrix operation of a group whose batch has not completed, in issue order. -/
def allOps (g : Group) : List MatOp := g.batches.flatMap (·.ops) ++ g.openSet

/-- The tacks of a matrix operation of a group (R154). -/
def opTacks (g : Group) (m : MatOp) : List Tack :=
  (matRanges m).map (fun r => ⟨g.core, true, g.panel, r.out, r.off, r.stride, r.len, r.rows, 0⟩)

/-- The tacks of a group's matrix operations: those of an operation that the arrays have performed are released (R154; log 51). -/
def matTacks (g : Group) : List Tack := ((allOps g).filter (fun m => !m.done)).flatMap (opTacks g)

/-- Every group, the current one first. -/
def allGroups (s : State) : List Group := s.g :: s.others

/-- The live tacks of a core. -/
def tacksOf (s : State) (core : Nat) : List Tack :=
  ((s.cmds.filter (fun c => c.core == core)).flatMap (cmdTacks s)
    ++ ((allGroups s).filter (fun g => g.live && (g.resident || g.exited) && g.core == core)).flatMap matTacks)

/-- A thread access of a core touches a destination tack, or writes into a source tack (R235). -/
def tackHit (s : State) (core : Nat) (sp : Bool) (owner lo n : Nat) (store : Bool) : Bool :=
  (tacksOf s core).any (fun t =>
    t.sp == sp && t.owner == owner && (t.dst || store) && t.hits lo (lo + n))

end Sys2Proof.Machine
end

