-- ==== Sys2Proof/Machine/Check.lean ====
section
/-! DEFINITION. How an operation can end, and the checks every lane of a memory instruction passes before any lane is
performed (06 R188 to R191, Table 6-7; 07 R235). -/

namespace Sys2Proof.Machine

/-- A trap about to be taken (Table 8-8): cause, sub-code, code, lanes, address, and the address of the instruction that
raised it where that is not the one at the program counter. -/
structure TrapInfo where
  cause : Nat
  sub   : Nat
  code  : Nat := 0
  mask  : W64 := 0
  fault : W64 := 0
  first : Option W64 := none
  deriving DecidableEq, Repr

/-- How an operation ends: with a value, a trap, a fault that is fatal to the context, a blocking point, or a bounded stall
in which it has no effect. -/
inductive Res (α : Type) where
  | ok (a : α) (s : State)
  | trap (t : TrapInfo) (s : State)
  | fatal (cause sub : Nat) (addr : W64) (s : State)
  | block (b : Block) (s : State)
  | stall (s : State)
  deriving DecidableEq, Repr

/-- Go on with the value. -/
def Res.bind {α β : Type} (r : Res α) (f : α → State → Res β) : Res β :=
  match r with
  | .ok a s => f a s
  | .trap t s => .trap t s
  | .fatal c b a s => .fatal c b a s
  | .block b s => .block b s
  | .stall s => .stall s

/-- The rights an access needs (R190). -/
structure Need where
  r : Bool
  w : Bool
  deriving DecidableEq, Repr

def needR : Need := ⟨true, false⟩
def needW : Need := ⟨false, true⟩
def needRW : Need := ⟨true, true⟩

/-- The permission check of one leaf (R190): none when it passes, else the sub-code. -/
def permSub (w : Who) (need : Need) (pte : W64) : Option Nat :=
  if pteAddr pte / 2 ^ 48 = 3 ∧ w.priv = false then some 1
  else if (need.r && !bit pte 2) || (need.w && !bit pte 3) || (!w.priv && !bit pte 5) then some 1
  else if need.w && bit pte 10 then some 2
  else none

/-- A lane's address with what its walk found. -/
structure LaneWalk where
  lane : Nat
  va   : W64
  walk : Walk
  deriving DecidableEq, Repr

/-- Translate lanes in order. -/
def xlateAll (w : Who) : List (Nat × W64) → State → List LaneWalk × State
  | [], s => ([], s)
  | (i, va) :: r, s =>
    let (k, s1) := xlate s w va
    let (rest, s2) := xlateAll w r s1
    (⟨i, va, k⟩ :: rest, s2)

/-- The trap of the lanes that fail: TMASK holds them, TFAULT the address of the lowest (R191). -/
def laneTrap (cause sub : Nat) (bad : List (Nat × W64)) : TrapInfo :=
  { cause := cause, sub := sub, mask := maskOf (bad.map (·.1)), fault := (bad.head?.map (·.2)).getD 0 }

/-- A word of a line that an access reads, or writes in part, carries poison (R328): the L1's word where the L1 serves the access or
holds it dirty, else the word in storage. -/
def wordPoison (s : State) (w : Who) (p : Phys) (need : Need) (i : Nat) : Bool :=
  let key := if need.r then p.rkey else p.key
  match l1Get s (w.core / 4) p.line i with
  | some x =>
    if x.dirty || (!atHome s w p && (p.region != 2 || x.acc == windowNumber s p)) then x.poison
    else poisonAt s (key - key % 128 + 4 * i)
  | none => poisonAt s (key - key % 128 + 4 * i)

/-- An access of `n` bytes meets a poisoned word it reads, or writes only in part (R328). -/
def poisoned (s : State) (w : Who) (p : Phys) (n : Nat) (need : Need) : Bool :=
  (need.r || decide (n < 4)) && p.region != 3 && (wordsOf p n).any (wordPoison s w p need)

/-- The sub-code of an uncorrectable error that an access of `n` bytes meets (R328): 3 for a word of the L1, else that of its home. -/
def poisonSub (s : State) (w : Who) (p : Phys) (n : Nat) : Nat :=
  if (wordsOf p n).any (fun i => match l1Get s (w.core / 4) p.line i with | some x => x.poison | none => false) then 3
  else homeSub s p.rkey

/-- The physical places of lanes that have leaves, or the fatal fault that one of them meets: the physical-address fault
(R167), the link fault (R321, R324) or an uncorrectable error (R328). -/
def places (w : Who) (n : Nat) (need : Need) : List LaneWalk → State → Res (List (Nat × Phys))
  | [], s => .ok [] s
  | l :: r, s =>
    match l.walk with
    | .leaf pte base _ _ =>
      match physOf s (w.core / 48) pte base (l.va.toNat % 2 ^ 57) with
      | (none, _) => .fatal 0x22 0 l.va s
      | (some p, live) =>
        if !live || (p.region == 2 && need.w && peerNumber s p.key != 0) then .fatal 0x23 0 l.va s
        else if poisoned s w p n need then .fatal 0x28 (poisonSub s w p n) l.va s
        else
          (places w n need r s).bind fun ps s1 => .ok ((l.lane, p) :: ps) s1
    | _ => .fatal 0x22 0 l.va s

/-- The priorities of Table 6-7 before permission, over every lane (R191): address, alignment to `al`, translation. -/
def checkWalks (s : State) (w : Who) (al : Nat) (lanes : List (Nat × W64)) : Res (List LaneWalk) :=
  let bad1 := lanes.filter (fun l => !canonical l.2)
  if !bad1.isEmpty then .trap (laneTrap 0x03 0 bad1) s else
  let bad2 := lanes.filter (fun l => decide (l.2.toNat % al ≠ 0))
  if !bad2.isEmpty then .trap (laneTrap 0x04 0 bad2) s else
  let (ws, s1) := xlateAll w lanes s
  match ws.find? (fun l => l.walk == .format) with
  | some l => .fatal 0x21 0 l.va s1
  | none =>
  match ws.findSome? (fun l => match l.walk with | .poison sub => some (sub, l.va) | _ => none) with
  | some e => .fatal 0x28 e.1 e.2 s1
  | none =>
  let bad3 := (ws.filter (fun l => l.walk == .fault)).map (fun l => (l.lane, l.va))
  if !bad3.isEmpty then .trap (laneTrap 0x05 1 bad3) s1 else .ok ws s1

/-- The priorities of Table 6-7 over every lane (R191): those before permission, then permission. -/
def checkPerm (s : State) (w : Who) (al : Nat) (need : Need) (lanes : List (Nat × W64)) : Res (List LaneWalk) :=
  (checkWalks s w al lanes).bind fun ws s1 =>
  let denied := ws.filterMap (fun l =>
    match l.walk with
    | .leaf pte _ _ _ => (permSub w need pte).map (fun c => (l.lane, l.va, c))
    | _ => none)
  if !denied.isEmpty then
    let sub := if denied.any (fun d => d.2.2 == 1) then 1 else 2
    .trap (laneTrap 0x06 sub (denied.map (fun d => (d.1, d.2.1)))) s1
  else .ok ws s1

/-- An access through checked leaves gathers A and D (R195). -/
def gatherAll (w : Who) (need : Need) (lanes : List (Nat × W64)) (s : State) : State :=
  lanes.foldl (fun a l => gather a w.core w.tag (l.2.toNat % 2 ^ 57) need.w) s

/-- Check every lane, then gather A and D (R191, R195, Table 6-7): addresses, alignment, translation, permission, tacks. `n`
is the access size and `al` the alignment it needs; `ctx` names the address space for tacks. -/
def checkLanes (s : State) (w : Who) (ctx n al : Nat) (need : Need) (lanes : List (Nat × W64)) : Res (List (Nat × Phys)) :=
  (checkPerm s w al need lanes).bind fun ws s1 =>
  let bad := lanes.filter (fun l => tackHit s1 w.core false ctx l.2.toNat n need.w)
  if !bad.isEmpty then .trap (laneTrap 0x08 0 bad) s1 else
  (places w n need ws s1).bind fun ps s2 => .ok ps (gatherAll w need lanes s2)

/-! Accesses of many bytes: spans of addresses, each of a lane, checked page by page (R191, R336, R379, R419). -/

/-- A span of bytes that a lane touches. -/
structure Span where
  lane : Nat
  va   : W64
  len  : Nat
  deriving DecidableEq, Repr

/-- The first address a span touches in each unit of `u` bytes. -/
def Span.pieces (u : Nat) (x : Span) : List (Nat × W64) :=
  if x.len = 0 then [] else
  (List.range ((x.va.toNat % u + x.len + u - 1) / u)).map (fun i =>
    (x.lane, if i = 0 then x.va else x.va - BitVec.ofNat 64 (x.va.toNat % u) + BitVec.ofNat 64 (u * i)))

/-- Put a piece among pieces in rising order of lane and address, one for each lane and unit of `u` bytes. -/
def addPiece (u : Nat) (e : Nat × W64) : List (Nat × W64) → List (Nat × W64)
  | [] => [e]
  | x :: r =>
    if x.1 == e.1 && x.2.toNat / u == e.2.toNat / u then (x.1, if e.2.toNat < x.2.toNat then e.2 else x.2) :: r
    else if e.1 < x.1 || (e.1 == x.1 && decide (e.2.toNat < x.2.toNat)) then e :: x :: r
    else x :: addPiece u e r

/-- The pieces of spans: the smallest page has 64 KiB (Table 6-5), the unit of interleaving 4 KiB (R168). -/
def piecesOf (u : Nat) (l : List Span) : List (Nat × W64) := (l.flatMap (Span.pieces u)).foldl (fun a e => addPiece u e a) []

/-- The physical place of an address that has been checked. -/
def physAt (s : State) (w : Who) (va : W64) : Option Phys × State :=
  match xlate s w va with
  | (.leaf pte base _ _, s1) => ((physOf s1 (w.core / 48) pte base (va.toNat % 2 ^ 57)).1, s1)
  | (_, s1) => (none, s1)

/-- No word anywhere carries poison. -/
def poisonFree (s : State) : Bool :=
  s.poison.isEmpty && !s.l1.any (fun e => match e.2 with | some x => x.poison | none => false)

/-- A span of stores covers the whole 4-byte word that holds its byte `i`. -/
def Span.whole (x : Span) (i : Nat) : Bool :=
  let o := (x.va.toNat + i) % 4
  decide (o ≤ i ∧ i - o + 4 ≤ x.len)

/-- The address of a poisoned word that a span reads or writes in part, with the sub-code of R328. -/
def poisonIn (s : State) (w : Who) (need : Need) (l : List Span) : Option (W64 × Nat) :=
  if poisonFree s then none else
  (l.flatMap (fun x => ((List.range x.len).filter (fun i => need.r || !x.whole i)).map (fun i => x.va + BitVec.ofNat 64 i))).findSome? (fun va =>
    match (physAt s w va).1 with
    | some p => if poisoned s w p 1 need then some (va, poisonSub s w p 1) else none
    | none => none)

/-- The first byte of a span that meets a tack. -/
def tackByte (s : State) (w : Who) (ctx : Nat) (store : Bool) (x : Span) : Option (Nat × W64) :=
  if tackHit s w.core false ctx x.va.toNat x.len store then
    ((List.range x.len).find? (fun i => tackHit s w.core false ctx (x.va.toNat + i) 1 store)).map
      (fun i => (x.lane, x.va + BitVec.ofNat 64 i))
  else none

/-- The storage of spans whose pages have been checked: no uncorrectable error, and every 4 KiB unit, the grain of interleaving, is
physical memory (R167, R168, R328). -/
def spanPlaces (s : State) (w : Who) (need : Need) (l : List Span) : Res Unit :=
  match poisonIn s w need l with
  | some e => .fatal 0x28 e.2 e.1 s
  | none =>
    let (us, s1) := xlateAll w (piecesOf 4096 l) s
    (places w 4 ⟨false, need.w⟩ us s1).bind fun _ s2 => .ok () (gatherAll w need (piecesOf 65536 l) s2)

/-- Check every span before anything is performed (R191). -/
def checkSpans (s : State) (w : Who) (ctx : Nat) (need : Need) (l : List Span) : Res Unit :=
  (checkPerm s w 1 need (piecesOf 65536 l)).bind fun _ s1 =>
  let bad := (l.filterMap (tackByte s1 w ctx need.w)).foldl (fun a e => addPiece 65536 e a) []
  if !bad.isEmpty then .trap (laneTrap 0x08 0 bad) s1 else spanPlaces s1 w need l

/-- Load `n` bytes at a checked address. -/
def loadVa (w : Who) (n : Nat) (va : W64) (s : State) : List Byte × State :=
  match physAt s w va with
  | (some p, s1) => loadBytes s1 w p n
  | (none, s1) => (bytesOf n 0, s1)

/-- Load `k` words of `n` bytes from a checked address. -/
def loadVas (w : Who) (n : Nat) : Nat → W64 → State → List Byte × State
  | 0, _, s => ([], s)
  | k + 1, va, s =>
    let (bs, s1) := loadVa w n va s
    let (r, s2) := loadVas w n k (va + BitVec.ofNat 64 n) s1
    (bs ++ r, s2)

end Sys2Proof.Machine
end

