-- ==== Sys2Proof/Machine/Flags.lean ====
section
/-! DEFINITION. The sticky flags: FPSTAT (Table 4-5), MSTAT (Table 5-5) and SLSTAT (Table 5-9). A flag computation returns the
flags it raises; they are ORed into the register when the instruction completes (R78), and cleared only by a W1C write. -/

namespace Sys2Proof.Machine

/-- The flags an operation raises, in FPSTAT's bit order. -/
abbrev Fl := BitVec 6

def flNV : Fl := 1
def flDZ : Fl := 2
def flOF : Fl := 4
def flUF : Fl := 8
def flNX : Fl := 16
def flIS : Fl := 32

/-- A flag raised on a condition. -/
def flIf (c : Bool) (f : Fl) : Fl := if c then f else 0

/-- The OR of the flags of many lanes or elements (R122). -/
def flAll (l : List Fl) : Fl := l.foldl (fun a f => a ||| f) 0

/-- MSTAT's flags in its bit order (Table 5-5). -/
def msIOV : BitVec 3 := 1
def msNV : BitVec 3 := 2
def msOF : BitVec 3 := 4

/-- SLSTAT's flags in its bit order (Table 5-9). -/
def slEV : BitVec 6 := 1
def slNF : BitVec 6 := 2
def slAM : BitVec 6 := 4
def slOF : BitVec 6 := 8
def slUF : BitVec 6 := 16
def slNX : BitVec 6 := 32

/-- Clamp an exact integer result to a `w`-bit element, signed or unsigned, or wrap it (R421, R422); the second component
tells whether the clamp changed it. -/
def narrow (w : Nat) (signed sat : Bool) (x : Int) : Nat × Bool :=
  let lo : Int := if signed then -(2 ^ (w - 1) : Nat) else 0
  let hi : Int := if signed then (2 ^ (w - 1) : Nat) - 1 else (2 ^ w : Nat) - 1
  if sat then
    if x < lo then ((lo % (2 ^ w : Nat)).toNat, true)
    else if hi < x then ((hi % (2 ^ w : Nat)).toNat, true)
    else ((x % (2 ^ w : Nat)).toNat, false)
  else ((x % (2 ^ w : Nat)).toNat, false)

end Sys2Proof.Machine
end

