-- ==== Sys2Proof/Machine/Float.lean ====
section
/-! DEFINITION. Number formats (04 Tables 4-1, 4-2), exact values, the one rounding of every result (R120, R121), NaNs (R123 to
R126) and the elementary operations on them. -/

namespace Sys2Proof.Machine

/-- Which codes of a format are not finite numbers. -/
inductive FmtKind where
  | ieee   -- all-ones exponent: infinity or NaN
  | e4m3   -- one NaN code per sign, no infinity
  | e2m1   -- every code finite
  deriving DecidableEq, Repr

/-- A binary format: exponent bits, fraction bits, bias, and its special codes. -/
structure Fmt where
  eb   : Nat
  fb   : Nat
  bias : Nat
  kind : FmtKind
  deriving DecidableEq, Repr

def f64 : Fmt := ⟨11, 52, 1023, .ieee⟩
def f32 : Fmt := ⟨8, 23, 127, .ieee⟩
def f16 : Fmt := ⟨5, 10, 15, .ieee⟩
def bf16 : Fmt := ⟨8, 7, 127, .ieee⟩
def e5m2 : Fmt := ⟨5, 2, 15, .ieee⟩
def e4m3 : Fmt := ⟨4, 3, 7, .e4m3⟩
def e2m1 : Fmt := ⟨2, 1, 1, .e2m1⟩

/-- The width of a format. -/
def Fmt.width (f : Fmt) : Nat := 1 + f.eb + f.fb

/-- A value: a NaN with sign, quiet bit and payload, an infinity, or a signed finite magnitude. -/
inductive FVal where
  | nan (neg quiet : Bool) (payload : Nat)
  | inf (neg : Bool)
  | fin (neg : Bool) (mag : Rat)
  deriving DecidableEq, Repr

/-- A result: its bits and the flags it raises. -/
structure FRes where
  bits : Nat
  fl   : Fl
  deriving DecidableEq, Repr

/-- 2 to an integer power. -/
def pow2 (e : Int) : Rat := if 0 ≤ e then ((2 ^ e.toNat : Nat) : Rat) else mkRat 1 (2 ^ (-e).toNat)

/-- The value of a code (R113 to R115). A NaN of E4M3 has payload 1 (R126). -/
def decodeF (f : Fmt) (bits : Nat) : FVal :=
  let neg := bitsOf bits (f.eb + f.fb) 1 == 1
  let e := bitsOf bits f.fb f.eb
  let m := bitsOf bits 0 f.fb
  let fin : FVal :=
    if e = 0 then .fin neg ((m : Rat) * pow2 (1 - (f.bias : Int) - f.fb))
    else .fin neg (((2 ^ f.fb + m : Nat) : Rat) * pow2 ((e : Int) - f.bias - f.fb))
  match f.kind with
  | .ieee =>
    if e = 2 ^ f.eb - 1 then
      if m = 0 then .inf neg else .nan neg (bitsOf m (f.fb - 1) 1 == 1) (bitsOf m 0 (f.fb - 1))
    else fin
  | .e4m3 => if e = 15 ∧ m = 7 then .nan neg true 1 else fin
  | .e2m1 => fin

/-- The sign bit of a format. -/
def signBits (f : Fmt) (neg : Bool) : Nat := if neg then 2 ^ (f.eb + f.fb) else 0

/-- The code of the largest finite magnitude. -/
def maxCode (f : Fmt) : Nat :=
  match f.kind with
  | .ieee => (2 ^ f.eb - 1) * 2 ^ f.fb - 1
  | .e4m3 => 0x7E
  | .e2m1 => 7

/-- A quiet NaN in an IEEE-like format (R126). -/
def nanBits (f : Fmt) (neg : Bool) (payload : Nat) : Nat :=
  signBits f neg + (2 ^ f.eb - 1) * 2 ^ f.fb + 2 ^ (f.fb - 1) + payload % 2 ^ (f.fb - 1)

/-- An infinity in an IEEE-like format. -/
def infBits (f : Fmt) (neg : Bool) : Nat := signBits f neg + (2 ^ f.eb - 1) * 2 ^ f.fb

/-- The generated NaN of a cause (R123). -/
def genNaN (f : Fmt) (cause : Nat) : Nat := nanBits f false cause

/-- The rounding modes (Table 2-2). -/
inductive Rm where
  | ne | tz | up | dn | na
  deriving DecidableEq, Repr

/-- The mode of GMODE.RM's code; reserved codes never stand in GMODE and read as RNE. -/
def rmOf (c : Nat) : Rm := if c = 1 then .tz else if c = 2 then .up else if c = 3 then .dn else if c = 4 then .na else .ne

/-- The integer that n / d rounds to, for a magnitude with the given sign; the second component says it was inexact. -/
def roundQuot (rm : Rm) (neg : Bool) (n d : Nat) : Nat × Bool :=
  let k := n / d
  let r := n % d
  let up :=
    match rm with
    | .ne => decide (d < 2 * r) || (decide (2 * r = d) && k % 2 == 1)
    | .tz => false
    | .up => !neg && decide (0 < r)
    | .dn => neg && decide (0 < r)
    | .na => decide (d ≤ 2 * r)
  (if up && decide (0 < r) then k + 1 else k, decide (r ≠ 0))

/-- floor(log2 x) of a positive rational. -/
def log2Rat (x : Rat) : Int :=
  let e : Int := (Nat.log2 x.num.natAbs : Int) - (Nat.log2 x.den : Int)
  if x < pow2 e then e - 1 else e

/-- A magnitude rounded to a multiple of 2^q. -/
def roundAt (rm : Rm) (neg : Bool) (x : Rat) (q : Int) : Nat × Bool :=
  if 0 ≤ q then roundQuot rm neg x.num.natAbs (x.den * 2 ^ q.toNat)
  else roundQuot rm neg (x.num.natAbs * 2 ^ (-q).toNat) x.den

/-- The overflow result of Table 4-4. -/
def overflowBits (f : Fmt) (rm : Rm) (neg : Bool) : Nat :=
  match f.kind with
  | .ieee =>
    let toInf := match rm with | .ne | .na => true | .tz => false | .up => !neg | .dn => neg
    if toInf then infBits f neg else signBits f neg + maxCode f
  | _ => signBits f neg + maxCode f

/-- Round an exact magnitude with its sign once to a format (R120 to R122). -/
def roundF (f : Fmt) (rm : Rm) (neg : Bool) (x : Rat) : FRes :=
  if x = 0 then ⟨signBits f neg, 0⟩ else
  let emin : Int := 1 - f.bias
  let e := log2Rat x
  let q := max e emin - f.fb
  let (k, inexact) := roundAt rm neg x q
  let code := (q - (emin - f.fb)).toNat * 2 ^ f.fb + k
  if maxCode f < code then ⟨overflowBits f rm neg, flOF ||| flNX⟩
  else
    let tiny := decide (e < emin) &&
      !(decide (e = emin - 1) && decide ((roundAt rm neg x (e - f.fb)).1 = 2 ^ (f.fb + 1)))
    ⟨signBits f neg + code, flIf inexact flNX ||| flIf (inexact && tiny) flUF⟩

/-- A rational rounded with its own sign; an exact zero takes the given sign. -/
def roundSigned (f : Fmt) (rm : Rm) (zeroNeg : Bool) (x : Rat) : FRes :=
  if x = 0 then ⟨signBits f zeroNeg, 0⟩ else roundF f rm (decide (x < 0)) (if x < 0 then -x else x)

/-- The signed rational of a finite value. -/
def FVal.toRat : FVal → Rat
  | .fin neg m => if neg then -m else m
  | _ => 0

def FVal.isNaN : FVal → Bool
  | .nan _ _ _ => true
  | _ => false

def FVal.isSNaN : FVal → Bool
  | .nan _ q _ => !q
  | _ => false

def FVal.isInf : FVal → Bool
  | .inf _ => true
  | _ => false

def FVal.isZero : FVal → Bool
  | .fin _ m => m == 0
  | _ => false

def FVal.neg : FVal → Bool
  | .nan n _ _ => n
  | .inf n => n
  | .fin n _ => n

/-- The value with the opposite sign; a NaN keeps its sign. -/
def FVal.flip : FVal → FVal
  | .nan n q p => .nan n q p
  | .inf n => .inf (!n)
  | .fin n m => .fin (!n) m

/-- The first NaN of the operands, quieted, in a format (R124). -/
def firstNaN (f : Fmt) : List FVal → Option Nat
  | [] => none
  | .nan n _ p :: _ => some (nanBits f n p)
  | _ :: r => firstNaN f r

/-- NV when any operand is a signalling NaN (R124). -/
def snanFlag (l : List FVal) : Fl := flIf (l.any FVal.isSNaN) flNV

/-- A generated NaN with NV (R122, R123). -/
def invalid (f : Fmt) (cause : Nat) : FRes := ⟨genNaN f cause, flNV⟩

/-- The sum of two values that are not NaNs. -/
def sumF (f : Fmt) (rm : Rm) : FVal → FVal → FRes
  | .inf a, .inf b => if a = b then ⟨infBits f a, 0⟩ else invalid f 3
  | .inf a, _ => ⟨infBits f a, 0⟩
  | _, .inf b => ⟨infBits f b, 0⟩
  | x, y =>
    let zn := if x.isZero && y.isZero && x.neg == y.neg then x.neg else rm == .dn
    roundSigned f rm zn (x.toRat + y.toRat)

/-- a + b (R120, R121, R124). -/
def addF (f : Fmt) (rm : Rm) (a b : FVal) : FRes :=
  match firstNaN f [a, b] with
  | some n => ⟨n, snanFlag [a, b]⟩
  | none => sumF f rm a b

/-- a − b. -/
def subF (f : Fmt) (rm : Rm) (a b : FVal) : FRes :=
  match firstNaN f [a, b] with
  | some n => ⟨n, snanFlag [a, b]⟩
  | none => sumF f rm a b.flip

/-- a · b. -/
def mulF (f : Fmt) (rm : Rm) (a b : FVal) : FRes :=
  match firstNaN f [a, b] with
  | some n => ⟨n, snanFlag [a, b]⟩
  | none =>
    let neg := a.neg != b.neg
    if (a.isInf && b.isZero) || (a.isZero && b.isInf) then invalid f 4
    else if a.isInf || b.isInf then ⟨infBits f neg, 0⟩
    else roundSigned f rm neg (a.toRat * b.toRat)

/-- a · b + c, formed exactly and rounded once (R120). 0 × ∞ with a NaN c returns c quieted and sets NV (R123). -/
def fmaF (f : Fmt) (rm : Rm) (a b c : FVal) : FRes :=
  let inv := (a.isInf && b.isZero) || (a.isZero && b.isInf)
  match firstNaN f [a, b, c] with
  | some n => ⟨n, snanFlag [a, b, c] ||| flIf inv flNV⟩
  | none =>
    let neg := a.neg != b.neg
    if inv then invalid f 4
    else if a.isInf || b.isInf then
      match c with
      | .inf n => if n = neg then ⟨infBits f neg, 0⟩ else invalid f 3
      | _ => ⟨infBits f neg, 0⟩
    else
      match c with
      | .inf n => ⟨infBits f n, 0⟩
      | _ =>
        let pz := a.isZero || b.isZero
        let zn := if pz && c.isZero && neg == c.neg then neg else rm == .dn
        roundSigned f rm zn (a.toRat * b.toRat + c.toRat)

/-- The order of two values that are not NaNs, with −0 below +0 (R130). -/
def ltTotal : FVal → FVal → Bool
  | .inf a, .inf b => a && !b
  | .inf a, _ => a
  | _, .inf b => !b
  | x, y => decide (x.toRat < y.toRat) || (x.isZero && y.isZero && x.neg && !y.neg)

/-- minimumNumber or maximumNumber of two codes (R130): the bits of the result. -/
def minmaxF (f : Fmt) (isMax : Bool) (x y : Nat) : Nat :=
  let a := decodeF f x
  let b := decodeF f y
  if a.isNaN && b.isNaN then genNaN f 1
  else if a.isNaN then y
  else if b.isNaN then x
  else if isMax then (if ltTotal a b then y else x)
  else if ltTotal b a then y else x

/-- The flag of a minimum or maximum: a signalling NaN operand (R131), or the NaN generated for two NaNs (Table 4-5). -/
def minmaxFlag (a b : FVal) : Fl := snanFlag [a, b] ||| flIf (a.isNaN && b.isNaN) flNV

/-- The numeric order of two values that are not NaNs, zeros equal. -/
def ltF : FVal → FVal → Bool
  | .inf a, .inf b => a && !b
  | .inf a, _ => a
  | _, .inf b => !b
  | x, y => decide (x.toRat < y.toRat)

/-- Numeric equality of two values that are not NaNs, zeros equal. -/
def eqF : FVal → FVal → Bool
  | .inf a, .inf b => a == b
  | .inf _, _ => false
  | _, .inf _ => false
  | x, y => x.toRat == y.toRat

/-- A rational rounded to an integer, and whether it was inexact. -/
def roundInt (rm : Rm) (x : Rat) : Int × Bool :=
  let neg := decide (x < 0)
  let (k, ix) := roundQuot rm neg x.num.natAbs x.den
  (if neg then -(k : Int) else k, ix)

/-- Convert a value to a floating-point format (Table 4-7). -/
def toFmt (f : Fmt) (rm : Rm) (x : FVal) : FRes :=
  match f.kind, x with
  | .ieee, .nan n q p => ⟨nanBits f n p, flIf (!q) flNV⟩
  | .ieee, .inf n => ⟨infBits f n, 0⟩
  | .e4m3, .nan n q _ => ⟨signBits f n + 0x7F, flIf (!q) flNV⟩
  | .e4m3, .inf n => ⟨signBits f n + 0x7E, flOF⟩
  | .e2m1, .nan _ _ _ => ⟨0, flNV⟩
  | .e2m1, .inf n => ⟨signBits f n + 7, flOF⟩
  | _, .fin n m => roundF f rm n m

/-- Convert a value to a 32-bit integer, saturating (Table 4-8). -/
def toInt32 (signed : Bool) (rm : Rm) (x : FVal) : FRes :=
  let hi : Int := if signed then 2147483647 else 4294967295
  let lo : Int := if signed then -2147483648 else 0
  let enc (v : Int) : Nat := (v % 4294967296).toNat
  match x with
  | .nan _ _ _ => ⟨0, flNV⟩
  | .inf n => ⟨enc (if n then lo else hi), flNV⟩
  | .fin _ _ =>
    let (k, ix) := roundInt rm x.toRat
    if hi < k then ⟨enc hi, flNV⟩
    else if k < lo then ⟨enc lo, flNV⟩
    else ⟨enc k, flIf ix flNX⟩

/-- The FP32 value of a lane. -/
def v32 (x : W32) : FVal := decodeF f32 x.toNat

/-- The format of an element type code (Table 2-2), for the float types. -/
def etFmt (et : Nat) : Fmt := if et = 5 then f64 else if et = 6 then f16 else if et = 7 then bf16 else f32

end Sys2Proof.Machine
end

