-- ==== Sys2Proof/Machine/Ops.lean ====
section
/-! DEFINITION. The named operations over a group's registers (02 R61, 03 R97 to R102), event records (08 R272 to R274), the
kill of a context or panel (R244), and TAKING AN EXCEPTION (R264) as one shared operation. -/

namespace Sys2Proof.Machine

/-! Registers. -/

/-- A vector register of the current group. -/
def rdV (s : State) (n : Nat) : Lanes := cget (fun _ => zeroLanes) s.g.v n
/-- A scalar register of the current group. -/
def rdS (s : State) (n : Nat) : W64 := cget zero s.g.s n
/-- A tile control field of the current group. -/
def rdTctl (s : State) (n : Nat) : W64 := cget (fun _ => tctlReset) s.g.tctl n

/-- GMODE's fields (Table 2-2). -/
def gmMS (w : W64) : Nat := fld w 0 6
def gmET (w : W64) : Nat := fld w 6 4
def gmRM (w : W64) : Rm := rmOf (fld w 10 3)
def gmSAT (w : W64) : Bool := bit w 13
def gmSCB (w : W64) : Bool := bit w 14

/-- The effective mask: the scalar that MS names ANDed with EXMASK (R20). -/
def effMask (s : State) : W64 := rdS s (gmMS s.g.gmode) &&& s.g.exmask

/-- Partition fields of the current group's POOLPART (Table 2-6). -/
def partVR (w : W64) : Nat := fld w 0 5
def partSR (w : W64) : Nat := fld w 5 2
def partTR (w : W64) : Nat := fld w 7 4
def partSCR (w : W64) : Nat := fld w 11 6
def partACC (w : W64) : Nat := fld w 17 7
/-- Scratchpad bytes of a partition (R73). -/
def scrBytes (w : W64) : Nat := 65536 * partSCR w

/-- Two effects write one register. -/
def sameTarget : Effect → Effect → Bool
  | .vec a _, .vec b _ => a == b
  | .sca a _, .sca b _ => a == b
  | .mode _, .mode _ => true
  | .tctl a _, .tctl b _ => a == b
  | _, _ => false

/-- An effect takes place. -/
def applyEff (g : Group) : Effect → Group
  | .vec n ls =>
    let old := cget (fun _ => zeroLanes) g.v n
    let new := laneIdx.map (fun i => match ls.getD i none with | some x => x | none => laneOf old i)
    { g with v := cset (fun _ => zeroLanes) g.v n new }
  | .sca n x => { g with s := cset zero g.s n x }
  | .mode x => { g with gmode := x }
  | .tctl n x => { g with tctl := cset (fun _ => tctlReset) g.tctl n x }
  | .fp f => { g with fpstat := g.fpstat ||| f }

/-- Earlier pending writes of the same register take effect first (R100). -/
def flushTarget (g : Group) (e : Effect) : Group :=
  let g1 := (g.pend.filter (fun p => sameTarget p.eff e)).foldl (fun a p => applyEff a p.eff) g
  { g1 with pend := g1.pend.filter (fun p => !sameTarget p.eff e) }

/-- A fixed-latency effect becomes visible at issue distance `l` (R98). -/
def post (l : Nat) (e : Effect) (g : Group) : Group :=
  let g1 := flushTarget g e
  { g1 with pend := g1.pend ++ [⟨l, e⟩] }

/-- An interlocked result is written at once (R99). -/
def put (e : Effect) (g : Group) : Group := applyEff (flushTarget g e) e

/-- The group moves on by an issue distance: what has reached its distance takes effect, in program order (R97, R98). -/
def retire (d : Nat) (g : Group) : Group :=
  let g1 := (g.pend.filter (fun p => decide (p.left ≤ d))).foldl (fun a p => applyEff a p.eff) g
  { g1 with pend := (g1.pend.filter (fun p => !decide (p.left ≤ d))).map (fun p => { p with left := p.left - d }) }

/-- Every pending fixed-latency write completes (R102). -/
def completeAll (g : Group) : Group :=
  { g.pend.foldl (fun a p => applyEff a p.eff) g with pend := [] }

/-- The lanes of a masked vector result. -/
def masked (m : W64) (new : Nat → W32) : List (Option W32) :=
  laneIdx.map (fun i => if m.getLsbD i then some (new i) else none)

/-- Update the current group. -/
def onG (f : Group → Group) (s : State) : State := { s with g := f s.g }

/-- Advance the counter of free values. -/
def bump (s : State) : State := { s with free := s.free + 1 }

/-! Scratchpad, frames and tiles. -/

/-- The key of a scratchpad byte of a panel. -/
def scrKey (panel off : Nat) : Nat := panel * 2 ^ 21 + off
/-- The key of element word `i` of a frame of a panel. -/
def frameKey (panel frame i : Nat) : Nat := panel * 2 ^ 18 + frame * 4096 + i
/-- The key of a write pointer of a panel. -/
def wptrKey (panel ch : Nat) : Nat := panel * 8 + ch
/-- The key of a tile byte of a group. -/
def tileKey (t i : Nat) : Nat := t * 4096 + i

/-- The `n` scratchpad bytes of a panel from an offset up. -/
def scrRead (s : State) (panel off : Nat) : Nat → List Byte
  | 0 => []
  | n + 1 => cget zero s.scratch (scrKey panel off) :: scrRead s panel (off + 1) n

/-- Write scratchpad bytes of a panel from an offset up. -/
def scrWrite (s : State) (panel off : Nat) : List Byte → State
  | [] => s
  | b :: r => scrWrite { s with scratch := cset zero s.scratch (scrKey panel off) b } panel (off + 1) r

/-- Drop the storage of a panel. -/
def freePanelStore (s : State) (panel : Nat) : State :=
  { s with
    scratch := ckeep (fun k => decide (k / 2 ^ 21 ≠ panel)) s.scratch
    frames := ckeep (fun k => decide (k / 2 ^ 18 ≠ panel)) s.frames
    wptr := ckeep (fun k => decide (k / 8 ≠ panel)) s.wptr }

/-! Places and identities. -/

/-- The die of a core. -/
def coreDie (core : Nat) : Nat := core / 48
/-- HWLOC of a group (Table 2-8): die, cluster, core, slot. -/
def hwloc (g : Group) : W64 :=
  BitVec.ofNat 64 (coreDie g.core + g.core % 48 / 4 * 8 + g.core % 4 * 128 + g.slot * 512)

/-- Who the current group is to the memory system, with an instruction class (R86 CCLS). -/
def whoOf (g : Group) (alloc : BitVec 2) : Who :=
  { core := g.core, tag := fld g.vmctx 0 16, root := fld g.vmctx 17 35 * 2 ^ 17, priv := g.priv, quota := g.ccls, alloc := alloc }

/-- Update every group, the current one too. -/
def mapGroups (f : Group → Group) (s : State) : State := { s with g := f s.g, others := s.others.map f }

/-- Update the group with an id. -/
def onGroup (id : Nat) (f : Group → Group) (s : State) : State :=
  mapGroups (fun g => if g.live && g.id == id then f g else g) s

/-- A group takes part in the issue of its slot, its STALL count apart (R57). -/
def mayIssue (g : Group) : Bool := g.live && g.resident && !g.exited && !g.halted && g.block.isNone

/-- Make the first group that satisfies a test the current one. -/
def focus (p : Group → Bool) (s : State) : Option State :=
  if s.g.live && p s.g then some s else
  match s.others.find? (fun g => g.live && p g) with
  | none => none
  | some g =>
    let rest := s.others.filter (fun x => !(x.live && x.id == g.id))
    some { s with g := g, others := if s.g.live then s.g :: rest else rest }

/-! Event records. -/

/-- A record about a group (Table 8-12). QUEUE names the queue of its bolt; for a bobbin or fragment group it is open (log 16). -/
def groupRec (g : Group) (type cause sub code : Nat) (addr : W64) (wait : Bool) : EvRec :=
  { type := type, cause := cause, sub := sub
    queue := if g.kind = .bolt then fld g.bid 32 4 else (Config.recordQueue g.id).toNat
    die := coreDie g.core, code := code, bid := g.bid, addr := addr
    where_ := BitVec.ofNat 64 (fld g.pidx 0 48 + fld g.gid 0 4 * 2 ^ 48 + (hwloc g).toNat * 2 ^ 52)
    ctx := g.ctx, grp := if wait then some g.id else none }

/-- A context is halted (R274). -/
def halted (s : State) (c : Nat) : Bool := bit (rdWin s (ctxReg c 0x28)) 33

/-- A context is halted (R274): its groups issue nothing more, its panels stay with their state. -/
def haltCtx (c : Nat) (s : State) : State :=
  let o := ctxReg c 0x28
  mapGroups (fun g => if g.live && g.ctx == c then { g with halted := true } else g) (wrWin s o (setFld (rdWin s o) 33 1 1))

/-- A fatal record is dropped: FOVF is set, and the record's context is halted (R274). -/
def dropFatal (c : Nat) (s : State) : State := haltCtx c (wrWin s eqStat (setFld (rdWin s eqStat) 1 1 1))

/-- The records in a die's outbound buffer. -/
def bufferUse (s : State) (die : Nat) : Nat := (s.outbound.filter (fun r => r.die == die)).length

/-- The buffer of a compute die holds eight records (R273). -/
def bufferFull (s : State) (die : Nat) : Bool := decide (die < 8) && decide (8 ≤ bufferUse s die)

/-- Put a record into its die's outbound buffer (R273); none is posted for a halted context (R274). DEDUCED (log 27): a fatal record that
finds all eight entries taken, the reserved one too, is dropped as one that finds FATALPEND set. -/
def postRec (r : EvRec) (s : State) : State :=
  if halted s r.ctx then s
  else if r.type == 3 && bufferFull s r.die then dropFatal r.ctx s
  else { s with outbound := s.outbound ++ [r] }

/-- log2 of the event ring's size (Table 8-11). -/
def eventLog (s : State) : Nat :=
  let l := fld (rdWin s eqCtl) 0 5
  if 6 ≤ l ∧ l ≤ 16 then l else 6

/-- EQTAIL and EQHEAD. -/
def eventTail (s : State) : Nat := fld (rdWin s eqTail) 0 32
def eventHead (s : State) : Nat := fld (rdWin s eqHead) 0 32

/-- Free slots of the event ring; the counts are taken modulo 2^32. -/
def eventRoom (s : State) : Nat := 2 ^ eventLog s - (eventTail s + 2 ^ 32 - eventHead s) % 2 ^ 32

/-- A record that is not fatal may be posted: two of the eight entries of its die's buffer are free, and two slots of the queue
(R273). -/
def roomFor (s : State) (die : Nat) : Bool :=
  decide (bufferUse s die + 2 ≤ 8) && decide (2 ≤ eventRoom s)

/-! Spawn bins. -/

/-- A RAYQ.BOB command that will commit into a bin (R304). -/
def rayHolds (s : State) (b : Bin) : Bool :=
  s.cmds.any (fun c =>
    match c.kind with
    | .ray true desc _ =>
      coreDie c.core == b.die && panelCtx s c.panel == b.ctx &&
      (desc.getD 1 0 == b.entry || (desc.getD 2 0 != 0 && desc.getD 2 0 == b.entry))
    | _ => false)

/-- A bin exists while it holds a reservation or a committed record (R38). -/
def binHeld (s : State) (b : Bin) : Bool :=
  !b.recs.isEmpty || rayHolds s b ||
  (allGroups s).any (fun g => g.live && g.reserved.any (fun r => r.die == b.die && r.ctx == b.ctx && r.entry == b.entry))

/-- Free the bins that hold nothing (R38). -/
def cleanBins (s : State) : State := { s with bins := s.bins.filter (binHeld s) }

/-! Kills. -/

/-- Disable the queues that a context owns (R244). -/
def disableQueues (s : State) (c : Nat) : State :=
  (List.range 16).foldl (fun a n =>
    let q := rdWin a (queueReg n 0x10)
    if fld q 2 4 = c then wrWin a (queueReg n 0x10) (setFld q 0 1 0) else a) s

/-- Remove every group that satisfies a test. -/
def removeGroups (p : Group → Bool) (s : State) : State :=
  { s with
    g := if s.g.live && p s.g then Group.empty else s.g
    others := s.others.filter (fun g => g.live && !p g) }

/-- Kill a panel: its groups, its commands and its storage go, with the bins that are left with nothing (R38); a bolt that loses a
panel does not complete (R35, R244). -/
def killPanel (id : Nat) (s : State) : State :=
  let b := (panelOf s id).bind (·.bolt)
  let s1 := removeGroups (fun g => g.panel == id) s
  let s2 := freePanelStore { s1 with
    cmds := s1.cmds.filter (fun c => c.panel != id)
    panels := s1.panels.filter (fun p => p.id != id) } id
  cleanBins { s2 with bolts := s2.bolts.map (fun x =>
      if b = some (x.queue, x.seq) then { x with failed := true, completed := x.completed + 1 } else x) }

/-- Kill a context (R244): every panel with its work, its bins with their records (R39), its formed groups and passes; its
queues are disabled; a bolt that had a panel on the device does not complete (R35). -/
def killCtx (c : Nat) (s : State) : State :=
  let ids := (s.panels.filter (fun p => p.ctx == c)).map (·.id)
  let s1 := ids.foldl (fun a i => killPanel i a) s
  let s2 := removeGroups (fun g => g.ctx == c) s1
  disableQueues { s2 with
    bins := s2.bins.filter (fun b => b.ctx != c)
    formed := s2.formed.filter (fun f => f.ctx != c)
    passes := s2.passes.filter (fun p => p.ctx != c)
    bolts := s2.bolts.filter (fun b => !(b.ctx == c && b.failed)) } c

/-- A fault that is fatal to the context of the current group: the record, then the kill (Table 8-8, R244). -/
def fatalCtx (cause sub : Nat) (addr : W64) (s : State) : State :=
  killCtx s.g.ctx (postRec (groupRec s.g 3 cause sub 0 addr false) s)

/-- A fault that is fatal to the panel of the current group (Table 8-8). -/
def fatalPanel (cause sub : Nat) (addr : W64) (s : State) : State :=
  killPanel s.g.panel (postRec (groupRec s.g 3 cause sub 0 addr false) s)

/-! The save record and the trap operand block. -/

/-- The address of save record `r` of a context (R243). -/
def saveRec (s : State) (c r : Nat) : W64 :=
  sext57 (fld (rdWin s (ctxReg c 0x10)) 16 41 * 65536) + BitVec.ofNat 64 (r * 4194304)

/-- The place of an access of `n` bytes that the device makes for a group through the save-record mapping, or the cause and sub-code of
its fault: an address, translation or permission fault is the save-record fault, any other keeps its own cause (R258, R271,
Table 8-8). -/
def recPlace (s : State) (need : Need) (n : Nat) (va : W64) : (Phys ⊕ (Nat × Nat)) × State :=
  let w := { whoOf s.g 0 with priv := true }
  if !canonical va then (.inr (0x27, 0), s) else
  match xlate s w va with
  | (.leaf pte base _ _, s1) =>
    if (permSub w need pte).isSome then (.inr (0x27, 0), s1) else
    match physOf s1 (coreDie s.g.core) pte base (va.toNat % 2 ^ 57) with
    | (some p, true) =>
      if p.region == 2 && need.w && peerNumber s1 p.key != 0 then (.inr (0x23, 0), s1)
      else if poisoned s1 w p n need then (.inr (0x28, poisonSub s1 w p n), s1)
      else (.inl p, gather s1 w.core w.tag (va.toNat % 2 ^ 57) need.w)
    | (some _, false) => (.inr (0x23, 0), s1)
    | (none, _) => (.inr (0x22, 0), s1)
  | (.fault, s1) => (.inr (0x27, 0), s1)
  | (.format, s1) => (.inr (0x21, 0), s1)
  | (.poison sub, s1) => (.inr (0x28, sub), s1)

/-- A store of the operand block at a checked place. One to the register window takes effect next, before anything else (R311). -/
def recStore (p : Phys) (bs : List Byte) (s : State) : State :=
  if p.region = 3 ∧ bs.length = 8 then { s with lateWrites := s.lateWrites ++ [(p.key, BitVec.ofNat 64 (natOf bs))] }
  else storeBytes s (whoOf s.g 0) p bs

/-- Store words of `n` bytes in turn from an address of the operand block; the fault that a store meets. -/
def recStores (n : Nat) : List Nat → W64 → State → Option (Nat × Nat) × State
  | [], _, s => (none, s)
  | x :: r, va, s =>
    match recPlace s needW n va with
    | (.inr f, s1) => (some f, s1)
    | (.inl p, s1) => recStores n r (va + BitVec.ofNat 64 n) (recStore p (bytesOf n x) s1)

/-- Load `k` words of `n` bytes from an address of the operand block, or the fault that a load meets. -/
def recLoads (n : Nat) : Nat → W64 → State → (List Nat ⊕ (Nat × Nat)) × State
  | 0, _, s => (.inl [], s)
  | k + 1, va, s =>
    match recPlace s needR n va with
    | (.inr f, s1) => (.inr f, s1)
    | (.inl p, s1) =>
      let (bs, s2) := loadBytes s1 (whoOf s1.g 0) p n
      match recLoads n k (va + BitVec.ofNat 64 n) s2 with
      | (.inl l, s3) => (.inl (natOf bs :: l), s3)
      | (.inr f, s3) => (.inr f, s3)

/-- Write the captured vector sources of one entry (R271). -/
def storeVecs : List Lanes → W64 → State → Option (Nat × Nat) × State
  | [], _, s => (none, s)
  | v :: r, va, s =>
    match recStores 4 (laneIdx.map (fun i => (laneOf v i).toNat)) va s with
    | (some f, s1) => (some f, s1)
    | (none, s1) => storeVecs r (va + 256) s1

/-- Write the captured operands of the held instructions, entry e at RPLOP + 2,048 e (R271). -/
def storeOperands : List InFlight → W64 → State → Option (Nat × Nat) × State
  | [], _, s => (none, s)
  | e :: r, va, s =>
    match recStores 8 (e.scal.map (·.toNat)) va s with
    | (some f, s1) => (some f, s1)
    | (none, s1) =>
      match storeVecs e.vecs (va + 64) s1 with
      | (some f, s2) => (some f, s2)
      | (none, s2) => storeOperands r (va + 2048) s2

/-- Read back the vector sources of one entry. -/
def loadVecs : Nat → W64 → State → (List Lanes ⊕ (Nat × Nat)) × State
  | 0, _, s => (.inl [], s)
  | k + 1, va, s =>
    match recLoads 4 64 va s with
    | (.inr f, s1) => (.inr f, s1)
    | (.inl l, s1) =>
      match loadVecs k (va + 256) s1 with
      | (.inr f, s2) => (.inr f, s2)
      | (.inl r, s2) => (.inl (l.map (fun x => BitVec.ofNat 32 x) :: r), s2)

/-! Taking an exception. -/

/-- Post a record of type 2 for the current group and wait for the host (R264, R265, R273). `inHandler` is a TRAP of the
privileged view. Without room the group waits at kind 10 to post. -/
def postAndWait (code : Nat) (inHandler : Bool) (s : State) : State :=
  let size := if inHandler then 1 else 0
  let cause := if inHandler then 0x11 else fld s.g.tcause 0 8
  let sub := if inHandler then 0 else fld s.g.tcause 8 8
  if roomFor s (coreDie s.g.core) then
    let s1 := postRec (groupRec s.g 2 cause sub code s.g.tfault true) s
    onG (fun g => { g with block := some ⟨11, 0, 0, size⟩ }) s1
  else onG (fun g => { g with block := some ⟨10, 0, BitVec.ofNat 64 code, size⟩ }) s

/-- The replay entries of the held instructions; `own` says that the first of them raised the trap (R269, R270). -/
def replaysOf (t : TrapInfo) (own : Bool) (l : List InFlight) : List Replay :=
  (indexed 0 l).map (fun e =>
    { valid := true, pc := e.2.pc, word := e.2.word, ext := e.2.ext, mask := e.2.mask, tctl := e.2.tctl
      cause := if own && e.1 == 0 then BitVec.ofNat 8 t.cause else 0
      sub := if own && e.1 == 0 then BitVec.ofNat 8 t.sub else 0 })

/-- TCAUSE (Table 8-7). -/
def tcauseOf (t : TrapInfo) (nrpl : Nat) : W64 :=
  BitVec.ofNat 64 (t.cause % 256 + t.sub % 256 * 2 ^ 8 + nrpl % 32 * 2 ^ 16 + t.code % 128 * 2 ^ 32)

/-- The trap registers at entry (R264 steps 3 to 5): TPC is the address of the first instruction not issued, the group enters
the privileged view. TSAVE is written where the partition has s60 to s63. -/
def enterTrap (t : TrapInfo) (first : W64) (rpl : List Replay) (g : Group) : Group :=
  { g with
    tcause := tcauseOf t rpl.length, tfirst := first, tfault := t.fault, tpc := g.pc, tmask := t.mask
    tgmode := g.gmode
    tsave := if partSR g.part = 3 then
        csetAll zero g.tsave ((List.range 4).map (fun i => (i, cget zero g.s (60 + i)))) else g.tsave
    rplq := rpl, inflight := [], priv := true, waited := 0 }

/-- The jump to the handler (R264): GMODE is MS = 63 with every other field zero, s63 is TMASK, or EXMASK when TMASK is zero,
and the program counter is TVEC.ADDR. -/
def toHandler (g : Group) : Group :=
  { g with
    gmode := 63
    s := cset zero g.s 63 (if g.tmask = 0 then g.exmask else g.tmask)
    pc := sext57 (fld g.tvec 0 57) }

/-- The number of a group's issue slot. -/
def slotNo (g : Group) : Nat := g.core * 4 + g.slot

/-- The stall of the current group's issue slot ends (R230). -/
def endSlotStall (s : State) : State := { s with slotHeld := s.slotHeld.filter (fun e => e.1 != slotNo s.g) }

/-- TAKE AN EXCEPTION (R264, R268, R271): pending writes complete, the held instructions take replay entries with their
operands in the operand block, the trap registers are written, and the group goes to its handler, or to the host where the
handler is off or the partition has fewer than 64 scalars. A cause raised in the privileged view is fatal (R268), and so is a fault on
the operand block. A trap ends the stall of the group's issue slot (R230). -/
def takeTrap (t : TrapInfo) (own : Bool) (s : State) : State :=
  if s.g.priv then fatalCtx 0x26 0 t.fault s else
  let s1 := onG completeAll (endSlotStall s)
  match storeOperands s1.g.inflight s1.g.rplop s1 with
  | (some f, s2) => fatalCtx f.1 f.2 s2.g.rplop s2
  | (none, s2) =>
    let s3 := onG (enterTrap t (t.first.getD s2.g.pc) (replaysOf t own s2.g.inflight)) s2
    if bit s3.g.tvec 63 && partSR s3.g.part == 3 then onG toHandler s3
    else postAndWait t.code false s3

/-! Returning from an exception. -/

/-- The source registers that a held instruction captures, in the order D, A, B, C (R271). -/
def sourcesOf (i : Instr) : List Run := (runs 0 i).filter (fun r => r.src && (r.file == .s || r.file == .v))

/-- How many scalars and how many vectors the instruction of two words captures. -/
def capturedBy (w x : W32) : Nat × Nat :=
  match decode w x with
  | .instr i _ =>
    (((sourcesOf i).filter (fun r => r.file == .s)).foldl (fun a r => a + r.count) 0,
     ((sourcesOf i).filter (fun r => r.file == .v)).foldl (fun a r => a + r.count) 0)
  | .illegal _ => (0, 0)

/-- The valid replay entries as issued instructions, with the operands of the operand block as they stand (R266, R271), or the fault
that a load of the block meets. -/
def reload : List (Nat × Replay) → State → (List InFlight ⊕ (Nat × Nat)) × State
  | [], s => (.inl [], s)
  | (e, r) :: rest, s =>
    if !r.valid then reload rest s else
    let n := capturedBy r.word r.ext
    let va := s.g.rplop + BitVec.ofNat 64 (2048 * e)
    match recLoads 8 n.1 va s with
    | (.inr f, s1) => (.inr f, s1)
    | (.inl sc, s1) =>
      match loadVecs n.2 (va + 64) s1 with
      | (.inr f, s2) => (.inr f, s2)
      | (.inl vs, s2) =>
        match reload rest { s2 with nextId := s2.nextId + 1 } with
        | (.inr f, s3) => (.inr f, s3)
        | (.inl l, s3) =>
          (.inl ({ id := s2.nextId, pc := r.pc, word := r.word, ext := r.ext, mask := r.mask
                   scal := sc.map (fun x => BitVec.ofNat 64 x), vecs := vs, tries := 0, lost := false
                   overdue := false, tctl := r.tctl, olds := [], done := false } :: l), s3)

/-- The effect writes a register that the return from an exception restores: GMODE, and s60 to s63 where the partition has them. -/
def restoredBy (part : W64) : Effect → Bool
  | .mode _ => true
  | .sca n _ => partSR part == 3 && decide (60 ≤ n)
  | _ => false

/-- The group leaves its handler (R266): GMODE from TGMODE, s60 to s63 from TSAVE where the partition has them (R264), after any earlier
write of them (R100), the unprivileged view, the re-injected instructions, and issue at TPC. -/
def leaveTrap (l : List InFlight) (g : Group) : Group :=
  { g with
    pend := g.pend.filter (fun p => !restoredBy g.part p.eff)
    gmode := g.tgmode
    s := if partSR g.part = 3 then
        csetAll zero g.s ((List.range 4).map (fun i => (60 + i, cget zero g.tsave i))) else g.s
    priv := false, inflight := l, pc := g.tpc, block := none, waited := 0 }

/-- Change every accepted matrix operation of a group. -/
def mapOps (f : MatOp → MatOp) (g : Group) : Group :=
  { g with openSet := g.openSet.map f, batches := g.batches.map (fun b => { b with ops := b.ops.map f }) }

/-- A pause is over unless its fault is still held (R236, R263). -/
def unpause (held : List HeldFault) (p : Option W64) : Option W64 :=
  if held.any (fun h => p == some h.addr) then p else none

/-- Commands and matrix operations of the current group that paused at a fault go on (R236, R263). -/
def resumeCmds (s : State) : State :=
  onG (mapOps (fun m => { m with paused := unpause s.g.held m.paused })) { s with
    cmds := s.cmds.map (fun c => if c.grp = s.g.id then { c with paused := unpause s.g.held c.paused } else c) }

/-- RETURN FROM AN EXCEPTION (R266), for RFE and for the host's answer with ACT 0 (R274). A fault on the operand block is fatal
(R271). -/
def returnFromTrap (s : State) : State :=
  match reload (indexed 0 s.g.rplq) s with
  | (.inr f, s1) => fatalCtx f.1 f.2 s1.g.rplop s1
  | (.inl l, s1) => resumeCmds (onG (leaveTrap l) s1)

/-- Make the group that was current in an earlier state the current one again, where it still lives. -/
def refocus (old s : State) : State := ((if old.g.live then focus (fun g => g.id == old.g.id) s else none)).getD s

/-- Act on the group with an id as the current one, and then go back to the group that was current. -/
def withGroup (id : Nat) (f : State → State) (s : State) : State :=
  match focus (fun g => g.id == id) s with
  | none => s
  | some s1 => refocus s (f s1)

/-- Whether a block is one of kinds 1 to 7, whose leaving refills the waiting budget (R260, R261). -/
def chargedKind (b : Block) : Bool := decide (1 ≤ b.kind ∧ b.kind ≤ 7)

/-- The group leaves a blocking point without its condition: a fault is delivered there; leaving kinds 1 to 7 starts RUNCNT again
(R260). -/
def offPoint (g : Group) : Group :=
  { g with block := none, waited := 0, runcnt := if g.block.any chargedKind then 0 else g.runcnt }

/-- WAITBUD of a CTXBUD word, in clocks (Table 8-1). -/
def waitClocks (bud : W64) : W64 := BitVec.ofNat 64 (max 1 (fld bud 16 24) * 4096)

/-- The CTXBUD word that governs a group: the one its panel was placed under (R241). -/
def budOf (s : State) (g : Group) : W64 := ((panelOf s g.panel).map (·.bud)).getD (rdWin s (ctxReg g.ctx 8))

/-- The waiting budget of a group (R261). -/
def waitBudget (s : State) (g : Group) : W64 := waitClocks (budOf s g)

/-- A group leaves its blocking point because its condition is met (R260, R261); it is ready from now on (R57). -/
def unblock (s : State) : State :=
  match s.g.block with
  | some b =>
    if chargedKind b then onG (fun g => { g with block := none, waited := 0, runcnt := 0, wbudget := waitBudget s g }) s
    else onG (fun g => { g with block := none, waited := 0 }) s
  | none => s

end Sys2Proof.Machine
end

