-- ==== Sys2Proof/Machine/Registers.lean ====
section
/-! DEFINITION. Writes of the register window with what they set off (10 R311 to R314; 08 R241, R254, R261, R274): the owner
rules, the context's STOP, PREEMPT and KILL, and the host's answers. -/

namespace Sys2Proof.Machine

/-- The offset of a block's BLKCTL (R312). -/
def blkctlOff (base : Nat) : Nat := if base < 0x100_0000 then base + 0xF_FFF8 else base + 0xFFF8

/-- The owner of the block with a base: the Identity block belongs to the management port (Table 10-1). -/
def ownerOf (s : State) (base : Nat) : Master :=
  if base = 0 then .mgmt else if bit (rdWin s (blkctlOff base)) 0 then .mgmt else .host

/-- A master may write a register (R312, R313). -/
def mayWrite (s : State) (o : Nat) (m : Master) : Bool :=
  match blockOf o with
  | some base => ownerOf s base == m && !(o == modidOff && !s.accs.isEmpty)
  | none => false

/-- The value a performed write leaves (Table 0-4). -/
def written (r : Reg) (old v : W64) : W64 := (old &&& ~~~(regRw r) &&& ~~~(v &&& regW1c r)) ||| (v &&& regRw r)

/-- Writing 1 to STOP resumes a context: every group's waiting budget is refilled (R261). -/
def ctxResume (c : Nat) (s : State) : State :=
  let o := ctxReg c 0x28
  let s1 := wrWin { s with snapped := s.snapped.filter (fun x => x != c) } o (setFld (rdWin s o) 32 1 0)
  mapGroups (fun g => if g.live && g.ctx == c then { g with wbudget := waitBudget s g } else g) s1

/-- A pre-emption request targets every panel of a context (R254). -/
def ctxPreemptAll (c : Nat) (s : State) : State :=
  { s with panels := s.panels.map (fun p => if p.ctx == c then { p with request := some .host } else p) }

/-- The host kills a context; a kill ends a halt (R244, R274), and leaves STOP to be cleared by writing it (Table 8-1). -/
def ctxKillNow (c : Nat) (s : State) : State :=
  let s1 := killCtx c { s with snapped := s.snapped.filter (fun x => x != c) }
  let o := ctxReg c 0x28
  wrWin s1 o (setFld (rdWin s1 o) 33 1 0)

/-- The group that a record's index names goes on: as RFE at trap entry, or after its TRAP (R274). -/
def resumeGroup (s : State) : State :=
  match s.g.block with
  | some b => if b.kind = 11 then (if b.size = 0 then returnFromTrap s else onG (fun g => { g with block := none, waited := 0 }) s) else s
  | none => s

/-- The host's answer to a record (R274); an index that names no waiting record is ignored. -/
def answer (index act : Nat) (s : State) : State :=
  match s.waiting.find? (fun w => w.1 == index) with
  | none => s
  | some w =>
    if act = 0 then
      withGroup w.2 resumeGroup { s with waiting := s.waiting.filter (fun x => !(x == w)) }
    else if act = 1 then
      let s1 := { s with waiting := s.waiting.filter (fun x => !(x == w)) }
      match (allGroups s).find? (fun g => g.live && g.id == w.2) with
      | some g => ctxKillNow g.ctx s1
      | none => s1
    else s

/-- What a performed write sets off besides the value it leaves. -/
def writeEffects (r : Reg) (v : W64) (s : State) : State :=
  match r with
  | .ctx c rr =>
    if rr = 0x28 then
      let s1 := if bit v 32 then ctxResume c s else s
      let s2 := if bit v 34 then ctxPreemptAll c s1 else s1
      if bit v 35 then ctxKillNow c s2 else s2
    else s
  | .eq rr => if rr = 0x28 then answer (fld v 0 32) (fld v 32 2) s else s
  | _ => s

/-- A write of `n` bytes to a window offset by a master (R311, R312): performed, or logged and lost. -/
def winWrite (o n : Nat) (v : W64) (m : Master) (s : State) : State :=
  match regAt o with
  | some r =>
    if n = 8 ∧ mayWrite s o m then writeEffects r v (wrWin s o (written r (rdWin s o) v))
    else logRefused s o m
  | none => logRefused s o m

end Sys2Proof.Machine
end

