-- ==== Sys2Proof/Machine/Device.lean ====
section
/-! DEFINITION. Accesses of the device itself: the dispatcher, IOD0 and the engines' pool accesses use a context's tables through the
translation cache of IOD0 (06 R195 to R197, 12 R365), and act at the homes. -/

namespace Sys2Proof.Machine

/-- The root and tag of a context (Table 8-1). -/
def ctxRoot (s : State) (c : Nat) : Nat := fld (rdWin s (ctxReg c 0)) 17 35 * 2 ^ 17
def ctxTag (s : State) (c : Nat) : Nat := fld (rdWin s (ctxReg c 0)) 0 16

/-- The device as IOD0 makes an access for a context: its translation cache stands beside the cores' TLBs as core 384. -/
def iodWho (s : State) (c : Nat) : Who :=
  { core := 384, tag := ctxTag s c, root := ctxRoot s c, priv := true, quota := 0, alloc := 0 }

/-- An access of `n` bytes at the home reads a poisoned word, or writes it only in part (R328). -/
def homePoisoned (s : State) (p : Phys) (n : Nat) (need : Need) : Bool :=
  (need.r || decide (n < 4)) && p.region != 3 && (List.range ((n + 3) / 4)).any (fun i => poisonAt s (p.rkey + 4 * i))

/-- How a device access ends: a place, or the cause and sub-code of Table 8-8 that a group's access would meet. -/
inductive DevAcc where
  | place (p : Phys)
  | fault (cause sub : Nat)
  deriving DecidableEq, Repr

/-- Translate and check one device access through a context's tables (R32, R36, R246, R258, R272). A request that was lost has been
reissued by the time it is performed (R200; log 74). -/
def devAccess (s : State) (c die n : Nat) (need : Need) (va : W64) : DevAcc × State :=
  let w := iodWho s c
  if !canonical va then (.fault 0x03 0, s)
  else if va.toNat % n ≠ 0 then (.fault 0x04 0, s)
  else
    match xlate s w va with
    | (.leaf pte base _ _, s1) =>
      match permSub w need pte with
      | some c => (.fault 0x06 c, s1)
      | none =>
        match physOf s1 die pte base (va.toNat % 2 ^ 57) with
        | (some p, true) =>
          if p.region == 2 && need.w && peerNumber s1 p.key != 0 then (.fault 0x23 0, s1)
          else if homePoisoned s1 p n need then (.fault 0x28 (homeSub s1 p.rkey), s1)
          else (.place p, gather (answered (.ioPort c) s1) w.core w.tag (va.toNat % 2 ^ 57) need.w)
        | (some _, false) => (.fault 0x23 0, s1)
        | (none, _) => (.fault 0x22 0, s1)
    | (.fault, s1) => (.fault 0x05 1, s1)
    | (.format, s1) => (.fault 0x21 0, s1)
    | (.poison sub, s1) => (.fault 0x28 sub, s1)

/-- A number that no cluster has: the device itself, which holds no lines. -/
def noCluster : Nat := 96

/-- Read `n` bytes at their home for the device; host memory is read coherently with the clusters (log 20), and the register window as a
device program reads it (R311; log 89). -/
def devRead (s : State) (p : Phys) (n : Nat) : List Byte × State :=
  if p.region = 3 then
    if n = 8 ∧ (regAt p.key).isSome then (bytesOf 8 (rdWin s p.key).toNat, s) else (bytesOf n 0, logRefused s p.key .host)
  else
    let s1 := touch (hostReady s noCluster p false) p.rkey 0 0 false
    (homeBytes s1 p n, s1)

/-- Write bytes at their home for the device; the register window is written as a device program writes it. -/
def devWrite (s : State) (p : Phys) (bs : List Byte) : State :=
  if p.region = 3 then winWrite p.key bs.length (BitVec.ofNat 64 (natOf bs)) .host s
  else if p.rp then replicaWrite s p.key bs 0 0
  else homeWrite (hostReady s noCluster p true) p.key bs 0 0 none

/-- Read `n` bytes at a virtual address of a context. -/
def devLoad (s : State) (c die n : Nat) (va : W64) : (List Byte ⊕ (Nat × Nat)) × State :=
  match devAccess s c die n needR va with
  | (.place p, s1) => let (bs, s2) := devRead s1 p n; (.inl bs, s2)
  | (.fault k b, s1) => (.inr (k, b), s1)

/-- Write bytes at a virtual address of a context; the cause and sub-code where it faults. -/
def devStore (s : State) (c die : Nat) (va : W64) (bs : List Byte) : Option (Nat × Nat) × State :=
  match devAccess s c die bs.length needW va with
  | (.place p, s1) => (none, devWrite s1 p bs)
  | (.fault k b, s1) => (some (k, b), s1)

/-- Read `k` 64-bit words from a virtual address of a context. -/
def devLoad8s (s : State) (c die : Nat) (va : W64) : Nat → (List W64 ⊕ ((Nat × Nat) × W64)) × State
  | 0 => (.inl [], s)
  | k + 1 =>
    match devLoad s c die 8 va with
    | (.inr e, s1) => (.inr (e, va), s1)
    | (.inl bs, s1) =>
      match devLoad8s s1 c die (va + 8) k with
      | (.inl r, s2) => (.inl (BitVec.ofNat 64 (natOf bs) :: r), s2)
      | (.inr e, s2) => (.inr e, s2)

end Sys2Proof.Machine
end

