-- ==== Sys2Proof/Machine/Operands.lean ====
section
/-! DEFINITION. Operand forms: the elements of a lane by GMODE.ET (R114), immediates (R82, R83), broadcast scalars (R84),
modifiers (R85), scalar B operands (R399), memory addresses (R92, R188), and how element results go back into registers. -/

namespace Sys2Proof.Machine

/-- GMODE.ET of the current group. -/
def etOf (s : State) : Nat := gmET s.g.gmode

/-- The element type holds two 16-bit elements in a lane (R114). -/
def packed (et : Nat) : Bool := et == 2 || et == 3 || et == 6 || et == 7

/-- The element width (R421). -/
def elemBits (et : Nat) : Nat := if et = 5 then 64 else if packed et then 16 else 32

/-- The elements of a 32-bit value. -/
def splitWord (et : Nat) (x : W32) : List Nat :=
  if packed et then [x.toNat % 65536, x.toNat / 65536] else [x.toNat]

/-- The elements of lane `i` of vector register `n`, or of the pair vn, vn+1 under FP64 (R63). -/
def regElems (s : State) (et n i : Nat) : List Nat :=
  if et = 5 then [(pair64 (laneOf (rdV s n) i) (laneOf (rdV s (n + 1)) i)).toNat]
  else splitWord et (laneOf (rdV s n) i)

/-- A binary32 immediate widened exactly to binary64; a NaN keeps its sign and quiet bit (R83, R126). -/
def widenImm (x : Nat) : Nat :=
  match decodeF f32 x with
  | .nan n q p => signBits f64 n + 2047 * 2 ^ 52 + (if q then 2 ^ 51 else 0) + p
  | .inf n => infBits f64 n
  | .fin n m => (roundF f64 .ne n m).bits

/-- The elements of an immediate B operand (R83). -/
def immElems (et : Nat) (v : BitVec 30) : List Nat :=
  if et = 5 then [widenImm v.toNat] else splitWord et (v.setWidth 32)

/-- The elements of a broadcast scalar (R84). -/
def castElems (et : Nat) (hi : Bool) (x : W64) : List Nat :=
  if et = 5 then [x.toNat] else splitWord et (if hi then hi32 x else lo32 x)

/-- The elements of the B operand in lane `i`, before modifiers. -/
def elemsB (s : State) (et : Nat) (o : Opnd) (i : Nat) : List Nat :=
  match o.x with
  | .imm v => immElems et v
  | .bro k => if k.bsc then castElems et k.bhi (rdS s o.b.toNat) else regElems s et o.b.toNat i
  | _ => regElems s et o.b.toNat i

/-- The elements of the C operand in lane `i`. -/
def elemsC (s : State) (et : Nat) (o : Opnd) (i : Nat) : List Nat :=
  match o.x with
  | .bro k => regElems s et k.c.toNat i
  | _ => []

/-- The modifier bits of a source (R85): absolute value, then negation. -/
structure Mods where
  neg : Bool
  abs : Bool
  deriving DecidableEq, Repr

def modsA (o : Opnd) : Mods := match o.x with | .bro k => ⟨k.na, k.aa⟩ | _ => ⟨false, false⟩
def modsB (o : Opnd) : Mods := match o.x with | .bro k => ⟨k.nb, k.ab⟩ | _ => ⟨false, false⟩
def modsC (o : Opnd) : Mods := match o.x with | .bro k => ⟨k.nc, k.ac⟩ | _ => ⟨false, false⟩

/-- A `w`-bit element read as signed or unsigned. -/
def intVal (w : Nat) (signed : Bool) (x : Nat) : Int := if signed then sextNat w x else ((x % 2 ^ w : Nat) : Int)

/-- The element value of an exact integer, by wrapping or saturating, read back as signed or unsigned; and whether it
saturated. -/
def settleInt (w : Nat) (signed sat : Bool) (x : Int) : Int × Bool :=
  let r := narrow w signed sat x
  (intVal w signed r.1, r.2)

/-- The modifiers on an integer element (R85): its value, and whether a step saturated. -/
def modInt (w : Nat) (signed sat : Bool) (m : Mods) (x : Nat) : Int × Bool :=
  let v := intVal w signed x
  let (a, f1) := if m.abs && signed && decide (v < 0) then settleInt w signed sat (-v) else (v, false)
  let (b, f2) := if m.neg then settleInt w signed sat (-a) else (a, false)
  (b, f1 || f2)

/-- The modifiers on a float element act on its sign bit (R85). -/
def modFloat (f : Fmt) (m : Mods) (x : Nat) : Nat :=
  let mag := x % 2 ^ (f.eb + f.fb)
  let s := x / 2 ^ (f.eb + f.fb) % 2
  let s1 := if m.abs then 0 else s
  let s2 := if m.neg then 1 - s1 else s1
  s2 * 2 ^ (f.eb + f.fb) + mag

/-- The B operand of a scalar instruction: a sign-extended immediate or sB (R82, R399). -/
def scalarB (s : State) (o : Opnd) : W64 :=
  match o.x with
  | .imm v => v.signExtend 64
  | _ => rdS s o.b.toNat

/-- The C operand of SMAD, SSEL and VSEL. -/
def scalarC (s : State) (o : Opnd) : W64 :=
  match o.x with
  | .bro k => rdS s k.c.toNat
  | _ => 0

/-- The displacement of an address-taking instruction (R87, R92). -/
def dispOf (o : Opnd) : W64 :=
  match o.x with
  | .imm v => v.signExtend 64
  | .par k => k.val.signExtend 64
  | _ => 0

/-! Element results. -/

/-- The element results of the active lanes: the elements and the flags each lane raises. -/
abbrev LaneRes := List (Option (List Nat × Fl))

/-- Compute every active lane. -/
def perLane (m : W64) (f : Nat → List Nat × Fl) : LaneRes :=
  laneIdx.map (fun i => if m.getLsbD i then some (f i) else none)

/-- The low (or only) word of a lane's elements. -/
def packLo (et : Nat) (l : List Nat) : W32 :=
  if packed et then BitVec.ofNat 32 (l.getD 0 0 % 65536 + l.getD 1 0 % 65536 * 65536) else BitVec.ofNat 32 (l.getD 0 0)

/-- The high word of an FP64 element. -/
def packHi (l : List Nat) : W32 := BitVec.ofNat 32 (l.getD 0 0 / 2 ^ 32)

/-- The OR of the flags of the active lanes (R122). -/
def resFlags (r : LaneRes) : Fl := flAll (r.map (fun x => match x with | some p => p.2 | none => 0))

/-- Post flags at distance `l`, if any are raised. -/
def postFlags (l : Nat) (f : Fl) (g : Group) : Group := if f = 0 then g else post l (.fp f) g

/-- Post an element result into vD, or vD and vD+1 under FP64, with its flags, at distance `l` (R98); with no active lane nothing is
written (R18). -/
def postLanes (l et d : Nat) (r : LaneRes) (g : Group) : Group :=
  if r.all (fun x => x.isNone) then g else
  let lo := Effect.vec d (r.map (Option.map (fun p => packLo et p.1)))
  let g1 := post l lo g
  let g2 := if et = 5 then post l (.vec (d + 1) (r.map (Option.map (fun p => packHi p.1)))) g1 else g1
  postFlags l (resFlags r) g2

/-- Write an interlocked element result with its flags (R99); with no active lane nothing is written (R18). -/
def putLanes (et d : Nat) (r : LaneRes) (g : Group) : Group :=
  if r.all (fun x => x.isNone) then g else
  let g1 := put (.vec d (r.map (Option.map (fun p => packLo et p.1)))) g
  let g2 := if et = 5 then put (.vec (d + 1) (r.map (Option.map (fun p => packHi p.1)))) g1 else g1
  { g2 with fpstat := g2.fpstat ||| resFlags r }

/-- vD as an instruction that writes some of its bits finds the others: an earlier pending write of vD takes effect first (R100, log 84). -/
def keptV (s : State) (d : Nat) : List W32 := rdV (onG (fun g => flushTarget g (.vec d [])) s) d

/-- sD as an instruction that writes some of its bits finds the others (R100, log 84). -/
def keptS (s : State) (d : Nat) : W64 := rdS (onG (fun g => flushTarget g (.sca d 0)) s) d

/-- Zip the elements of up to three operands. -/
def elems3 (a b c : List Nat) : List (Nat × Nat × Nat) :=
  (indexed 0 a).map (fun e => (e.2, b.getD e.1 0, c.getD e.1 0))

/-- The element type of an integer instruction is signed (R421). -/
def etSigned (et : Nat) : Bool := et == 0 || et == 2

/-- A vector integer operation with modifiers and saturation, one lane (R422). -/
def intLane (s : State) (o : Opnd) (sats : Bool) (f : Int → Int → Int → Int) (i : Nat) : List Nat × Fl :=
  let et := etOf s
  let w := elemBits et
  let sg := etSigned et
  let sat := gmSAT s.g.gmode
  let rs := (elems3 (regElems s et o.a.toNat i) (elemsB s et o i) (elemsC s et o i)).map (fun e =>
    let a := modInt w sg sat (modsA o) e.1
    let b := modInt w sg sat (modsB o) e.2.1
    let c := modInt w sg sat (modsC o) e.2.2
    let r := narrow w sg (sat && sats) (f a.1 b.1 c.1)
    (r.1, a.2 || b.2 || (c.2 && (modsC o).neg || c.2 && (modsC o).abs) || r.2))
  (rs.map (·.1), flIf (rs.any (·.2)) flIS)

/-- A vector operation on raw elements without modifiers, one lane: width, a, b, c. -/
def rawLane (s : State) (o : Opnd) (f : Nat → Nat → Nat → Nat → Nat) (i : Nat) : List Nat × Fl :=
  let et := etOf s
  let w := elemBits et
  ((elems3 (regElems s et o.a.toNat i) (elemsB s et o i) (elemsC s et o i)).map (fun e => f w e.1 e.2.1 e.2.2), 0)

/-- A vector floating-point operation, one lane: the format, the rounding mode, and the modified operands' codes (R353). -/
def floatLane (s : State) (o : Opnd) (f : Fmt → Rm → Nat → Nat → Nat → FRes) (i : Nat) : List Nat × Fl :=
  let et := etOf s
  let fm := etFmt et
  let rm := gmRM s.g.gmode
  let rs := (elems3 (regElems s et o.a.toNat i) (elemsB s et o i) (elemsC s et o i)).map (fun e =>
    f fm rm (modFloat fm (modsA o) e.1) (modFloat fm (modsB o) e.2.1) (modFloat fm (modsC o) e.2.2))
  (rs.map (·.bits), flAll (rs.map (·.fl)))

/-- The latency of a float instruction (Table 3-11). -/
def floatLat (et : Nat) : Nat := if et = 5 then 6 else 4

/-- The index scale of a kind 10 SCALE code as a multiplier (Table 3-5). -/
def scaleMul (k : K10) : Int :=
  if k.scale = 0 then 4 else if k.scale = 1 then 1 else if k.scale = 2 then 2 else 8

/-- The size in bytes of a kind 10 SIZE code (Table 3-5). -/
def sizeOf_ (k : K10) : Nat := if k.size = 0 then 4 else if k.size = 1 then 1 else if k.size = 2 then 2 else 8

/-- A lane's address: base + sext(index) · scale + displacement, with wrap (R188). -/
def laneAddr (base : W64) (idx : W32) (k : K10) (disp : W64) : W64 :=
  base + w64 (idx.toInt * scaleMul k) + disp

/-- A scalar form's address (R188, R405). -/
def scalarAddr (base idx : W64) (k : K10) (disp : W64) : W64 := base + w64 (idx.toInt * scaleMul k) + disp

end Sys2Proof.Machine
end

