-- ==== Sys2Proof/Machine/Sync.lean ====
section
/-! DEFINITION. Swatches, releases and acquires (07 R211 to R219), the stores of a group with the lines they add to its pending
swatches (R214), and the sync slot at its home (R211, R216, R220). Scope codes are those of Table 3-5: 3 .DIE, 4 .MOD,
5 .SYS. -/

namespace Sys2Proof.Machine

/-- The pending swatch of a scope; empty below .DIE (R214, R216). -/
def pendingSw (g : Group) (scope : Nat) : Swatch :=
  if scope = 3 then g.swDie else if scope = 4 then g.swMod else if scope = 5 then g.swSys else 0

/-- Change the pending swatches of every scope up to `scope`. -/
def onPending (scope : Nat) (f : Swatch → Swatch) (g : Group) : Group :=
  { g with
    swDie := if 3 ≤ scope then f g.swDie else g.swDie
    swMod := if 4 ≤ scope then f g.swMod else g.swMod
    swSys := if 5 ≤ scope then f g.swSys else g.swSys }

/-- Empty the pending swatches up to a scope. -/
def clearPending (scope : Nat) : Group → Group := onPending scope (fun _ => 0)

/-- OR a swatch into the pending swatches up to a scope. -/
def orPending (scope : Nat) (w : Swatch) : Group → Group := onPending scope (fun x => x ||| w)

/-- The swatch with every bit set, which acts as saturated (R213, R217). -/
def fullSwatch : Swatch := BitVec.allOnes 448

/-- Add a written line to the pending swatches, unless it lies on a sync page or in host or peer memory (R214). -/
def noteLine (p : Phys) (g : Group) : Group :=
  if p.region = 0 ∧ p.sy = false then
    { g with swDie := swatchAdd g.swDie p.line, swMod := swatchAdd g.swMod p.line, swSys := swatchAdd g.swSys p.line }
  else g

/-- The cluster of the current group. -/
def myCluster (s : State) : Nat := s.g.core / 4

/-- The release part of R216 at a scope: the swatch to deposit, and the dirty words of the lines that hit it written back. The
wait for earlier accesses is the draining of issued instructions before the releasing instruction executes. -/
def releasePart (scope : Nat) (s : State) : Swatch × State :=
  let w := pendingSw s.g scope
  (w, if 3 ≤ scope then writeBack s (myCluster s) (fun l => swatchHit w l) else s)

/-- The acquire part of R217 at a scope with a swatch. -/
def acquirePart (scope : Nat) (w : Swatch) (s : State) : State :=
  if 3 ≤ scope then onG (orPending scope w) (flush s (myCluster s) (fun l => swatchHit w l)) else s

/-- A store of the group to a translated place (R173, R214). An 8-byte store to the register window is a write of the host
master (R311). -/
def storeAt (w : Who) (p : Phys) (bs : List Byte) (s : State) : State :=
  if p.region = 3 then winWrite p.key bs.length (BitVec.ofNat 64 (natOf bs)) .host s
  else onG (noteLine p) (storeBytes s w p bs)

/-- Store bytes at a checked address as word stores of the group, four at a time. -/
def storeVa (w : Who) : Nat → W64 → List Byte → State → State
  | 0, _, _, s => s
  | n + 1, va, bs, s =>
    if bs.isEmpty then s else
    let k := min bs.length (4 - va.toNat % 4)
    match physAt s w va with
    | (some p, s1) => storeVa w n (va + BitVec.ofNat 64 k) (bs.drop k) (storeAt w p (bs.take k) s1)
    | (none, s1) => storeVa w n (va + BitVec.ofNat 64 k) (bs.drop k) s1

/-! Sync slots. -/

/-- The place is the VALUE of a sync slot (R211). -/
def isSlot (p : Phys) : Bool := p.sy && p.region == 0 && p.key % 64 == 0

/-- The SWATCH of a slot. -/
def slotSwatch (s : State) (p : Phys) : Swatch := BitVec.ofNat 448 (natOf (rbs s (p.key + 8) 56))

/-- Write bytes of a slot, or of any object of a sync page, at the home. -/
def slotWrite (s : State) (w : Who) (p : Phys) (off : Nat) (bs : List Byte) : State :=
  homeWrite s (p.key + off) bs w.quota (effClass s w p) none

/-- Write the SWATCH of a slot. -/
def setSlotSwatch (s : State) (w : Who) (p : Phys) (x : Swatch) : State := slotWrite s w p 8 (bytesOf 56 x.toNat)

/-! Read-modify-write at the home (R178, R204, R341). -/

/-- The operations of Table 11-3 on values of `n` bytes, by SEL of Table 3-7. -/
def rmwValue (n op : Nat) (sx : Bool) (old x : Nat) : Nat :=
  let m := 2 ^ (8 * n)
  let f := if n = 8 then f64 else f32
  let lt (a b : Nat) : Bool := if sx then decide (sextNat (8 * n) a < sextNat (8 * n) b) else decide (a < b)
  match op with
  | 0 => (old + x) % m
  | 1 => if lt x old then x else old
  | 2 => if lt old x then x else old
  | 3 => old &&& x
  | 4 => old ||| x
  | 5 => old ^^^ x
  | 6 => x
  | 7 => (addF f .ne (decodeF f old) (decodeF f x)).bits
  | 8 => minmaxF f false old x
  | _ => minmaxF f true old x

/-- Read a word of `n` bytes at its home after the issuing slice gave up its own copy (R178); host memory is taken from every
cluster first. -/
def homeRead (s : State) (w : Who) (p : Phys) (n : Nat) : Nat × State :=
  if p.region = 3 then (0, logRefused s p.key .host) else
  let s1 := (wordsOf p n).foldl (fun a i => dropWord a (w.core / 4) p.line i) (hostReady s (w.core / 4) p true)
  let s2 := touch s1 p.key w.quota (effClass s w p) false
  (natOf (rbs s2 p.key n), s2)

/-- One read-modify-write at the home: the old value. `f` gives the new value, or none when nothing is written; the owner is cleared in
both cases (R177). -/
def homeRmw (w : Who) (p : Phys) (n : Nat) (f : Nat → Option Nat) (s : State) : Nat × State :=
  let (old, s1) := homeRead s w p n
  if p.region = 3 then (old, s1) else
  match f old with
  | none => (old, clearOwners s1 p.key n)
  | some new => (old, storeHome s1 w p (bytesOf n new))

end Sys2Proof.Machine
end

