-- ==== Sys2Proof/Machine/MemOps.lean ====
section
/-! DEFINITION. What a global memory instruction does when it is performed (R269), on its captured mask and operands: vector and
uniform loads and stores (12 R367 to R369, 13 R404, R405, R410, R411), LDACQ (R217, R370), the atomics and reductions (11 R339 to R341, R347,
12 R392, R393), tiles (13 R418 to R420) and frames (11 R335 to R337). Each checks everything first and then acts. -/

namespace Sys2Proof.Machine

/-- A captured scalar source. -/
def capS (e : InFlight) (j : Nat) : W64 := e.scal.getD j 0
/-- A captured vector source. -/
def capV (e : InFlight) (j : Nat) : Lanes := e.vecs.getD j zeroLanes

/-- The addresses of the active lanes (R188). -/
def vecAddrs (e : InFlight) (o : Opnd) (base : W64) (idx : Lanes) : List (Nat × W64) :=
  (activeLanes e.mask).map (fun i => (i, laneAddr base (laneOf idx i) (parOf o) (dispOf o)))

/-- The lane's value of a vector result. -/
def pickLane (vals : List (Nat × Nat)) (f : Nat → W32) : List (Option W32) :=
  laneIdx.map (fun i => (vals.find? (fun e => e.1 == i)).map (fun e => f e.2))

/-- Write per-lane values of `n` bytes into vD, or into vD and vD+1 (R368). -/
def putLoaded (d n : Nat) (sx : Bool) (vals : List (Nat × Nat)) (g : Group) : Group :=
  let ext (x : Nat) : W32 := if sx then w32 (sextNat (8 * n) x) else BitVec.ofNat 32 x
  let g1 := put (.vec d (pickLane vals ext)) g
  if n = 8 then put (.vec (d + 1) (pickLane vals (fun x => BitVec.ofNat 32 (x / 2 ^ 32)))) g1 else g1

/-- Load each lane in turn. -/
def loadLanes (w : Who) (n : Nat) : List (Nat × Phys) → State → List (Nat × Nat) × State
  | [], s => ([], s)
  | (i, p) :: r, s =>
    let (bs, s1) := loadBytes s w p n
    let (l, s2) := loadLanes w n r s1
    ((i, natOf bs) :: l, s2)

/-- LD (R368). -/
def perfLd (o : Opnd) (e : InFlight) (s : State) : Res Unit :=
  let k := parOf o
  let n := sizeOf_ k
  let w := whoOf s.g k.ccls
  (checkLanes s w s.g.ctx n n needR (vecAddrs e o (capS e 0) (capV e 0))).bind fun ps s1 =>
    let (vals, s2) := loadLanes w n ps s1
    .ok () (onG (putLoaded o.d.toNat n k.sx vals) s2)

/-- The data of a lane of a store or read-modify-write of `n` bytes whose vector operands start at source `j`. -/
def laneData (e : InFlight) (j n i : Nat) : Nat :=
  (laneOf (capV e j) i).toNat + (if n = 8 then (laneOf (capV e (j + 1)) i).toNat * 2 ^ 32 else 0)

/-- Store each lane in turn; when a lower lane has stored the same bytes, the free value says which of the two stays (R203). -/
def storeLanes (w : Who) (n : Nat) (data : Nat → Nat) : List (Nat × Phys) → List Nat → State → State
  | [], _, s => s
  | (i, p) :: r, done, s =>
    if done.contains p.key && !Config.laterLane s.free (p.key * 64 + i) then storeLanes w n data r done s
    else storeLanes w n data r (p.key :: done) (storeAt w p (bytesOf n (data i)) s)

/-- ST (R411). -/
def perfSt (o : Opnd) (e : InFlight) (s : State) : Res Unit :=
  let k := parOf o
  let n := sizeOf_ k
  let w := whoOf s.g k.ccls
  let nv := if n = 8 then 2 else 1
  (checkLanes s w s.g.ctx n n needW (vecAddrs e o (capS e 0) (capV e nv))).bind fun ps s1 =>
    .ok () (bump (storeLanes w n (laneData e 0 n) ps [] s1))

/-- SLD (R405). -/
def perfSld (o : Opnd) (e : InFlight) (s : State) : Res Unit :=
  let k := parOf o
  let n := sizeOf_ k
  let w := whoOf s.g k.ccls
  (checkLanes s w s.g.ctx n n needR [(0, scalarAddr (capS e 0) (capS e 1) k (dispOf o))]).bind fun ps s1 =>
    let (vals, s2) := loadLanes w n ps s1
    let x := (vals.head?.map (·.2)).getD 0
    let v : W64 := if k.sx then w64 (sextNat (8 * n) x) else BitVec.ofNat 64 x
    .ok () (onG (put (.sca o.d.toNat v)) s2)

/-- SST (R405). -/
def perfSst (o : Opnd) (e : InFlight) (s : State) : Res Unit :=
  let k := parOf o
  let n := sizeOf_ k
  let w := whoOf s.g k.ccls
  (checkLanes s w s.g.ctx n n needW [(0, scalarAddr (capS e 1) (capS e 2) k (dispOf o))]).bind fun ps s1 =>
    .ok () (bump (storeLanes w n (fun _ => (capS e 0).toNat) ps [] s1))

/-- LDACQ (R217, R370): a read that is no slot read is placed as a class 2 load and acts with a saturated swatch. -/
def perfLdacq (o : Opnd) (e : InFlight) (s : State) : Res Unit :=
  let w := whoOf s.g 2
  let scope := (parOf o).scope.toNat
  (checkLanes s w s.g.ctx 8 8 needR [(0, capS e 0 + dispOf o)]).bind fun ps s1 =>
    match ps with
    | (_, p) :: _ =>
      let (bs, s2) := loadBytes s1 w p 8
      let sw := if isSlot p then slotSwatch s2 p else fullSwatch
      .ok () (acquirePart scope sw (onG (put (.sca o.d.toNat (BitVec.ofNat 64 (natOf bs)))) s2))
    | [] => .ok () s1

/-- What the lanes of an atomic have done so far: old values, the OR of the slot swatches read, whether a lane addressed no slot,
and whether a lane deposited (R219). -/
structure AtomAcc where
  rets : List (Nat × Nat)
  sw   : Swatch
  all  : Bool
  dep  : Bool
  deriving DecidableEq, Repr

/-- One lane of an atomic at the home, with the deposit and the swatch read of R219. -/
def atomLane (w : Who) (n scope : Nat) (rel : Bool) (f : Nat → Nat → Option Nat) (lp : Nat × Phys) (x : AtomAcc × State) :
    AtomAcc × State :=
  let (old, s1) := homeRmw w lp.2 n (f lp.1) x.2
  let s2 := onG (noteLine lp.2) s1
  let slot := isSlot lp.2 && n == 8
  let sw := if slot then slotSwatch s2 lp.2 else 0
  let dep := slot && rel && decide (3 ≤ scope)
  let s3 := if dep then setSlotSwatch s2 w lp.2 (sw ||| pendingSw s2.g scope) else s2
  (⟨x.1.rets ++ [(lp.1, old)], x.1.sw ||| sw, x.1.all || !slot, x.1.dep || (slot && rel)⟩, s3)

/-- The shared part of ATOM, CAS and RED: checks, release part, lanes in ascending order, acquire part (R340, R347, R393). -/
def atomRun (o : Opnd) (e : InFlight) (n : Nat) (idx : Lanes) (f : Nat → Nat → Option Nat)
    (fin : List (Nat × Nat) → Group → Group) (s : State) : Res Unit :=
  let k := parOf o
  let w := whoOf s.g 0
  let scope := k.scope.toNat
  let rel := k.order == 2 || k.order == 3
  let acq := k.order == 1 || k.order == 3
  (checkLanes s w s.g.ctx n n needRW (vecAddrs e o (capS e 0) idx)).bind fun ps s1 =>
    if ps.isEmpty then .ok () s1 else
    let s2 := if rel then (releasePart scope s1).2 else s1
    let (x, s3) := ps.foldl (fun a lp => atomLane w n scope rel f lp a) (⟨[], 0, false, false⟩, s2)
    let s4 := onG (fin x.rets) (if x.dep then onG (clearPending scope) s3 else s3)
    .ok () (if acq then acquirePart scope (if x.all then fullSwatch else x.sw) s4 else s4)

/-- The vector registers that a .W or .D operand takes. -/
def dataRegs (o : Opnd) : Nat := if sizeOf_ (parOf o) = 8 then 2 else 1

/-- ATOM (R340). -/
def perfAtom (o : Opnd) (e : InFlight) (s : State) : Res Unit :=
  let k := parOf o
  let n := sizeOf_ k
  atomRun o e n (capV e (dataRegs o)) (fun i old => some (rmwValue n k.sel.toNat k.sx old (laneData e 0 n i)))
    (putLoaded o.d.toNat n false) s

/-- RED (R393). -/
def perfRed (o : Opnd) (e : InFlight) (s : State) : Res Unit :=
  let k := parOf o
  let n := sizeOf_ k
  atomRun o e n (capV e (dataRegs o)) (fun i old => some (rmwValue n k.sel.toNat k.sx old (laneData e 0 n i)))
    (fun _ g => g) s

/-- CAS (R347). -/
def perfCas (o : Opnd) (e : InFlight) (s : State) : Res Unit :=
  let n := sizeOf_ (parOf o)
  let nv := dataRegs o
  atomRun o e n (capV e (2 * nv)) (fun i old => if old = laneData e 0 n i then some (laneData e nv n i) else none)
    (putLoaded o.d.toNat n false) s

/-! Tiles. -/

/-- Element bits of a tile type (Table 2-4). -/
def ttBits (tt : Nat) : Nat :=
  if tt = 4 ∨ tt = 5 then 4 else if tt = 6 ∨ tt = 7 then 16 else if tt = 8 then 32 else if tt = 9 then 64 else 8

/-- Bytes of a row (R419). -/
def rowBytes (tc : W64) : Nat := (tcCols tc * ttBits (tcTT tc) + 7) / 8

/-- The swizzle key of row `i` (Table 13-3). -/
def swzKey (sel i : Nat) : Nat :=
  if sel = 1 then i % 4 else if sel = 2 then i / 2 % 4 else if sel = 3 then i / 4 % 4 else 0

/-- The rows of a tile access: row number and address (R419). -/
def tileRows (o : Opnd) (e : InFlight) (tc : W64) (j : Nat) : List (Nat × W64) :=
  (List.range (tcRows tc)).map (fun i => (i, capS e j + dispOf o + BitVec.ofNat 64 i * capS e (j + 1)))

/-- The 16-byte chunks that a row touches: its chunk number in the tile row, its address and its bytes. -/
def rowChunks (tc : W64) (sel : Nat) (r : Nat × W64) : List (Nat × W64 × Nat) :=
  let n := rowBytes tc
  (List.range ((n + 15) / 16)).map (fun c => (c, r.2 + BitVec.ofNat 64 (16 * (c ^^^ swzKey sel r.1)), min 16 (n - 16 * c)))

/-- The checks of TLD and TST: every row canonical, a multiple of 4, then every byte (R419). -/
def tileCheck (o : Opnd) (e : InFlight) (tc : W64) (j : Nat) (w : Who) (need : Need) (s : State) : Res Unit :=
  let rows := (tileRows o e tc j).map (·.2)
  let least (l : List W64) : W64 := l.foldl (fun a x => if x.toNat < a.toNat then x else a) (l.headD 0)
  let bad1 := rows.filter (fun a => !canonical a)
  if !bad1.isEmpty then .trap { cause := 0x03, sub := 0, mask := 1, fault := least bad1 } s else
  let bad2 := rows.filter (fun a => decide (a.toNat % 4 ≠ 0))
  if !bad2.isEmpty then .trap { cause := 0x04, sub := 0, mask := 1, fault := least bad2 } s else
  let sel := (parOf o).sel.toNat
  checkSpans s w s.g.ctx need ((tileRows o e tc j).flatMap (fun r => (rowChunks tc sel r).map (fun c => ⟨0, c.2.1, c.2.2⟩)))

/-- Load one row of a tile: 64 bytes, zero beyond the row, and an unused high nibble zero. -/
def loadRow (w : Who) (tc : W64) (sel : Nat) (r : Nat × W64) (s : State) : List Byte × State :=
  let (bs, s1) := (rowChunks tc sel r).foldl
    (fun a c =>
      let (b, s2) := loadVas w 4 ((c.2.2 + 3) / 4) c.2.1 a.2
      (a.1 ++ b.take c.2.2, s2)) (([] : List Byte), s)
  let odd := ttBits (tcTT tc) = 4 ∧ tcCols tc % 2 = 1
  let bs2 := if odd then bs.dropLast ++ [bs.getLastD 0 &&& 0x0F] else bs
  (bs2 ++ List.replicate (64 - bs2.length) 0, s1)

/-- Write bytes into a tile of the current group. -/
def tileSet (t off : Nat) (bs : List Byte) (g : Group) : Group :=
  { g with t := csetAll zero g.t ((indexed off bs).map (fun e => (tileKey t e.1, e.2))) }

/-- A byte of a tile. -/
def tileByte (g : Group) (t i : Nat) : Byte := cget zero g.t (tileKey t i)

/-- TLD (R419): the tile's bytes, zero outside the loaded rows, under the tile control read at issue. -/
def perfTld (o : Opnd) (e : InFlight) (s : State) : Res Unit :=
  let k := parOf o
  let w := whoOf s.g k.ccls
  let t := o.d.toNat
  let tc := e.tctl
  (tileCheck o e tc 0 w needR s).bind fun _ s1 =>
    let s2 := onG (fun g => { g with t := ckeep (fun b => decide (b / 4096 ≠ t)) g.t }) s1
    .ok () ((tileRows o e tc 0).foldl (fun a r =>
      let (bs, a1) := loadRow w tc k.sel.toNat r a
      onG (tileSet t (64 * r.1) bs) a1) s2)

/-- TST (R419): rows in order, later rows written last. -/
def perfTst (o : Opnd) (e : InFlight) (s : State) : Res Unit :=
  let k := parOf o
  let w := whoOf s.g k.ccls
  let t := o.d.toNat
  let tc := e.tctl
  (tileCheck o e tc 0 w needW s).bind fun _ s1 =>
    .ok () ((tileRows o e tc 0).foldl (fun a r =>
      (rowChunks tc k.sel.toNat r).foldl (fun a2 c =>
        storeVa w 16 c.2.1 ((List.range c.2.2).map (fun b => tileByte a2.g t (64 * r.1 + 16 * c.1 + b))) a2) a) s1)

/-! Frames. -/

/-- The checks of ACCLD and ACCST (R336). -/
def frameCheck (a : W64) (w : Who) (need : Need) (s : State) : Res Unit :=
  if !canonical a then .trap { cause := 0x03, sub := 0, mask := 1, fault := a } s
  else if a.toNat % 128 ≠ 0 then .trap { cause := 0x04, sub := 0, mask := 1, fault := a } s
  else checkSpans s w s.g.ctx need [⟨0, a, 16384⟩]

/-- Write an element word of a frame. -/
def frameSet (panel frame i : Nat) (x : W32) (s : State) : State :=
  { s with frames := cset zero s.frames (frameKey panel frame i) x }

/-- Read an element word of a frame. -/
def frameGet (s : State) (panel frame i : Nat) : W32 := cget zero s.frames (frameKey panel frame i)

/-- The frame that an issued ACCLD or ACCST names. -/
def frameOf (e : InFlight) : Option Nat :=
  match decode e.word e.ext with
  | .instr (.accld o) _ | .instr (.accst o) _ => some o.d.toNat
  | _ => none

/-- The words of a frame. -/
def frameWords (s : State) (panel frame : Nat) : List W32 := (List.range 4096).map (frameGet s panel frame)

/-- The ACCLDs and ACCSTs of other groups in flight on a frame of the current group's panel keep what it holds now (R337). -/
def keepOlds (frame : Nat) (s : State) : State :=
  let on (g : Group) : Bool := g.live && g.panel == s.g.panel && g.inflight.any (fun e => frameOf e == some frame)
  if !s.others.any on then s else
  let l := frameWords s s.g.panel frame
  { s with others := s.others.map (fun g => if on g then
      { g with inflight := g.inflight.map (fun e => if frameOf e == some frame then { e with olds := e.olds ++ [l] } else e) } else g) }

/-- A word of a frame as an ACCLD or ACCST in flight beside ACCLDs of other groups leaves or reads it: `x` or one of `l`, freely for each
word (R337; log 14). -/
def frameAny (s : State) (e : InFlight) (i : Nat) (x : W32) (l : List W32) : W32 :=
  BitVec.ofNat 32 (anyOf s (2 ^ 80 + e.id * 4096 + i) x.toNat (l.map (·.toNat)))

/-- ACCLD (R336, R337): sixteen kibibytes, word by word. -/
def perfAccld (o : Opnd) (e : InFlight) (s : State) : Res Unit :=
  let w := whoOf s.g 0
  let a := capS e 0 + dispOf o
  (frameCheck a w needR s).bind fun _ s1 =>
    .ok () ((List.range 4096).foldl (fun x i =>
      let (bs, x1) := loadVa w 4 (a + BitVec.ofNat 64 (4 * i)) x
      let old := if e.olds.isEmpty then [] else [frameGet x1 x1.g.panel o.d.toNat i]
      frameSet x1.g.panel o.d.toNat i (frameAny x1 e i (BitVec.ofNat 32 (natOf bs)) old) x1) (keepOlds o.d.toNat s1))

/-- ACCST (R336, R337): the frame as it stands when the store is performed. -/
def perfAccst (o : Opnd) (e : InFlight) (s : State) : Res Unit :=
  let w := whoOf s.g 0
  let a := capS e 0 + dispOf o
  (frameCheck a w needW s).bind fun _ s1 =>
    .ok () ((List.range 4096).foldl (fun x i =>
      let y := frameAny x e i (frameGet x x.g.panel o.d.toNat i) (e.olds.map (fun l => l.getD i 0))
      storeVa w 1 (a + BitVec.ofNat 64 (4 * i)) (bytesOf 4 y.toNat) x) s1)

end Sys2Proof.Machine
end

