-- ==== Sys2Proof/Machine/EngineAccess.lean ====
section
/-! DEFINITION. The accesses of the engines while they run (07 R232, R236): a page that is not mapped pauses a command and posts a fault
to its group, any other fault is fatal. -/

namespace Sys2Proof.Machine

/-- How a step of an engine ends: with a value, paused at an address that is not mapped, or in a fault of Table 8-8. -/
inductive Eng (α : Type) where
  | ok (a : α) (s : State)
  | pause (va : W64) (s : State)
  | fatal (cause sub : Nat) (va : W64) (s : State)
  deriving DecidableEq, Repr

/-- Go on with the value. -/
def Eng.bind {α β : Type} (r : Eng α) (f : α → State → Eng β) : Eng β :=
  match r with
  | .ok a s => f a s
  | .pause v s => .pause v s
  | .fatal c b v s => .fatal c b v s

/-- The group that issued a command. -/
def cmdGroup (s : State) (c : Cmd) : Option Group := (allGroups s).find? (fun g => g.live && g.id == c.grp)

/-- Who a command's engine is to the memory system. -/
def cmdWho (s : State) (c : Cmd) : Who :=
  { whoOf ((cmdGroup s c).getD Group.empty) 0 with core := c.core, priv := c.priv }

/-- Translate and check an engine access (R236): a missing page pauses the command, any other fault is fatal. -/
def engPlace (w : Who) (need : Need) (n : Nat) (va : W64) (s : State) : Eng Phys :=
  if !canonical va then .fatal 0x24 1 va s
  else if va.toNat % n ≠ 0 then .fatal 0x24 2 va s
  else
    match xlate s w va with
    | (.fault, s1) => .pause va s1
    | (.format, s1) => .fatal 0x21 0 va s1
    | (.poison sub, s1) => .fatal 0x28 sub va s1
    | (.leaf pte base _ _, s1) =>
      if (permSub w need pte).isSome then .fatal 0x24 3 va s1 else
      match physOf s1 (w.core / 48) pte base (va.toNat % 2 ^ 57) with
      | (none, _) => .fatal 0x22 0 va s1
      | (some _, false) => .fatal 0x23 0 va s1
      | (some p, true) =>
        if p.region == 2 && need.w && peerNumber s1 p.key != 0 then .fatal 0x23 0 va s1
        else if poisoned s1 w p n need then .fatal 0x28 (poisonSub s1 w p n) va s1
        else .ok p (gather s1 w.core w.tag (va.toNat % 2 ^ 57) need.w)

/-- Read `n` bytes for an engine, from scratchpad of a panel or from memory through the L1 (R232). -/
def engRead (w : Who) (panel : Nat) (sp : Bool) (n a : Nat) (s : State) : Eng (List Byte) :=
  if sp then .ok (scrRead s panel a n) s else
  (engPlace w needR n (BitVec.ofNat 64 a) s).bind fun p s1 =>
    let (bs, s2) := loadBytes s1 w p n
    .ok bs s2

/-- Write bytes for an engine; the swatch holds the line they lie on (R214, R232). -/
def engWrite (w : Who) (panel : Nat) (sp : Bool) (a : Nat) (bs : List Byte) (s : State) : Eng Swatch :=
  if sp then .ok 0 (scrWrite s panel a bs) else
  (engPlace w needW bs.length (BitVec.ofNat 64 a) s).bind fun p s1 =>
    .ok (if p.region = 0 ∧ p.sy = false then swatchAdd 0 p.line else 0) (storeBytes s1 w p bs)

/-- The command with an id. -/
def cmdOf (s : State) (id : Nat) : Option Cmd := s.cmds.find? (fun c => c.id == id)

/-- Update a command. -/
def onCmd (id : Nat) (f : Cmd → Cmd) (s : State) : State :=
  { s with cmds := s.cmds.map (fun c => if c.id = id then f c else c) }

/-- Post an engine fault to the issuing group, to be delivered at its next instruction boundary or blocking point (R236, R263). -/
def postEngine (id : Nat) (h : HeldFault) (s : State) : State := onGroup id (fun g => { g with held := g.held ++ [h] }) s

/-- The group has exited or is gone. -/
def issuerGone (s : State) (c : Cmd) : Bool := match cmdGroup s c with | some g => g.exited | none => true

/-- A fault record about a command, and the kill that goes with it (R236, Table 8-8). -/
def engineFatal (c : Cmd) (cause sub : Nat) (va : W64) (s : State) : State :=
  match cmdGroup s c with
  | none => killPanel c.panel s
  | some g =>
    let s1 := postRec (groupRec g 3 cause sub 0 va false) s
    if cause = 0x24 ∧ sub = 4 then killPanel c.panel s1 else killCtx g.ctx s1

/-- How a running command ends when it cannot go on (R236). -/
def engineStop (c : Cmd) (r : Eng Unit) : State :=
  match r with
  | .ok _ s => s
  | .fatal cause sub va s => if issuerGone s c then engineFatal c 0x24 4 va s else engineFatal c cause sub va s
  | .pause va s =>
    if issuerGone s c then engineFatal c 0x24 4 va s
    else postEngine c.grp ⟨0x05, 2, va⟩ (onCmd c.id (fun x => { x with paused := some va }) s)

end Sys2Proof.Machine
end

