-- ==== Sys2Proof/Machine/Exact.lean ====
section
/-! DEFINITION. Arithmetic on exact values under IEEE rules, without rounding: what textures, render targets and layer merges
compute with before their one rounding (09 R289, R292, R297, R299). A generated NaN carries its cause (Table 4-6). -/

namespace Sys2Proof.Machine

/-- A generated NaN. -/
def xnan (cause : Nat) : FVal := .nan false true cause

/-- The rank of a generated cause (R125, R297). -/
def causeRank (c : Nat) : Nat := if c = 2 then 5 else if c = 1 then 4 else if c = 4 then 3 else if c = 3 then 2 else 1

/-- Of two generated NaNs, the one whose cause ranks higher. -/
def xworse (a b : FVal) : FVal :=
  match a, b with
  | .nan _ _ p, .nan _ _ q => if causeRank p < causeRank q then b else a
  | .nan _ _ _, _ => a
  | _, _ => b

/-- A finite value of a rational. -/
def xrat (x : Rat) : FVal := .fin (decide (x < 0)) (if x < 0 then -x else x)

/-- a + b. -/
def xadd (a b : FVal) : FVal :=
  if a.isNaN || b.isNaN then xworse a b else
  match a, b with
  | .inf x, .inf y => if x = y then .inf x else xnan 3
  | .inf x, _ => .inf x
  | _, .inf y => .inf y
  | x, y => if x.isZero && y.isZero && x.neg && y.neg then .fin true 0 else xrat (x.toRat + y.toRat)

/-- a · b. -/
def xmul (a b : FVal) : FVal :=
  if a.isNaN || b.isNaN then xworse a b else
  let n := a.neg != b.neg
  if a.isInf || b.isInf then (if a.isZero || b.isZero then xnan 4 else .inf n)
  else .fin n (let r := a.toRat * b.toRat; if r < 0 then -r else r)

/-- a / b, invalid with cause 5. -/
def xdiv (a b : FVal) : FVal :=
  if a.isNaN || b.isNaN then xworse a b else
  let n := a.neg != b.neg
  if a.isInf then (if b.isInf then xnan 5 else .inf n)
  else if b.isInf then .fin n 0
  else if b.isZero then (if a.isZero then xnan 5 else .inf n)
  else .fin n (let r := a.toRat / b.toRat; if r < 0 then -r else r)

/-- 1 − a. -/
def xcompl (a : FVal) : FVal := xadd (xrat 1) a.flip

/-- The first NaN of the values that take part, else the computed value (R124, R297). -/
def xfirst (ops : List FVal) (r : FVal) : FVal :=
  match ops.find? FVal.isNaN with
  | some n => n
  | none => r

/-- f + (1 − f.A)·b (Table 9-10 OVER, R292 BLEND 1, R299). -/
def xover (f fa b : FVal) : FVal := xfirst [f, fa, b] (xadd f (xmul (xcompl fa) b))

/-- A value rounded once with round_ne to a format. -/
def xround (f : Fmt) (x : FVal) : Nat := (toFmt f .ne x).bits

/-- The code c of an 8-bit unorm channel as the exact value c/255. -/
def unorm8 (c : Nat) : FVal := .fin false (mkRat c 255)

/-- round_ne(clamp(x, 0, 1)·255), and 0 for a NaN (R292). -/
def toUnorm8 (x : FVal) : Nat :=
  match x with
  | .nan _ _ _ => 0
  | .inf n => if n then 0 else 255
  | .fin n m => if n then 0 else if 1 ≤ m then 255 else (roundQuot .ne false (m * 255).num.natAbs (m * 255).den).1

/-- E3M5 codes as values (Table 4-2). -/
def e3m5 (code : Nat) : Rat :=
  if code / 32 = 0 then mkRat (code % 32 : Nat) 128 else pow2 ((code / 32 : Nat) - 3) * (1 + mkRat (code % 32 : Nat) 32)

/-- A block holds a NaN or an infinity. -/
def blockBad (l : List FVal) : Bool := l.any (fun x => x.isNaN || x.isInf)

end Sys2Proof.Machine
end

