-- ==== Sys2Proof/Machine/Texture.lean ====
section
/-! DEFINITION. Textures (09 R286 to R289, 13 R416): the descriptor, the level of a quad, the texels a lane reads, the filters and
the address modes. -/

namespace Sys2Proof.Machine

/-- The fields of a texture descriptor (Table 9-5). -/
structure Tex where
  base   : W64
  w      : Nat
  h      : Nat
  levels : Nat
  fmt    : Nat
  amu    : Nat
  amv    : Nat
  magl   : Bool
  minl   : Bool
  mipl   : Bool
  deriving DecidableEq, Repr

/-- The 64-bit words of a block of bytes. -/
def wordsOfBytes (bs : List Byte) (i : Nat) : W64 := BitVec.ofNat 64 (natOf ((bs.drop (8 * i)).take 8))

/-- Read a texture descriptor; none when a field is reserved or out of range (R289). -/
def texOf (bs : List Byte) : Option Tex :=
  let f := wordsOfBytes bs 1
  let t : Tex := { base := wordsOfBytes bs 0, w := fld f 0 15, h := fld f 15 15, levels := fld f 30 4, fmt := fld f 34 2
                   amu := fld f 36 2, amv := fld f 38 2, magl := bit f 40, minl := bit f 41, mipl := bit f 42 }
  if decide (1 ≤ t.w ∧ t.w ≤ 16384 ∧ 1 ≤ t.h ∧ t.h ≤ 16384 ∧ 1 ≤ t.levels ∧ t.levels ≤ 1 + Nat.log2 (max t.w t.h) ∧
      t.fmt < 3 ∧ t.amu < 3 ∧ t.amv < 3 ∧ fld f 43 21 = 0 ∧ t.base.toNat % 64 = 0) &&
      (bs.drop 16).all (fun b => b == 0) then some t else none

/-- Bytes of a texel. -/
def texelBytes (t : Tex) : Nat := if t.fmt = 1 then 8 else 4

/-- Width and height of a level. -/
def levelW (t : Tex) (l : Nat) : Nat := max 1 (t.w >>> l)
def levelH (t : Tex) (l : Nat) : Nat := max 1 (t.h >>> l)

/-- The offset of a level from BASE. -/
def levelOff (t : Tex) : Nat → Nat
  | 0 => 0
  | l + 1 => levelOff t l + (levelW t l * levelH t l * texelBytes t + 63) / 64 * 64

/-- The address of a texel. -/
def texelAddr (t : Tex) (l x y : Nat) : W64 :=
  t.base + BitVec.ofNat 64 (levelOff t l + (y * levelW t l + x) * texelBytes t)

/-- An index through its address mode (R289). -/
def addrMode (m : Nat) (w : Nat) (i : Int) : Nat :=
  if m = 0 then (i % (w : Int)).toNat
  else if m = 1 then (max 0 (min i ((w : Int) - 1))).toNat
  else
    let k := (i % (2 * (w : Int))).toNat
    if k < w then k else 2 * w - 1 - k

/-- The indices along one axis with their weights in 256ths: one of weight 256, or two (R289). -/
def axisTexels (linear : Bool) (mode w : Nat) (u : Rat) : List (Nat × Nat) :=
  if linear then
    let x := u * w - mkRat 1 2
    let i := x.floor
    let f := ((x - i) * 256).floor.toNat
    [(addrMode mode w i, 256 - f), (addrMode mode w (i + 1), f)]
  else [(addrMode mode w (u * w).floor, 256)]

/-- A level as 256 λ rounded down, and whether λ is above zero. -/
structure Lambda where
  q   : Int
  pos : Bool
  deriving DecidableEq, Repr

/-- The implicit λ from the squared lengths (R288): log2 √m + bias/16, exactly; none for m = 0, whose logarithm is not finite (R289; log
31). -/
def lambdaOf (m : Rat) (bias : Int) : Option Lambda :=
  if m = 0 then none else
  let p := m ^ 128
  some ⟨16 * bias + log2Rat p, decide (1 < p * pow2 (16 * bias))⟩

/-- The levels to read with their weights in 256ths (R288). -/
def mipLevels (t : Tex) (l : Lambda) : List (Nat × Nat) :=
  let top : Int := 256 * ((t.levels : Int) - 1)
  let q := max 0 (min l.q top)
  if t.mipl then
    let a := (q / 256).toNat
    let f := (q % 256).toNat
    if a + 1 < t.levels then [(a, 256 - f), (a + 1, f)] else [(a, 256)]
  else [(min ((q + 128) / 256).toNat (t.levels - 1), 256)]

/-- What a lane reads: level, x, y and weight of every texel. The total weight is 2^24. -/
abbrev Reads := List (Nat × Nat × Nat × Nat)

/-- The texels of a TEXS lane with finite coordinates u and v. -/
def sampleReads (t : Tex) (u v : Rat) (l : Lambda) : Reads :=
  let linear := if l.pos then t.minl else t.magl
  (mipLevels t l).flatMap (fun m =>
    (axisTexels linear t.amv (levelH t m.1) v).flatMap (fun y =>
      (axisTexels linear t.amu (levelW t m.1) u).map (fun x => (m.1, x.1, y.1, m.2 * x.2 * y.2))))

/-- The finite value of a lane word, or none. -/
def finiteOf (x : W32) : Option Rat :=
  match v32 x with
  | .fin n m => some (if n then -m else m)
  | _ => none

/-- The implicit λ of lane `i`'s quad; none when a coordinate of the quad or the level is not finite (R288, R289). -/
def quadLambda (t : Tex) (u v : Lanes) (bias : Int) (i : Nat) : Option Lambda :=
  let q := i / 4 * 4
  match finiteOf (laneOf u q), finiteOf (laneOf u (q + 1)), finiteOf (laneOf u (q + 2)), finiteOf (laneOf v q),
      finiteOf (laneOf v (q + 1)), finiteOf (laneOf v (q + 2)) with
  | some u0, some u1, some u2, some v0, some v1, some v2 =>
    let dx := (u1 - u0) * t.w
    let dxv := (v1 - v0) * t.h
    let dy := (u2 - u0) * t.w
    let dyv := (v2 - v0) * t.h
    let a := dx * dx + dxv * dxv
    let b := dy * dy + dyv * dyv
    lambdaOf (if a < b then b else a) bias
  | _, _, _, _, _, _ => none

/-- The λ that TEXS.L gives. -/
def givenLambda (x : W32) : Option Lambda := (finiteOf x).map (fun r => ⟨(r * 256).floor, decide (0 < r)⟩)

/-- The texels of a TEXS lane (R288, R289); none returns (0, 0, 0, 0). -/
def texsReads (t : Tex) (u v : Lanes) (lam : Nat → Option Lambda) (i : Nat) : Reads :=
  match finiteOf (laneOf u i), finiteOf (laneOf v i), lam i with
  | some a, some b, some l => sampleReads t a b l
  | _, _, _ => []

/-- The texel of a TEXF lane: integer coordinates and level, no filter and no address mode (R288). -/
def texfReads (t : Tex) (x y : Lanes) (lev : Nat → Int) (i : Nat) : Reads :=
  let l := (max 0 (min (lev i) ((t.levels : Int) - 1))).toNat
  let a := (laneOf x i).toInt
  let b := (laneOf y i).toInt
  if 0 ≤ a ∧ a < levelW t l ∧ 0 ≤ b ∧ b < levelH t l then [(l, a.toNat, b.toNat, 2 ^ 24)] else []

/-- The four channels of a texel's bytes (R287). -/
def texelChannels (fmt : Nat) (bs : List Byte) : List FVal :=
  let half (i : Nat) : FVal := decodeF f16 (natOf ((bs.drop (2 * i)).take 2))
  if fmt = 0 then bs.map (fun b => unorm8 b.toNat)
  else if fmt = 1 then [half 0, half 1, half 2, half 3]
  else [decodeF f32 (natOf bs), .fin false 0, .fin false 0, .fin false 1]

/-- The weighted sum of one channel, rounded once to FP32 (R289). -/
def blendChannel (l : List (FVal × Nat)) : Nat :=
  match l with
  | [(x, w)] => if w = 2 ^ 24 then xround f32 x else xround f32 (xmul (xrat (mkRat w (2 ^ 24))) x)
  | _ => xround f32 (xfirst (l.map (·.1))
      (l.foldl (fun a e => xadd a (xmul (xrat (mkRat e.2 (2 ^ 24))) e.1)) (.fin true 0)))

/-- Load the texels a lane reads. -/
def loadTexels (w : Who) (t : Tex) : Reads → State → List (List FVal × Nat) × State
  | [], s => ([], s)
  | r :: rest, s =>
    let (bs, s1) := loadVas w 4 (texelBytes t / 4) (texelAddr t r.1 r.2.1 r.2.2.1) s
    let (l, s2) := loadTexels w t rest s1
    ((texelChannels t.fmt bs, r.2.2.2) :: l, s2)

/-- The result of a lane. -/
def lanePixel (l : List (List FVal × Nat)) : List Nat :=
  if l.isEmpty then [0, 0, 0, 0] else
  (List.range 4).map (fun c => blendChannel (l.map (fun e => (e.1.getD c (.fin false 0), e.2))))

/-- Sample every lane. -/
def sampleLanes (w : Who) (t : Tex) (rd : Nat → Reads) : List Nat → State → List (Nat × List Nat) × State
  | [], s => ([], s)
  | i :: r, s =>
    let (l, s1) := loadTexels w t (rd i) s
    let (rest, s2) := sampleLanes w t rd r s1
    ((i, lanePixel l) :: rest, s2)

/-- Write a run of four registers. -/
def putRun (d : Nat) (vals : List (Nat × List Nat)) (g : Group) : Group :=
  (List.range 4).foldl (fun a c =>
    put (.vec (d + c) (pickLane (vals.map (fun e => (e.1, e.2.getD c 0))) (fun x => BitVec.ofNat 32 x))) a) g

/-- The shared part of TEXS and TEXF (R287, R416): the descriptor once, every texel checked, then every lane. -/
def texRun (o : Opnd) (e : InFlight) (rd : Tex → Nat → Reads) (s : State) : Res Unit :=
  let w := whoOf s.g 0
  let act := activeLanes e.mask
  if act.isEmpty then .ok () s else
  (checkLanes s w s.g.ctx 64 64 needR (act.map (fun i => (i, capS e 0)))).bind fun ps s1 =>
    match ps with
    | [] => .ok () s1
    | (_, p) :: _ =>
      let (bs, s2) := loadBytes s1 w p 64
      match texOf bs with
      | none => .ok () (onG (putRun o.d.toNat (act.map (fun i => (i, [0, 0, 0, 0])))) s2)
      | some t =>
        (checkSpans s2 w s2.g.ctx needR (act.flatMap (fun i =>
          (rd t i).map (fun r => ⟨i, texelAddr t r.1 r.2.1 r.2.2.1, texelBytes t⟩)))).bind fun _ s3 =>
          let (vals, s4) := sampleLanes w t (rd t) act s3
          .ok () (onG (putRun o.d.toNat vals) s4)

/-- TEXS with the implicit level. -/
def perfTexs (o : Opnd) (e : InFlight) (s : State) : Res Unit :=
  texRun o e (fun t => texsReads t (capV e 0) (capV e 1) (quadLambda t (capV e 0) (capV e 1) 0)) s

/-- TEXS.L: the level of vA. -/
def perfTexsL (o : Opnd) (e : InFlight) (s : State) : Res Unit :=
  texRun o e (fun t => texsReads t (capV e 0) (capV e 1) (fun i => givenLambda (laneOf (capV e 4) i))) s

/-- TEXS.B: the implicit level and a bias in sixteenths. -/
def perfTexsB (o : Opnd) (e : InFlight) (s : State) : Res Unit :=
  texRun o e (fun t => texsReads t (capV e 0) (capV e 1)
    (quadLambda t (capV e 0) (capV e 1) (sextNat 8 (parOf o).val.toNat))) s

/-- TEXF at level 0. -/
def perfTexf (o : Opnd) (e : InFlight) (s : State) : Res Unit :=
  texRun o e (fun t => texfReads t (capV e 0) (capV e 1) (fun _ => 0)) s

/-- TEXF.L: the level of vA. -/
def perfTexfL (o : Opnd) (e : InFlight) (s : State) : Res Unit :=
  texRun o e (fun t => texfReads t (capV e 0) (capV e 1) (fun i => (laneOf (capV e 4) i).toInt)) s

end Sys2Proof.Machine
end

