-- ==== Sys2Proof/Machine/Target.lean ====
section
/-! DEFINITION. Flat render targets (09 R290 to R293, 12 R379, R397): the descriptor, a pixel's places, RTST and RTLD, and the order
of fragment groups at a pixel. Accesses are class 2 accesses at the home. -/

namespace Sys2Proof.Machine

/-- The fields of a render-target descriptor (Table 9-7). -/
structure Target where
  cbase : W64
  dbase : W64
  w     : Nat
  h     : Nat
  fmt   : Nat
  dfn   : Nat
  dwr   : Bool
  blend : Nat
  ml    : Bool
  lcap  : Nat
  rule  : Nat
  deg   : Bool
  pool  : W64
  deriving DecidableEq, Repr

/-- Read a render-target descriptor; none when a field is reserved or out of range (R290). -/
def targetOf (bs : List Byte) : Option Target :=
  let f := wordsOfBytes bs 2
  let t : Target := { cbase := wordsOfBytes bs 0, dbase := wordsOfBytes bs 1, w := fld f 0 15, h := fld f 15 15
                      fmt := fld f 30 2, dfn := fld f 32 3, dwr := bit f 35, blend := fld f 36 2, ml := bit f 38
                      lcap := fld f 39 4, rule := fld f 43 2, deg := bit f 45, pool := wordsOfBytes bs 3 }
  let top := if t.ml then 4096 else 16384
  if decide (1 ≤ t.w ∧ t.w ≤ top ∧ 1 ≤ t.h ∧ t.h ≤ top ∧ t.fmt < 2 ∧ t.dfn < 7 ∧ t.blend < 3 ∧ t.rule < 3 ∧
      fld f 46 18 = 0 ∧ t.cbase.toNat % 64 = 0 ∧ t.dbase.toNat % 64 = 0 ∧ t.pool.toNat % 64 = 0) &&
      (if t.ml then decide (t.fmt = 1 ∧ 2 ≤ t.lcap ∧ t.lcap ≤ 8) else t.pool == 0) &&
      (bs.drop 32).all (fun b => b == 0) then some t else none

/-- Bytes of a colour pixel. -/
def Target.bpp (t : Target) : Nat := if t.fmt = 1 then 8 else 4

/-- The tile of a pixel. -/
def tileOf (t : Target) (x y : Nat) : Nat := y / 8 * ((t.w + 7) / 8) + x / 8
/-- The place of a pixel in its tile. -/
def inTile (x y : Nat) : Nat := 8 * (y % 8) + x % 8

/-- The address of a pixel in a plane of `b` bytes per pixel (R290). -/
def planeAddr (t : Target) (base : W64) (b x y : Nat) : W64 := base + BitVec.ofNat 64 ((64 * tileOf t x y + inTile x y) * b)
def colourAddr (t : Target) (x y : Nat) : W64 := planeAddr t t.cbase t.bpp x y
def depthAddr (t : Target) (x y : Nat) : W64 := planeAddr t t.dbase 4 x y

/-- The channels of a stored colour, exactly. -/
def storedColour (t : Target) (bs : List Byte) : List FVal :=
  if t.fmt = 1 then (List.range 4).map (fun c => decodeF f16 (natOf ((bs.drop (2 * c)).take 2)))
  else bs.map (fun b => unorm8 b.toNat)

/-- A colour as stored. -/
def colourBytes (t : Target) (c : List FVal) : List Byte :=
  if t.fmt = 1 then c.flatMap (fun x => bytesOf 2 (xround f16 x)) else c.flatMap (fun x => bytesOf 1 (toUnorm8 x))

/-- The four FP16 channels of two lane words. -/
def halfColour (rg ba : W32) : List FVal :=
  [decodeF f16 (rg.toNat % 65536), decodeF f16 (rg.toNat / 65536), decodeF f16 (ba.toNat % 65536), decodeF f16 (ba.toNat / 65536)]

/-- The render-output unit's accesses: class 2, in the group's name (R290). -/
def ropWho (s : State) : Who := whoOf s.g 2

/-- Read the descriptor of a render-output instruction at issue, its fault reported for every active lane (R379). -/
def ropDesc (e : InFlight) (s : State) : Res (List Byte) :=
  (checkLanes s (whoOf s.g 0) s.g.ctx 64 64 needR ((activeLanes e.mask).map (fun i => (i, capS e 0)))).bind fun ps s1 =>
    match ps with
    | [] => .ok [] s1
    | (_, p) :: _ => let (bs, s2) := loadBytes s1 (whoOf s1.g 0) p 64; .ok bs s2

/-- The fine pixels that a lane's RTST covers, inside the target (R292). -/
def coveredPixels (t : Target) (pix cov : W32) : List (Nat × Nat) :=
  let x0 := bitsOf pix.toNat 0 14
  let y0 := bitsOf pix.toNat 14 14
  let rc := bitsOf pix.toNat 28 2
  if rc = 3 then [] else
  let n := 2 ^ rc
  ((List.range (n * n)).filter (fun k => cov.getLsbD k)).filterMap (fun k =>
    let x := x0 + k % n
    let y := y0 + k / n
    if x < t.w ∧ y < t.h then some (x, y) else none)

/-- A pixel lies in a fragment group's own tile. -/
def ownPixel (f : Frag) (p : Nat × Nat) : Bool := f.tile == p.1 / 8 + p.2 / 8 * 65536

/-- A lower-numbered fragment group of the pass holds its place at one of these pixels of a target in the current group's own tile, which
it gives up by its RTST or its exit, wherever it is by then (R293). -/
def lowerPlace (s : State) (t : Target) (ps : List (Nat × Nat)) : Bool :=
  match s.g.frag with
  | none => false
  | some f => ps.any (fun p => ownPixel f p && s.others.any (fun g =>
      g.live && !g.exited && g.ctx == s.g.ctx &&
      match g.frag with
      | some h => h.die == f.die && h.args == f.args && h.tile == f.tile && decide (h.seq < f.seq) &&
          !h.made.contains (inTile p.1 p.2, t.cbase)
      | none => false))

/-- The RTST of the current group waits for such a place: one made on another die than that of the pass does not (R293). -/
def lowerHolds (s : State) (t : Target) (ps : List (Nat × Nat)) : Bool :=
  (s.g.frag.map (·.die)).any (fun d => d == coreDie s.g.core) && lowerPlace s t ps

/-- The current fragment group gives up its place at pixels of a target in its own tile (R293). -/
def markMade (t : Target) (ps : List (Nat × Nat)) (g : Group) : Group :=
  { g with frag := g.frag.map (fun f =>
      { f with made := f.made ++ (ps.filter (ownPixel f)).map (fun p => (inTile p.1 p.2, t.cbase)) }) }

/-- The depth test (Table 9-7 DFN); a NaN passes only "always". -/
def depthPass (dfn : Nat) (z d : FVal) : Bool :=
  if dfn = 0 then true
  else if dfn = 6 then false
  else if z.isNaN || d.isNaN then false
  else if dfn = 1 then ltF z d
  else if dfn = 2 then ltF z d || eqF z d
  else if dfn = 3 then ltF d z
  else if dfn = 4 then ltF d z || eqF z d
  else eqF z d

/-- The blend of R292, exactly. -/
def blendColour (mode : Nat) (s d : List FVal) : List FVal :=
  let sa := s.getD 3 (.fin false 0)
  (indexed 0 s).map (fun c =>
    let dc := d.getD c.1 (.fin false 0)
    if mode = 1 then xover c.2 sa dc else if mode = 2 then xfirst [c.2, dc] (xadd c.2 dc) else c.2)

/-- One fine pixel of an RTST. -/
def pixelStore (t : Target) (z : W32) (src : List FVal) (p : Nat × Nat) (s : State) : State :=
  let w := ropWho s
  let (old, s1) := if t.dbase = 0 then ([], s) else loadVa w 4 (depthAddr t p.1 p.2) s
  if t.dbase ≠ 0 ∧ !depthPass t.dfn (v32 z) (decodeF f32 (natOf old)) then s1 else
  let s2 := if t.dbase ≠ 0 ∧ t.dwr then storeVa w 1 (depthAddr t p.1 p.2) (bytesOf 4 z.toNat) s1 else s1
  let (d, s3) := loadVas w 4 (t.bpp / 4) (colourAddr t p.1 p.2) s2
  storeVa w 2 (colourAddr t p.1 p.2) (colourBytes t (blendColour t.blend src (storedColour t d))) s3

/-- RTST (R292): a descriptor that is invalid or multi-layer acts on no pixel. -/
def perfRtst (_o : Opnd) (e : InFlight) (s : State) : Res Unit :=
  if e.mask = 0 then .ok () s else
  (ropDesc e s).bind fun bs s1 =>
  match targetOf bs with
  | none => .ok () s1
  | some t =>
    if t.ml then .ok () s1 else
    let act := activeLanes e.mask
    let pix (i : Nat) := coveredPixels t (laneOf (capV e 3) i) (laneOf (capV e 4) i)
    (checkSpans s1 (ropWho s1) s1.g.ctx needRW (act.flatMap (fun i => (pix i).flatMap (fun p =>
      (if t.dbase = 0 then [] else [⟨i, depthAddr t p.1 p.2, 4⟩]) ++ [⟨i, colourAddr t p.1 p.2, t.bpp⟩])))).bind fun _ s2 =>
    if lowerHolds s2 t (act.flatMap pix) then .stall s else
    .ok () (onG (markMade t (act.flatMap pix)) (act.foldl (fun a i =>
      (pix i).foldl (fun b p =>
        pixelStore t (laneOf (capV e 2) i) (halfColour (laneOf (capV e 0) i) (laneOf (capV e 1) i)) p b) a) s2))

/-- The pixel a lane of RTLD names. -/
def rtldPixel (x : W32) : Nat × Nat := (bitsOf x.toNat 0 14, bitsOf x.toNat 14 14)

/-- Load one pixel for RTLD: the four result words (R397). -/
def pixelLoad (t : Target) (p : Nat × Nat) (s : State) : List Nat × State :=
  let w := ropWho s
  let (bs, s1) := loadVas w 4 (t.bpp / 4) (colourAddr t p.1 p.2) s
  let h (i : Nat) : Nat := if t.fmt = 1 then natOf ((bs.drop (2 * i)).take 2) else xround f16 ((storedColour t bs).getD i (.fin false 0))
  let (d, s2) := if t.dbase = 0 then (bytesOf 4 0, s1) else loadVa w 4 (depthAddr t p.1 p.2) s1
  ([h 0 + h 1 * 65536, h 2 + h 3 * 65536, natOf d, 0], s2)

/-- Load the pixels of lanes. -/
def pixelLoads (t : Target) (v : Lanes) : List Nat → State → List (Nat × List Nat) × State
  | [], s => ([], s)
  | i :: r, s =>
    let p := rtldPixel (laneOf v i)
    let (x, s1) := if p.1 < t.w ∧ p.2 < t.h then pixelLoad t p s else ([0, 0, 0, 0], s)
    let (l, s2) := pixelLoads t v r s1
    ((i, x) :: l, s2)

/-- RTLD (R397): an invalid or multi-layer descriptor returns zeros. -/
def perfRtld (o : Opnd) (e : InFlight) (s : State) : Res Unit :=
  if e.mask = 0 then .ok () s else
  let act := activeLanes e.mask
  let zeros (a : State) : State := onG (putRun o.d.toNat (act.map (fun i => (i, [0, 0, 0, 0])))) a
  (ropDesc e s).bind fun bs s1 =>
  match targetOf bs with
  | none => .ok () (zeros s1)
  | some t =>
    if t.ml then .ok () (zeros s1) else
    let pix (i : Nat) := let p := rtldPixel (laneOf (capV e 0) i); if p.1 < t.w ∧ p.2 < t.h then [p] else []
    (checkSpans s1 (ropWho s1) s1.g.ctx needR (act.flatMap (fun i => (pix i).flatMap (fun p =>
      (if t.dbase = 0 then [] else [⟨i, depthAddr t p.1 p.2, 4⟩]) ++ [⟨i, colourAddr t p.1 p.2, t.bpp⟩])))).bind fun _ s2 =>
    if lowerPlace s2 t (act.flatMap pix) then .stall s else
    let (vals, s3) := pixelLoads t (capV e 0) act s2
    .ok () (onG (putRun o.d.toNat vals) s3)

end Sys2Proof.Machine
end

