-- ==== Sys2Proof/Machine/Arrays.lean ====
section
/-! DEFINITION. The matrix arrays at work (05 R132, R145, R146, R150, R155, R158, R159, R162; 02 R69): what an accepted operation does when
the arrays perform it. -/

namespace Sys2Proof.Machine

/-! Elements of tiles. -/

/-- The code of element `k` of row `r` of a tile (R66, R116). -/
def tileElem (g : Group) (t tt r k : Nat) : Nat :=
  let b := ttBits tt
  let off := 64 * r + k * b / 8
  if b = 4 then (tileByte g t off).toNat / 16 ^ (k % 2) % 16
  else natOf ((List.range (b / 8)).map (fun i => tileByte g t (off + i)))

/-- The float format of an element type; none for the integer types (Table 2-4). -/
def ttFmt (tt : Nat) : Option Fmt :=
  match tt with
  | 2 => some e4m3 | 3 => some e5m2 | 4 => some e2m1 | 6 => some f16 | 7 => some bf16 | 8 => some f32 | 9 => some f64
  | _ => none

/-- A NaN element reads as the generated NaN of a cause, whatever its payload (R125). -/
def asCause (cause : Nat) (x : FVal) : FVal := if x.isNaN then xnan cause else x

/-! Operands of MMA, MMAX and MMAZ. -/

/-- The chunk length (R132). -/
def chunkLen (tt : Nat) : Nat := if tt = 6 ∨ tt = 7 then 16 else 32

/-- One operand of a matrix multiply: which tile, its type, whether a tile row holds one K (MMAX's B), the selector, the scale
offset, its rows and K. -/
structure MatSide where
  tile : Nat
  tt   : Nat
  kRow : Bool
  sel  : Nat
  off  : Nat
  rows : Nat
  k    : Nat
  deriving DecidableEq, Repr

/-- A byte of a panel's scratchpad. -/
def scrByte (s : State) (panel off : Nat) : Nat := (cget zero s.scratch (scrKey panel off)).toNat

/-- The scale byte of an element (R143). -/
def scaleByte (s : State) (panel : Nat) (x : MatSide) (r k : Nat) : Nat :=
  let blk := if x.sel = 2 then 8 else 32
  scrByte s panel (x.off + r * ((x.k + blk - 1) / blk) + k / blk)

/-- The BF16 band scale of an FB4 operand (R119, R143). -/
def bandOf (s : State) (panel : Nat) (x : MatSide) : FVal :=
  let e := (scaleCount 2 x.rows x.k + 1) / 2 * 2
  asCause 2 (decodeF bf16 (scrByte s panel (x.off + e) + 256 * scrByte s panel (x.off + e + 1)))

/-- The value of element `k` of row `r` of an operand with every scale (Table 4-3, R119). -/
def sideElem (g : Group) (s : State) (x : MatSide) (band : FVal) (r k : Nat) : FVal :=
  let code := if x.kRow then tileElem g x.tile x.tt k r else tileElem g x.tile x.tt r k
  let e : FVal :=
    match ttFmt x.tt with
    | some f => asCause 1 (decodeF f code)
    | none =>
      if x.tt = 0 then xrat (if x.sel = 1 then mkRat (sextNat 8 code) 64 else (sextNat 8 code : Rat))
      else
        let z := scaleByte s g.panel x r k
        xrat ((code : Rat) - ((if x.tt = 5 then z % 16 else z : Nat) : Rat))
  if x.sel = 1 then
    let b := scaleByte s g.panel x r k
    xmul e (if b = 255 then xnan 2 else xrat (pow2 ((b : Int) - 127)))
  else if x.sel = 2 then xmul e (xmul (xrat (e3m5 (scaleByte s g.panel x r k))) band)
  else e

/-- The rows of an operand, cut into chunks along K. -/
def sideRows (g : Group) (s : State) (x : MatSide) : List (List (List FVal)) :=
  let band := if x.sel = 2 then bandOf s g.panel x else xrat 1
  let n := chunkLen x.tt
  (List.range x.rows).map (fun r =>
    (List.range ((x.k + n - 1) / n)).map (fun q =>
      ((List.range n).filter (fun j => decide (q * n + j < x.k))).map (fun j => sideElem g s x band r (q * n + j))))

/-- The exact sum of the products of one chunk (R132, R146); a zero sum has no sign. -/
def chunkSum (a b : List FVal) : FVal :=
  let p := (List.zipWith xmul a b).foldl xadd (xrat 0)
  if p.isZero then xrat 0 else p

/-- Add a chunk to an FP32 frame element (R145, R146, R125): the element and the MSTAT flags. -/
def accFp (c : Nat × BitVec 3) (p : FVal) : Nat × BitVec 3 :=
  let v := decodeF f32 c.1
  if v.isNaN then c else
  match p with
  | .nan _ _ cause => (genNaN f32 cause, c.2 ||| msNV)
  | _ =>
    let r := sumF f32 .ne v p
    (r.bits, c.2 ||| (if r.fl &&& flNV != 0 then msNV else 0) ||| (if r.fl &&& flOF != 0 then msOF else 0))

/-- Add a chunk to an INT32 frame element (R145). -/
def accInt (c : Nat × BitVec 3) (p : FVal) : Nat × BitVec 3 :=
  let x : Int := sextNat 32 c.1 + p.toRat.num
  ((x % 4294967296).toNat, if x < -2147483648 ∨ 2147483647 < x then c.2 ||| msIOV else c.2)

/-- The frame element is INT32 (Table 5-2). -/
def intFrame (tt sel : Nat) : Bool := (tt == 0 && sel == 0) || sel == 3

/-- An operation has not yet performed an element: what the turns that it has had have left (R69). -/
def elementLeft (m : MatOp) (i : Nat) : Bool := m.seeds.all (fun x => !Config.firstTurn x i)

/-- Perform an MMA, MMAX or MMAZ of a group (R140, R145) for the frame elements inside M by N that a test selects. -/
def performMma (g : Group) (m : MatOp) (p : Nat → Bool) (s : State) : MatOp × State :=
  let tt := tcTT m.tctlA
  let k := tcCols m.tctlA
  let x := m.kind = .mmax
  let mm := tcRows m.tctlA
  let nn := if x then tcCols m.tctlB else tcRows m.tctlB
  let as_ := sideRows g s ⟨m.a, tt, false, m.sel, fld m.scale 0 21, mm, k⟩
  let bs := sideRows g s ⟨m.b, tcTT m.tctlB, x, m.sel, fld m.scale 32 21, nn, k⟩
  let acc := if intFrame tt m.sel then accInt else accFp
  let r := (indexed 0 as_).foldl (fun (z : BitVec 3 × State) ra =>
    (indexed 0 bs).foldl (fun (z : BitVec 3 × State) rb_ =>
      let i := 64 * ra.1 + rb_.1
      if !p i then z else
      let c0 := if m.kind = .mmaz then 0 else (frameGet z.2 g.panel m.d i).toNat
      let c := (List.zipWith chunkSum ra.2 rb_.2).foldl acc (c0, z.1)
      (c.2, frameSet g.panel m.d i (BitVec.ofNat 32 c.1) z.2)) z) (m.mstat, s)
  ({ m with mstat := r.1 }, r.2)

/-! XSCAN. -/

/-- What a vector has shown so far: its largest exponent, and a non-finite element. -/
structure ScanAcc where
  e   : Option Int
  bad : Bool
  deriving DecidableEq, Repr

/-- One element (R155). -/
def scanElem (x : FVal) (a : ScanAcc) : ScanAcc :=
  match x with
  | .fin _ mag =>
    if mag = 0 then a else
    let l := log2Rat mag
    { a with e := some (match a.e with | some y => max y l | none => l) }
  | _ => { a with bad := true }

/-- The elements of one vector in order: what they have shown, and how many have been read. -/
def scanVec (w : Who) (panel : Nat) (sp ft : Bool) (step : Nat) : Nat → Nat → Nat → ScanAcc → State → (ScanAcc × Nat) × Eng Unit
  | 0, _, k, acc, s => ((acc, k), .ok () s)
  | n + 1, addr, k, acc, s =>
    match engRead w panel sp (if ft then 4 else 8) (addr % 2 ^ 64) s with
    | .ok bs s1 => scanVec w panel sp ft step n (addr + step) (k + 1) (scanElem (decodeF (if ft then f32 else f64) (natOf bs)) acc) s1
    | .pause va s1 => ((acc, k), .pause va s1)
    | .fatal c b va s1 => ((acc, k), .fatal c b va s1)

/-- The 16-bit block exponent (R155). -/
def scanResult (a : ScanAcc) : Nat :=
  if a.bad then 0x7FFF else match a.e with
    | some e => (e % 65536).toNat
    | none => ((-1074 : Int) % 65536).toNat

/-- The vectors in order, from where the operation stands: `vstep` bytes from one to the next, `estep` bytes from one element to the
next. An operation that pauses keeps what its vector has shown (R236). -/
def scanVecs (w : Who) (panel : Nat) (sp ft : Bool) (klen vstep estep src dst : Nat) : Nat → MatOp → State → MatOp × Eng Unit
  | 0, m, s => (m, .ok () s)
  | n + 1, m, s =>
    match scanVec w panel sp ft estep (klen - m.elems) (src + m.vecs * vstep + m.elems * estep) m.elems ⟨m.big, m.bad⟩ s with
    | ((a, _), .ok _ s1) =>
      scanVecs w panel sp ft klen vstep estep src dst n { m with vecs := m.vecs + 1, elems := 0, big := none, bad := false }
        (scrWrite s1 panel (dst + 2 * m.vecs) (bytesOf 2 (scanResult a)))
    | ((a, k), r) => ({ m with elems := k, big := a.e, bad := a.bad }, r)

/-- Perform an XSCAN (R155). -/
def performScan (w : Who) (g : Group) (m : MatOp) (s : State) : MatOp × Eng Unit :=
  let d0 := m.desc.getD 0 0
  let d2 := m.desc.getD 2 0
  let ft := bit d2 37
  let esz := if ft then 4 else 8
  let vstr := fld (m.desc.getD 3 0) 0 40
  let row := m.kind = .xscanRow
  scanVecs w g.panel (bit d0 63) ft (fld d2 12 25) (if row then vstr else esz) (if row then esz else vstr) (descAddr d0)
    (fld (m.desc.getD 1 0) 0 21) (fld d2 0 12 - m.vecs) m s

/-! The wide register. -/

/-- A wide element (Table 5-8). -/
structure Wide where
  w    : Int
  anch : Nat
  live : Bool
  ev   : Bool
  nf   : Bool
  am   : Bool
  bnd  : Nat
  deriving DecidableEq, Repr

/-- BND as it is read: −0 as +0, and what is no nonnegative FP32 number as +∞ (R156). -/
def bndRead (b : Nat) : Nat := if b = 0x8000_0000 then 0 else if 0x7F80_0000 < b then 0x7F80_0000 else b

/-- The frame word that holds word `j` of wide element `i` of wide tile `d`: the frame and its element. -/
def widePlace (d i j : Nat) : Nat × Nat := (d + (8 * i + j) / 4096, (8 * i + j) % 4096)

/-- Read wide element `i` (row-major) of a wide tile. -/
def wideGet (s : State) (panel d i : Nat) : Wide :=
  let word (j : Nat) : Nat := (frameGet s panel (widePlace d i j).1 (widePlace d i j).2).toNat
  let x := (List.range 6).foldr (fun j a => word j + 2 ^ 32 * a) 0
  let f := word 6
  { w := sextNat 192 x, anch := f % 65536, live := f.testBit 16, ev := f.testBit 17, nf := f.testBit 18, am := f.testBit 19
    bnd := bndRead (word 7) }

/-- Write wide element `i` of a wide tile. -/
def wideSet (panel d i : Nat) (e : Wide) (s : State) : State :=
  let x := (e.w % (2 ^ 192 : Nat)).toNat
  let f := e.anch % 65536 + e.live.toNat * 2 ^ 16 + e.ev.toNat * 2 ^ 17 + e.nf.toNat * 2 ^ 18 + e.am.toNat * 2 ^ 19
  let words := (List.range 6).map (fun j => x / 2 ^ (32 * j)) ++ [f, e.bnd]
  (indexed 0 words).foldl (fun a p => frameSet panel (widePlace d i p.1).1 (widePlace d i p.1).2 (BitVec.ofNat 32 p.2) a) s

/-! SLMM. -/

/-- The digits of an element under an exponent, and whether it violates the exponent (R158). -/
def digitsOf (x : Rat) (e : Int) (k : Nat) : List Nat × Bool :=
  let m := if x < 0 then -x else x
  let d := (List.range k).map (fun (j : Nat) =>
    let y := m * pow2 (7 * ((j : Int) + 1) - e - 1)
    y.num.natAbs / y.den % 128)
  if pow2 (e + 1) ≤ m then (127 :: d.drop 1, true) else (d, false)

/-- The exact sum of the pair products of one product in W's units (R159). -/
def pairSum (a b : List Nat) (k : Nat) : Nat :=
  (indexed 1 a).foldl (fun z p =>
    (indexed 1 b).foldl (fun z q => if p.1 + q.1 ≤ k + 1 then z + p.2 * q.2 * 2 ^ (130 - 7 * (p.1 + q.1)) else z) z) 0

/-- An element cut into digits: negative, the digits, and whether it violates its exponent. -/
structure Digits where
  neg : Bool
  d   : List Nat
  ev  : Bool
  deriving DecidableEq, Repr

/-- A row of a sliced operand: its exponent entry, whether it meets a non-finite value, and its digits. -/
structure SliceRow where
  e  : Nat
  nf : Bool
  xs : List Digits
  deriving DecidableEq, Repr

/-- The rows of a sliced operand under the exponent vector at `off`. -/
def sliceRows (g : Group) (s : State) (tile : Nat) (tc : W64) (cols off k : Nat) : List SliceRow :=
  (List.range (tcRows tc)).map (fun r =>
    let e := scrByte s g.panel (off + 2 * r) + 256 * scrByte s g.panel (off + 2 * r + 1)
    let vs := (List.range cols).map (fun j =>
      decodeF (if tcTT tc = 8 then f32 else f64) (tileElem g tile (tcTT tc) r j))
    { e := e, nf := e == 0x7FFF || blockBad vs
      xs := vs.map (fun v =>
        let x := digitsOf v.toRat (sextNat 16 e) k
        { neg := v.neg, d := x.1, ev := x.2 }) })

/-- The sum of the products of two sliced rows. -/
def slicedDot (k : Nat) (a b : List Digits) : Int :=
  (List.zipWith (fun x y =>
    let p : Int := (pairSum x.d y.d k : Nat)
    if x.neg != y.neg then -p else p) a b).foldl (fun z p => z + p) 0

/-- SLMM into one wide element (R159). DESIGN CHOICE (log 93): the path of a non-finite value stores BND as it is read. -/
def slmmElem (k cols : Nat) (a b : SliceRow) (e : Wide) : Wide :=
  if a.nf || b.nf then { e with nf := true, live := true } else
  let sum := sextNat 16 a.e + sextNat 16 b.e
  let anch := (sum % 65536).toNat
  let e1 := if e.live then { e with am := e.am || e.anch != anch } else { e with w := 0, anch := anch, bnd := 0, live := true }
  let add : Rat := (cols * (k + 3) : Nat) * pow2 (sum + 2 - 7 * k)
  { e1 with
    ev := e1.ev || a.xs.any (·.ev) || b.xs.any (·.ev)
    w := e1.w + slicedDot k a.xs b.xs
    bnd := (sumF f32 .up (decodeF f32 e1.bnd) (xrat add)).bits }

/-- The SLSTAT flags that an element gained. -/
def gained (old new : Wide) : BitVec 6 :=
  (if new.ev && !old.ev then slEV else 0) ||| (if new.nf && !old.nf then slNF else 0)
    ||| (if new.am && !old.am then slAM else 0)

/-- Perform an SLMM of a group (R159) for the wide elements that a test selects. -/
def performSlmm (g : Group) (m : MatOp) (p : Nat → Bool) (s : State) : MatOp × State :=
  let cols := tcCols m.tctlA
  let as_ := sliceRows g s m.a m.tctlA cols (fld m.scale 0 21) m.k
  let bs := sliceRows g s m.b m.tctlB cols (fld m.scale 32 21) m.k
  let r := (indexed 0 as_).foldl (fun (z : BitVec 6 × State) a =>
    (indexed 0 bs).foldl (fun (z : BitVec 6 × State) b =>
      let i := 32 * a.1 + b.1
      if !p i then z else
      let e := wideGet z.2 g.panel m.d i
      let e1 := slmmElem m.k cols a.2 b.2 e
      (z.1 ||| gained e e1, wideSet g.panel m.d i e1 z.2)) z) (m.slst, s)
  ({ m with slst := r.1 }, r.2)

/-! WRND. -/

/-- The result of one wide element: its bits, the SLSTAT flags, its bound. -/
def wrndElem (f : Fmt) (rm : Rm) (e : Wide) : Nat × BitVec 6 × Option Nat :=
  if !e.live then (0, 0, none)
  else if e.nf then (genNaN f 6, slNF, none)
  else
    let r := roundSigned f rm false ((e.w : Rat) * pow2 (sextNat 16 e.anch - 128))
    (r.bits, (r.fl &&& (flOF ||| flUF ||| flNX)) <<< 1, some (if e.ev || e.am then 0x7F80_0000 else e.bnd))

/-- An element of a wide tile that holds nothing (R156). -/
def wideEmpty : Wide := ⟨0, 0, false, false, false, false, 0⟩

/-- Perform a WRND of a group (R162) for the wide elements that a test selects. -/
def performWrnd (g : Group) (m : MatOp) (p : Nat → Bool) (s : State) : MatOp × State :=
  let is64 := m.kind = .wrndF64
  let f := if is64 then f64 else f32
  let sz := if is64 then 8 else 4
  let r := (List.range 1024).foldl (fun (z : (BitVec 6 × Option Nat) × State) i =>
    if !p i then z else
    let (y, fl, b) := wrndElem f (rmOf m.rm.toNat) (wideGet z.2 g.panel m.d i)
    let best := match z.1.2, b with
      | some x, some y => some (max x y)
      | none, y => y
      | x, none => x
    ((z.1.1 ||| fl, best), wideSet g.panel m.d i wideEmpty (scrWrite z.2 g.panel (m.off + i * sz) (bytesOf sz y))))
    ((m.slst, m.bound.map (·.toNat)), s)
  ({ m with slst := r.1.1, bound := r.1.2.map (fun x => BitVec.ofNat 32 x) }, r.2)

/-! The arrays at work. -/

/-- Perform a matrix operation of a group (R150), for the elements that a test selects. -/
def performOp (w : Who) (g : Group) (m : MatOp) (p : Nat → Bool) (s : State) : MatOp × Eng Unit :=
  match m.kind with
  | .mma | .mmax | .mmaz => let (m1, s1) := performMma g m p s; (m1, .ok () s1)
  | .xscanRow | .xscanCol => performScan w g m s
  | .slmm => let (m1, s1) := performSlmm g m p s; (m1, .ok () s1)
  | .wrndF64 | .wrndF32 => let (m1, s1) := performWrnd g m p s; (m1, .ok () s1)

/-- Change the oldest operation that the arrays have not performed; none when there is none. -/
def setFirst (f : MatOp → MatOp) : List MatOp → Option (List MatOp)
  | [] => none
  | m :: r => if m.done then (setFirst f r).map (m :: ·) else some (f m :: r)

/-- The same over closed batches. -/
def setFirstBatch (f : MatOp → MatOp) : List Batch → Option (List Batch)
  | [] => none
  | b :: r =>
    match setFirst f b.ops with
    | some l => some ({ b with ops := l } :: r)
    | none => (setFirstBatch f r).map (b :: ·)

/-- Change the operation of a group that the arrays perform next (R150). -/
def onNextOp (f : MatOp → MatOp) (g : Group) : Group :=
  match setFirstBatch f g.batches with
  | some l => { g with batches := l }
  | none => { g with openSet := (setFirst f g.openSet).getD g.openSet }

/-- The operation of a group that the arrays perform next. -/
def nextOp (g : Group) : Option MatOp := (allOps g).find? (fun m => !m.done)

/-- An operation as an engine command, for the faults it meets while it runs (R155, R236). -/
def opCmd (g : Group) (m : MatOp) : Cmd :=
  { id := 0, grp := g.id, panel := g.panel, core := g.core, priv := m.priv, kind := .qnt 0 0 0 0 0, bar := none, done := 0, read := 0
    lines := 0, paused := none, before := [], outs := [], srcs := [], flags := 0, lost := false, tries := 0 }

/-- The frames an operation reads or writes (R153). -/
def framesOf (m : MatOp) : List Nat :=
  match m.kind with
  | .mma | .mmax | .mmaz => [m.d]
  | .slmm | .wrndF64 | .wrndF32 => [m.d, m.d + 1]
  | .xscanRow | .xscanCol => []

/-- An operation that reads memory: an XSCAN whose source is no scratchpad (R155). -/
def scansMemory (m : MatOp) : Bool :=
  (match m.kind with | .xscanRow | .xscanCol => true | _ => false) && !bit (m.desc.getD 0 0) 63

/-- The memory that an XSCAN reads, as a range. -/
def scanSource (g : Group) (m : MatOp) : List Tack :=
  if !scansMemory m then [] else
  let d2 := m.desc.getD 2 0
  let esz := if bit d2 37 then 4 else 8
  let row := m.kind == .xscanRow
  [⟨g.core, false, g.ctx, false, descAddr (m.desc.getD 0 0), fld (m.desc.getD 3 0) 0 40,
    (if row then fld d2 12 25 else fld d2 0 12) * esz, if row then fld d2 0 12 else fld d2 12 25, 0⟩]

/-- The memory of a context that a render target takes: its planes, or its tile records and pool header (R290, R294). -/
def targetRanges (core ctx : Nat) (t : Target) : List Tack :=
  let tiles := (t.w + 7) / 8 * ((t.h + 7) / 8)
  let at_ (a : W64) (n : Nat) : Tack := ⟨core, false, ctx, true, a.toNat, 0, n, 1, 0⟩
  if t.ml then [at_ t.cbase (320 * tiles), at_ t.pool 64]
  else at_ t.cbase (64 * tiles * t.bpp) :: (if t.dbase = 0 then [] else [at_ t.dbase (256 * tiles)])

/-- All memory of a context. -/
def allMemory (core ctx : Nat) : Tack := ⟨core, false, ctx, true, 0, 0, 2 ^ 64, 1, 0⟩

/-- The drawers that a multi-layer target's lists lie in or may yet take: those of its chains and those of its pool (R294, R295). -/
def drawerRanges (w : Who) (core ctx : Nat) (t : Target) (s : State) : List Tack :=
  let word (n : Nat) (a : W64) : Nat := natOf (loadVa w n a s).1
  let node := word 8 (t.pool + 16) / 4096 * 4096
  let chained := (List.range ((t.w + 7) / 8 * ((t.h + 7) / 8))).flatMap (fun i =>
    ((List.range 16).map (fun k => word 4 (t.cbase + BitVec.ofNat 64 (320 * i + 256 + 4 * k)))).filter (fun d => d / 2 ^ 31 % 2 == 1))
  let pooled := (List.range (word 8 t.pool)).map (fun i => word 4 (t.pool + BitVec.ofNat 64 (64 + 4 * i)))
  (chained ++ pooled).map (fun d => ⟨core, false, ctx, true, (node + 4096 * (d % 2 ^ 31)) % 2 ^ 64, 0, 4096, 1, 0⟩)

/-- The memory that a SEAM may write: its target with its drawers, and the target of rank 0 for a gather, which may be any memory until that
participant has come (R308). -/
def seamRanges (s : State) (c : Cmd) (x : SeamInfo) : List Tack :=
  let ctx := panelCtx s c.panel
  let of_ (tgt : List Byte) : List Tack := match targetOf tgt with
    | some t => targetRanges c.core ctx t ++ (if t.ml then drawerRanges { cmdWho s c with alloc := 2 } c.core ctx t s else [])
    | none => []
  of_ x.tgt ++ (if !x.gather || x.rank == 0 then [] else
    match s.cmds.findSome? (fun d => match d.kind with
      | .seam y => if y.key = x.key ∧ y.rank = 0 then some y.tgt else none
      | _ => none) with
    | some tgt => of_ tgt
    | none => [allMemory c.core ctx])

/-- What an engine command has yet to write that no tack covers: the spawn slots of RAYQ.BOB, the memory of SEAM. -/
def openWrites (s : State) (c : Cmd) : List Tack :=
  match c.kind with
  | .ray true _ rays =>
    let base := (sext57 (fld (cget zero s.spnbase (coreDie c.core)) 0 57)).toNat
    rays.map (fun r => ⟨c.core, false, panelCtx s c.panel, true, base + r.slot, 0, 32, 1, 0⟩)
  | .seam x => seamRanges s c x
  | _ => []

/-- What an engine command has yet to write: its destination tacks, and what no tack covers. -/
def yetToWrite (s : State) (c : Cmd) : List Tack := (cmdTacks s c).filter (·.dst) ++ openWrites s c

/-! Order within a group (R206): bytes are compared by address, and 4 KiB units of storage where two addresses reach one. -/

/-- The 4 KiB units of addresses that a range's live bytes touch. -/
def Tack.units (t : Tack) : List Nat :=
  ((List.range t.rows).filter (fun r => decide (t.skip < (r + 1) * t.len))).flatMap (fun r =>
    let a := t.start + r * t.stride + (t.skip - r * t.len)
    let b := t.start + r * t.stride + t.len
    (List.range ((b + 4095) / 4096 - a / 4096)).map (fun i => a / 4096 + i))

/-- Two ranges reach one unit of storage through different addresses. -/
def aliased (w : Who) (s : State) (t u : Tack) : Bool :=
  !t.sp && !u.sp && t.len != 2 ^ 64 && u.len != 2 ^ 64 && t.units.any (fun x => u.units.any (fun y => x != y &&
    (match (physAt s w (BitVec.ofNat 64 (4096 * x))).1, (physAt s w (BitVec.ofNat 64 (4096 * y))).1 with
      | some p, some q => p.key == q.key
      | _, _ => false)))

/-- Two ranges of one group's accesses share a live byte of storage. -/
def meet (w : Who) (s : State) (ts us : List Tack) : Bool := ts.any (fun t => us.any (fun u => t.overlaps u || aliased w s t u))

/-- An engine command of the group has yet to write bytes that the operation uses: it was accepted earlier, as a later one waits for the
operation (R154, R155, R206, R234). -/
def awaitsEngine (s : State) (g : Group) (m : MatOp) : Bool :=
  s.cmds.any (fun c => c.grp == g.id && meet (cmdWho s c) s (yetToWrite s c) (opTacks g m ++ scanSource g m))

/-- An engine command waits for earlier ones of its group (R206, R232, R305, R390): a copy, a quantisation and a SEAM for those that have yet
to write bytes that it uses, a ray command for those of other engines that have yet to write memory (log 128). -/
def awaitsEarlier (s : State) (c : Cmd) : Bool :=
  let before := (s.cmds.takeWhile (fun d => d.id != c.id)).filter (fun d => d.grp == c.grp)
  match c.kind with
  | .ray .. => before.any (fun d => match d.kind with | .ray .. => false | _ => (yetToWrite s d).any (fun t => !t.sp))
  | .seam .. => before.any (fun d => meet (cmdWho s c) s (yetToWrite s d) (openWrites s c))
  | _ => before.any (fun d => meet (cmdWho s c) s (yetToWrite s d) (cmdTacks s c))

/-- The operation of a group that the arrays can perform next. -/
def readyOp (s : State) (g : Group) : Option MatOp :=
  (nextOp g).filter (fun m => m.paused.isNone && !awaitsEngine s g m)

/-- The arrays perform, of the operation that a group has next, the elements of a first turn, where `parts` says so (R69). -/
def someElements (g : Group) (m : MatOp) (s : State) : State :=
  let s1 := { s with parts := s.parts.drop 1 }
  if !s.parts.headD false then s1 else
  match performOp (cmdWho s1 (opCmd g m)) g m (fun i => elementLeft m i && Config.firstTurn s1.free i) (bump s1) with
  | (m1, .ok _ s2) => onGroup g.id (onNextOp (fun _ => { m1 with seeds := s1.free :: m.seeds })) s2
  | _ => s1

/-- Before an operation is performed, operations of other groups of its panel that are in flight on one of its frames may be, for some of
their elements: each element ends with the results of unordered operations in one order or another (R69). -/
def firstTurns (g : Group) (m : MatOp) (s : State) : State :=
  ((allGroups s).filter (fun x => x.live && x.panel == g.panel && x.id != g.id)).foldl (fun a x =>
    match readyOp a x with
    | some n => if (framesOf n).any (fun f => (framesOf m).contains f) then someElements x n a else a
    | none => a) s

/-- The arrays perform the next operation of a group; the answer says whether there was one and it was performed. -/
def runOne (id : Nat) (s : State) : Bool × State :=
  match (allGroups s).find? (fun g => g.live && g.id == id) with
  | none => (false, s)
  | some g =>
    match readyOp s g with
    | none => (false, s)
    | some m =>
      let c := opCmd g m
      let s0 := firstTurns g m s
      match performOp (cmdWho s0 c) g m (elementLeft m) s0 with
      | (m1, .ok _ s1) => (true, answered (.arrays id) (onGroup id (onNextOp (fun _ => { m1 with done := true })) s1))
      | (m1, .pause va s1) => (false, engineStop c (.pause va (onGroup id (onNextOp (fun _ => { m1 with paused := some va })) s1)))
      | (_, .fatal k b va s1) => (false, engineStop c (.fatal k b va s1))

/-- The group with an id has an accepted operation that the arrays have not performed and that satisfies a test. -/
def needsOps (p : MatOp → Bool) (id : Nat) (s : State) : Bool :=
  (allGroups s).any (fun g => g.live && g.id == id && (allOps g).any (fun m => !m.done && p m))

/-- The arrays perform operations of a group in order, at most `n`, while one that satisfies a test is left. -/
def runWhile (p : MatOp → Bool) (id : Nat) : Nat → State → State
  | 0, s => s
  | n + 1, s =>
    if needsOps p id s then
      match runOne id s with
      | (true, s1) => runWhile p id n s1
      | (false, s1) => s1
    else s

/-- The accepted XSCANs of the current group that read memory are performed before a later write of the group (R155, R206); one that
cannot go on while the group is in its handler lets the write go first. -/
def scansFirst (s : State) : Res Unit :=
  if !needsOps scansMemory s.g.id s then .ok () s else
  let s1 := runWhile scansMemory s.g.id 512 s
  if s1.g.live && (s1.g.priv || !needsOps scansMemory s1.g.id s1) then .ok () s1 else .stall s1

end Sys2Proof.Machine
end

