-- ==== Sys2Proof/Machine/Layers.lean ====
section
/-! DEFINITION. Multi-layer render targets (09 R294 to R300, R461; 12 R380, R381): tile records, nodes and drawers, the lists of
pixels, merges, MLINS with its drawers, and MLRES. -/

namespace Sys2Proof.Machine

/-- The address of a tile record (R294). -/
def recordAddr (t : Target) (tile : Nat) : W64 := t.cbase + BitVec.ofNat 64 (320 * tile)

/-- Load a 32-bit word at a checked address. -/
def load4 (w : Who) (va : W64) (s : State) : Nat × State := let (bs, s1) := loadVa w 4 va s; (natOf bs, s1)

/-- The drawer word of a chain position. -/
def drawerWord (t : Target) (tile k : Nat) (s : State) : Nat × State :=
  load4 (ropWho s) (recordAddr t tile + BitVec.ofNat 64 (256 + 4 * k)) s

/-- NODEBASE of the pool, its low 12 bits taken as zero (R295). -/
def nodeBase (t : Target) (s : State) : W64 × State :=
  let (bs, s1) := loadVas (ropWho s) 4 2 (t.pool + 16) s
  (BitVec.ofNat 64 (natOf bs / 4096 * 4096), s1)

/-- The address of node (k, slot) when the chain position holds a valid drawer (R294). -/
def nodeAddr (t : Target) (tile k slot : Nat) (s : State) : Option W64 × State :=
  let (d, s1) := drawerWord t tile k s
  let (nb, s2) := nodeBase t s1
  if d / 2 ^ 31 % 2 = 1 then (some (nb + BitVec.ofNat 64 (4096 * (d % 2 ^ 31) + 16 * slot)), s2) else (none, s2)

/-- The layer that a node's 128 bits hold. -/
def layerOf (k slot x : Nat) : Layer :=
  { place := some (k, slot), depth := BitVec.ofNat 32 x, col := BitVec.ofNat 64 (x / 2 ^ 32), cov := bitsOf x 96 8
    mrg := bitsOf x 104 1 == 1, deg := bitsOf x 105 1 == 1 }

/-- Follow a pixel's links (R461): at most `n` nodes from (k, slot). -/
def followList (t : Target) (tile : Nat) : Nat → Nat → Nat → State → List Layer × State
  | 0, _, _, s => ([], s)
  | n + 1, k, slot, s =>
    match nodeAddr t tile k slot s with
    | (none, s1) => ([], s1)
    | (some a, s1) =>
      let (bs, s2) := loadVas (ropWho s1) 4 4 a s1
      let x := natOf bs
      if bitsOf x 111 1 = 0 then ([], s2)
      else if bitsOf x 124 1 = 1 then ([layerOf k slot x], s2)
      else
        let (l, s3) := followList t tile n (bitsOf x 120 4) (bitsOf x 112 8) s2
        (layerOf k slot x :: l, s3)

/-- A pixel's list, front to back (R461). -/
def readList (t : Target) (tile px : Nat) (s : State) : List Layer × State :=
  let (h, s1) := load4 (ropWho s) (recordAddr t tile + BitVec.ofNat 64 (4 * px)) s
  followList t tile (bitsOf h 12 4) (bitsOf h 8 4) (bitsOf h 0 8) s1

/-- The 128 bits of a node with its link. -/
def nodeBits (l : Layer) (next : Option (Nat × Nat)) : Nat :=
  let link := match next with
    | some n => n.2 * 2 ^ 112 + n.1 * 2 ^ 120
    | none => 2 ^ 124
  l.depth.toNat + l.col.toNat * 2 ^ 32 + l.cov % 256 * 2 ^ 96 + (if l.mrg then 2 ^ 104 else 0) +
    (if l.deg then 2 ^ 105 else 0) + 2 ^ 111 + link

/-- Write the nodes of a list. -/
def writeNodes (t : Target) (tile : Nat) : List Layer → State → State
  | [], s => s
  | l :: r, s =>
    let s2 := match l.place with
      | none => s
      | some p =>
        match nodeAddr t tile p.1 p.2 s with
        | (some a, s1) => storeVa (ropWho s1) 4 a (bytesOf 16 (nodeBits l (r.head?.bind (·.place)))) s1
        | (none, s1) => s1
    writeNodes t tile r s2

/-- A list in which no two layers stand in one slot: of the layers read from one slot of a list whose links loop, the first is kept
(R461; log 91). -/
def oncePerSlot (l : List Layer) : List Layer :=
  l.foldl (fun a x => if x.place.isSome && a.any (fun y => y.place == x.place) then a else a ++ [x]) []

/-- Write a pixel's list with a consistent head word (R461). -/
def writeList (t : Target) (tile px : Nat) (read : List Layer) (s : State) : State :=
  let l := oncePerSlot read
  let s1 := writeNodes t tile l s
  let p := (l.head?.bind (·.place)).getD (0, 0)
  storeVa (ropWho s1) 1 (recordAddr t tile + BitVec.ofNat 64 (4 * px)) (bytesOf 4 (p.2 + p.1 * 256 + l.length * 4096)) s1

/-! Depth order and merges. -/

/-- DEPTH order with −0 equal to +0 and a NaN above every number (R461). -/
def depthLe (a b : W32) : Bool :=
  let x := v32 a
  let y := v32 b
  if y.isNaN then true else if x.isNaN then false else ltF x y || eqF x y

/-- The difference of two depths; none is +∞ (R461). Equal infinities differ by nothing. -/
def depthDiff (a b : W32) : Option Rat :=
  match v32 a, v32 b with
  | .fin m x, .fin n y =>
    let d := (FVal.fin m x).toRat - (FVal.fin n y).toRat
    some (if d < 0 then -d else d)
  | .inf x, .inf y => if x = y then some 0 else none
  | _, _ => none

/-- One difference is smaller than another. -/
def diffLt (a b : Option Rat) : Bool :=
  match a, b with
  | some x, some y => decide (x < y)
  | some _, none => true
  | none, _ => false

/-- The index of the least of a list of differences, the nearer on a tie. -/
def leastDiff : List (Option Rat) → Nat
  | [] => 0
  | x :: r =>
    let j := leastDiff r
    match r[j]? with
    | some y => if diffLt y x then j + 1 else 0
    | none => 0

/-- A channel of a colour. -/
def colCh (c : W64) (i : Nat) : FVal := decodeF f16 (bitsOf c.toNat (16 * i) 16)

/-- One channel of a merge (Table 9-10), front f and back b. -/
def mergeCh (rule : Nat) (f b : W64) (i : Nat) : FVal :=
  let fa := colCh f 3
  let ba := colCh b 3
  let x := colCh f i
  let y := colCh b i
  if rule = 0 then xover x fa y
  else if rule = 1 then x
  else if i = 3 then xfirst [fa, ba] (xadd (xrat 1) (xmul (xcompl fa) (xcompl ba)).flip)
  else
    let den := xadd fa ba
    xfirst [x, fa, y, ba] (if den.isZero then xmul (xadd x y) (xrat (mkRat 1 2)) else xdiv (xadd (xmul fa x) (xmul ba y)) den)

/-- Merge two layers (R297); the result keeps the front's place. -/
def mergeLayers (rule : Nat) (degrade : Bool) (f b : Layer) : Layer :=
  let col := (List.range 4).foldl (fun a i => a + xround f16 (mergeCh rule f.col b.col i) * 2 ^ (16 * i)) 0
  { place := f.place, depth := f.depth, col := BitVec.ofNat 64 col, cov := f.cov ||| b.cov, mrg := true
    deg := f.deg || b.deg || degrade }

/-- Put a layer after every layer whose DEPTH is not greater (R296). -/
def placeLayer (f : Layer) (l : List Layer) : List Layer :=
  let n := (indexed 0 l).foldl (fun a e => if depthLe e.2.depth f.depth then e.1 + 1 else a) 0
  l.take n ++ f :: l.drop n

/-- Merge the adjacent pair of least difference. A merged layer keeps the slot of its front, or of its back where the front is the
fragment; a fragment outside the pair takes the back's (R455). -/
def mergePair (rule : Nat) (l : List Layer) : List Layer :=
  let diffs := (l.zip (l.drop 1)).map (fun e => depthDiff e.1.depth e.2.depth)
  let j := leastDiff diffs
  match l[j]?, l[j + 1]? with
  | some f, some b =>
    let m := { mergeLayers rule false f b with place := f.place.orElse (fun _ => b.place) }
    (l.take j ++ m :: l.drop (j + 2)).map (fun x => if x.place.isNone then { x with place := b.place } else x)
  | _, _ => l

/-- The layer of nearest DEPTH, the nearer on a tie. -/
def nearestLayer (d : W32) (l : List Layer) : Nat := leastDiff (l.map (fun x => depthDiff x.depth d))

/-- The merge of degrade mode (R298): the smaller depth in front, the existing layer on a tie. -/
def degradeInto (rule : Nat) (f : Layer) (l : List Layer) : List Layer :=
  let j := nearestLayer f.depth l
  (indexed 0 l).map (fun e =>
    if e.1 = j then
      let m := if depthLe e.2.depth f.depth then mergeLayers rule true e.2 f else mergeLayers rule true f e.2
      { m with place := e.2.place }
    else e.2)

/-! Drawers. -/

/-- The USED bit of a node. -/
def nodeUsed (t : Target) (tile k slot : Nat) (s : State) : Bool :=
  match nodeAddr t tile k slot s with
  | (some a, s1) => let (x, _) := load4 (ropWho s1) (a + 12) s1; bitsOf x 15 1 == 1
  | (none, _) => true

/-- The chain positions of a tile that hold a drawer. -/
def chainOf (t : Target) (tile : Nat) (s : State) : List Nat :=
  (List.range 16).filter (fun k => decide ((drawerWord t tile k s).1 / 2 ^ 31 % 2 = 1))

/-- The lowest free slot of the lowest chain position (R296). -/
def freeSlot (t : Target) (tile : Nat) (s : State) : Option (Nat × Nat) :=
  (chainOf t tile s).findSome? (fun k =>
    ((List.range 256).find? (fun i => !nodeUsed t tile k i s)).map (fun i => (k, i)))

/-- The free slots of a tile's chain, lowest first. -/
def freeList (t : Target) (tile : Nat) (s : State) : List (Nat × Nat) :=
  (chainOf t tile s).flatMap (fun k => ((List.range 256).filter (fun i => !nodeUsed t tile k i s)).map (fun i => (k, i)))

/-- How many free slots a tile's chain has. -/
def freeSlots (t : Target) (tile : Nat) (s : State) : Nat :=
  (chainOf t tile s).foldl (fun a k => a + ((List.range 256).filter (fun i => !nodeUsed t tile k i s)).length) 0

/-- A fragment of a lane of MLINS. -/
structure MlFrag where
  lane  : Nat
  tile  : Nat
  px    : Nat
  layer : Layer
  deriving DecidableEq, Repr

/-- The fragments of the lanes that are not skipped (R296, R380). -/
def mlFrags (t : Target) (e : InFlight) : List MlFrag :=
  (activeLanes e.mask).filterMap (fun i =>
    let a := (laneOf (capV e 3) i).toNat
    let x := bitsOf a 0 12
    let y := bitsOf a 12 12
    let d := laneOf (capV e 0) i
    if x < t.w ∧ y < t.h ∧ !(v32 d).isNaN then
      some { lane := i, tile := tileOf t x y, px := inTile x y
             layer := { place := none, depth := d, col := pair64 (laneOf (capV e 1) i) (laneOf (capV e 2) i)
                        cov := bitsOf a 24 8, mrg := false, deg := false } }
    else none)

/-- What the count of R298 keeps: the free slots and the drawers of each tile met so far, the layers of each pixel, and the
lanes that need a drawer with whether one can be taken. -/
structure MlPlan where
  tiles : List (Nat × Nat × Nat)
  pix   : List (Nat × Nat × Nat)
  need  : List (Nat × Nat × Bool)
  deriving DecidableEq, Repr

/-- Count one fragment. -/
def planOne (t : Target) (s : State) (p : MlPlan) (f : MlFrag) : MlPlan :=
  let tl := match p.tiles.find? (fun x => x.1 == f.tile) with
    | some x => x.2
    | none => (freeSlots t f.tile s, (chainOf t f.tile s).length)
  let n := match p.pix.find? (fun x => x.1 == f.tile && x.2.1 == f.px) with
    | some x => x.2.2
    | none => (readList t f.tile f.px s).1.length
  if t.lcap < n + 1 then p else
  let full := decide (16 ≤ tl.2)
  let short := tl.1 == 0
  let tl2 := if short then (if full then tl else (255, tl.2 + 1)) else (tl.1 - 1, tl.2)
  { tiles := (f.tile, tl2) :: p.tiles.filter (fun x => x.1 != f.tile)
    pix := if short && full then p.pix else (f.tile, f.px, n + 1) :: p.pix.filter (fun x => !(x.1 == f.tile && x.2.1 == f.px))
    need := if short then p.need ++ [(f.lane, f.tile, !full)] else p.need }

/-- The drawers that an insertion of fragments needs (R298). -/
def planDrawers (t : Target) (fs : List MlFrag) (s : State) : MlPlan := fs.foldl (planOne t s) ⟨[], [], []⟩

/-- COUNT of the pool. -/
def poolCount (t : Target) (s : State) : Nat := natOf (loadVas (ropWho s) 4 2 t.pool s).1

/-- Entry `i` of the pool. -/
def poolEntry (t : Target) (i : Nat) (s : State) : Nat :=
  (load4 (ropWho s) (t.pool + BitVec.ofNat 64 (64 + 4 * i)) s).1

/-- Take a drawer into the next chain position of a tile. -/
def addDrawer (t : Target) (tile d : Nat) (s : State) : State :=
  match (List.range 16).find? (fun k => !(chainOf t tile s).contains k) with
  | some k => storeVa (ropWho s) 1 (recordAddr t tile + BitVec.ofNat 64 (256 + 4 * k)) (bytesOf 4 (2 ^ 31 + d % 2 ^ 31)) s
  | none => s

/-- The spans of the drawers that a tile's chain names. -/
def drawerSpans (t : Target) (lane tile : Nat) (s : State) : List Span :=
  (chainOf t tile s).filterMap (fun k => (nodeAddr t tile k 0 s).1.map (fun a => ⟨lane, a, 4096⟩))

/-- The drawers that a pop of `n` takes, in the order taken (R295). -/
def popped (t : Target) (n : Nat) (s : State) : List Nat :=
  let c := poolCount t s
  (List.range (min n c)).map (fun i => poolEntry t (c - 1 - i) s)

/-- Spans that other spans lead to: those that `next` finds, where the first pass their checks (R379, R381). -/
def ledTo (w : Who) (need : Need) (first : List Span) (next : State → List Span) (s : State) : List Span :=
  match checkSpans s w s.g.ctx need first with
  | .ok _ s1 => next s1
  | _ => []

/-- The spans that an MLINS checks for its lanes' own tiles: records, pool header, and the drawers of the chains (R379). -/
def tileSpans (t : Target) (fs : List MlFrag) (s : State) : List Span :=
  let own (f : MlFrag) : List Span := [⟨f.lane, recordAddr t f.tile, 320⟩, ⟨f.lane, t.pool, 64⟩]
  fs.flatMap (fun f => own f ++ ledTo (ropWho s) needR (own f) (drawerSpans t f.lane f.tile) s)

/-- The lanes that a pop serves, in order, of those that need a drawer, each with its tile. -/
def served (p : MlPlan) : List (Nat × Nat) := (p.need.filter (fun x => x.2.2)).map (fun x => (x.1, x.2.1))

/-- The spans of the pool entries that lanes pop, each with its lane, and of the drawers that those entries name, each with every lane from
there on that inserts into its tile (R295, R379). -/
def popSpans (t : Target) (fs : List MlFrag) (lanes : List (Nat × Nat)) (s : State) : List Span :=
  let c := poolCount t s
  (indexed 0 (lanes.take c)).flatMap (fun x =>
    let e : Span := ⟨x.2.1, t.pool + BitVec.ofNat 64 (64 + 4 * (c - 1 - x.1)), 4⟩
    e :: ledTo (ropWho s) needR [e] (fun a =>
      let d := (nodeBase t a).1 + BitVec.ofNat 64 (4096 * (poolEntry t (c - 1 - x.1) a % 2 ^ 31))
      (fs.filter (fun f => f.tile == x.2.2 && decide (x.2.1 ≤ f.lane))).map (fun f => ⟨f.lane, d, 4096⟩)) s)

/-- Everything that an MLINS checks before any lane is performed, each page for every lane that touches it (R191, R379). -/
def mlSpans (t : Target) (fs : List MlFrag) (s : State) : List Span :=
  let first := tileSpans t fs s
  first ++ ledTo (ropWho s) needR first (fun a => popSpans t fs (served (planDrawers t fs a)) a) s

/-- An MLINS with fragments checks its pages and pops its drawers (R298); the drawers popped. -/
def mlPop (t : Target) (fs : List MlFrag) (s : State) : Res (List Nat) :=
  (checkSpans s (ropWho s) s.g.ctx needRW (mlSpans t fs s)).bind fun _ s1 =>
  let p := planDrawers t fs s1
  let want := (served p).length
  let c := poolCount t s1
  let take := min want c
  if !t.deg && (decide (take < want) || p.need.any (fun x => !x.2.2)) then
    .trap { cause := 0x0E, sub := 1, mask := maskOf (p.need.map (·.1)), fault := t.pool } s1
  else .ok (popped t take s1) (if take = 0 then s1 else storeVa (ropWho s1) 2 t.pool (bytesOf 8 (c - take)) s1)

/-- The next drawer for a lane without one: of those popped for its MLINS, else the next of the pool while one remains (R298, R456), whose
pages pass their checks (log 129). -/
def nextDrawer (t : Target) (f : MlFrag) (ds : List Nat) (s : State) : Option (Nat × List Nat × State) :=
  match ds with
  | d :: r => some (d, r, s)
  | [] =>
    let c := poolCount t s
    if c = 0 then none else
    match checkSpans s (ropWho s) s.g.ctx needRW (popSpans t [f] [(f.lane, f.tile)] s) with
    | .ok _ s1 => some (poolEntry t (c - 1) s1, [], storeVa (ropWho s1) 2 t.pool (bytesOf 8 (c - 1)) s1)
    | _ => none

/-- A slot for a fragment that takes one (R296): the lowest free one, after a drawer has joined the chain where none was free. -/
def seatFor (t : Target) (f : MlFrag) (x : List Nat × State) : Option (Nat × Nat) × List Nat × State :=
  match freeSlot t f.tile x.2 with
  | some p => (some p, x)
  | none =>
    if 16 ≤ (chainOf t f.tile x.2).length then (none, x) else
    match nextDrawer t f x.1 x.2 with
    | some (d, r, s1) => let s2 := addDrawer t f.tile d s1; (freeSlot t f.tile s2, r, s2)
    | none => (none, x)

/-- Insert one fragment (R296), with the drawers still to hand out; one that finds no slot is merged into the nearest layer, or dropped
where its pixel has none, under DEG = 1 (R298). -/
def insertOne (t : Target) (f : MlFrag) (x : List Nat × State) : List Nat × State :=
  let (l, s1) := readList t f.tile f.px x.2
  if t.lcap < l.length + 1 then
    (x.1, writeList t f.tile f.px (mergePair t.rule (placeLayer f.layer l)) s1)
  else
    match seatFor t f (x.1, s1) with
    | (some p, r, s2) => (r, writeList t f.tile f.px (placeLayer { f.layer with place := some p } l) s2)
    | (none, r, s2) => (r, if t.deg && !l.isEmpty then writeList t f.tile f.px (degradeInto t.rule f.layer l) s2 else s2)

/-- Under DEG = 0 a fragment would find no slot. -/
def lacksSeat (t : Target) (f : MlFrag) (x : List Nat × State) : Bool :=
  let (l, s1) := readList t f.tile f.px x.2
  !t.deg && decide (l.length + 1 ≤ t.lcap) && (seatFor t f (x.1, s1)).1.isNone

/-- Push a drawer back onto the pool. -/
def pushDrawer (t : Target) (d : Nat) (s : State) : State :=
  let c := poolCount t s
  let s1 := storeVa (ropWho s) 1 (t.pool + BitVec.ofNat 64 (64 + 4 * c)) (bytesOf 4 d) s
  storeVa (ropWho s) 2 t.pool (bytesOf 8 (c + 1)) s1

/-- Drawers that no lane took go back to the pool, the last popped first (log 129). -/
def giveBack (t : Target) (x : List Nat × State) : State := x.1.foldr (pushDrawer t) x.2

/-- An MLINS under way: its group, its target, the fragments that it has left and the drawers popped for it that it has not handed out. -/
structure MlRun where
  id      : Nat
  tgt     : Target
  frags   : List MlFrag
  drawers : List Nat
  deriving DecidableEq, Repr

/-- An MLINS begins: its descriptor is read, its pages are checked and its drawers popped. One with an invalid or flat descriptor has
nothing to do, and neither has one whose lanes have come between those of another. -/
def mlBegin (e : InFlight) (s : State) : Res (Option MlRun) :=
  if e.done || e.mask == 0 then .ok none s else
  (ropDesc e s).bind fun bs s1 =>
  match targetOf bs with
  | none => .ok none s1
  | some t => if !t.ml then .ok none s1 else (mlPop t (mlFrags t e) s1).bind fun ds s2 => .ok (some ⟨s.g.id, t, mlFrags t e, ds⟩) s2

/-! Lanes of other groups' MLINS between those of one (R300, R459). An MLINS of which lanes come between is performed whole in that step, so
that an MLRES finds all of it or nothing. -/

/-- An MLINS that can go on. -/
def isMlins (e : InFlight) : Bool :=
  !e.lost && !e.done && (match decode e.word e.ext with
    | .instr (.mlins _) _ => true
    | _ => false)

/-- A group has engine commands or array operations that its next memory instruction may have to follow (R155, R206). -/
def hasOpen (s : State) (g : Group) : Bool :=
  needsOps scansMemory g.id s || s.cmds.any (fun c => c.grp == g.id && (match c.kind with | .ray bob .. => bob | _ => false))

/-- The other groups whose next memory instruction is an MLINS. -/
def rivals (s : State) : List Nat :=
  (s.others.filter (fun g => g.live && g.resident && (g.inflight.head?.map isMlins).getD false && !hasOpen s g)).map (·.id)

/-- A rival's MLINS begins; one that meets a fault does not. -/
def beginRival (id : Nat) (s : State) : Option (MlRun × State) :=
  (focus (fun g => g.id == id) s).bind fun a =>
    (a.g.inflight.head?).bind fun e =>
      match mlBegin e a with
      | .ok (some r) a1 => some (r, refocus s a1)
      | _ => none

/-- An MLINS under way inserts its next lane; none where that would find no slot under DEG = 0. -/
def insertNext (r : MlRun) (s : State) : Option (MlRun × State) :=
  match r.frags, focus (fun g => g.id == r.id) s with
  | f :: fs, some a =>
    if lacksSeat r.tgt f (r.drawers, a) then none else
    let x := insertOne r.tgt f (r.drawers, a)
    some ({ r with frags := fs, drawers := x.1 }, refocus s x.2)
  | _, _ => none

/-- The MLINS of a group has been performed. -/
def ranMlins : List InFlight → List InFlight
  | [] => []
  | e :: r => { e with done := true } :: r

/-- Let the MLINS under way insert lanes in an open order, and rivals begin among them, until all that have begun are at their end; none where
a lane under DEG = 0 would find no slot, which no order that R298 allows lets happen. -/
def insertMixed (own : Nat) : Nat → List MlRun → List Nat → State → Option State
  | 0, _, _, _ => none
  | n + 1, runs, rest, s =>
    let open_ := runs.filter (fun r => !r.frags.isEmpty)
    if open_.isEmpty then
      some (runs.foldl (fun a r =>
        let b := withGroup r.id (fun b => giveBack r.tgt (r.drawers, b)) a
        if r.id = own then b else onGroup r.id (fun g => { g with inflight := ranMlins g.inflight }) b) s)
    else
      let k := Config.choose s.free n % (open_.length + rest.length)
      match open_[k]?, rest[k - open_.length]? with
      | some r, _ => (insertNext r (bump s)).bind fun x => insertMixed own n (runs.map (fun y => if y.id = r.id then x.1 else y)) rest x.2
      | none, some id =>
        match beginRival id (bump s) with
        | some x => insertMixed own n (runs ++ [x.1]) (rest.filter (· != id)) x.2
        | none => insertMixed own n runs (rest.filter (· != id)) (bump s)
      | none, none => none

/-- The lanes of one MLINS in order, with nothing between them. -/
def insertLanes (t : Target) (fs : List MlFrag) (ds : List Nat) (s : State) : State :=
  giveBack t (fs.foldl (fun a f => insertOne t f a) (ds, s))

/-- Insert fragments with the drawers popped for them; between them, where `parts` says so, lanes of other groups' MLINS arrive
(R300). -/
def insertAll (t : Target) (fs : List MlFrag) (ds : List Nat) (s : State) : State :=
  if (rivals s).isEmpty then insertLanes t fs ds s else
  let s1 := { s with parts := s.parts.drop 1 }
  let mixed := if s.parts.headD false then
    insertMixed s.g.id (65 * ((rivals s).length + 1)) [⟨s.g.id, t, fs, ds⟩] (rivals s) s1 else none
  mixed.getD (insertLanes t fs ds s1)

/-- MLINS (R296 to R298, R300): a descriptor that is invalid or flat acts on no pixel. -/
def perfMlins (_o : Opnd) (e : InFlight) (s : State) : Res Unit :=
  (mlBegin e s).bind fun k s1 =>
    match k with
    | none => .ok () s1
    | some r => .ok () (insertAll r.tgt r.frags r.drawers s1)

/-! MLRES. -/

/-- A uniform descriptor of 64 bytes. -/
def uniDesc (va : W64) (s : State) : Res (List Byte) :=
  (checkLanes s (whoOf s.g 0) s.g.ctx 64 64 needR [(0, va)]).bind fun ps s1 =>
    match ps with
    | [] => .ok [] s1
    | (_, p) :: _ => let (bs, s2) := loadBytes s1 (whoOf s1.g 0) p 64; .ok bs s2

/-- Of the traps that the spans read and the spans written meet: that of the higher priority in Table 6-7, and of one kind the lower
address (R381). -/
def worseTrap (t u : TrapInfo) : TrapInfo :=
  if u.cause < t.cause then u
  else if t.cause < u.cause then t
  else { (if u.fault.toNat < t.fault.toNat then u else t) with sub := min t.sub u.sub }

/-- Two checks of one instruction: where both meet a trap, the worse. -/
def alongside {α β : Type} (r : Res α) (next : State → Res β) : Res (α × β) :=
  match r with
  | .trap t s1 =>
    match next s1 with
    | .trap u s2 => .trap (worseTrap t u) s2
    | .fatal c b a s2 => .fatal c b a s2
    | _ => .trap t s1
  | r => r.bind fun x s1 => (next s1).bind fun y s2 => .ok (x, y) s2

/-- Check spans that are read and spans that are written, together. -/
def checkBoth (rs ws : List Span) (w : Who) (s : State) : Res Unit :=
  (alongside (checkSpans s w s.g.ctx needR rs) (fun s1 => checkSpans s1 w s1.g.ctx needW ws)).bind fun _ s1 => .ok () s1

/-- The tiles of a target. -/
def tileCount (t : Target) : Nat := (t.w + 7) / 8 * ((t.h + 7) / 8)

/-- The pixels of a tile inside the target. -/
def tilePixels (t : Target) (tile : Nat) : List (Nat × Nat) :=
  let n := (t.w + 7) / 8
  ((List.range 64).map (fun k => (tile % n * 8 + k % 8, tile / n * 8 + k / 8))).filter (fun p => decide (p.1 < t.w ∧ p.2 < t.h))

/-- The spans of a plane of `b` bytes per pixel that hold pixels of the target. -/
def planeSpans (t : Target) (base : W64) (b : Nat) : List Span :=
  (List.range (tileCount t)).map (fun i =>
    let last := (tilePixels t i).foldl (fun a p => max a (inTile p.1 p.2)) 0
    ⟨0, base + BitVec.ofNat 64 (64 * i * b), (last + 1) * b⟩)

/-- Resolve one list: the accumulated colour (R299). -/
def resolveList (l : List Layer) : List FVal :=
  l.foldl (fun acc x =>
    let aa := acc.getD 3 (.fin false 0)
    (indexed 0 acc).map (fun c => xfirst [c.2, aa, colCh x.col c.1] (xadd c.2 (xmul (xcompl aa) (colCh x.col c.1)))))
    (List.replicate 4 (.fin false 0))

/-- Resolve one pixel into the flat target. -/
def resolvePixel (t flat : Target) (p : Nat × Nat) (s : State) : State :=
  let w := ropWho s
  let (l, s1) := readList t (tileOf t p.1 p.2) (inTile p.1 p.2) s
  let s2 := storeVa w 2 (colourAddr flat p.1 p.2) (colourBytes flat (resolveList l)) s1
  if flat.dbase = 0 then s2 else
  let d := match l with
    | x :: _ => x.depth.toNat
    | [] => 0x7F80_0000
  storeVa w 1 (depthAddr flat p.1 p.2) (bytesOf 4 d) s2

/-- Clear one tile: zero its record, zero each drawer and then push it, in chain order (R299). -/
def clearTile (t : Target) (tile : Nat) (s : State) : State :=
  let nb := (nodeBase t s).1
  let ds := (chainOf t tile s).map (fun k => (drawerWord t tile k s).1 % 2 ^ 31)
  let s1 := storeVa (ropWho s) 80 (recordAddr t tile) (List.replicate 320 0) s
  ds.foldl (fun a d => pushDrawer t d (storeVa (ropWho a) 1024 (nb + BitVec.ofNat 64 (4096 * d)) (List.replicate 4096 0) a)) s1

/-- MLRES and MLRES.CLR (R299, R381). -/
def mlresBody (clr : Bool) (o : Opnd) (s : State) : Res (Option W64) :=
  (alongside (uniDesc (rdS s o.a.toNat) s) (uniDesc (rdS s o.b.toNat))).bind fun d s2 =>
  match targetOf d.1, targetOf d.2 with
  | some t, some flat =>
    if !t.ml || flat.ml || t.w != flat.w || t.h != flat.h then .ok none s2 else
    let w := ropWho s2
    let tiles := tileCount t
    let recs : List Span := [⟨0, t.cbase, 320 * tiles⟩]
    let head : List Span := [⟨0, t.pool, 64⟩]
    let planes := planeSpans flat flat.cbase flat.bpp ++ (if flat.dbase = 0 then [] else planeSpans flat flat.dbase 4)
    let drawers := (List.range tiles).flatMap (fun i =>
      ledTo w needR (⟨0, recordAddr t i, 320⟩ :: head) (drawerSpans t 0 i) s2)
    let back (a : State) : List Span := if clr && !drawers.isEmpty then
      [⟨0, t.pool + BitVec.ofNat 64 (64 + 4 * poolCount t a), 4 * drawers.length⟩] else []
    (checkBoth (recs ++ head ++ drawers)
      (planes ++ (if clr then recs ++ head ++ drawers ++ ledTo w needR head back s2 else [])) w s2).bind fun _ s4 =>
    let s5 := (List.range tiles).foldl (fun a i => (tilePixels t i).foldl (fun b p => resolvePixel t flat p b) a) s4
    .ok none (if clr then (List.range tiles).foldl (fun a i => clearTile t i a) s5 else s5)
  | _, _ => .ok none s2

end Sys2Proof.Machine
end

