-- ==== Sys2Proof/Machine/Perform.lean ====
section
/-! DEFINITION. Performing issued global memory instructions in order (R269): what a captured instruction does, the instructions
that are held in flight, and draining them. -/

namespace Sys2Proof.Machine

/-- Perform the instruction that an entry's words hold, on its captured mask and operands. -/
def performEntry (e : InFlight) (s : State) : Res Unit :=
  match decode e.word e.ext with
  | .illegal _ => .ok () s
  | .instr i _ =>
    match i with
    | .ld o => perfLd o e s
    | .st o => perfSt o e s
    | .sld o => perfSld o e s
    | .sst o => perfSst o e s
    | .ldacq o => perfLdacq o e s
    | .atom o => perfAtom o e s
    | .cas o => perfCas o e s
    | .red o => perfRed o e s
    | .tld o => perfTld o e s
    | .tst o => perfTst o e s
    | .accld o => perfAccld o e s
    | .accst o => perfAccst o e s
    | .texs o => perfTexs o e s
    | .texsL o => perfTexsL o e s
    | .texsB o => perfTexsB o e s
    | .texf o => perfTexf o e s
    | .texfL o => perfTexfL o e s
    | .rtst o => perfRtst o e s
    | .rtld o => perfRtld o e s
    | .mlins o => perfMlins o e s
    | _ => .ok () s

/-- An instruction that is kept in flight and takes a replay entry (Tables 12-1 and 13-1, R336, R341). -/
def isReplay : Instr → Bool
  | .ld _ | .st _ | .sld _ | .sst _ | .ldacq _ | .atom _ | .cas _ | .red _ | .tld _ | .tst _ | .accld _ | .accst _
  | .texs _ | .texsL _ | .texsB _ | .texf _ | .texfL _ | .rtst _ | .rtld _ | .mlins _ => true
  | _ => false

/-- A global memory instruction that writes memory when it is performed. -/
def storesMemory : Instr → Bool
  | .st _ | .sst _ | .atom _ | .cas _ | .red _ | .tst _ | .accst _ | .rtst _ | .mlins _ => true
  | _ => false

/-! What an instruction waits for in the program order of its group (R206). -/

/-- The addresses that a captured load reads, of those whose consumer may wait at kind 8: LD, SLD, LDACQ, and the old values of ATOM and CAS
(R341, Tables 12-1 and 13-1). -/
def loadAddrs (e : InFlight) : List W64 :=
  match decode e.word e.ext with
  | .illegal _ => []
  | .instr i _ =>
    match i with
    | .ld o => (vecAddrs e o (capS e 0) (capV e 0)).map (·.2)
    | .sld o => [scalarAddr (capS e 0) (capS e 1) (parOf o) (dispOf o)]
    | .ldacq o => [capS e 0 + dispOf o]
    | .atom o => (vecAddrs e o (capS e 0) (capV e (dataRegs o))).map (·.2)
    | .cas o => (vecAddrs e o (capS e 0) (capV e (2 * dataRegs o))).map (·.2)
    | _ => []

/-- The addresses that a captured memory instruction is on its way to; of one with a descriptor, the descriptor's. -/
def sentAddrs (e : InFlight) : List W64 :=
  match decode e.word e.ext with
  | .instr (.tld o) _ | .instr (.tst o) _ => (tileRows o e e.tctl 0).flatMap (fun r => (rowChunks e.tctl (parOf o).sel.toNat r).map (·.2.1))
  | .instr (.accld o) _ | .instr (.accst o) _ => (List.range 128).map (fun i => capS e 0 + dispOf o + BitVec.ofNat 64 (128 * i))
  | .instr (.texs _) _ | .instr (.texsL _) _ | .instr (.texsB _) _ | .instr (.texf _) _ | .instr (.texfL _) _
  | .instr (.rtst _) _ | .instr (.rtld _) _ | .instr (.mlins _) _ => [capS e 0]
  | .instr (.st o) _ => (vecAddrs e o (capS e 0) (capV e (dataRegs o))).map (·.2)
  | .instr (.red o) _ => (vecAddrs e o (capS e 0) (capV e (dataRegs o))).map (·.2)
  | .instr (.sst o) _ => [scalarAddr (capS e 1) (capS e 2) (parOf o) (dispOf o)]
  | _ => loadAddrs e

/-- A captured instruction reads a descriptor, and then makes accesses that depend on what the descriptor holds. -/
def byDescriptor (e : InFlight) : Bool :=
  match decode e.word e.ext with
  | .instr (.texs _) _ | .instr (.texsL _) _ | .instr (.texsB _) _ | .instr (.texf _) _ | .instr (.texfL _) _
  | .instr (.rtst _) _ | .instr (.rtld _) _ | .instr (.mlins _) _ => true
  | _ => false

/-- The memory that an issued instruction touches, as ranges. -/
def entryRanges (s : State) (e : InFlight) : List Tack :=
  let n := match decode e.word e.ext with
    | .instr (.accld _) _ | .instr (.accst _) _ => 128
    | .instr (.tld _) _ | .instr (.tst _) _ => 16
    | _ => 8
  (sentAddrs e).map (fun a => ⟨s.g.core, false, s.g.ctx, true, a.toNat, 0, n, 1, 0⟩)

/-- The accepted engine commands of the current group whose writes no tack covers: RAYQ.BOB and SEAM. -/
def ownOpen (s : State) : List Cmd :=
  s.cmds.filter (fun c => c.grp == s.g.id && (match c.kind with | .ray bob .. => bob | .seam _ => true | _ => false))

/-- An access of the current group comes after the accepted XSCANs that read bytes that it touches (R155), and after the engine's writes to
them that no tack guards; a store to a target of a SEAM is open instead (R309). `any` says that what it touches is not known yet. In its
handler a group does not wait for its engines, one of which may be paused. -/
def ordered (any stores : Bool) (us : List Tack) (s : State) : Res Unit :=
  let touches (ts : List Tack) : Bool := any || meet (whoOf s.g 0) s ts us
  let waits (c : Cmd) : Bool := !(stores && (match c.kind with | .seam _ => true | _ => false)) && touches (openWrites s c)
  if !s.g.priv && (ownOpen s).any waits then .stall s
  else if needsOps scansMemory s.g.id s && touches (((allOps s.g).filter (fun m => !m.done)).flatMap (scanSource s.g)) then scansFirst s
  else .ok () s

/-- What comes before an issued instruction is performed. -/
def beforeEntry (e : InFlight) (s : State) : Res Unit :=
  match decode e.word e.ext with
  | .instr i _ => ordered (byDescriptor e) (storesMemory i) (entryRanges s e) s
  | .illegal _ => .ok () s

/-- Perform the issued instructions of the current group in order, at most `n` of them (R269). The trap of one names its
address; a request lost on the fabric, an order of R293, or an engine's access that must come first stalls the rest. -/
def drain : Nat → State → Res Unit
  | 0, s => .ok () s
  | n + 1, s =>
    match s.g.inflight with
    | [] => .ok () s
    | e :: _ =>
      if e.lost then .stall s else
      (beforeEntry e s).bind fun _ s0 =>
      match performEntry e s0 with
      | .ok _ s1 => drain n (onG (fun g => { g with inflight := g.inflight.drop 1 }) s1)
      | .trap t s1 => .trap { t with first := some e.pc } s1
      | .fatal c b a s1 => .fatal c b a s1
      | .block b s1 => .block b s1
      | .stall _ => .stall s0

/-- Every issued instruction of the current group. -/
def drainAll (s : State) : Res Unit := drain s.g.inflight.length s

/-- The scalar sources an instruction captures. -/
def captureS (i : Instr) (s : State) : List W64 :=
  ((sourcesOf i).filter (fun r => r.file == .s)).flatMap (fun r => (List.range r.count).map (fun j => rdS s (r.first + j)))

/-- The vector sources an instruction captures. -/
def captureV (i : Instr) (s : State) : List Lanes :=
  ((sourcesOf i).filter (fun r => r.file == .v)).flatMap (fun r => (List.range r.count).map (fun j => rdV s (r.first + j)))

/-- The tile control that TLD and TST read at issue (R415, R419). -/
def issueTctl (i : Instr) (s : State) : W64 :=
  match i with
  | .tld o | .tst o => rdTctl s o.d.toNat
  | _ => 0

/-- Issue a global memory instruction: it joins the instructions in flight with its captured operands (R269, R271). -/
def enqueue (i : Instr) (s : State) : State :=
  let e : InFlight := { id := s.nextId, pc := s.g.pc, word := (encode i).1, ext := (encode i).2, mask := effMask s
                        scal := captureS i s, vecs := captureV i s, tries := 0, lost := false, overdue := false
                        tctl := issueTctl i s, olds := [], done := false }
  onG (fun g => { g with inflight := g.inflight ++ [e] }) { s with nextId := s.nextId + 1 }

end Sys2Proof.Machine
end

