-- ==== Sys2Proof/Machine/Run.lean ====
section
/-! DEFINITION. The frame around every instruction word: the illegal-instruction checks of Table 3-10 that need the state
(R93, R94), register-miss fetches (R258), the interlocks with issued memory instructions (R99, R269), what follows the
instruction's own effect (the program counter, the issue distance of R97, STALL of R96, clocks), and how each ending of a body is taken. -/

namespace Sys2Proof.Machine

/-- What a meaning answers. -/
abbrev Out := Host.Outcome State Fault Refusal

/-! The checks that need the state. -/

/-- The instruction reads the active mask (R17, R20). -/
def usesMask (i : Instr) : Bool :=
  let op := opcode i
  decide (0x24 ≤ op ∧ op ≤ 0x50) ||
  (match i with
   | .ld _ | .st _ | .lds _ | .sts _ | .atom _ | .cas _ | .red _ | .pfetch _ | .spres _ | .spresW _ | .spcom _
   | .vemit _ | .pemit _ | .texs _ | .texsL _ | .texsB _ | .texf _ | .texfL _ | .rtst _ | .rtld _ | .mlins _
   | .rayq _ | .rayqBob _ => true
   | _ => false)

/-- A register of a partition exists (R61, R62). -/
def regExists (part : W64) (f : File) (n : Nat) : Bool :=
  match f with
  | .v => decide (n < 8 * partVR part)
  | .s => decide (n < 16 * (partSR part + 1))
  | .t => decide (n < partTR part)
  | .a => decide (n < partACC part)

/-- Every register of the runs exists. -/
def runsExist (part : W64) (l : List Run) : Bool :=
  l.all (fun r => (List.range r.count).all (fun j => regExists part r.file (r.first + j)))

/-- GMODE as a MODE would leave it (R384). -/
def modeNew (o : Opnd) (old : W64) : W64 :=
  let v : Nat := match o.x with | .imm x => x.toNat | _ => 0
  let put (k lo n : Nat) (w : W64) : W64 := if o.d.getLsbD k then setFld w lo n (bitsOf v lo n) else w
  put 4 14 1 (put 3 13 1 (put 2 10 3 (put 1 6 4 (put 0 0 6 old))))

/-- ET and RM of a GMODE value are not reserved (Table 2-2). -/
def modeOk (w : W64) : Bool := decide (gmET w ≤ 7 ∧ gmRM' w ≤ 4)
where
  /-- The rounding code. -/
  gmRM' (w : W64) : Nat := fld w 10 3

/-- The COLS limit of a tile type (Table 2-4). -/
def colsLimit (tt : Nat) : Nat :=
  if tt ≤ 3 then 64 else if tt ≤ 5 then 128 else if tt ≤ 7 then 32 else if tt = 8 then 16 else 8

/-- A TCTL value that Tables 2-3 and 2-4 allow (R67). -/
def tctlOk (w : W64) : Bool :=
  decide (tcTT w ≤ 9 ∧ 1 ≤ tcRows w ∧ tcRows w ≤ 64 ∧ 1 ≤ tcCols w ∧ tcCols w ≤ colsLimit (tcTT w) ∧ w.toNat < 2 ^ 19)

/-- The index of MFSR and MTSR (R375). -/
def sysIndex (o : Opnd) : Nat := match o.x with | .imm v => v.toNat % 4096 | _ => 0

/-- A system register index that a table assigns (Table 2-7). -/
def sysAssigned (n : Nat) : Bool :=
  decide (n ≤ 6 ∨ n = 8 ∨ (0x10 ≤ n ∧ n ≤ 0x13) ∨ (0x18 ≤ n ∧ n ≤ 0x27) ∨ (0x30 ≤ n ∧ n ≤ 0x32) ∨
    (0x100 ≤ n ∧ n ≤ 0x10F) ∨ (0x140 ≤ n ∧ n ≤ 0x17F))

/-- Sub-code 0x05 by the state: BHI under FP64 (R84), the element types of R353, R421 and R427, the GMODE values of R384 and R377,
the TCTL values of R67. -/
def bad05 (s : State) (i : Instr) : Bool :=
  let et := etOf s
  (decide (et = 5) && (match (opnd i).x with | .bro k => k.bsc && k.bhi | _ => false)) ||
  match i with
  | .fadd _ | .fsub _ | .fmul _ | .fma _ | .fmin _ | .fmax _ | .fcmp _ | .frcp _ | .frsq _ | .fsqrt _ | .frnd _
  | .fcls _ | .fscl _ => !decide (4 ≤ et ∧ et ≤ 7)
  | .fex2 _ | .flg2 _ | .ftrig _ => !decide (et = 4 ∨ et = 6 ∨ et = 7)
  | .vadd _ | .vsub _ | .vmul _ | .vmulh _ | .vmad _ | .vmin _ | .vmax _ | .vabs _ | .vshl _ | .vshr _ | .vsra _
  | .vcmp _ | .vpopc _ | .vclz _ => !decide (et ≤ 3)
  | .vbfe _ | .vbfi _ => !decide (et ≤ 1)
  | .vred _ | .vscan _ => !decide (et = 0 ∨ et = 1 ∨ et = 4)
  | .mode o => !modeOk (modeNew o s.g.gmode)
  | .tcfg o => regExists s.g.part .s o.a.toNat && !tctlOk (rdS s o.a.toNat)
  | .mtsr o => regExists s.g.part .s o.a.toNat && s.g.priv && (sysIndex o == 0 || sysIndex o == 0x10B) &&
      !modeOk (rdS s o.a.toNat)
  | _ => false

/-- Sub-code 0x07 by the state: a register beyond the partition, the MS of MODE and MTSR too (R62, R377, R384). -/
def bad07 (s : State) (i : Instr) : Bool :=
  !runsExist s.g.part (runs (etOf s) i) ||
  (match i with
   | .mode o => !regExists s.g.part .s (gmMS (modeNew o s.g.gmode))
   | .mtsr o => s.g.priv && (sysIndex o == 0 || sysIndex o == 0x10B) && !regExists s.g.part .s (gmMS (rdS s o.a.toNat))
   | _ => false)

/-- Sub-code 0x0A: RFE, TLBINV, HARVEST or MAPPG in the unprivileged view. -/
def needsPriv : Instr → Bool
  | .rfe _ | .tlbinv _ | .harvest _ | .mappg _ => true
  | _ => false

/-- The scalar and vector registers an instruction reads, the mask register among them. -/
def readsOf (s : State) (i : Instr) : List (File × Nat) :=
  ((runs (etOf s) i).filter (fun r => r.src)).flatMap (fun r => (List.range r.count).map (fun j => (r.file, r.first + j)))
    ++ (if usesMask i then [(File.s, gmMS s.g.gmode)] else [])

/-- The registers an instruction writes. -/
def writesOf (et : Nat) (i : Instr) : List (File × Nat) :=
  ((runs et i).filter (fun r => r.dst)).flatMap (fun r => (List.range r.count).map (fun j => (r.file, r.first + j)))

/-- A register has a fixed-latency write that is not yet visible (R98). -/
def pendingOn (g : Group) (r : File × Nat) : Bool :=
  g.pend.any (fun p =>
    match p.eff with
    | .vec n _ => r == (.v, n)
    | .sca n _ => r == (.s, n)
    | _ => false)

/-- Sub-code 0x0B: the checking scoreboard is on and the instruction would read an old value (R101). -/
def bad0B (s : State) (i : Instr) : Bool := gmSCB s.g.gmode && (readsOf s i).any (pendingOn s.g)

/-- The lowest sub-code of Table 3-10 that the instruction meets in this state (R94). -/
def illegalSub (s : State) (i : Instr) : Option Nat :=
  if !ok05 i || bad05 s i then some 0x05
  else if !ok06 i then some 0x06
  else if bad07 s i then some 0x07
  else if !ok08 (etOf s) i then some 0x08
  else if (match i with | .mfsr o | .mtsr o => !sysAssigned (sysIndex o) | _ => false) then some 0x09
  else if needsPriv i && !s.g.priv then some 0x0A
  else if bad0B s i then some 0x0B
  else none

/-- The illegal-instruction trap (R93): TFIRST, TPC and TFAULT hold the instruction's address. -/
def illegalTrap (sub : Nat) (s : State) : TrapInfo :=
  { cause := 0x01, sub := sub, fault := s.g.pc, first := some s.g.pc }

/-! Register-miss fetches (R258). -/

/-- The code of a register in `Group.absent`. -/
def absentCode (r : File × Nat) : Nat :=
  match r.1 with
  | .v => r.2
  | .s => 128 + r.2
  | .t => 192 + r.2
  | .a => 256 + r.2

/-- The register that an instruction replaces in part only: sD of SLI.HI, and vD of FCVT to a format of several elements (R127). -/
def keepsPart (i : Instr) : List (File × Nat) :=
  match i with
  | .sli o => if o.a = 2 then [(.s, o.d.toNat)] else []
  | .fcvt o => if 1 < fcvtCount (parOf o).sel.toNat then [(.v, o.d.toNat)] else []
  | _ => []

/-- The instruction has an empty effective mask: it reads nothing but the mask register, and writes no vector register (R18). -/
def emptyMask (s : State) (i : Instr) : Bool := usesMask i && effMask s == 0

/-- The absent registers that the instruction fetches first: those it reads, and those it writes but does not replace whole, vector
registers under a mask that is not full among them; under an empty mask only the mask register (R18). -/
def missesOf (s : State) (i : Instr) : List Nat :=
  let part := if usesMask i && effMask s != BitVec.allOnes 64 then (writesOf (etOf s) i).filter (fun r => r.1 == .v) else []
  let need := if emptyMask s i then [(File.s, gmMS s.g.gmode)] else readsOf s i ++ part ++ keepsPart i
  (need.map absentCode).filter (fun c => s.g.absent.contains c)

/-- The save record of the current group's panel (R243). -/
def recordBase (s : State) : W64 := ((panelOf s s.g.panel).map (·.save)).getD 0

/-- The storage units of 4 KiB from unit `i` of a save record up, `n` of them; or the fault that the record's mapping meets there. -/
def recordUnits (need : Need) (base : W64) : Nat → Nat → State → (List Nat ⊕ ((Nat × Nat) × W64)) × State
  | 0, _, s => (.inl [], s)
  | n + 1, i, s =>
    let va := base + BitVec.ofNat 64 (4096 * i)
    match recPlace s need 8 va with
    | (.inr f, s1) => (.inr (f, va), s1)
    | (.inl p, s1) =>
      match recordUnits need base n (i + 1) s1 with
      | (.inl l, s2) => (.inl (p.key / 4096 :: l), s2)
      | (.inr e, s2) => (.inr e, s2)

/-- A word of some storage units that carries poison and that a read of the image meets: which word of the image holds what is open, and so
is whether one read of it meets a poisoned word (R328, R243; log 18). -/
def imagePoison (s : State) (l : List Nat) : Option Nat :=
  ((s.poison.find? (fun e => e.2 && l.contains (e.1 / 1024))).map (fun e => 4 * e.1)).filter (fun _ => Config.choose s.free 6 % 2 == 0)

/-- The poisoned word that a read of one register in the image of the current group's panel meets. -/
def fetchPoison (s : State) : Option Nat :=
  if s.poison.isEmpty then none else
  match recordUnits needR (recordBase s) 896 0 s with
  | (.inl l, _) => imagePoison s l
  | (.inr _, _) => none

/-- The home caches look up lines of some storage units that satisfy a test; an access to an image allocates nothing (R460; log 107). -/
def touchImage (p : Nat → Bool) (l : List Nat) (write : Bool) (s : State) : State :=
  ((s.lines.map (fun h => hbmKey h.md (h.off * 128))).filter (fun k => l.contains (k / 4096) && p k)).foldl (fun a k => touch a k 0 3 write) s

/-- The home caches look up the lines of one register in the image of the current group's panel: which these are is open (R460, R243;
log 107). -/
def touchRegister (s : State) : State :=
  if s.lines.isEmpty then s else
  match recordUnits needR (recordBase s) 896 0 s with
  | (.inl l, s1) => bump (touchImage (fun k => Config.choose s.free k % 2 == 1) l false s1)
  | (.inr _, _) => s

/-- Fetch registers from the save record: the reads may meet the save-record fault or an uncorrectable error; the values are those the group
holds. -/
def fetchRegs : List Nat → State → Res Unit
  | [], s => .ok () s
  | c :: r, s =>
    match recPlace s needR 8 (recordBase s) with
    | (.inr f, s1) => .fatal f.1 f.2 (recordBase s) s1
    | (.inl _, s1) =>
      match fetchPoison s1 with
      | some k => .fatal 0x28 (homeSub s1 k) (recordBase s) s1
      | none => fetchRegs r (onG (fun g => { g with absent := g.absent.filter (fun x => x != c) }) (touchRegister s1))

/-- The registers the instruction replaces whole are present afterwards. -/
def markPresent (s : State) (i : Instr) (g : Group) : Group :=
  if g.absent.isEmpty then g else
  let whole := (writesOf (etOf s) i).filter (fun r => !(emptyMask s i && r.1 == .v))
  { g with absent := g.absent.filter (fun c => !(whole.map absentCode).contains c) }

/-! Interlocks with issued memory instructions. -/

/-- Instructions that may issue while memory instructions of the group are in flight; any other waits for them (R52, R216,
R226, R462). TCFG never waits (R415), nor does YIELDPT, which orders nothing (R253, R431), nor a TRAP of the privileged view, which is
no trap (R265). -/
def passesInFlight (s : State) (i : Instr) : Bool :=
  let op := opcode i
  isReplay i || decide ((0x02 ≤ op ∧ op ≤ 0x06) ∨ (0x10 ≤ op ∧ op ≤ 0x50)) ||
  (match i with | .nop _ | .ret _ | .tcfg _ | .yieldpt _ => true | .trap _ => s.g.priv | _ => false)

/-- The registers that an issued instruction will write. -/
def entryWrites (e : InFlight) : List (File × Nat) :=
  match decode e.word e.ext with
  | .instr i _ => writesOf 0 i
  | .illegal _ => []

/-- The instruction's acceptance waits behind an unreturned load at a blocking point (R462). -/
def isEngine : Instr → Bool
  | .cpy _ | .qnt _ | .rayq _ | .rayqBob _ | .xscan _ => true
  | _ => false

/-- A remote load that has been outstanding too long is in flight (Table 8-5). -/
def overdueLoad (g : Group) : Bool := g.inflight.any (·.overdue)

/-- An issued instruction that satisfies a test will write one of some registers. -/
def resultIn (p : InFlight → Bool) (s : State) (need : List (File × Nat)) : Bool :=
  s.g.inflight.any (fun e => p e && (entryWrites e).any (fun r => need.contains r))

/-- The instruction needs, or would write, a result that is still in flight (R99, R100). -/
def resultHazard (s : State) (i : Instr) : Bool := resultIn (fun _ => true) s (readsOf s i ++ writesOf (etOf s) i)

/-- The blocking point of kind 8: the instruction needs the result of an overdue remote load, which one that only writes the register does
not, or is an engine command that waits behind one (Table 8-5, R462). -/
def atOverdue (s : State) (i : Instr) : Bool := resultIn (·.overdue) s (readsOf s i) || (isEngine i && overdueLoad s.g)

/-- Take the next entry of the list that says whether issued instructions stay in flight. -/
def takeHold (s : State) : Bool × State := (s.holds.headD false, { s with holds := s.holds.drop 1 })

/-- Wait for issued memory instructions where the instruction must: they stay in flight for now when `holds` says so, which is a
bounded stall, or the blocking point of kind 8 behind an overdue remote load (R252, R462); otherwise they are performed. -/
def interlock (i : Instr) (s : State) : Res Unit :=
  if s.g.inflight.isEmpty then .ok () s else
  let hazard := resultHazard s i
  let full := isReplay i && decide (16 ≤ s.g.inflight.length)
  if passesInFlight s i && !hazard && !full then .ok () s else
  let (stay, s1) := takeHold s
  if stay then
    if atOverdue s i then .block ⟨8, 0, 0, 0⟩ s1 else .stall s1
  else drainAll s1

/-- Wait for accepted operations that satisfy a test, of the given groups: a stall while `holds` says so, else the arrays
perform them first (R149, R153). -/
def waitOps (ids : List Nat) (p : MatOp → Bool) (s : State) : Res Unit :=
  if !ids.any (fun i => needsOps p i s) then .ok () s else
  let (stay, s1) := takeHold s
  if stay then .stall s1 else
  let s2 := ids.foldl (fun a i => runWhile p i 512 a) s1
  if !s2.g.live || ids.any (fun i => needsOps p i s2) then .stall s2 else .ok () s2

/-- An instruction that may write memory as it issues, gives an engine memory to read or write, or has a release part, which every earlier
access of the group comes before (R216). -/
def writesNow : Instr → Bool
  | .strel _ | .barinit _ | .bararv _ | .barwait _ | .cpy _ | .qnt _ | .launch _ | .pemit _ | .mlres _ | .mlresClr _ | .mappg _
  | .rayq _ | .rayqBob _ | .seam _ | .spcom _ => true
  | .fence o => (parOf o).order.getLsbD 1
  | _ => false

/-- What the instruction waits for in its group's program order (R155, R206): MWAIT reads its word as it issues. -/
def inOrder (i : Instr) (s : State) : Res Unit :=
  if writesNow i then scansFirst s else
  match i with
  | .mwait o => ordered false false [⟨s.g.core, false, s.g.ctx, true, (rdS s o.a.toNat + dispOf o).toNat, 0, 8, 1, 0⟩] s
  | _ => .ok () s

/-- Everything that comes before the instruction's own effect. -/
def prepare (i : Instr) (s : State) : Res Unit :=
  (fetchRegs (missesOf s i) s).bind fun _ s1 =>
  (interlock i s1).bind fun _ s2 => inOrder i s2

/-! Clocks. -/

/-- A vector operation on FP64 elements: by GMODE.ET, which VOTE, VIOTA and RFAL ignore, and FCVT by its own two formats (R16, R357,
R395, R426). -/
def isFp64 (i : Instr) (s : State) : Bool :=
  match i with
  | .fcvt o => let k := parOf o; k.sel == 2 || k.val.extractLsb' 0 4 == 2
  | .vote _ | .viota _ | .rfal _ => false
  | _ => etOf s == 5 && decide (0x24 ≤ opcode i ∧ opcode i ≤ 0x50)

/-- The beats an instruction takes (R16, R17). -/
def beats (i : Instr) (s : State) : Nat :=
  if usesMask i then
    let m := effMask s
    let q := ((List.range 4).filter (fun k => decide (fld m (16 * k) 16 ≠ 0))).length
    if isFp64 i s then 2 * q else q
  else 1

/-- A group waits at a blocking point whose clocks are charged, or between a refused arrival and its next accepted one; at kinds 10
and 11 it waits on the host and is not charged (R261). -/
def charged (g : Group) : Bool :=
  match g.block with
  | some b => chargedKind b || (g.refused.isSome && decide (b.kind < 10))
  | none => g.refused.isSome

/-- `n` clocks of its core pass for a group (R96, R260, R261). -/
def clockGroup (n : Nat) (g : Group) : Group :=
  { g with
    stall := g.stall - n
    runcnt := if g.block.isNone && !g.exited then BitVec.ofNat 64 ((g.runcnt.toNat + n) % 2 ^ 48) else g.runcnt
    wbudget := if charged g then BitVec.ofNat 64 (g.wbudget.toNat - n) else g.wbudget }

/-- `n` clocks pass on a core. -/
def passClocks (core n : Nat) (s : State) : State :=
  mapGroups (fun g => if g.live && g.resident && g.core == core then clockGroup n g else g)
    { s with cyc := cset zero s.cyc core (cget zero s.cyc core + BitVec.ofNat 64 n) }

/-- The clocks of an instruction of group `g0` pass: its beats, and however many the pipeline adds before the last of them (log 10); its
own STALL starts after them (R96). -/
def spend (g0 : Group) (n : Nat) (s : State) : State :=
  let m := n + Config.extraClocks s.free
  bump (passClocks g0.core m (mapGroups (fun g =>
    if g.live && g.resident && g.core == g0.core && g.id == g0.id then { g with stall := g.stall + m } else g) s))

/-! After the instruction. -/

/-- The instruction has issued: the program counter moves on, or to `j`; what has reached its issue distance takes effect
(R97, R98); STALL starts (R96). -/
def advance (i : Instr) (j : Option W64) (g : Group) : Group :=
  let st := (opnd i).st.toNat
  let g1 := retire (1 + st) { g with pc := j.getD (g.pc + BitVec.ofNat 64 (instrLen i)) }
  { g1 with stall := st, waited := 0 }

/-- A fault that is fatal to the panel or to the context (Table 8-8). -/
def fatalEnd (cause sub : Nat) (addr : W64) (s : State) : State :=
  if cause = 0x20 ∨ (cause = 0x24 ∧ sub = 4) then fatalPanel cause sub addr s else fatalCtx cause sub addr s

/-- An instruction that leaves memory instructions in flight: one that is kept in flight itself, and RFE, which re-injects them. -/
def settles (i : Instr) : Bool := isReplay i || (match i with | .rfe _ => true | _ => false)

/-- Issued memory instructions are performed, or stay in flight when `holds` says so (R269). -/
def settle (i : Instr) (s : State) : State :=
  if s.g.inflight.isEmpty || !settles i then s else
  let (stay, s1) := takeHold s
  if stay then s1 else
  match drainAll s1 with
  | .ok _ s2 => s2
  | .trap t s2 => takeTrap t true s2
  | .fatal c b a s2 => fatalEnd c b a s2
  | .block b s2 => onG (fun g => { g with block := some b }) s2
  | .stall s2 => s2

/-- The current group waits with its issue slot stalled, for room in an engine's queue or among its matrix operations (R230, R149). -/
def holdsSlot (s : State) : Bool := s.slotHeld.contains (slotNo s.g, s.g.id)

/-- A bounded stall: the instruction has no effect yet. The group is not ready (R57, R251), but for one that stalls its issue slot, which
stays ready. -/
def notReady (s : State) : State := if holdsSlot s then s else onG (fun g => { g with idle := true, waited := 0 }) s

/-- Go on after issued memory instructions; or what one of them ends in: its trap, its fatal fault, a blocking point or a stall. -/
def goOn (r : Res Unit) (k : State → State) : State :=
  match r with
  | .ok _ s => k s
  | .trap t s => takeTrap t true s
  | .fatal c b a s => fatalEnd c b a s
  | .block b s => onG (fun g => { g with block := some b }) s
  | .stall s => notReady s

/-- How the body of an instruction ends. -/
def conclude (i : Instr) (r : Res (Option W64)) : State :=
  match r with
  | .ok j s => if s.g.live then settle i (onG (advance i j) s) else s
  | .trap t s => takeTrap t false s
  | .fatal c b a s => fatalEnd c b a s
  | .block b s => onG (fun g => { g with block := some b }) s
  | .stall s => notReady s

/-- An instruction whose legality depends on the value of its source waits for that source first (R67, R99, R377). -/
def sourceFirst (i : Instr) (s : State) : Res Unit :=
  match i with
  | .tcfg _ | .mtsr _ => if resultHazard s i then interlock i s else .ok () s
  | _ => .ok () s

/-- Issue an instruction of the current group: the trap of an illegal instruction, after the issued memory instructions are
performed (R264); else its own effect. -/
def runCore (i : Instr) (s : State) (body : State → Res (Option W64)) : State :=
  goOn (sourceFirst i s) (fun s0 =>
    match illegalSub s0 i with
    | some n => goOn (drainAll s0) (takeTrap (illegalTrap n s0) false)
    | none => goOn (prepare i s0) (fun s1 => conclude i (body (onG (markPresent s0 i) s1))))

/-- The meaning of an instruction word with the given body, as a step of the machine. -/
def runI (i : Instr) (s : State) (body : State → Res (Option W64)) : Out :=
  .next (commit s (spend s.g (beats i s) (runCore i s body)))

/-- The meaning of a global memory instruction that is kept in flight (R269): it is issued with its captured operands. -/
def runMem (i : Instr) (s : State) : Out := runI i s (fun s => .ok none (enqueue i s))

end Sys2Proof.Machine
end

