-- ==== Sys2Proof/Machine/Access.lean ====
section
/-! DEFINITION. The memory instructions as they are issued: the global ones that are kept in flight (R269; TLD, ACCLD and
ACCST stand beside the matrix operations they interlock with), and those that are
performed at issue: STREL and FENCE (07 R216, R218, 13 R412), the scratchpad (12 R371, R372, 13 R413), PFETCH (12 R389) and
MWAIT (12 R386). -/

namespace Sys2Proof.Machine

/-- LD. -/
def execLd (o : Opnd) (s : State) : Out := runMem (.ld o) s
/-- ST. -/
def execSt (o : Opnd) (s : State) : Out := runMem (.st o) s
/-- SLD. -/
def execSld (o : Opnd) (s : State) : Out := runMem (.sld o) s
/-- SST. -/
def execSst (o : Opnd) (s : State) : Out := runMem (.sst o) s
/-- LDACQ. -/
def execLdacq (o : Opnd) (s : State) : Out := runMem (.ldacq o) s
/-- ATOM. -/
def execAtom (o : Opnd) (s : State) : Out := runMem (.atom o) s
/-- CAS. -/
def execCas (o : Opnd) (s : State) : Out := runMem (.cas o) s
/-- RED. -/
def execRed (o : Opnd) (s : State) : Out := runMem (.red o) s
/-- TST. -/
def execTst (o : Opnd) (s : State) : Out := runMem (.tst o) s
/-- TEXS at an implicit level. -/
def execTexs (o : Opnd) (s : State) : Out := runMem (.texs o) s
/-- TEXS at an explicit level. -/
def execTexsL (o : Opnd) (s : State) : Out := runMem (.texsL o) s
/-- TEXS with a level bias. -/
def execTexsB (o : Opnd) (s : State) : Out := runMem (.texsB o) s
/-- TEXF at level 0. -/
def execTexf (o : Opnd) (s : State) : Out := runMem (.texf o) s
/-- TEXF at an explicit level. -/
def execTexfL (o : Opnd) (s : State) : Out := runMem (.texfL o) s
/-- RTST. -/
def execRtst (o : Opnd) (s : State) : Out := runMem (.rtst o) s
/-- RTLD. -/
def execRtld (o : Opnd) (s : State) : Out := runMem (.rtld o) s
/-- MLINS. -/
def execMlins (o : Opnd) (s : State) : Out := runMem (.mlins o) s

/-- TCFG (13 R415): TCTL[D] from sA, visible at issue distance 1. -/
def execTcfg (o : Opnd) (s : State) : Out :=
  runI (.tcfg o) s (fun s => .ok none (onG (post 1 (.tctl o.d.toNat (rdS s o.a.toNat))) s))

/-! Release and fence. -/

/-- The leaf of a walk maps a sync page of device HBM (R211). -/
def syncLeaf (x : LaneWalk) : Bool :=
  match x.walk with
  | .leaf pte _ _ _ => bit pte 8 && pteAddr pte / 2 ^ 48 == 0
  | _ => false

/-- A slot at a 64-byte aligned address whose leaf passes a test, read at its home: the checks in the order of Table 6-7 with those of the
slot at priority 2 (R216, R222), reported with the given mask. -/
def slotAt (ok : LaneWalk → Bool) (a : W64) (w : Who) (need : Need) (mask : W64) (s : State) : Res Phys :=
  let fix {α : Type} (r : Res α) : Res α := match r with
    | .trap t s1 => .trap { t with mask := mask } s1
    | r => r
  (fix (checkWalks s w 64 [(0, a)])).bind fun ws s1 =>
  if !ws.all ok then .trap { cause := 0x04, sub := 0, mask := mask, fault := a } s1 else
  (fix (checkLanes s1 w s1.g.ctx 64 64 need [(0, a)])).bind fun ps s2 =>
  match ps with
  | e :: _ => .ok e.2 (touch s2 e.2.key w.quota (effClass s2 w e.2) false)
  | [] => .fatal 0x22 0 a s2

/-- A slot of device HBM, as STREL and the device barriers name one (R216, R222). -/
def slotPlace (a : W64) (w : Who) (need : Need) (mask : W64) (s : State) : Res Phys := slotAt syncLeaf a w need mask s

/-- STREL (R216). -/
def execStrel (o : Opnd) (s : State) : Out :=
  runI (.strel o) s (fun s =>
    let k := parOf o
    let w := whoOf s.g 0
    let scope := k.scope.toNat
    (slotPlace (rdS s o.a.toNat + dispOf o) w needW 1 s).bind fun p s1 =>
      let (x, s2) := releasePart scope s1
      let s3 := setSlotSwatch s2 w p (if k.sel = 1 then x else slotSwatch s2 p ||| x)
      let s4 := slotWrite s3 w p 0 (bytesOf 8 (rdS s3 o.b.toNat).toNat)
      .ok none (onG (clearPending scope) s4))

/-- FENCE (Table 7-4). -/
def execFence (o : Opnd) (s : State) : Out :=
  runI (.fence o) s (fun s =>
    let k := parOf o
    let scope := k.scope.toNat
    let s1 := if k.order.getLsbD 1 then (releasePart scope s).2 else s
    .ok none (if k.order.getLsbD 0 then acquirePart scope fullSwatch s1 else s1))

/-! Scratchpad. -/

/-- The offsets of the active lanes (R372). -/
def scrAddrs (o : Opnd) (s : State) : List (Nat × W64) :=
  (activeLanes (effMask s)).map (fun i => (i, laneAddr (rdS s o.a.toNat) (laneOf (rdV s o.b.toNat) i) (parOf o) (dispOf o)))

/-- The checks of a scratchpad access of `n` bytes: alignment, bounds, tacks (R372). -/
def scrCheck (n al : Nat) (store : Bool) (l : List (Nat × W64)) (s : State) : Res Unit :=
  let bad1 := l.filter (fun e => decide (e.2.toNat % al ≠ 0))
  if !bad1.isEmpty then .trap (laneTrap 0x04 0 bad1) s else
  let bad2 := l.filter (fun e => decide (scrBytes s.g.part < e.2.toNat + n))
  if !bad2.isEmpty then .trap (laneTrap 0x07 0 bad2) s else
  let bad3 := l.filter (fun e => tackHit s s.g.core true s.g.panel e.2.toNat n store)
  if !bad3.isEmpty then .trap (laneTrap 0x08 0 bad3) s else .ok () s

/-- LDS (R372). -/
def execLds (o : Opnd) (s : State) : Out :=
  runI (.lds o) s (fun s =>
    let k := parOf o
    let n := sizeOf_ k
    let l := scrAddrs o s
    (scrCheck n n false l s).bind fun _ s1 =>
      let vals := l.map (fun e => (e.1, natOf (scrRead s1 s1.g.panel e.2.toNat n)))
      .ok none (onG (putLoaded o.d.toNat n k.sx vals) s1))

/-- Store lanes into scratchpad; where a lower lane has stored the same place, which value stays is open (R203). -/
def scrStoreLanes (n : Nat) (data : Nat → Nat) : List (Nat × W64) → List Nat → State → State
  | [], _, s => s
  | (i, a) :: r, done, s =>
    if done.contains a.toNat && !Config.laterLane s.free (a.toNat * 64 + i) then scrStoreLanes n data r done s
    else scrStoreLanes n data r (a.toNat :: done) (scrWrite s s.g.panel a.toNat (bytesOf n (data i)))

/-- STS (R413). -/
def execSts (o : Opnd) (s : State) : Out :=
  runI (.sts o) s (fun s =>
    let n := sizeOf_ (parOf o)
    let l := scrAddrs o s
    let data (i : Nat) : Nat :=
      (laneOf (rdV s o.d.toNat) i).toNat + (if n = 8 then (laneOf (rdV s (o.d.toNat + 1)) i).toNat * 2 ^ 32 else 0)
    (scrCheck n n true l s).bind fun _ s1 => .ok none (bump (scrStoreLanes n data l [] s1)))

/-! PFETCH and MWAIT. -/

/-- PFETCH of one lane, by its effective class (R389): a lane that would fault is dropped; class 3 does nothing, class 2 fills the home
cache only, class 0 or 1 the cluster L1 where that serves the address. -/
def prefetchLane (w : Who) (va : W64) (s : State) : Res Unit :=
  if w.alloc = 3 ∨ waysOf s w.quota = 0 ∨ canonical va = false then .ok () s else
  match xlate s w va with
  | (.fault, s1) => .ok () s1
  | (.format, s1) => .fatal 0x21 0 va s1
  | (.poison sub, s1) => .fatal 0x28 sub va s1
  | (.leaf pte base _ _, s1) =>
    if (permSub w needR pte).isSome then .ok () s1 else
    match physOf s1 (w.core / 48) pte base (va.toNat % 2 ^ 57) with
    | (none, _) => .fatal 0x22 0 va s1
    | (some _, false) => .fatal 0x23 0 va s1
    | (some p, true) =>
      if effClass s1 w p = 3 then .ok () s1 else
      let s2 := gather s1 w.core w.tag (va.toNat % 2 ^ 57) false
      if 2 ≤ p.region then .ok () s2
      else if atHome s2 w p || effClass s2 w p == 2 then .ok () (touch s2 p.rkey w.quota (effClass s2 w p) false)
      else .ok () (fillLine (hostReady s2 (w.core / 4) p false) w p)

/-- PFETCH of lanes in order. -/
def prefetchAll (w : Who) : List (Nat × W64) → State → Res Unit
  | [], s => .ok () s
  | l :: r, s => (prefetchLane w l.2 s).bind fun _ s1 => prefetchAll w r s1

/-- PFETCH (R389). -/
def execPfetch (o : Opnd) (s : State) : Out :=
  runI (.pfetch o) s (fun s =>
    (prefetchAll (whoOf s.g (parOf o).ccls) (scrAddrs o s) s).bind fun _ s1 => .ok none s1)

/-- The watched word of MWAIT, read at its home and never from an L1 (R386, R206). -/
def watched (w : Who) (n : Nat) (a : W64) (s : State) : Nat × State :=
  match physAt s w a with
  | (some p, s1) =>
    let (bs, s2) := if p.region = 3 then loadBytes s1 w p n else loadHome s1 w p n
    (natOf bs, s2)
  | (none, s1) => (0, s1)

/-- MWAIT (R386): goes on when the word differs, else the blocking point of kind 5. -/
def execMwait (o : Opnd) (s : State) : Out :=
  runI (.mwait o) s (fun s =>
    let n := sizeOf_ (parOf o)
    let a := rdS s o.a.toNat + dispOf o
    let w := whoOf s.g 2
    let e := (rdS s o.b.toNat).toNat % 2 ^ (8 * n)
    (checkPerm s w n needR [(0, a)]).bind fun ws s1 =>
    (places w n needR ws s1).bind fun _ s2 =>
      let (v, s3) := watched w n a (gatherAll w needR [(0, a)] s2)
      if v = e then .block ⟨5, a, BitVec.ofNat 64 e, n⟩ s3 else .ok none s3)

end Sys2Proof.Machine
end

