-- ==== Sys2Proof/Machine/Barrier.lean ====
section
/-! DEFINITION. Barriers (07 R222 to R228, 11 R342 to R344): the panel barrier object in scratchpad, the device barrier object in
a sync slot, and BARINIT, BARARV and BARWAIT. -/

namespace Sys2Proof.Machine

/-! Panel barriers. -/

/-- A panel barrier object (Table 7-6): PHASE, EXPECT, and ARR and BYTES of its four slots. -/
structure Pbar where
  phase  : Nat
  expect : Nat
  rest   : Nat
  arr    : List Nat
  bytes  : List Nat
  deriving DecidableEq, Repr

/-- Read the object at a scratchpad offset of a panel. -/
def readPbar (s : State) (panel off : Nat) : Pbar :=
  let x := natOf (scrRead s panel off 32)
  { phase := bitsOf x 0 32, expect := bitsOf x 32 5, rest := bitsOf x 37 27
    arr := (List.range 4).map (fun k => bitsOf x (64 + 48 * k) 16)
    bytes := (List.range 4).map (fun k => bitsOf x (80 + 48 * k) 32) }

/-- Write the object. -/
def writePbar (b : Pbar) (panel off : Nat) (s : State) : State :=
  let slots := (List.range 4).map (fun k => (b.arr.getD k 0 + b.bytes.getD k 0 * 2 ^ 16) * 2 ^ (64 + 48 * k))
  scrWrite s panel off (bytesOf 32 (slots.foldl (· + ·) (b.phase + b.expect * 2 ^ 32 + b.rest * 2 ^ 37)))

/-- Replace element `i` of a list. -/
def putNth (l : List Nat) (i v : Nat) : List Nat := (indexed 0 l).map (fun e => if e.1 = i then v else e.2)

/-- complete() of R225: phases whose arrivals are made and whose bytes are all delivered are closed. -/
def completePbar : Nat → Pbar → Pbar
  | 0, b => b
  | n + 1, b =>
    let k := b.phase % 4
    if 0 < b.expect ∧ b.expect ≤ popNat 16 (b.arr.getD k 0) ∧ b.bytes.getD k 0 = 0 then
      completePbar n { b with phase := (b.phase + 1) % 2 ^ 32, arr := putNth b.arr k 0, bytes := putNth b.bytes k 0 }
    else b

/-- The phase that a group's next arrival counts toward: the lowest open one whose slot lacks its bit (R225, R226). -/
def nextPhase (b : Pbar) (gid : Nat) : Option Nat :=
  ((List.range 4).map (fun j => (b.phase + j) % 2 ^ 32)).find? (fun q => !(b.arr.getD (q % 4) 0).testBit gid)

/-- Subtract delivered bytes from a captured phase and run complete(); a phase outside the open window takes none (R226). -/
def countSome (phase n : Nat) (b : Pbar) : Pbar :=
  if (phase + 2 ^ 32 - b.phase) % 2 ^ 32 < 4 then
    let k := phase % 4
    completePbar 4 { b with bytes := putNth b.bytes k ((b.bytes.getD k 0 + 2 ^ 32 - n % 2 ^ 32) % 2 ^ 32) }
  else b

/-- Count `n` delivered bytes, one after another: the count stops for complete() where BYTES reaches zero (R226). -/
def countBytes (panel off phase n : Nat) (s : State) : State :=
  let b := readPbar s panel off
  let r := b.bytes.getD (phase % 4) 0
  let b1 := if 0 < r ∧ r < n then countSome phase (n - r) (countSome phase r b) else countSome phase n b
  writePbar b1 panel off s

/-- The phase has completed (BARWAIT.PNL). -/
def phaseDone (b : Pbar) (p : Nat) : Bool := decide ((b.phase + 2 ^ 33 - p % 2 ^ 32 - 1) % 2 ^ 32 < 2 ^ 31)

/-- A fault of a barrier object: TMASK 0 and TFAULT the object's address (R342). -/
def barFault {α : Type} (cause : Nat) (a : W64) (s : State) : Res α := .trap { cause := cause, sub := 0, fault := a } s

/-- The checks of a panel barrier object (R222). -/
def pnlCheck (a : W64) (s : State) : Res Unit :=
  if a.toNat % 32 ≠ 0 then barFault 0x04 a s
  else if scrBytes s.g.part < a.toNat + 32 then barFault 0x07 a s
  else .ok () s

/-- The object's address. -/
def barAddr (o : Opnd) (s : State) : W64 := rdS s o.a.toNat + dispOf o

/-- SEL of a barrier instruction: the device kind. -/
def isDev (o : Opnd) : Bool := (parOf o).sel == 1

/-- BARINIT.PNL (R225). -/
def initPnl (o : Opnd) (s : State) : Res (Option W64) :=
  let a := barAddr o s
  let x := rdS s o.b.toNat
  (pnlCheck a s).bind fun _ s1 =>
  if x.toNat = 0 ∨ 16 < x.toNat then barFault 0x0B a s1 else
  let b := readPbar s1 s1.g.panel a.toNat
  let b1 := if b.expect = 0 then completePbar 4 { b with expect := x.toNat }
    else { b with phase := 0, expect := x.toNat, arr := [0, 0, 0, 0], bytes := [0, 0, 0, 0] }
  .ok none (writePbar b1 s1.g.panel a.toNat s1)

/-- BARARV.PNL (R225). -/
def arrivePnl (o : Opnd) (s : State) : Res (Option W64) :=
  let a := barAddr o s
  let x := rdS s o.d.toNat
  (pnlCheck a s).bind fun _ s1 =>
  if 2 ^ 31 ≤ x.toNat then barFault 0x0B a s1 else
  let b := readPbar s1 s1.g.panel a.toNat
  if b.expect = 0 then .block ⟨4, a, 0, 32⟩ s1 else
  let gid := fld s1.g.gid 0 4
  match nextPhase b gid with
  | none => .block ⟨3, a, BitVec.ofNat 64 b.phase, 32⟩ s1
  | some q =>
    let k := q % 4
    let b1 := { b with
      arr := putNth b.arr k (b.arr.getD k 0 ||| 2 ^ gid)
      bytes := putNth b.bytes k ((b.bytes.getD k 0 + x.toNat) % 2 ^ 32) }
    .ok none (onG (put (.sca o.d.toNat (BitVec.ofNat 64 q))) (writePbar (completePbar 4 b1) s1.g.panel a.toNat s1))

/-- BARWAIT.PNL (R225). -/
def waitPnl (o : Opnd) (s : State) : Res (Option W64) :=
  let a := barAddr o s
  let p := (rdS s o.b.toNat).toNat % 2 ^ 32
  (pnlCheck a s).bind fun _ s1 =>
  let b := readPbar s1 s1.g.panel a.toNat
  if b.expect = 0 then .block ⟨4, a, 0, 32⟩ s1
  else if phaseDone b p then .ok none s1
  else .block ⟨1, a, BitVec.ofNat 64 p, 32⟩ s1

/-! Device barriers. -/

/-- The fields of a device barrier object (Table 7-7). -/
def dbPhase (v : W64) : Nat := fld v 0 16
def dbExpect (v : W64) : Nat := fld v 16 11
def dbArrived (v : W64) : Nat := fld v 27 11
def dbWaiters (v : W64) : Nat := fld v 38 11
def dbUnseen (v : W64) : Nat := fld v 49 11
def dbScope (v : W64) : Nat := fld v 60 3

/-- SCOPE is one of the device scopes and bit 63 is clear (R228). -/
def dbValid (v : W64) : Bool := decide (3 ≤ dbScope v ∧ dbScope v ≤ 5) && !bit v 63

/-- The object's VALUE word at its home. -/
def dbRead (s : State) (p : Phys) : W64 := rw8 s p.key

/-- The phase has completed (BARWAIT.DEV). -/
def dbDone (v : W64) (p : Nat) : Bool := decide ((dbPhase v + 2 ^ 17 - p % 2 ^ 16 - 1) % 2 ^ 16 < 2 ^ 15)

/-- BARINIT.DEV (R228). -/
def initDev (o : Opnd) (s : State) : Res (Option W64) :=
  let a := barAddr o s
  let w := whoOf s.g 0
  let x := rdS s o.b.toNat
  (slotPlace a w needW 0 s).bind fun p s1 =>
  if fld x 0 11 = 0 ∨ fld x 24 3 < 3 ∨ 5 < fld x 24 3 ∨ fld x 22 2 ≠ 0 ∨ fld x 27 37 ≠ 0 then barFault 0x0B a s1 else
  let v := fld x 0 11 * 2 ^ 16 + fld x 11 11 * 2 ^ 38 + fld x 24 3 * 2 ^ 60
  .ok none (setSlotSwatch (slotWrite s1 w p 0 (bytesOf 8 v)) w p 0)

/-- BARARV.DEV (R228). -/
def arriveDev (o : Opnd) (s : State) : Res (Option W64) :=
  let a := barAddr o s
  let w := whoOf s.g 0
  let x := rdS s o.d.toNat
  (slotPlace a w needRW 0 s).bind fun p s1 =>
  if x ≠ 0 then barFault 0x0B a s1 else
  let v := dbRead s1 p
  if dbExpect v = 0 then .block ⟨4, a, 0, 64⟩ s1
  else if !dbValid v then barFault 0x0B a s1
  else if 0 < dbUnseen v then
    .ok none (onG (fun g => { put (.sca o.d.toNat 0x8000_0000_0000_0000) g with refused := some a }) s1)
  else
    let scope := dbScope v
    let (x, s2) := releasePart scope s1
    let sw := if dbArrived v = 0 then x else slotSwatch s2 p ||| x
    let n := dbArrived v + 1
    let v1 := if n % 2 ^ 11 = dbExpect v then
        setFld (setFld (setFld v 0 16 (dbPhase v + 1)) 27 11 0) 49 11 (dbWaiters v)
      else setFld v 27 11 n
    let s3 := setSlotSwatch (slotWrite s2 w p 0 (bytesOf 8 v1.toNat)) w p sw
    .ok none (onG (fun g => { clearPending scope (put (.sca o.d.toNat (BitVec.ofNat 64 (dbPhase v))) g) with refused := none }) s3)

/-- BARWAIT.DEV (R228). -/
def waitDev (o : Opnd) (s : State) : Res (Option W64) :=
  let a := barAddr o s
  let w := whoOf s.g 0
  let p16 := (rdS s o.b.toNat).toNat % 2 ^ 16
  (slotPlace a w needRW 0 s).bind fun p s1 =>
  let v := dbRead s1 p
  if dbExpect v = 0 then .block ⟨4, a, 0, 64⟩ s1
  else if !dbValid v then barFault 0x0B a s1
  else if !dbDone v p16 then .block ⟨2, a, BitVec.ofNat 64 ((rdS s o.b.toNat).toNat % 2 ^ 32), 64⟩ s1
  else if (p16 + 1) % 2 ^ 16 = dbPhase v ∧ 0 < dbUnseen v then
    let s2 := slotWrite s1 w p 0 (bytesOf 8 (setFld v 49 11 (dbUnseen v - 1)).toNat)
    .ok none (acquirePart (dbScope v) (slotSwatch s2 p) s2)
  else .ok none (acquirePart (dbScope v) fullSwatch s1)

/-- BARINIT. -/
def execBarinit (o : Opnd) (s : State) : Out := runI (.barinit o) s (fun s => if isDev o then initDev o s else initPnl o s)

/-- BARARV. -/
def execBararv (o : Opnd) (s : State) : Out := runI (.bararv o) s (fun s => if isDev o then arriveDev o s else arrivePnl o s)

/-- BARWAIT. -/
def execBarwait (o : Opnd) (s : State) : Out := runI (.barwait o) s (fun s => if isDev o then waitDev o s else waitPnl o s)

end Sys2Proof.Machine
end

