-- ==== Sys2Proof/Machine/Spawn.lean ====
section
/-! DEFINITION. Spawn pools and bins (01 R37 to R47, 07 R221, 13 R407 to R409): slots, reservation, commit, launch of bobbin
groups under pressure, and the instructions SPRES and SPCOM. -/

namespace Sys2Proof.Machine

/-- SPNSIZE.SLOTS of a die (Table 1-4). -/
def poolSlots (s : State) (die : Nat) : Nat := fld (cget zero s.spnsize die) 0 27

/-- The bin of a die with the key of R38 and R39. -/
def isBin (die ctx : Nat) (entry : W64) (b : Bin) : Bool := b.die == die && b.ctx == ctx && b.entry == entry

/-- Offsets reserved by groups on a die and not committed. -/
def reservedOffs (s : State) (die : Nat) : List Nat :=
  ((allGroups s).filter (·.live)).flatMap (fun g => (g.reserved.filter (fun r => r.die == die)).map (·.off))

/-- Offsets that RAYQ.BOB commands of a die hold (R304). -/
def rayOffs (s : State) (die : Nat) : List Nat :=
  (s.cmds.filter (fun c => coreDie c.core == die)).flatMap (fun c =>
    match c.kind with
    | .ray true _ rays => rays.map (·.slot)
    | _ => [])

/-- Offsets of committed records not yet launched. -/
def binOffs (s : State) (die : Nat) : List Nat :=
  (s.bins.filter (fun b => b.die == die)).flatMap (fun b => b.recs.map (·.off))

/-- Offsets of a die's pool that are not free: reserved, committed, or of a formed group whose words are not yet loaded
(R44). -/
def usedOffs (s : State) (die : Nat) : List Nat :=
  reservedOffs s die ++ rayOffs s die ++ binOffs s die ++ (s.formed.filter (fun f => f.die == die)).flatMap (·.offs)

/-- The occupancy of R46: slots reserved or holding records not yet launched, those of groups that are formed and wait for a core, or
are kept under R45, among them (log 94). -/
def occupancy (s : State) (die : Nat) : Nat := (usedOffs s die).length

/-- The bin exists, or can be made: fewer than 64 bins exist on the die (R40). -/
def ensureBin (die ctx : Nat) (entry : W64) (s : State) : Option State :=
  if s.bins.any (isBin die ctx entry) then some s
  else if (s.bins.filter (fun b => b.die == die)).length < 64 then
    some { s with bins := s.bins ++ [⟨die, ctx, entry, s.g.core, [], false, 0⟩] }
  else none

/-- The first free slot from `x` up, going round. -/
def freeFrom (used : List Nat) (slots : Nat) : Nat → Nat → Nat
  | 0, x => x
  | n + 1, x => if used.contains (32 * x) then freeFrom used slots n ((x + 1) % slots) else x

/-- The offsets that `n` lanes receive: distinct free slots; which lane gets which is open (R408). -/
def pickSlots (s : State) (slots : Nat) : Nat → List Nat → List Nat
  | 0, _ => []
  | n + 1, used =>
    let x := 32 * freeFrom used slots (used.length + 1) (Config.choose s.free n % slots)
    x :: pickSlots s slots n (x :: used)

/-- Form a bobbin group of the `n` oldest records of a bin (R43, R57, R221). -/
def formGroup (n : Nat) (b : Bin) (s : State) : State :=
  let f : Formed :=
    { die := b.die, ctx := b.ctx, entry := b.entry, offs := (b.recs.take n).map (·.off), swatch := b.swatch
      prio := (b.recs.head?.map (·.prio)).getD 0, ccls := (b.recs.head?.map (·.ccls)).getD 0, reported := false }
  let rest := b.recs.drop n
  { s with
    formed := s.formed ++ [f]
    bins := s.bins.map (fun x => if isBin b.die b.ctx b.entry x then
        { b with recs := rest, timer := !rest.isEmpty, swatch := if rest.isEmpty then 0 else b.swatch } else x) }

/-- The bin of a die whose first unlaunched record is the oldest: bins that hold records stand in the order of it. -/
def oldestBin (s : State) (die : Nat) : Option Bin := s.bins.find? (fun b => b.die == die && !b.recs.isEmpty)

/-- Launch partial groups one at a time until the occupancy, less the slots of the groups so launched, is at most three quarters, or no bin
holds a record (R46). -/
def launchEarly (die : Nat) : Nat → Nat → State → State
  | 0, _, s => s
  | n + 1, gone, s =>
    match oldestBin s die with
    | none => s
    | some b =>
      let s1 := formGroup 63 b s
      let k := gone + min 63 b.recs.length
      if (occupancy s1 die - k) * 4 ≤ 3 * poolSlots s1 die then s1 else launchEarly die n k s1

/-- Early launch starts when the occupancy exceeds seven eighths, or a bin creation is refused (R46). -/
def pressure (die : Nat) (refused : Bool) (s : State) : State :=
  if refused || decide (7 * poolSlots s die < occupancy s die * 8) then cleanBins (launchEarly die 64 0 s) else s

/-- Commit a record into a bin of a die, with the swatch of its release (R41, R43, R57, R221): the bin's timer starts when it
held no record, and 64 records make a full group at once. -/
def commitRec (die ctx : Nat) (entry : W64) (off : Nat) (prio ccls : BitVec 2) (w : Swatch) (s : State) : State :=
  match s.bins.find? (isBin die ctx entry) with
  | none => s
  | some b =>
    let b1 := { b with recs := b.recs ++ [⟨off, prio, ccls⟩], timer := true, swatch := b.swatch ||| w }
    let s1 :=
      if b.recs.isEmpty then { s with bins := s.bins.filter (fun x => !isBin die ctx entry x) ++ [b1] }
      else { s with bins := s.bins.map (fun x => if isBin die ctx entry x then b1 else x) }
    if 64 ≤ b1.recs.length then formGroup 64 b1 s1 else s1

/-- How a reservation ends. -/
inductive Grant where
  | slots (offs : List Nat) (s : State)
  | lacking (s : State)
  deriving DecidableEq, Repr

/-- Reserve `n` slots for bins of the current group's context, all or nothing (R40, R46). -/
def reserve (n : Nat) (entries : List W64) (s : State) : Grant :=
  let die := coreDie s.g.core
  let slots := poolSlots s die
  match entries.foldl (fun a e => a.bind (ensureBin die s.g.ctx e)) (some s) with
  | none => .lacking (pressure die true s)
  | some s1 =>
    let used := usedOffs s die
    if used.length + n ≤ slots then .slots (pickSlots s slots n used) (bump s1)
    else .lacking (pressure die false s)

/-- The spawn fault (Table 8-8). The manual states no TFAULT for it: a free value (log 41). -/
def spawnFault {α : Type} (sub : Nat) (lanes : W64) (s : State) : Res α :=
  .trap { cause := 0x0C, sub := sub, mask := lanes, fault := Config.freeW64 s.free 0 } (bump s)

/-- SPRES and SPRES.W (R408). -/
def spresBody (wait : Bool) (o : Opnd) (s : State) : Res (Option W64) :=
  let m := effMask s
  let e := rdS s o.a.toNat
  let die := coreDie s.g.core
  let flag (x : W64) : State → State := onG (put (.sca o.b.toNat x))
  if m = 0 then .ok none (flag 0 s)
  else if e.toNat % 4 ≠ 0 then .trap { cause := 0x04, sub := 0, mask := 1, fault := e } s
  else if poolSlots s die = 0 then
    if wait then spawnFault 2 0 s else .ok none (flag 1 s)
  else
    let ls := activeLanes m
    match reserve ls.length [e] s with
    | .lacking s1 => if wait then .block ⟨7, 0, e, ls.length⟩ s1 else .ok none (flag 1 s1)
    | .slots offs s1 =>
      let given := ls.zip offs
      let r := offs.map (fun x => (⟨die, s.g.ctx, e, x⟩ : Reservation))
      let s2 := onG (fun g => { g with reserved := g.reserved ++ r }) s1
      let s3 := onG (put (.vec o.d.toNat (pickLane given (fun x => BitVec.ofNat 32 x)))) s2
      .ok none (pressure die false (flag 0 s3))

/-- SPRES: the non-waiting form. -/
def execSpres (o : Opnd) (s : State) : Out := runI (.spres o) s (spresBody false o)

/-- SPRES.W: the waiting form, a blocking point of kind 7. -/
def execSpresW (o : Opnd) (s : State) : Out := runI (.spresW o) s (spresBody true o)

/-- SPCOM (R409): the checks, the release, the commits in lane order. DESIGN CHOICE (log 95): where the group holds one offset reserved on
two dies, as after MIGRATE, the reservation that it made first is committed. -/
def spcomBody (o : Opnd) (s : State) : Res (Option W64) :=
  let m := effMask s
  if m = 0 then .ok none s else
  let ls := (activeLanes m).map (fun i => (i, (laneOf (rdV s o.a.toNat) i).toNat))
  let mine (x : Nat) : Option Reservation := s.g.reserved.find? (fun r => r.off == x)
  let bad := ls.filter (fun l => (mine l.2).isNone || ls.any (fun k => decide (k.1 < l.1) && k.2 == l.2))
  if !bad.isEmpty then spawnFault 1 (maskOf (bad.map (·.1))) s else
  let rs := ls.filterMap (fun l => mine l.2)
  let scope := if rs.all (fun r => r.die == coreDie s.g.core) then 3 else 4
  let (w, s1) := releasePart scope s
  let s2 := onG (fun g => { clearPending scope g with reserved := g.reserved.filter (fun r => !rs.contains r) }) s1
  .ok none (cleanBins (rs.foldl (fun a r => commitRec r.die r.ctx r.entry r.off s.g.prio s.g.ccls w a) s2))

/-- SPCOM. -/
def execSpcom (o : Opnd) (s : State) : Out := runI (.spcom o) s (spcomBody o)

/-- A pre-emption request targets a panel (R254). That its context is stopped is no request (log 83). -/
def panelTargeted (s : State) (id : Nat) : Bool := (panelOf s id).any (fun p => p.request.isSome)

end Sys2Proof.Machine
end

