-- ==== Sys2Proof/Machine/Control.lean ====
section
/-! DEFINITION. Control flow (11 R345, R346, R351, R352, 12 R383, R384, R387, R394, R396, 13 R414, 08 R253, R265, R266). -/

namespace Sys2Proof.Machine

/-- The byte offset of a kind 00 branch word (R345). -/
def branchOff (o : Opnd) : W64 := match o.x with | .imm v => v.signExtend 64 | _ => 0

/-- BRA's offset: bits [20:0] of the word, a signed count of words (R345). -/
def braOff (o : Opnd) : W64 := (o.d ++ o.a ++ o.b : BitVec 21).signExtend 64 * 4

/-- The conditions of BRC (Table 11-4). -/
def brcTest (cond : Nat) (x : W64) : Bool :=
  match cond with
  | 0 => x == 0
  | 1 => x != 0
  | 2 => x.slt 0
  | 3 => !x.slt 0
  | 4 => (0 : W64).slt x
  | _ => !(0 : W64).slt x

/-- BRA. -/
def execBra (o : Opnd) (s : State) : Out := runI (.bra o) s (fun s => .ok (some (s.g.pc + braOff o)) s)

/-- BRC. -/
def execBrc (o : Opnd) (s : State) : Out :=
  runI (.brc o) s (fun s =>
    .ok (if brcTest o.d.toNat (rdS s o.a.toNat) then some (s.g.pc + branchOff o) else none) s)

/-- BZM: the branch is taken when the named mask leaves no existing lane. -/
def execBzm (o : Opnd) (s : State) : Out :=
  runI (.bzm o) s (fun s => .ok (if rdS s o.a.toNat &&& s.g.exmask = 0 then some (s.g.pc + branchOff o) else none) s)

/-- CALL: sD receives the address after the instruction, at issue distance 1. -/
def execCall (o : Opnd) (s : State) : Out :=
  runI (.call o) s (fun s => .ok (some (s.g.pc + branchOff o)) (onG (post 1 (.sca o.d.toNat (s.g.pc + 8))) s))

/-- RET: the target is checked when it is fetched. -/
def execRet (o : Opnd) (s : State) : Out := runI (.ret o) s (fun s => .ok (some (rdS s o.a.toNat)) s)

/-- NOP. -/
def execNop (o : Opnd) (s : State) : Out := runI (.nop o) s (fun s => .ok none s)

/-- The panel of the current group is targeted by a pre-emption request (R254). -/
def targeted (s : State) : Bool := panelTargeted s s.g.panel

/-- YIELDPT (R253): NOP, or the blocking point of kind 9, from which the group resumes at the next instruction. -/
def execYieldpt (o : Opnd) (s : State) : Out :=
  runI (.yieldpt o) s (fun s =>
    .ok none (if targeted s then onG (fun g => { g with block := some ⟨9, 0, 0, 0⟩ }) s else s))

/-- What is left of a group that has exited: its identity, and its accepted matrix operations with the tiles they read, until
its panel completes (R351). -/
def exitedGroup (g : Group) : Group :=
  { Group.empty with
    live := true, exited := true, id := g.id, panel := g.panel, ctx := g.ctx, core := g.core, slot := g.slot, kind := g.kind
    gid := g.gid, pidx := g.pidx, bid := g.bid, args := g.args, part := g.part, exmask := g.exmask, vmctx := g.vmctx, prio := g.prio
    ccls := g.ccls, order := g.order, pc := g.pc, frag := g.frag, t := g.t, nb := g.nb, openSet := g.openSet, batches := g.batches }

/-- The address at which an accepted command or matrix operation of the current group is paused (R236). -/
def pausedAt (s : State) : Option W64 :=
  ((s.cmds.filter (fun c => c.grp == s.g.id)).findSome? (·.paused)).orElse (fun _ => (allOps s.g).findSome? (·.paused))

/-- EXIT (R351, R352): the uncommitted reservations are freed, the register state and the pending swatches go, the group
leaves its slot. A command that is paused then has a running fault that nobody can mend, which is fatal to the panel (R236). -/
def execExit (o : Opnd) (s : State) : Out :=
  runI (.exit o) s (fun s =>
    match pausedAt s with
    | some va => .fatal 0x24 4 va s
    | none => .ok none (cleanBins (onG exitedGroup s)))

/-- RFE (R266, R396). -/
def execRfe (o : Opnd) (s : State) : Out :=
  runI (.rfe o) s (fun s => let s1 := returnFromTrap s; .ok (some s1.g.pc) s1)

/-- SVC (R265): in the unprivileged view TPC is the next instruction. It issues, and so its STALL holds for what follows (R96). -/
def execSvc (o : Opnd) (s : State) : Out :=
  runI (.svc o) s (fun s =>
    .trap { cause := 0x10, sub := 0, code := o.b.toNat, first := some s.g.pc } (onG (fun g => { g with pc := g.pc + 4, stall := o.st.toNat }) s))

/-- TRAP (R265): in the unprivileged view a trap with TPC at it; in the privileged view a record to the host, after whose answer
the handler goes on at the next instruction. -/
def execTrap (o : Opnd) (s : State) : Out :=
  runI (.trap o) s (fun s =>
    if s.g.priv then .ok none (postAndWait o.b.toNat true s)
    else .trap { cause := 0x11, sub := 0, code := o.b.toNat, first := some s.g.pc } s)

/-- MODE (R384): the fields its D bits enable, visible at issue distance 1. -/
def execMode (o : Opnd) (s : State) : Out :=
  runI (.mode o) s (fun s => .ok none (onG (post 1 (.mode (modeNew o s.g.gmode))) s))

end Sys2Proof.Machine
end

