-- ==== Sys2Proof/Machine/FloatFun.lean ====
section
/-! DEFINITION. The one-source functions (11 R359, R360, Tables 11-8 and 11-9) and FRND, FCLS, FSCL (R355, R362, R363). FRCP
and FSQRT are rounded once. FRSQ, FEX2, FLG2 and FTRIG are faithful: the two neighbours of the exact value are found by exact
bounds, and which of them is returned is a free value (log 12). -/

namespace Sys2Proof.Machine

/-- The integer square root, by bits from `n` down. -/
def isqrtFrom : Nat → Nat → Nat → Nat
  | 0, x, r => if (r + 1) * (r + 1) ≤ x then r + 1 else r
  | n + 1, x, r => isqrtFrom n x (if (r + 2 ^ (n + 1)) * (r + 2 ^ (n + 1)) ≤ x then r + 2 ^ (n + 1) else r)

/-- floor(√x). -/
def isqrt (x : Nat) : Nat := isqrtFrom (Nat.log2 x / 2 + 1) x 0

/-- floor(x / 2^q) of a positive rational. -/
def floorAt (x : Rat) (q : Int) : Nat := (roundAt .tz false x q).1

/-- 2 · floor(√x / 2^q) of a positive rational, plus one when the root is not a multiple of 2^q. -/
def sqrtSticky (x : Rat) (q : Int) : Nat :=
  let k := isqrt (floorAt x (2 * q))
  if ((k * k : Nat) : Rat) * pow2 (2 * q) = x then 2 * k else 2 * k + 1

/-- √x of a positive rational, rounded once (FSQRT). -/
def sqrtRound (f : Fmt) (rm : Rm) (x : Rat) : FRes :=
  let e := log2Rat x / 2
  let q := e - f.fb - 3
  roundF f rm false (((sqrtSticky x q : Nat) : Rat) * pow2 (q - 1))

/-- A faithful result (R359): the exact value lies just above `lo`, with no representable value strictly between; `up` picks
the upper neighbour. Beyond the largest finite value it follows Table 4-4. -/
def faithful (f : Fmt) (rm : Rm) (neg : Bool) (lo : Rat) (up : Bool) : FRes :=
  let emin : Int := 1 - f.bias
  let q := (if lo = 0 then emin else max (log2Rat lo) emin) - f.fb
  let k := floorAt lo q
  let code := (q - (emin - f.fb)).toNat * 2 ^ f.fb + k
  if maxCode f ≤ code then ⟨overflowBits f rm neg, flOF ||| flNX⟩
  else
    let c := if up then code + 1 else code
    ⟨signBits f neg + c, flNX ||| flIf (decide (c < 2 ^ f.fb)) flUF⟩

/-- A value that is known exactly, or a lower bound for a faithful result. -/
inductive Bound where
  | exact (neg : Bool) (x : Rat)
  | above (neg : Bool) (lo : Rat)
  deriving DecidableEq, Repr

/-- The result for a bound. -/
def ofBound (f : Fmt) (rm : Rm) (up : Bool) : Bound → FRes
  | .exact n x => let r := roundF f rm n x; if r.fl &&& flNX = 0 then r else faithful f rm n x up
  | .above n lo => faithful f rm n lo up

/-- 1/√x of a positive rational. -/
def rsqBound (f : Fmt) (x : Rat) : Bound :=
  let y := 1 / x
  let q := log2Rat y / 2 - f.fb - 3
  let k := sqrtSticky y q
  if k % 2 = 0 then .exact false (((k / 2 : Nat) : Rat) * pow2 q) else .above false (((k / 2 : Nat) : Rat) * pow2 q)

/-- 2^(-n) fractional precision of the fixed-point bounds. -/
def fxBits : Nat := 420

/-- √ of a fixed-point number, rounded down. -/
def fxSqrt (x : Nat) : Nat := isqrt (x * 2 ^ fxBits)

/-- 2^f as a fixed-point lower bound, for f = num / 2^n with num below 2^n: the roots of 2 for the set bits, from the top. -/
def exp2Fx : Nat → Nat → Nat → Nat → Nat
  | 0, _, _, acc => acc
  | n + 1, num, root, acc =>
    let r := fxSqrt root
    exp2Fx n (num % 2 ^ n) r (if num / 2 ^ n % 2 = 1 then acc * r / 2 ^ fxBits else acc)

/-- 2^x of a rational whose denominator is a power of two. -/
def exp2Bound (x : Rat) : Bound :=
  let n : Int := x.floor
  let fr := x - (n : Rat)
  if fr = 0 then .exact false (pow2 (max (-400) (min n 400)))
  else if n < -400 then .above false (pow2 (-400))
  else if 400 < n then .above false (pow2 400)
  else
    let m := Nat.log2 fr.den
    .above false (((exp2Fx m fr.num.natAbs (2 ^ (fxBits + 1)) (2 ^ fxBits) : Nat) : Rat) * pow2 (n - fxBits))

/-- The first `n` fractional bits of log2 m, for a fixed-point m from 1 up to 2. -/
def log2Fx : Nat → Nat → Nat → Nat
  | 0, _, acc => acc
  | n + 1, m, acc =>
    let sq := m * m / 2 ^ fxBits
    if 2 ^ (fxBits + 1) ≤ sq then log2Fx n (sq / 2) (2 * acc + 1) else log2Fx n sq (2 * acc)

/-- log2 of a positive rational. -/
def log2Bound (x : Rat) : Bound :=
  let e := log2Rat x
  let m := x * pow2 (-e)
  if m = 1 then .exact (decide (e < 0)) (if e < 0 then ((-e : Int) : Rat) else (e : Rat))
  else
    let fr := log2Fx 120 (floorAt m (-(fxBits : Int))) 0
    let v : Int := e * 2 ^ 120 + (fr : Int)
    if 0 ≤ v then .above false ((v : Rat) * pow2 (-120)) else .above true (((-v - 1 : Int) : Rat) * pow2 (-120))

/-- floor(π/2 · 2^420). -/
def halfPi : Nat := 0x1921fb54442d18469898cc51701b839a252049c1114cf98e804177d4c76273644a29410f31c6809bbdf2a33679a748636605614dbe

/-- Σ of the alternating Taylor terms in fixed point from term `t` on: the next divisors are k(k+1), (k+2)(k+3), … -/
def taylorFx : Nat → Nat → Nat → Nat → Int
  | 0, _, t, _ => t
  | n + 1, r2, t, k => (t : Int) - taylorFx n r2 (t * r2 / 2 ^ fxBits / (k * (k + 1))) (k + 2)

/-- sin or cos of a fixed-point r in the first quadrant. -/
def sinFx (r : Nat) : Int := taylorFx 60 (r * r / 2 ^ fxBits) r 2
def cosFx (r : Nat) : Int := taylorFx 60 (r * r / 2 ^ fxBits) (2 ^ fxBits) 1

/-- A fixed-point magnitude as a lower bound. -/
def fxBound (neg : Bool) (v : Int) : Bound := .above neg (((v - 2 ^ 40).toNat : Rat) * pow2 (-(fxBits : Int)))

/-- sin or cos of a nonzero finite value with the given sign and magnitude (R359): exact argument reduction. -/
def trigBound (isCos neg : Bool) (x : Rat) : Bound :=
  if x < pow2 (-12) then
    if isCos then .above false (1 - x * x / 2) else .above neg (x - x * x * x / 6)
  else
    let fx := floorAt x (-(fxBits : Int))
    let n := fx / halfPi
    let r := fx % halfPi
    match n % 4, isCos with
    | 0, false => fxBound neg (sinFx r)
    | 1, false => fxBound neg (cosFx r)
    | 2, false => fxBound (!neg) (sinFx r)
    | _, false => fxBound (!neg) (cosFx r)
    | 0, true => fxBound false (cosFx r)
    | 1, true => fxBound true (sinFx r)
    | 2, true => fxBound true (cosFx r)
    | _, true => fxBound false (sinFx r)

/-- A NaN operand of a one-source function (R124, R360). -/
def oneNaN (f : Fmt) (x : FVal) (k : FRes) : FRes :=
  match firstNaN f [x] with
  | some n => ⟨n, snanFlag [x]⟩
  | none => k

/-- 1/x, rounded once. -/
def rcpF (f : Fmt) (rm : Rm) (bits : Nat) : FRes :=
  let x := decodeF f bits
  oneNaN f x <| match x with
    | .inf n => ⟨signBits f n, 0⟩
    | _ => if x.isZero then ⟨infBits f x.neg, flDZ⟩ else roundSigned f rm false (1 / x.toRat)

/-- √x, rounded once. -/
def sqrtF (f : Fmt) (rm : Rm) (bits : Nat) : FRes :=
  let x := decodeF f bits
  oneNaN f x <|
    if x.isZero then ⟨bits, 0⟩ else if x.neg then invalid f 5
    else if x.isInf then ⟨bits, 0⟩ else sqrtRound f rm x.toRat

/-- 1/√x, faithful. -/
def rsqF (f : Fmt) (rm : Rm) (up : Bool) (bits : Nat) : FRes :=
  let x := decodeF f bits
  oneNaN f x <|
    if x.isZero then ⟨infBits f true, flDZ⟩ |> fun r => if x.neg then r else ⟨infBits f false, flDZ⟩
    else if x.neg then invalid f 5
    else if x.isInf then ⟨0, 0⟩ else ofBound f rm up (rsqBound f x.toRat)

/-- 2^x, faithful. -/
def ex2F (f : Fmt) (rm : Rm) (up : Bool) (bits : Nat) : FRes :=
  let x := decodeF f bits
  oneNaN f x <| match x with
    | .inf n => if n then ⟨0, 0⟩ else ⟨infBits f false, 0⟩
    | _ => ofBound f rm up (exp2Bound x.toRat)

/-- log2 x, faithful. -/
def lg2F (f : Fmt) (rm : Rm) (up : Bool) (bits : Nat) : FRes :=
  let x := decodeF f bits
  oneNaN f x <|
    if x.isZero then ⟨infBits f true, flDZ⟩ else if x.neg then invalid f 5
    else if x.isInf then ⟨bits, 0⟩ else ofBound f rm up (log2Bound x.toRat)

/-- sin x or cos x, faithful. -/
def trigF (isCos : Bool) (f : Fmt) (rm : Rm) (up : Bool) (bits : Nat) : FRes :=
  let x := decodeF f bits
  oneNaN f x <|
    if x.isInf then invalid f 5
    else if x.isZero then (if isCos then roundF f rm false 1 else ⟨bits, 0⟩)
    else ofBound f rm up (trigBound isCos x.neg (if x.neg then -x.toRat else x.toRat))

/-- Round to an integral value of the format (R362). -/
def rndF (f : Fmt) (rm : Rm) (bits : Nat) : FRes :=
  let x := decodeF f bits
  oneNaN f x <|
    if x.isInf || x.isZero then ⟨bits, 0⟩
    else
      let (k, ix) := roundInt rm x.toRat
      ⟨(roundF f .ne x.neg ((k.natAbs : Nat) : Rat)).bits, flIf ix flNX⟩

/-- x · 2^n (R363). -/
def sclF (f : Fmt) (rm : Rm) (bits : Nat) (n : Int) : FRes :=
  let x := decodeF f bits
  let m := max (-5000) (min n 5000)
  oneNaN f x <| if x.isInf || x.isZero then ⟨bits, 0⟩ else roundSigned f rm false (x.toRat * pow2 m)

/-- The class bit of a value (Table 11-6). -/
def classBit (f : Fmt) (bits : Nat) : Nat :=
  let sub := bitsOf bits f.fb f.eb == 0
  match decodeF f bits with
  | .inf n => if n then 0 else 7
  | .nan _ q _ => if q then 9 else 8
  | .fin n m =>
    if m = 0 then (if n then 3 else 4)
    else if sub then (if n then 2 else 5)
    else if n then 1 else 6

end Sys2Proof.Machine
end

