-- ==== Sys2Proof/Machine/Scalar.lean ====
section
/-! DEFINITION. The scalar instructions (13 R399 to R401): 64-bit, wrapping, uniform, no flag. -/

namespace Sys2Proof.Machine

/-- A scalar result posted at distance `l`. -/
def scalarTo (l : Nat) (o : Opnd) (f : State → W64) (s : State) : Res (Option W64) :=
  .ok none (onG (post l (.sca o.d.toNat (f s))) s)

/-- A two-source scalar operation. -/
def scalar2 (l : Nat) (o : Opnd) (f : W64 → W64 → W64) : State → Res (Option W64) :=
  scalarTo l o (fun s => f (rdS s o.a.toNat) (scalarB s o))

/-- A one-source scalar operation. -/
def scalar1 (o : Opnd) (f : W64 → W64) : State → Res (Option W64) :=
  scalarTo 1 o (fun s => f (rdS s o.a.toNat))

/-- SEL of a kind 10 word selects the unsigned form (Table 3-7). -/
def selU (o : Opnd) : Bool := (parOf o).sel == 1

/-- The predicates of SCMP and VCMP on `w`-bit values (Table 3-7). -/
def cmpPred (w sel a b : Nat) : Bool :=
  let sa := sextNat w a
  let sb := sextNat w b
  let ua := a % 2 ^ w
  let ub := b % 2 ^ w
  match sel with
  | 0 => ua == ub
  | 1 => ua != ub
  | 2 => decide (sa < sb)
  | 3 => decide (sa ≤ sb)
  | 4 => decide (sb < sa)
  | 5 => decide (sb ≤ sa)
  | 6 => decide (ua < ub)
  | 7 => decide (ua ≤ ub)
  | 8 => decide (ub < ua)
  | _ => decide (ub ≤ ua)

/-- SADD: sD := (a + b) mod 2^64. -/
def execSadd (o : Opnd) (s : State) : Out := runI (.sadd o) s (scalar2 1 o (fun a b => a + b))

/-- SSUB: sD := (a − b) mod 2^64. -/
def execSsub (o : Opnd) (s : State) : Out := runI (.ssub o) s (scalar2 1 o (fun a b => a - b))

/-- SMUL: sD := (a · b) mod 2^64. -/
def execSmul (o : Opnd) (s : State) : Out := runI (.smul o) s (scalar2 3 o (fun a b => a * b))

/-- SMULH: the high half of the product, signed or unsigned by SEL. -/
def execSmulh (o : Opnd) (s : State) : Out :=
  runI (.smulh o) s (scalar2 3 o (fun a b =>
    if selU o then BitVec.ofNat 64 (a.toNat * b.toNat / 2 ^ 64) else w64 ((a.toInt * b.toInt) / (2 ^ 64 : Nat))))

/-- SMAD: sD := (a · b + c) mod 2^64. -/
def execSmad (o : Opnd) (s : State) : Out :=
  runI (.smad o) s (scalarTo 3 o (fun s => rdS s o.a.toNat * rdS s o.b.toNat + scalarC s o))

/-- SAND. -/
def execSand (o : Opnd) (s : State) : Out := runI (.sand o) s (scalar2 1 o (fun a b => a &&& b))

/-- SOR. -/
def execSor (o : Opnd) (s : State) : Out := runI (.sor o) s (scalar2 1 o (fun a b => a ||| b))

/-- SXOR. -/
def execSxor (o : Opnd) (s : State) : Out := runI (.sxor o) s (scalar2 1 o (fun a b => a ^^^ b))

/-- SSHL: a · 2^n with n = b[5:0]. -/
def execSshl (o : Opnd) (s : State) : Out := runI (.sshl o) s (scalar2 1 o (fun a b => a <<< (b.toNat % 64)))

/-- SSHR: floor(a / 2^n), a unsigned. -/
def execSshr (o : Opnd) (s : State) : Out := runI (.sshr o) s (scalar2 1 o (fun a b => a >>> (b.toNat % 64)))

/-- SSRA: floor(a / 2^n), a signed. -/
def execSsra (o : Opnd) (s : State) : Out := runI (.ssra o) s (scalar2 1 o (fun a b => a.sshiftRight (b.toNat % 64)))

/-- SMIN: the smaller, signed unless SEL is .U. -/
def execSmin (o : Opnd) (s : State) : Out :=
  runI (.smin o) s (scalar2 1 o (fun a b => if selU o then (if b.ult a then b else a) else (if b.slt a then b else a)))

/-- SMAX: the larger, signed unless SEL is .U. -/
def execSmax (o : Opnd) (s : State) : Out :=
  runI (.smax o) s (scalar2 1 o (fun a b => if selU o then (if a.ult b then b else a) else (if a.slt b then b else a)))

/-- SCMP: 1 when the predicate of SEL holds, else 0. -/
def execScmp (o : Opnd) (s : State) : Out :=
  runI (.scmp o) s (scalar2 1 o (fun a b => boolW (cmpPred 64 (parOf o).sel.toNat a.toNat b.toNat)))

/-- SSEL: a when c is nonzero, else b. -/
def execSsel (o : Opnd) (s : State) : Out :=
  runI (.ssel o) s (scalarTo 1 o (fun s => if scalarC s o ≠ 0 then rdS s o.a.toNat else rdS s o.b.toNat))

/-- SMOV. -/
def execSmov (o : Opnd) (s : State) : Out := runI (.smov o) s (scalar1 o (fun a => a))

/-- SLI: the immediate, sign-extended, zero-extended (.Z), or into the high half (.HI). -/
def execSli (o : Opnd) (s : State) : Out :=
  runI (.sli o) s (scalarTo 1 o (fun s =>
    match o.x with
    | .imm v =>
      if o.a = 0 then v.signExtend 64
      else if o.a = 1 then v.setWidth 64
      else pair64 (lo32 (keptS s o.d.toNat)) (v.signExtend 32)
    | _ => 0))

/-- SPOPC: the number of set bits. -/
def execSpopc (o : Opnd) (s : State) : Out := runI (.spopc o) s (scalar1 o (fun a => BitVec.ofNat 64 (popNat 64 a.toNat)))

/-- SCLZ: the number of leading zeros; 64 for zero. -/
def execSclz (o : Opnd) (s : State) : Out := runI (.sclz o) s (scalar1 o (fun a => BitVec.ofNat 64 (leadingZeros 64 a.toNat)))

/-- SFFS: the index of the lowest set bit; 64 for zero. -/
def execSffs (o : Opnd) (s : State) : Out :=
  runI (.sffs o) s (scalar1 o (fun a => BitVec.ofNat 64 ((lowestSet 64 0 a.toNat).getD 64)))

end Sys2Proof.Machine
end

