-- ==== Sys2Proof/Machine/VectorInt.lean ====
section
/-! DEFINITION. The vector integer instructions (13 R421 to R425). -/

namespace Sys2Proof.Machine

/-- A vector result computed per active lane and posted at distance `l`. -/
def vectorTo (l : Nat) (o : Opnd) (f : State → Nat → List Nat × Fl) (s : State) : Res (Option W64) :=
  .ok none (onG (postLanes l (etOf s) o.d.toNat (perLane (effMask s) (f s))) s)

/-- An integer operation with modifiers, saturating when the operation does (R422). -/
def intOp (l : Nat) (o : Opnd) (sats : Bool) (f : Int → Int → Int → Int) : State → Res (Option W64) :=
  vectorTo l o (fun s => intLane s o sats f)

/-- An operation on raw elements: width, a, b, c. -/
def rawOp (l : Nat) (o : Opnd) (f : Nat → Nat → Nat → Nat → Nat) : State → Res (Option W64) :=
  vectorTo l o (fun s => rawLane s o f)

/-- VADD. -/
def execVadd (o : Opnd) (s : State) : Out := runI (.vadd o) s (intOp 2 o true (fun a b _ => a + b))

/-- VSUB. -/
def execVsub (o : Opnd) (s : State) : Out := runI (.vsub o) s (intOp 2 o true (fun a b _ => a - b))

/-- VMUL. -/
def execVmul (o : Opnd) (s : State) : Out := runI (.vmul o) s (intOp 4 o true (fun a b _ => a * b))

/-- VMULH: floor(a · b / 2^w). -/
def execVmulh (o : Opnd) (s : State) : Out :=
  runI (.vmulh o) s (fun s => intOp 4 o false (fun a b _ => a * b / (2 ^ elemBits (etOf s) : Nat)) s)

/-- VMAD: a · b + c, wrapped or saturated once. -/
def execVmad (o : Opnd) (s : State) : Out := runI (.vmad o) s (intOp 4 o true (fun a b c => a * b + c))

/-- VAND. -/
def execVand (o : Opnd) (s : State) : Out := runI (.vand o) s (rawOp 2 o (fun _ a b _ => a &&& b))

/-- VOR. -/
def execVor (o : Opnd) (s : State) : Out := runI (.vor o) s (rawOp 2 o (fun _ a b _ => a ||| b))

/-- VXOR. -/
def execVxor (o : Opnd) (s : State) : Out := runI (.vxor o) s (rawOp 2 o (fun _ a b _ => a ^^^ b))

/-- VSHL: a · 2^n, n = b mod w. -/
def execVshl (o : Opnd) (s : State) : Out := runI (.vshl o) s (rawOp 2 o (fun w a b _ => a * 2 ^ (b % w) % 2 ^ w))

/-- VSHR: floor(a / 2^n), a unsigned. -/
def execVshr (o : Opnd) (s : State) : Out := runI (.vshr o) s (rawOp 2 o (fun w a b _ => a / 2 ^ (b % w)))

/-- VSRA: floor(a / 2^n), a signed. -/
def execVsra (o : Opnd) (s : State) : Out :=
  runI (.vsra o) s (rawOp 2 o (fun w a b _ => ((sextNat w a / (2 ^ (b % w) : Nat)) % (2 ^ w : Nat)).toNat))

/-- VMIN: the smaller by the reading of ET. -/
def execVmin (o : Opnd) (s : State) : Out := runI (.vmin o) s (intOp 2 o false (fun a b _ => if b < a then b else a))

/-- VMAX: the larger by the reading of ET. -/
def execVmax (o : Opnd) (s : State) : Out := runI (.vmax o) s (intOp 2 o false (fun a b _ => if a < b then b else a))

/-- VABS: |a| when signed, a when unsigned. -/
def execVabs (o : Opnd) (s : State) : Out :=
  runI (.vabs o) s (intOp 2 o true (fun a _ _ => if a < 0 then -a else a))

/-- One lane of VCMP (R423): the predicate holds for every element. The modifiers read the elements as the predicate does. -/
def vcmpLane (s : State) (o : Opnd) (sel i : Nat) : Bool × Bool :=
  let et := etOf s
  let w := elemBits et
  let sg := decide (sel < 6)
  let sat := gmSAT s.g.gmode
  let rs := (elems3 (regElems s et o.a.toNat i) (elemsB s et o i) []).map (fun e =>
    let a := modInt w sg sat (modsA o) e.1
    let b := modInt w sg sat (modsB o) e.2.1
    (cmpPred w sel (a.1 % (2 ^ w : Nat)).toNat (b.1 % (2 ^ w : Nat)).toNat, a.2 || b.2))
  (rs.all (·.1), rs.any (·.2))

/-- SEL of the extension word, of kind 01 or kind 10. -/
def selOf (o : Opnd) : Nat :=
  match o.x with
  | .bro k => k.sel.toNat
  | .par k => k.sel.toNat
  | _ => 0

/-- VCMP: one bit per active lane into sD; inactive lanes read 0. -/
def execVcmp (o : Opnd) (s : State) : Out :=
  runI (.vcmp o) s (fun s =>
    let act := activeLanes (effMask s)
    let rs := act.map (fun i => (i, vcmpLane s o (selOf o) i))
    let m := maskOf ((rs.filter (fun r => r.2.1)).map (·.1))
    .ok none (onG (fun g => postFlags 3 (flIf (rs.any (fun r => r.2.2)) flIS) (post 3 (.sca o.d.toNat m) g)) s))

/-- VSEL: lane i takes A where bit i of sC is set, else B. -/
def execVsel (o : Opnd) (s : State) : Out :=
  runI (.vsel o) s (vectorTo 2 o (fun s i =>
    let et := etOf s
    ((if (scalarC s o).getLsbD i then regElems s et o.a.toNat i else elemsB s et o i), 0)))

/-- VMOV vD, vA. -/
def execVmov (o : Opnd) (s : State) : Out :=
  runI (.vmov o) s (vectorTo 2 o (fun s i => (regElems s (etOf s) o.a.toNat i, 0)))

/-- VMOV vD, immediate. -/
def execVmovImm (o : Opnd) (s : State) : Out :=
  runI (.vmovImm o) s (vectorTo 2 o (fun s i => (elemsB s (etOf s) o i, 0)))

/-- VMOV vD, sB. -/
def execVmovScalar (o : Opnd) (s : State) : Out :=
  runI (.vmovScalar o) s (vectorTo 2 o (fun s i => (elemsB s (etOf s) o i, 0)))

/-- VPOPC: set bits per element. -/
def execVpopc (o : Opnd) (s : State) : Out := runI (.vpopc o) s (rawOp 2 o (fun w a _ _ => popNat w a))

/-- VCLZ: leading zeros per element; w for zero. -/
def execVclz (o : Opnd) (s : State) : Out := runI (.vclz o) s (rawOp 2 o (fun w a _ _ => leadingZeros w a))

/-- The field of VBFE and VBFI (R425): position and width used. -/
def bfield (b : Nat) : Nat × Nat :=
  let p := bitsOf b 0 5
  (p, min (bitsOf b 8 6) (32 - p))

/-- VBFE: extract a field, sign-extended under I32. -/
def execVbfe (o : Opnd) (s : State) : Out :=
  runI (.vbfe o) s (fun s => rawOp 2 o (fun _ a b _ =>
    let (p, u) := bfield b
    if u = 0 then 0
    else if etOf s = 0 then ((sextNat u (bitsOf a p u)) % (2 ^ 32 : Nat)).toNat else bitsOf a p u) s)

/-- VBFI: replace a field of C by the low bits of A. -/
def execVbfi (o : Opnd) (s : State) : Out :=
  runI (.vbfi o) s (rawOp 2 o (fun _ a b c =>
    let (p, u) := bfield b
    c % 2 ^ p + bitsOf a 0 u * 2 ^ p + c / 2 ^ (p + u) * 2 ^ (p + u)))

end Sys2Proof.Machine
end

