-- ==== Sys2Proof/Machine/VectorFloat.lean ====
section
/-! DEFINITION. The vector floating-point instructions (11 R353 to R363) and FCVT (04 R127 to R129). -/

namespace Sys2Proof.Machine

/-- A rounded operation on format, mode and the modified codes of A, B and C. -/
def floatOp (o : Opnd) (f : Fmt → Rm → Nat → Nat → Nat → FRes) (s : State) : Res (Option W64) :=
  vectorTo (floatLat (etOf s)) o (fun s => floatLane s o f) s

/-- FADD. -/
def execFadd (o : Opnd) (s : State) : Out :=
  runI (.fadd o) s (floatOp o (fun f rm a b _ => addF f rm (decodeF f a) (decodeF f b)))

/-- FSUB. -/
def execFsub (o : Opnd) (s : State) : Out :=
  runI (.fsub o) s (floatOp o (fun f rm a b _ => subF f rm (decodeF f a) (decodeF f b)))

/-- FMUL. -/
def execFmul (o : Opnd) (s : State) : Out :=
  runI (.fmul o) s (floatOp o (fun f rm a b _ => mulF f rm (decodeF f a) (decodeF f b)))

/-- FMA: a · b + c with one rounding. -/
def execFma (o : Opnd) (s : State) : Out :=
  runI (.fma o) s (floatOp o (fun f rm a b c => fmaF f rm (decodeF f a) (decodeF f b) (decodeF f c)))

/-- FMIN: minimumNumber (R131). -/
def execFmin (o : Opnd) (s : State) : Out :=
  runI (.fmin o) s (floatOp o (fun f _ a b _ => ⟨minmaxF f false a b, minmaxFlag (decodeF f a) (decodeF f b)⟩))

/-- FMAX: maximumNumber (R131). -/
def execFmax (o : Opnd) (s : State) : Out :=
  runI (.fmax o) s (floatOp o (fun f _ a b _ => ⟨minmaxF f true a b, minmaxFlag (decodeF f a) (decodeF f b)⟩))

/-- A predicate of FCMP on two values, with the flag it raises (Table 11-7). -/
def fcmpPred (sel : Nat) (a b : FVal) : Bool × Fl :=
  let nan := a.isNaN || b.isNaN
  let sig := a.isSNaN || b.isSNaN
  let ordered := decide (2 ≤ sel ∧ sel ≤ 5)
  if nan then (sel == 1 || sel == 6, flIf (sig || ordered) flNV)
  else
    (match sel with
     | 0 => eqF a b
     | 1 => !eqF a b
     | 2 => ltF a b
     | 3 => ltF a b || eqF a b
     | 4 => ltF b a
     | 5 => ltF b a || eqF a b
     | 6 => false
     | _ => true, 0)

/-- One lane of FCMP (R356): the predicate holds for every element. -/
def fcmpLane (s : State) (o : Opnd) (sel i : Nat) : Bool × Fl :=
  let et := etOf s
  let f := etFmt et
  let rs := (elems3 (regElems s et o.a.toNat i) (elemsB s et o i) []).map (fun e =>
    fcmpPred sel (decodeF f (modFloat f (modsA o) e.1)) (decodeF f (modFloat f (modsB o) e.2.1)))
  (rs.all (·.1), flAll (rs.map (·.2)))

/-- FCMP: one bit per active lane into sD. -/
def execFcmp (o : Opnd) (s : State) : Out :=
  runI (.fcmp o) s (fun s =>
    let rs := (activeLanes (effMask s)).map (fun i => (i, fcmpLane s o (selOf o) i))
    let m := maskOf ((rs.filter (fun r => r.2.1)).map (·.1))
    .ok none (onG (fun g => postFlags 3 (flAll (rs.map (fun r => r.2.2))) (post 3 (.sca o.d.toNat m) g)) s))

/-- An interlocked one-source function; lane i's open choices come from the free values. -/
def oneSource (o : Opnd) (f : Fmt → Rm → Bool → Nat → FRes) (s : State) : Res (Option W64) :=
  let et := etOf s
  let fm := etFmt et
  let rm := gmRM s.g.gmode
  let rs := perLane (effMask s) (fun i =>
    let l := (indexed 0 (regElems s et o.a.toNat i)).map (fun e =>
      f fm rm (Config.upperNeighbour s.free (2 * i + e.1)) e.2)
    (l.map (·.bits), flAll (l.map (·.fl))))
  .ok none (bump (onG (putLanes et o.d.toNat rs) s))

/-- FRCP: 1/x, rounded once. -/
def execFrcp (o : Opnd) (s : State) : Out := runI (.frcp o) s (oneSource o (fun f rm _ x => rcpF f rm x))

/-- FRSQ: 1/√x, faithful. -/
def execFrsq (o : Opnd) (s : State) : Out := runI (.frsq o) s (oneSource o rsqF)

/-- FSQRT: √x, rounded once. -/
def execFsqrt (o : Opnd) (s : State) : Out := runI (.fsqrt o) s (oneSource o (fun f rm _ x => sqrtF f rm x))

/-- FEX2: 2^x, faithful. -/
def execFex2 (o : Opnd) (s : State) : Out := runI (.fex2 o) s (oneSource o ex2F)

/-- FLG2: log2 x, faithful. -/
def execFlg2 (o : Opnd) (s : State) : Out := runI (.flg2 o) s (oneSource o lg2F)

/-- FTRIG: sin x or cos x by B, faithful. -/
def execFtrig (o : Opnd) (s : State) : Out := runI (.ftrig o) s (oneSource o (trigF (o.b == 1)))

/-- FRND: to an integral value (R362). -/
def execFrnd (o : Opnd) (s : State) : Out := runI (.frnd o) s (floatOp o (fun f rm a _ _ => rndF f rm a))

/-- FCLS: the one-hot class mask; under FP64 vD+1 receives zero (R355). -/
def execFcls (o : Opnd) (s : State) : Out :=
  runI (.fcls o) s (floatOp o (fun f _ a _ _ => ⟨2 ^ classBit f a, 0⟩))

/-- The count of FSCL for element `e` of lane `i` (R363). -/
def sclCount (s : State) (et : Nat) (o : Opnd) (i e : Nat) : Int :=
  let w : W32 :=
    match o.x with
    | .imm v => v.setWidth 32
    | .bro k =>
      if k.bsc then (if k.bhi then hi32 (rdS s o.b.toNat) else lo32 (rdS s o.b.toNat)) else laneOf (rdV s o.b.toNat) i
    | _ => laneOf (rdV s o.b.toNat) i
  if packed et then sextNat 16 (bitsOf w.toNat (16 * e) 16) else w.toInt

/-- FSCL: x · 2^n. -/
def execFscl (o : Opnd) (s : State) : Out :=
  runI (.fscl o) s (fun s =>
    let et := etOf s
    let f := etFmt et
    let rm := gmRM s.g.gmode
    vectorTo (floatLat et) o (fun s i =>
      let rs := (indexed 0 (regElems s et o.a.toNat i)).map (fun e => sclF f rm e.2 (sclCount s et o i e.1))
      (rs.map (·.bits), flAll (rs.map (·.fl)))) s)

/-! FCVT. -/

/-- A format code of FCVT (Table 3-7): I32 and N32 are integers. -/
def cvtFmt (c : Nat) : Option Fmt :=
  if c = 2 then some f64 else if c = 3 then some f32 else if c = 4 then some f16 else if c = 5 then some bf16
  else if c = 6 then some e4m3 else if c = 7 then some e5m2 else if c = 8 then some e2m1 else none

/-- The element width of a format code. -/
def cvtWidth (c : Nat) : Nat := match cvtFmt c with | some f => f.width | none => 32

/-- Elements of a format in a 32-bit lane (R127). -/
def cvtCount (c : Nat) : Nat := if c = 2 then 1 else 32 / cvtWidth c

/-- Convert one element (R128, R129). -/
def convertElem (src dst : Nat) (rm : Rm) (x : Nat) : FRes :=
  match cvtFmt src, cvtFmt dst with
  | some f, some d => toFmt d rm (decodeF f x)
  | some f, none => toInt32 (dst == 0) rm (decodeF f x)
  | none, some d =>
    let v : Int := if src = 0 then sextNat 32 x else ((x % 2 ^ 32 : Nat) : Int)
    toFmt d rm (.fin (decide (v < 0)) ((v.natAbs : Nat) : Rat))
  | none, none => ⟨x, 0⟩

/-- The source element that FCVT reads in lane `i` (R127). -/
def cvtSource (s : State) (o : Opnd) (src dst part i : Nat) : Nat :=
  if src = 2 then (pair64 (laneOf (rdV s o.a.toNat) i) (laneOf (rdV s (o.a.toNat + 1)) i)).toNat
  else
    let j := if 1 < cvtCount dst then part % cvtCount src else part
    bitsOf (laneOf (rdV s o.a.toNat) i).toNat (j * cvtWidth src) (cvtWidth src)

/-- FCVT (R127, R357): the element written replaces its bits of vD, an FP64 result the pair. -/
def execFcvt (o : Opnd) (s : State) : Out :=
  runI (.fcvt o) s (fun s =>
    let k := parOf o
    let dst := k.sel.toNat
    let src := (k.val.extractLsb' 0 4).toNat
    let part := (k.val.extractLsb' 4 3).toNat
    let rm := gmRM s.g.gmode
    let m := effMask s
    let lat := if src = 2 ∨ dst = 2 then 6 else 4
    let rs := perLane m (fun i =>
      let r := convertElem src dst rm (cvtSource s o src dst part i)
      if 1 < cvtCount dst then
        let w := cvtWidth dst
        let old := (laneOf (keptV s o.d.toNat) i).toNat
        let p := part * w
        ([old % 2 ^ p + (r.bits % 2 ^ w) * 2 ^ p + old / 2 ^ (p + w) * 2 ^ (p + w)], r.fl)
      else ([r.bits], r.fl))
    .ok none (onG (postLanes lat (if dst = 2 then 5 else 4) o.d.toNat rs) s))

end Sys2Proof.Machine
end

