-- ==== Sys2Proof/Machine/CrossLane.lean ====
section
/-! DEFINITION. The cross-lane instructions (13 R403, R426, R427; 12 R395). Their results are interlocked. -/

namespace Sys2Proof.Machine

/-- Lane moves (R403): lane i takes lane `src i` as stored; under FP64 the pair moves. -/
def shuffle (o : Opnd) (src : State → Nat → Nat) (s : State) : Res (Option W64) :=
  let m := effMask s
  let one (r d : Nat) : Effect := .vec d (masked m (fun i => laneOf (rdV s r) (src s i)))
  let f (g : Group) : Group :=
    let g1 := put (one o.a.toNat o.d.toNat) g
    if etOf s = 5 then put (one (o.a.toNat + 1) (o.d.toNat + 1)) g1 else g1
  .ok none (onG f s)

/-- SHFL with an index register. -/
def execShfl (o : Opnd) (s : State) : Out :=
  runI (.shfl o) s (shuffle o (fun s i => (laneOf (rdV s o.b.toNat) i).toNat % 64))

/-- SHFL with a broadcast index. -/
def execShflScalar (o : Opnd) (s : State) : Out :=
  runI (.shflScalar o) s (shuffle o (fun s _ =>
    let x := rdS s o.b.toNat
    (match o.x with | .bro k => (if k.bhi then hi32 x else lo32 x).toNat | _ => 0) % 64))

/-- SHFX: lane i XOR k. -/
def execShfx (o : Opnd) (s : State) : Out := runI (.shfx o) s (shuffle o (fun _ i => i ^^^ (o.b.toNat % 64)))

/-- VOTE (R426). -/
def execVote (o : Opnd) (s : State) : Out :=
  runI (.vote o) s (fun s =>
    let m := effMask s
    let bal := maskOf ((activeLanes m).filter (fun i => laneOf (rdV s o.a.toNat) i != 0))
    let r := if o.b = 0 then boolW (bal != 0) else if o.b = 1 then boolW (bal == m) else bal
    .ok none (onG (put (.sca o.d.toNat r)) s))

/-- RFAL: the lowest active lane's value, and zero for an empty mask (12 R395). -/
def execRfal (o : Opnd) (s : State) : Out :=
  runI (.rfal o) s (fun s =>
    let r : W64 := match activeLanes (effMask s) with
      | [] => 0
      | i :: _ => (laneOf (rdV s o.a.toNat) i).setWidth 64
    .ok none (onG (put (.sca o.d.toNat r)) s))

/-- A combination of VRED and VSCAN on 32-bit lanes (R427): the exact or rounded result and its flags. -/
def combine (et : Nat) (rm : Rm) (op : Nat) (a b : W32) : W32 × Fl :=
  match op with
  | 0 => if et = 4 then (let r := addF f32 rm (v32 a) (v32 b); (BitVec.ofNat 32 r.bits, r.fl)) else (a + b, 0)
  | 1 =>
    if et = 4 then (BitVec.ofNat 32 (minmaxF f32 false a.toNat b.toNat), minmaxFlag (v32 a) (v32 b))
    else if et = 0 then (if b.slt a then b else a, 0) else (if b.ult a then b else a, 0)
  | 2 =>
    if et = 4 then (BitVec.ofNat 32 (minmaxF f32 true a.toNat b.toNat), minmaxFlag (v32 a) (v32 b))
    else if et = 0 then (if a.slt b then b else a, 0) else (if a.ult b then b else a, 0)
  | 3 => (a &&& b, 0)
  | 4 => (a ||| b, 0)
  | _ => (a ^^^ b, 0)

/-- The left fold of a combination over lane values, with every flag. -/
def reduce (et : Nat) (rm : Rm) (op : Nat) : List W32 → W32 × Fl
  | [] => (0, 0)
  | x :: r => r.foldl (fun a y => let c := combine et rm op a.1 y; (c.1, a.2 ||| c.2)) (x, 0)

/-- The 64-bit form of a lane value by ET. -/
def extendLane (et : Nat) (x : W32) : W64 := if et = 0 then x.signExtend 64 else x.setWidth 64

/-- VRED (R427): integer sums are exact in 64 bits. -/
def vredValue (et : Nat) (rm : Rm) (op : Nat) (xs : List W32) : W64 × Fl :=
  if op = 0 ∧ et ≠ 4 then (xs.foldl (fun a x => a + extendLane et x) 0, 0)
  else if xs.isEmpty then (0, 0)
  else
    let r := reduce et rm op xs
    (if op = 1 ∨ op = 2 then extendLane et r.1 else r.1.setWidth 64, r.2)

/-- VRED. -/
def execVred (o : Opnd) (s : State) : Out :=
  runI (.vred o) s (fun s =>
    let xs := (activeLanes (effMask s)).map (fun i => laneOf (rdV s o.a.toNat) i)
    let r := vredValue (etOf s) (gmRM s.g.gmode) o.b.toNat xs
    .ok none (onG (fun g => let g1 := put (.sca o.d.toNat r.1) g; { g1 with fpstat := g1.fpstat ||| r.2 }) s))

/-- The identity of a VSCAN operation (R427). -/
def scanIdentity (et op : Nat) : W32 :=
  match op with
  | 0 => if et = 4 then 0x8000_0000 else 0
  | 1 => if et = 4 then 0x7F80_0000 else if et = 0 then 0x7FFF_FFFF else 0xFFFF_FFFF
  | 2 => if et = 4 then 0xFF80_0000 else if et = 0 then 0x8000_0000 else 0
  | 3 => 0xFFFF_FFFF
  | _ => 0

/-- The running values of VSCAN over the active lanes: lane, value, flags. `acc` is the combination of the lanes below. -/
def scanFrom (et : Nat) (rm : Rm) (op : Nat) (ex : Bool) : Option W32 → List (Nat × W32) → List (Nat × W32 × Fl)
  | _, [] => []
  | acc, (i, x) :: r =>
    let (y, fl) := match acc with | none => (x, 0) | some a => combine et rm op a x
    let out := if ex then acc.getD (scanIdentity et op) else y
    let last := ex && r.isEmpty
    (i, out, if last then 0 else fl) :: scanFrom et rm op ex (some y) r

/-- VSCAN. -/
def execVscan (o : Opnd) (s : State) : Out :=
  runI (.vscan o) s (fun s =>
    let m := effMask s
    let ex := o.b.toNat / 16 % 2 == 1
    let rs := scanFrom (etOf s) (gmRM s.g.gmode) (o.b.toNat % 16) ex none
      ((activeLanes m).map (fun i => (i, laneOf (rdV s o.a.toNat) i)))
    let val (i : Nat) : W32 := ((rs.find? (fun r => r.1 == i)).map (fun r => r.2.1)).getD 0
    .ok none (onG (fun g =>
      let g1 := put (.vec o.d.toNat (masked m val)) g
      { g1 with fpstat := g1.fpstat ||| flAll (rs.map (fun r => r.2.2)) }) s))

/-- VIOTA: the lane index, or the number of lower active lanes. -/
def execViota (o : Opnd) (s : State) : Out :=
  runI (.viota o) s (fun s =>
    let m := effMask s
    let val (i : Nat) : W32 :=
      if o.b = 0 then BitVec.ofNat 32 i else BitVec.ofNat 32 ((activeLanes m).filter (fun j => decide (j < i))).length
    .ok none (onG (put (.vec o.d.toNat (masked m val))) s))

end Sys2Proof.Machine
end

