-- ==== Sys2Proof/Machine/Place.lean ====
section
/-! DEFINITION. Placement (01 R15, R48 to R50, 02 R75): granules, free cores, issue slots, and the die that homes an address. -/

namespace Sys2Proof.Machine

/-- Granules a panel of `n` groups needs (R75). -/
def granules (part : W64) (n : Nat) : Nat :=
  let per := 256 * (8 * partVR part) + 8 * (16 * (partSR part + 1)) + 4096 * partTR part
  (n * per + 65535) / 65536 + partSCR part + (partACC part + 3) / 4

/-- A partition word can be met (R75). -/
def partOk (part : W64) (n : Nat) : Bool :=
  decide (1 ≤ partVR part ∧ partVR part ≤ 16 ∧ partTR part ≤ 8 ∧ partSCR part ≤ 32 ∧ partACC part ≤ 64 ∧
    part.toNat < 2 ^ 24 ∧ granules part n ≤ 48 ∧ n ≤ 16)

/-- The groups of a panel. -/
def panelGroups (s : State) (id : Nat) : List Group := (allGroups s).filter (fun g => g.live && g.panel == id)

/-- The partition word of a panel. -/
def panelPart (s : State) (id : Nat) : W64 := ((panelGroups s id).head?.map (·.part)).getD 0

/-- Granules that the resident panels of a core hold. -/
def usedGranules (s : State) (core : Nat) : Nat :=
  ((s.panels.filter (fun p => p.resident && p.core == core)).map (fun p => granules (panelPart s p.id) p.groups)).foldl (· + ·) 0

/-- Resident groups of a core. -/
def residentOn (s : State) (core : Nat) : Nat :=
  ((allGroups s).filter (fun g => g.live && g.resident && g.core == core)).length

/-- A core is fenced (R329, R330). -/
def fenced (s : State) (core : Nat) : Bool := bit (rdWin s (cfenceReg (core / 48))) (core % 48)

/-- A core can take a panel of `n` groups with a partition (R49, R15). -/
def coreTakes (s : State) (part : W64) (n core : Nat) : Bool :=
  !fenced s core && decide (usedGranules s core + granules part n ≤ 48) && decide (residentOn s core + n ≤ 64)

/-- The cores of a die. -/
def coresOf (die : Nat) : List Nat := (List.range 48).map (fun j => 48 * die + j)

/-- The core of R49: among those that can take the panel, the one with the fewest resident groups, the lowest of them. -/
def placeCore (s : State) (die : Nat) (part : W64) (n : Nat) : Option Nat :=
  ((coresOf die).filter (coreTakes s part n)).foldl (fun a c =>
    match a with
    | none => some c
    | some b => if residentOn s c < residentOn s b then some c else a) none

/-- The slot of R15: the one of a core with the fewest resident groups, the lowest of them. -/
def pickSlot (s : State) (core : Nat) : Nat :=
  let n (k : Nat) : Nat := ((allGroups s).filter (fun g => g.live && g.resident && g.core == core && g.slot == k)).length
  [1, 2, 3].foldl (fun a k => if n k < n a then k else a) 0

/-- The place of an address for a group: its leaf, translated and found to be physical memory (R48, R54). -/
def namedPlace (w : Who) (va : W64) (s : State) : Res Phys :=
  if !canonical va then .trap (laneTrap 0x03 0 [(0, va)]) s else
  match xlate s w va with
  | (.fault, s1) => .trap (laneTrap 0x05 1 [(0, va)]) s1
  | (.format, s1) => .fatal 0x21 0 va s1
  | (.poison sub, s1) => .fatal 0x28 sub va s1
  | (.leaf pte base _ _, s1) =>
    match physOf s1 (w.core / 48) pte base (va.toNat % 2 ^ 57) with
    | (some p, _) => .ok p s1
    | (none, _) => .fatal 0x22 0 va s1

/-- The compute die whose quartet homes a place; host and peer memory count as homed on MD0 (R48, R169). -/
def homeDie (p : Phys) : Nat := if p.region = 0 then p.key / 2 ^ 36 / 4 else 0

/-- The clusters that hold words in their L1. -/
def l1Clusters (s : State) : List Nat := (s.l1.map (fun e => l1Cluster e.1)).eraseDups

/-- A cluster writes back its dirty words and invalidates its whole L1 (R221, R256, R53). -/
def flushCluster (cl : Nat) (s : State) : State := flush s cl allLines

/-- Note that a cluster ran panels of the bolt of a panel (R221). -/
def noteCluster (panel cl : Nat) (s : State) : State :=
  match (panelOf s panel).bind (·.bolt) with
  | none => s
  | some b => { s with bolts := s.bolts.map (fun x =>
      if b = (x.queue, x.seq) && !x.clusters.contains cl then { x with clusters := x.clusters ++ [cl] } else x) }

end Sys2Proof.Machine
end

