-- ==== Sys2Proof/Machine/Engine.lean ====
section
/-! DEFINITION. The copy channels and the quantisation engine (07 R229 to R237, R462, 11 R350, 04 R135 to R138, 12 R390): the
checks at issue, and what an accepted command does when it runs. -/

namespace Sys2Proof.Machine

/-- A command completes: its lines enter the pending swatches of every group of the panel before its last bytes are counted
(R214), and its tacks are released. -/
def finishCmd (c : Cmd) (lines : Swatch) (s : State) : State :=
  let s1 := mapGroups (fun g => if g.live && g.panel == c.panel then orPending 5 lines g else g) s
  { s1 with cmds := s1.cmds.filter (fun x => x.id != c.id) }

/-- Count delivered bytes of a command into its barrier phase (R226). -/
def countCmd (c : Cmd) (n : Nat) (s : State) : State :=
  match c.bar with
  | some (off, phase) => countBytes c.panel off phase n s
  | none => s

/-! Issue. -/

/-- Ranges wait for live tacks, or find no room among the 64 entries of the core (R234). -/
def tacksWait (s : State) (core : Nat) (new : List Tack) : Bool :=
  let live := tacksOf s core
  decide (64 < live.length + new.length) ||
  new.any (fun t => live.any (fun u => (t.dst || u.dst) && t.overlaps u))

/-- The captured phase of a barrier at a scratchpad offset (R226): a wait of kind 3 when the group has arrived in all four open
phases. -/
def capturePhase (off : Nat) (s : State) : Res (Option (Nat × Nat)) :=
  let b := readPbar s s.g.panel off
  match nextPhase b (fld s.g.gid 0 4) with
  | some q => .ok (some (off, q)) s
  | none => .block ⟨3, BitVec.ofNat 64 off, BitVec.ofNat 64 b.phase, 32⟩ s

/-- The bounds fault of a range of scratchpad that leaves the partition: TMASK 1 as of every uniform access (R364), TFAULT its first
offset outside. -/
def rangeFault (lo n : Nat) (s : State) : Option TrapInfo :=
  if scrBytes s.g.part < lo + n then
    some { cause := 0x07, sub := 0, mask := 1, fault := BitVec.ofNat 64 (max lo (scrBytes s.g.part)) }
  else none

/-- The bounds fault of a CPY reports TMASK 0 (R350). -/
def copyRange (lo n : Nat) (s : State) : Option TrapInfo := (rangeFault lo n s).map (fun t => { t with mask := 0 })

/-- The first trap of several checks. -/
def firstTrap (l : List (Option TrapInfo)) (s : State) : Res Unit :=
  match l.findSome? id with
  | some t => .trap t s
  | none => .ok () s

/-- Accept a command of the current group. -/
def acceptCmd (kind : CmdKind) (bar : Option (Nat × Nat)) (s : State) : State :=
  { s with
    nextId := s.nextId + 1
    cmds := s.cmds ++ [{ id := s.nextId, grp := s.g.id, panel := s.g.panel, core := s.g.core, priv := s.g.priv
                         kind := kind, bar := bar, done := 0, read := 0, lines := 0, paused := none, before := [], outs := [], srcs := [], flags := 0
                         lost := false, tries := 0 }] }

/-- The issue slot of the current group is stalled for want of room until the group's instruction goes on, or a trap is delivered to a
group of the slot (R230, R149). -/
def holdSlot (s : State) : State :=
  { s with slotHeld := s.slotHeld.filter (fun e => e.1 != slotNo s.g) ++ [(slotNo s.g, s.g.id)] }

/-- Accept a command whose queue holds `len` commands of at most `depth`: a full queue stalls the issue slot (R230, R138), a live tack or
a full tack table the group (R234). -/
def tryAccept (depth len : Nat) (kind : CmdKind) (bar : Option (Nat × Nat)) (s : State) : Res (Option W64) :=
  let s1 := acceptCmd kind bar s
  let new := match s1.cmds.getLast? with | some c => cmdTacks s1 c | none => []
  if depth ≤ len then .stall (holdSlot s) else if tacksWait s s.g.core new then .stall s else .ok none s1

/-- The fields of a copy descriptor (Table 7-9). -/
structure CopyDesc where
  ssp    : Bool
  dsp    : Bool
  src    : Nat
  dst    : Nat
  rowlen : Nat
  nrows  : Nat
  nobar  : Bool
  bar    : Nat
  sstr   : Nat
  dstr   : Nat
  deriving DecidableEq, Repr

/-- Read a copy descriptor. -/
def copyDesc (d0 d1 d2 d3 : W64) : CopyDesc :=
  { ssp := bit d0 63, dsp := bit d1 63, src := descAddr d0, dst := descAddr d1, rowlen := fld d2 0 22, nrows := fld d2 22 12
    nobar := bit d2 47, bar := 32 * fld d2 48 16, sstr := fld d3 0 32, dstr := fld d3 32 32 }

/-- The descriptor breaks R231. -/
def copyBad (d0 d1 d2 : W64) (c : CopyDesc) : Bool :=
  let send := c.src + (c.nrows - 1) * c.sstr + c.rowlen
  let dend := c.dst + (c.nrows - 1) * c.dstr + c.rowlen
  fld d0 57 6 != 0 || fld d1 57 6 != 0 || fld d2 34 13 != 0 ||
  decide (c.rowlen < 4 ∨ 4194300 < c.rowlen ∨ c.rowlen % 4 ≠ 0 ∨ c.nrows = 0 ∨ c.src % 4 ≠ 0 ∨ c.dst % 4 ≠ 0 ∨
    c.sstr % 4 ≠ 0 ∨ c.dstr % 4 ≠ 0 ∨ (1 < c.nrows ∧ c.dstr < c.rowlen)) ||
  (c.ssp == c.dsp && decide (c.src < dend ∧ c.dst < send))

/-- The engine-descriptor fault (Table 8-8). -/
def descFault (sub : Nat) : TrapInfo := { cause := 0x0A, sub := sub }

/-- CPY (R230, R231, R350). -/
def cpyBody (o : Opnd) (s : State) : Res (Option W64) :=
  let a := o.a.toNat
  let d0 := rdS s a
  let d1 := rdS s (a + 1)
  let d2 := rdS s (a + 2)
  let c := copyDesc d0 d1 d2 (rdS s (a + 3))
  let ch := (parOf o).sel.toNat
  if copyBad d0 d1 d2 c then .trap (descFault 1) s else
  (firstTrap
    [ if c.ssp then copyRange c.src ((c.nrows - 1) * c.sstr + c.rowlen) s else none,
      if c.dsp then copyRange c.dst ((c.nrows - 1) * c.dstr + c.rowlen) s else none,
      if c.nobar then none else copyRange c.bar 32 s ] s).bind fun _ s1 =>
  (if c.nobar then .ok none s1 else capturePhase c.bar s1).bind fun bar s2 =>
  let len := (s2.cmds.filter (fun x => x.core == s2.g.core && (match x.kind with | .copy k .. => k == ch | _ => false))).length
  tryAccept 4 len (.copy ch c.ssp c.dsp c.src c.dst c.rowlen c.nrows c.sstr c.dstr) bar s2

/-- CPY. -/
def execCpy (o : Opnd) (s : State) : Out := runI (.cpy o) s (cpyBody o)

/-- CPYWP (R233): the bytes that the channel has delivered for the panel; an acquire at .PNL. -/
def execCpywp (o : Opnd) (s : State) : Out :=
  runI (.cpywp o) s (fun s =>
    .ok none (onG (put (.sca o.d.toNat (cget zero s.wptr (wptrKey s.g.panel (parOf o).sel.toNat)))) s))

/-- The descriptor breaks R137. DESIGN CHOICE (log 113): a source stride that is no multiple of 4, against Table 4-10, counts as a
misaligned address, for a source of one row too. -/
def qntBad (fmt : Nat) (d0 d1 d2 d3 : W64) : Bool :=
  fld d0 57 6 != 0 || fld d1 57 6 != 0 || fld d2 57 7 != 0 || fld d3 46 2 != 0 ||
  decide (descAddr d0 % 4 ≠ 0 ∨ descAddr d1 % 4 ≠ 0 ∨ fld d2 0 57 % 4 ≠ 0 ∨ fld d3 24 20 % 4 ≠ 0 ∨ fld d3 44 2 = 3 ∨
    fld d3 0 12 = 0 ∨ fld d3 12 12 = 0 ∨ fld d3 12 12 % qntBlock fmt ≠ 0)

/-- QNT (R135, R137, R138, R390). -/
def qntBody (o : Opnd) (s : State) : Res (Option W64) :=
  let a := o.a.toNat
  let d0 := rdS s a
  let d1 := rdS s (a + 1)
  let d2 := rdS s (a + 2)
  let d3 := rdS s (a + 3)
  let fmt := (parOf o).sel.toNat
  let rows := fld d3 0 12
  let cols := fld d3 12 12
  let esz := if fld d3 44 2 = 0 then 4 else 2
  let off := 32 * fld d3 48 16
  if qntBad fmt d0 d1 d2 d3 then .trap (descFault 2) s else
  (firstTrap
    [ if bit d0 63 then rangeFault (descAddr d0) ((rows - 1) * fld d3 24 20 + cols * esz) s else none,
      if bit d1 63 then rangeFault (descAddr d1) (rows * cols * qntBits fmt / 8) s else none,
      if bit d1 63 then rangeFault (fld d2 0 57) (qntScaleBytes fmt rows cols) s else none,
      rangeFault off 32 s ] s).bind fun _ s1 =>
  (capturePhase off s1).bind fun bar s2 =>
  let len := (s2.cmds.filter (fun x => x.core == s2.g.core && (match x.kind with | .qnt .. => true | _ => false))).length
  tryAccept 8 len (.qnt fmt d0 d1 d2 d3) bar s2

/-- QNT. -/
def execQnt (o : Opnd) (s : State) : Out := runI (.qnt o) s (qntBody o)

/-! A copy command at work. -/

/-- A command may run: it is the oldest of its copy channel or quantisation engine (R229, R138), or no command before it in the ray engine of
its cluster or the seam engine of its die is paused (R236, R305, R307). -/
def atHead (s : State) (c : Cmd) : Bool :=
  let blocks (x : Cmd) : Bool :=
    match c.kind, x.kind with
    | .copy k .., .copy j .. => x.core == c.core && k == j
    | .qnt .., .qnt .. => x.core == c.core
    | .ray .., .ray .. => x.core / 4 == c.core / 4 && x.paused.isSome
    | .seam _, .seam _ => coreDie x.core == coreDie c.core && x.paused.isSome
    | _, _ => false
  match s.cmds.find? (fun x => x.id == c.id || blocks x) with
  | some x => x.id == c.id
  | none => false

/-- A command cannot go on now: it is paused, its request is lost, or it waits for the commands before it (R236, R200, R206). -/
def waits (s : State) (c : Cmd) : Bool := c.paused.isSome || c.lost || !atHead s c || awaitsEarlier s c

/-- Copy `n` words from byte `pos` of a command: the bytes delivered and the lines written. A channel delivers whole 4-byte words
(log 92). -/
def copyWords (w : Who) (panel : Nat) (ssp dsp : Bool) (src dst rowlen sstr dstr total : Nat) :
    Nat → Nat → Swatch → State → (Nat × Swatch) × Eng Unit
  | 0, pos, sw, s => ((pos, sw), .ok () s)
  | n + 1, pos, sw, s =>
    if total ≤ pos then ((pos, sw), .ok () s) else
    let sa := (src + pos / rowlen * sstr + pos % rowlen) % 2 ^ 64
    let da := (dst + pos / rowlen * dstr + pos % rowlen) % 2 ^ 64
    let r := (engRead w panel ssp 4 sa s).bind fun bs s1 =>
      if dsp then engWrite w panel true da bs s1 else engWrite w panel false da bs s1
    match r with
    | .ok x s1 => copyWords w panel ssp dsp src dst rowlen sstr dstr total n (pos + 4) (sw ||| x) s1
    | .pause va s1 => ((pos, sw), .pause va s1)
    | .fatal k b va s1 => ((pos, sw), .fatal k b va s1)

/-! A copy whose virtual spans reach common storage through different addresses (R231). -/

/-- The storage key of a byte address, where it is mapped. -/
def storageOf (w : Who) (s : State) (a : Nat) : Option Nat := (physAt s w (BitVec.ofNat 64 a)).1.map (·.key)

/-- The 4 KiB units that the rows of a span touch. -/
def spanUnits (start rowlen nrows stride : Nat) : List Nat :=
  ((List.range nrows).flatMap (fun n =>
    let a := start + n * stride
    (List.range ((a % 4096 + rowlen + 4095) / 4096)).map (fun i => a / 4096 + i))).eraseDups

/-- The 4 KiB unit of storage that a unit of addresses is mapped to. -/
def unitStorage (w : Who) (s : State) (u : Nat) : Option Nat := (storageOf w s (4096 * u)).map (· / 4096)

/-- The two spans of a copy reach common storage, at the grain of 4 KiB. -/
def sharesStorage (w : Who) (s : State) (src dst rowlen nrows sstr dstr : Nat) : Bool :=
  let held := (spanUnits src rowlen nrows sstr).filterMap (unitStorage w s)
  (spanUnits dst rowlen nrows dstr).any (fun u => match unitStorage w s u with | some k => held.contains k | none => false)

/-- The place in a copy of the byte that it stores at an address of its destination span. -/
def placeInCopy (dst rowlen nrows dstr a : Nat) : Option Nat :=
  if a < dst then none else
  let n := if nrows = 1 then 0 else (a - dst) / dstr
  let r := a - dst - n * dstr
  if n < nrows ∧ r < rowlen then some (n * rowlen + r) else none

/-- The place in a copy of the byte that it stores at a storage key. -/
def writerOf (w : Who) (s : State) (dst rowlen nrows dstr k : Nat) : Option Nat :=
  (spanUnits dst rowlen nrows dstr).findSome? (fun u =>
    if unitStorage w s u = some (k / 4096) then placeInCopy dst rowlen nrows dstr (4096 * u + k % 4096) else none)

/-- What a byte held before a command: what the command recorded as it wrote it, or what it holds now. -/
def heldBefore (w : Who) (s : State) (before : List (Nat × Byte)) (k a : Nat) : Byte :=
  match before.find? (fun e => e.1 == k) with
  | some e => e.2
  | none => (loadVa w 1 (BitVec.ofNat 64 a) s).1.headD 0

/-- The value that byte `pos` of a copy takes: its source byte's, and where the command also writes that source byte, the value that
one had before the command or the value that the command writes to it, freely (R231; log 49). -/
def sharedByte (w : Who) (id src dst rowlen nrows sstr dstr : Nat) (before : List (Nat × Byte)) (s : State) : Nat → Nat → Byte
  | fuel, pos =>
    let a := src + pos / rowlen * sstr + pos % rowlen
    match storageOf w s a with
    | none => 0
    | some k =>
      match writerOf w s dst rowlen nrows dstr k, fuel with
      | some q, n + 1 =>
        if Config.copyBefore id pos || q == pos then heldBefore w s before k a
        else sharedByte w id src dst rowlen nrows sstr dstr before s n q
      | _, _ => heldBefore w s before k a

/-- The record of what a word's bytes held before a command writes them. -/
def recordBefore (w : Who) (s : State) (a : Nat) (before : List (Nat × Byte)) : List (Nat × Byte) :=
  before ++ (List.range 4).filterMap (fun j =>
    match storageOf w s (a + j) with
    | some k => if before.any (fun e => e.1 == k) then none else some (k, heldBefore w s [] k (a + j))
    | none => none)

/-- Copy `n` words from byte `pos` of a command whose spans share storage: the bytes delivered, the lines written, and what the bytes
written held before. -/
def copyShared (w : Who) (id src dst rowlen nrows sstr dstr : Nat) :
    Nat → Nat → Swatch → List (Nat × Byte) → State → (Nat × Swatch × List (Nat × Byte)) × Eng Unit
  | 0, pos, sw, bf, s => ((pos, sw, bf), .ok () s)
  | n + 1, pos, sw, bf, s =>
    if rowlen * nrows ≤ pos then ((pos, sw, bf), .ok () s) else
    let sa := (src + pos / rowlen * sstr + pos % rowlen) % 2 ^ 64
    let da := (dst + pos / rowlen * dstr + pos % rowlen) % 2 ^ 64
    let r := (engRead w 0 false 4 sa s).bind fun _ s1 =>
      engWrite w 0 false da ((List.range 4).map (fun j =>
        sharedByte w id src dst rowlen nrows sstr dstr bf s1 (rowlen * nrows) (pos + j))) s1
    match r with
    | .ok x s1 => copyShared w id src dst rowlen nrows sstr dstr n (pos + 4) (sw ||| x) (recordBefore w s da bf) s1
    | .pause va s1 => ((pos, sw, bf), .pause va s1)
    | .fatal k b va s1 => ((pos, sw, bf), .fatal k b va s1)

/-- Count `n` delivered bytes of a channel of a panel (R233). -/
def addWptr (panel ch n : Nat) (s : State) : State :=
  let k := wptrKey panel ch
  { s with wptr := cset zero s.wptr k (cget zero s.wptr k + BitVec.ofNat 64 n) }

/-- A copy command delivers up to `bytes` more bytes, and completes when its last byte is delivered and counted (R232). -/
def runCopy (c : Cmd) (bytes : Nat) (s : State) : State :=
  match c.kind with
  | .copy ch ssp dsp src dst rowlen nrows sstr dstr =>
    if waits s c then s else
    let total := rowlen * nrows
    let w := cmdWho s c
    let ((pos, sw, bf), r) :=
      if !ssp && !dsp && sharesStorage w s src dst rowlen nrows sstr dstr then
        copyShared w c.id src dst rowlen nrows sstr dstr (bytes / 4) c.done c.lines c.before s
      else
        let ((p, x), e) := copyWords w c.panel ssp dsp src dst rowlen sstr dstr total (bytes / 4) c.done c.lines s
        ((p, x, c.before), e)
    let n := pos - c.done
    let note := onCmd c.id (fun x => { x with done := pos, lines := sw, before := bf })
    match r with
    | .ok _ s1 =>
      let s2 := addWptr c.panel ch n (note s1)
      if total ≤ pos then countCmd c n (finishCmd c sw s2) else countCmd c n s2
    | .pause va s1 => engineStop c (.pause va (countCmd c n (addWptr c.panel ch n (note s1))))
    | .fatal k b va s1 => engineStop c (.fatal k b va s1)
  | _ => s

/-! A quantisation command at work. -/

/-- The codes of `n` source elements from element `i` on, in row order, as far as the engine comes. -/
def qntElems (w : Who) (panel : Nat) (sp : Bool) (esz cols src sstr : Nat) : Nat → Nat → State → List Nat × Eng Unit
  | 0, _, s => ([], .ok () s)
  | n + 1, i, s =>
    match engRead w panel sp esz ((src + i / cols * sstr + i % cols * esz) % 2 ^ 64) s with
    | .ok bs s1 => let (l, r) := qntElems w panel sp esz cols src sstr n (i + 1) s1; (natOf bs :: l, r)
    | .pause va s1 => ([], .pause va s1)
    | .fatal k b va s1 => ([], .fatal k b va s1)

/-- Cut a list into blocks. -/
def chunksOf {α : Type} (n : Nat) : Nat → List α → List (List α)
  | 0, _ => []
  | k + 1, l => if l.isEmpty then [] else l.take n :: chunksOf n k (l.drop n)

/-- The largest magnitude of finite values. -/
def amaxOf (l : List FVal) : Rat :=
  l.foldl (fun a x => let m := (if x.toRat < 0 then -x.toRat else x.toRat); if a < m then m else a) 0

/-- Clamp an integer. -/
def clampInt (lo hi x : Int) : Int := if x < lo then lo else if hi < x then hi else x

/-- The E8M0 scale of an MX block (Table 4-11). -/
def mxScale (emax : Int) (amax : Rat) : Nat := if amax = 0 then 0 else (clampInt 0 254 (log2Rat amax - emax + 127)).toNat

/-- The flags of an element: NX where it differs from the exact value, UF where a nonzero value rounds to zero, as R136 says of this
engine (log 48: not where it rounds to a subnormal). -/
def qntInexact (x got : Rat) (zero : Bool) : Fl := flIf (x != got) flNX ||| flIf (x != 0 && zero) flUF

/-- An element of a small float format, saturating (Table 4-11); a zero keeps its sign. -/
def qntFloat (f : Fmt) (neg : Bool) (x : Rat) : Nat × Fl :=
  let r := roundSigned f .ne neg x
  let big := decide ((decodeF f (maxCode f)).toRat < (if x < 0 then -x else x)) && (r.fl &&& flOF != 0)
  let code := if big then signBits f neg + (if f = e5m2 then 0x7B else maxCode f) else r.bits
  (code, qntInexact x (decodeF f code).toRat ((decodeF f code).toRat == 0) ||| flIf big flOF)

/-- An integer element clamped to a range (Table 4-11). -/
def qntInt (bits : Nat) (lo hi : Int) (x : Rat) (add : Int) : Nat × Fl :=
  let n := (roundInt .ne x).1
  let c := clampInt lo hi (n + add)
  ((c % (2 ^ bits : Nat)).toNat, qntInexact x ((c - add : Int) : Rat) (n == 0) ||| flIf (c != n + add) flOF)

/-- The smallest E3M5 code whose value is at least `x`; the largest code when none is. -/
def e3m5Up (x : Rat) : Nat := ((List.range 256).find? (fun c => decide (x ≤ e3m5 c))).getD 255

/-- The band scale of FB4: round_up to BF16 of band_amax / 189, or 1.0 (Table 4-11). -/
def bandScale (amax : Rat) : Nat := if amax = 0 then 0x3F80 else (roundF bf16 .up false (amax / 189)).bits

/-- A quantised block: the scale byte, the element codes, the flags. `b` is the FB4 band scale. -/
def qntBlockOf (fmt : Nat) (b : Rat) (l : List FVal) : Nat × List Nat × Fl :=
  let n := l.length
  if blockBad l then ((if fmt ≤ 3 then 0xFF else 0), List.replicate n 0, flNV) else
  let am := amaxOf l
  let done (sc : Nat) (e : List (Nat × Fl)) : Nat × List Nat × Fl := (sc, e.map (·.1), flAll (e.map (·.2)))
  if fmt ≤ 2 then
    let f := if fmt = 0 then e4m3 else if fmt = 1 then e5m2 else e2m1
    let x := mxScale (if fmt = 0 then 8 else if fmt = 1 then 15 else 2) am
    done x (l.map (fun v => qntFloat f v.neg (v.toRat / pow2 ((x : Int) - 127))))
  else if fmt = 3 then
    let x := mxScale 0 am
    done x (l.map (fun v => qntInt 8 (-127) 127 (v.toRat * 64 / pow2 ((x : Int) - 127)) 0))
  else if fmt = 4 then
    let sc := e3m5Up (am / (6 * b))
    done sc (l.map (fun v =>
      if e3m5 sc = 0 then (0, qntInexact v.toRat 0 true) else qntFloat e2m1 v.neg (v.toRat / (e3m5 sc * b))))
  else
    let q : Int := if fmt = 5 then 255 else 15
    let least := l.foldl (fun (a : Int) v => let k := (roundInt .ne v.toRat).1; if k < a then k else a)
      ((l.head?.map (fun v => (roundInt .ne v.toRat).1)).getD 0)
    let z := clampInt 0 q (-least)
    done z.toNat (l.map (fun v => qntInt (if fmt = 5 then 8 else 4) 0 q v.toRat z))

/-- Pack element codes of 4 or 8 bits into bytes, the even element low (R116). -/
def packCodes (bits : Nat) : List Nat → List Byte
  | [] => []
  | a :: r =>
    if bits = 8 then BitVec.ofNat 8 a :: packCodes bits r
    else
      match r with
      | [] => [BitVec.ofNat 8 a]
      | b :: t => BitVec.ofNat 8 (a % 16 + b % 16 * 16) :: packCodes bits t

/-- Everything a QNT writes, in order: element bytes, scale bytes, band scales; and its flags (R136). -/
def qntOutput (fmt cols : Nat) (rows : List (List FVal)) : List Byte × List Byte × List Nat × Fl :=
  let bs := qntBlock fmt
  let bands := (chunksOf 64 rows.length rows).map (fun band =>
    bandScale (amaxOf ((band.flatMap (chunksOf bs (cols / bs))).filter (fun b => !blockBad b)).flatten))
  let blocks := (indexed 0 rows).flatMap (fun r =>
    (chunksOf bs (cols / bs) r.2).map (qntBlockOf fmt (decodeF bf16 (bands.getD (r.1 / 64) 0x3F80)).toRat))
  let els := blocks.flatMap (fun b => packCodes (qntBits fmt) b.2.1)
  (els, blocks.map (fun b => BitVec.ofNat 8 b.1), if fmt = 4 then bands else [], flAll (blocks.map (fun b => b.2.2)))

/-- Write bytes one after another from an address, at most four at a time within a word: how many were written, and the
lines. -/
def engStore (w : Who) (panel : Nat) (sp : Bool) : Nat → Nat → List Byte → Nat → Swatch → State → (Nat × Swatch) × Eng Unit
  | 0, _, _, pos, sw, s => ((pos, sw), .ok () s)
  | n + 1, a, bs, pos, sw, s =>
    if bs.isEmpty then ((pos, sw), .ok () s) else
    let k := if a % 4 = 0 ∧ 4 ≤ bs.length then 4 else 1
    match engWrite w panel sp (a % 2 ^ 64) (bs.take k) s with
    | .ok x s1 => engStore w panel sp n (a + k) (bs.drop k) (pos + k) (sw ||| x) s1
    | .pause va s1 => ((pos, sw), .pause va s1)
    | .fatal c b va s1 => ((pos, sw), .fatal c b va s1)

/-- Write the outputs of a QNT that lie at three places, skipping the bytes already written. -/
def qntStore (w : Who) (panel : Nat) (sp : Bool) : List (Nat × List Byte) → Nat → Nat → Swatch → State → (Nat × Swatch) × Eng Unit
  | [], _, pos, sw, s => ((pos, sw), .ok () s)
  | (a, bs) :: r, skip, pos, sw, s =>
    let k := min skip bs.length
    match engStore w panel sp bs.length (a + k) (bs.drop k) pos sw s with
    | ((p1, sw1), .ok _ s1) => qntStore w panel sp r (skip - k) p1 sw1 s1
    | x => x

/-- What a QNT writes where, in order, from the rows of its source, and the flags that it raises (R136). -/
def qntPlan (fmt : Nat) (d1 d2 d3 : W64) (l : List (List FVal)) : List (Nat × List Byte) × Fl :=
  let (els, scs, bands, fl) := qntOutput fmt (fld d3 12 12) l
  let scl := if bit d1 63 then fld d2 0 57 else (sext57 (fld d2 0 57)).toNat
  ([(descAddr d1, els), (scl, scs), (scl + bandsAt (fld d3 0 12) (fld d3 12 12), bands.flatMap (fun b => bytesOf 2 b))], fl)

/-- A QNT reads its source, from where a pause has left it; its source tack shrinks as it reads, and once all is read what it writes is
settled (R234, R236). -/
def qntRead (c : Cmd) (fmt : Nat) (d0 d1 d2 d3 : W64) (s : State) : Cmd × Eng Unit :=
  let rows := fld d3 0 12
  let cols := fld d3 12 12
  let st := fld d3 44 2
  let f := if st = 0 then f32 else if st = 1 then f16 else bf16
  let esz := if st = 0 then 4 else 2
  if c.read = rows * cols * esz then (c, .ok () s) else
  let i := c.srcs.length
  let (l, r) := qntElems (cmdWho s c) c.panel (bit d0 63) esz cols (descAddr d0) (fld d3 24 20) (rows * cols - i) i s
  let all := c.srcs ++ l
  match r with
  | .ok _ s1 =>
    let p := qntPlan fmt d1 d2 d3 (chunksOf cols rows (all.map (decodeF f)))
    ({ c with read := rows * cols * esz, srcs := [], outs := p.1, flags := p.2 }, .ok () s1)
  | r => ({ c with read := all.length * esz, srcs := all }, r)

/-- A quantisation command runs to its end, or until it pauses (R136, R138). -/
def runQnt (c : Cmd) (s : State) : State :=
  match c.kind with
  | .qnt fmt d0 d1 d2 d3 =>
    if waits s c then s else
    match qntRead c fmt d0 d1 d2 d3 s with
    | (c1, .pause va s1) => engineStop c (.pause va (onCmd c.id (fun x => { x with read := c1.read, srcs := c1.srcs }) s1))
    | (_, .fatal k b va s1) => engineStop c (.fatal k b va s1)
    | (c1, .ok _ s1) =>
      let ((pos, sw), r) := qntStore (cmdWho s c) c.panel (bit d1 63) c1.outs c.done c.done c.lines s1
      let n := pos - c.done
      match r with
      | .ok _ s2 =>
        let s3 := onGroup c.grp (fun g => { g with fpstat := g.fpstat ||| c1.flags }) (finishCmd c sw s2)
        countCmd c n s3
      | .pause va s2 =>
        engineStop c (.pause va (countCmd c n (onCmd c.id (fun x =>
          { x with done := pos, lines := sw, read := c1.read, srcs := [], outs := c1.outs, flags := c1.flags }) s2)))
      | .fatal k b va s2 => engineStop c (.fatal k b va s2)
  | _ => s

end Sys2Proof.Machine
end

