-- ==== Sys2Proof/Machine/Render.lean ====
section
/-! DEFINITION. The graphics instructions as they issue (09): VEMIT (R279, 13 R428), PEMIT with the pass (R276, R277, R280, 12
R388), MLRES (R299, 12 R381), RAYQ (R301, R304, R305, 12 R391) and SEAM (R306, R307, 13 R402). -/

namespace Sys2Proof.Machine

/-! Meshes. -/

/-- The vertex records' offsets of the active lanes of VEMIT. -/
def vertexAddrs (o : Opnd) (s : State) : List (Nat × W64) :=
  (activeLanes (effMask s)).map (fun i => (i, (laneOf (rdV s o.a.toNat) i).setWidth 64))

/-- Words as a number, the first lowest. -/
def wordsNat : List W32 → Nat
  | [] => 0
  | x :: r => x.toNat + 2 ^ 32 * wordsNat r

/-- VEMIT (R279, R428). -/
def execVemit (o : Opnd) (s : State) : Out :=
  runI (.vemit o) s (fun s =>
    let n := (parOf o).val.toNat % 8 + 1
    let l := vertexAddrs o s
    let data (i : Nat) : Nat := wordsNat ((List.range n).map (fun w => laneOf (rdV s (o.d.toNat + w)) i))
    (scrCheck 32 32 true l s).bind fun _ s1 => .ok none (bump (scrStoreLanes 32 data l [] s1)))

/-- The words of a pass descriptor (Table 9-1). -/
def descWords (bs : List Byte) (n : Nat) : List W64 := (List.range n).map (fun j => wordsOfBytes bs j)

/-- A pass descriptor has no invalid field (R276, Table 9-3). -/
def passFieldsOk (d : List W64) : Bool :=
  let w (j : Nat) : W64 := d.getD j 0
  let view := w 5
  decide (fld (w 0) 2 62 = 0 ∧ (w 1).toNat % 128 = 0 ∧ 1 ≤ fld (w 2) 0 20 ∧ fld (w 2) 20 44 = 0 ∧ (w 3).toNat % 4 = 0 ∧
    1 ≤ fld view 0 15 ∧ fld view 0 15 ≤ 16384 ∧ 1 ≤ fld view 15 15 ∧ fld view 15 15 ≤ 16384 ∧ fld view 30 2 ≠ 3 ∧
    fld view 33 31 = 0 ∧ (w 7).toNat % 32 = 0 ∧ fld (w 7) 21 43 = 0 ∧ (w 8).toNat % 8 = 0) &&
  (d.drop 11).all (fun x => x == 0)

/-- The open pass of a die with a descriptor address in a context. -/
def isPass (die ctx : Nat) (args : W64) (p : Pass) : Bool := p.die == die && p.ctx == ctx && p.args == args

/-- The partition word in the 8 bytes before an entry address (R45), read through a context's tables; an entry is 4-byte aligned (R408).
The fault of a read makes a word that cannot be met (log 96). -/
def entryPart (ctx die : Nat) (entry : W64) (s : State) : Option W64 × State :=
  let n := if entry.toNat % 8 = 0 then 8 else 4
  match devLoad s ctx die n (entry - 8) with
  | (.inr _, s1) => (none, s1)
  | (.inl bs, s1) =>
    if n = 8 then (some (BitVec.ofNat 64 (natOf bs)), s1) else
    match devLoad s1 ctx die 4 (entry - 4) with
    | (.inl cs, s2) => (some (BitVec.ofNat 64 (natOf (bs ++ cs))), s2)
    | (.inr _, s2) => (none, s2)

/-- The leaf of a walk maps device memory. -/
def deviceLeaf (s : State) (die : Nat) (x : LaneWalk) : Bool :=
  match x.walk with
  | .leaf pte base _ _ => ((physOf s die pte base (x.va.toNat % 2 ^ 57)).1.map (·.region)) == some 0
  | _ => false

/-- The primitive buffer of a pass descriptor lies in device memory (Table 9-1). -/
def pbufOk (d : List W64) (s : State) : Bool × State :=
  let l := Span.pieces 65536 ⟨0, d.getD 1 0, 128 * fld (d.getD 2 0) 0 20⟩
  if !l.all (fun e => canonical e.2) then (false, s) else
  let (ws, s1) := xlateAll (iodWho s s.g.ctx) l s
  (ws.all (deviceLeaf s1 (coreDie s1.g.core)), s1)

/-- The refusal of a PEMIT of `n` lanes: the first of Table 9-3 that holds. -/
def pemitRefusal (d : List W64) (home : Option Nat) (part : Option W64) (buf : Bool) (n : Nat) (s : State) : Option W32 :=
  let die := coreDie s.g.core
  let pass := s.passes.find? (isPass die s.g.ctx s.g.args)
  if (match pass with | some p => decide (0xFFFF_FFFB < p.next + n) | none => false) then some 0xFFFF_FFFB
  else if pass.isNone && decide (8 ≤ (s.passes.filter (fun p => p.die == die)).length) then some 0xFFFF_FFFC
  else if !passFieldsOk d || !buf || (match part with | some w => !partOk w 1 || partSCR w == 0 | none => true) then some 0xFFFF_FFFD
  else if fld (d.getD 0 0) 0 2 ≠ 0 ∨ home ≠ some die then some 0xFFFF_FFFE
  else if fld (d.getD 2 0) 0 20 < ((pass.map (fun p => p.prims.length)).getD 0) + n then some 0xFFFF_FFFF
  else none

/-- The three record offsets of a lane (R280). -/
def primRecords (d : List W64) (gid : Nat) (x : W32) : List Nat :=
  (List.range 3).map (fun k => fld (d.getD 7 0) 0 21 + 8192 * gid + 32 * bitsOf x.toNat (8 * k) 8)

/-- The bounds and tack faults of the records of the lanes (R280, R388, R235). -/
def recordsCheck (l : List (Nat × List Nat)) (s : State) : Res Unit :=
  let at_ (bad : Nat → Bool) : List (Nat × W64) :=
    l.filterMap (fun e => (e.2.find? bad).map (fun a => (e.1, BitVec.ofNat 64 a)))
  let b := at_ (fun a => decide (scrBytes s.g.part < a + 32))
  if !b.isEmpty then .trap (laneTrap 0x07 0 b) s else
  let t := at_ (fun a => tackHit s s.g.core true s.g.panel a 32 false)
  if !t.isEmpty then .trap (laneTrap 0x08 0 t) s else .ok () s

/-- A vertex record in scratchpad. -/
def vertexRecord (s : State) (panel off : Nat) : List W32 :=
  (List.range 8).map (fun w => BitVec.ofNat 32 (natOf (scrRead s panel (off + 4 * w) 4)))

/-- The pass takes primitives, opening first when it is not open (R277, R280, R281). DESIGN CHOICE (log 122): the entries of the primitive
buffer are the pass's own, and the bytes at PBUF stay as they are. -/
def takePrims (d : List W64) (verts : List (List W32)) (s : State) : State :=
  let die := coreDie s.g.core
  let p : Pass := (s.passes.find? (isPass die s.g.ctx s.g.args)).getD
    { die := die, args := s.g.args, ctx := s.g.ctx, bolt := s.g.bid, prio := s.g.prio, ccls := s.g.ccls, desc := d, next := 0
      prims := [], accepted := 0, culled := 0 }
  let new := (indexed p.next verts).map (fun e => (⟨e.1, s.g.prio, s.g.ccls, e.2, none⟩ : Prim))
  let p1 := { p with next := p.next + verts.length, accepted := p.accepted + verts.length, prims := p.prims ++ new }
  if s.passes.any (isPass die s.g.ctx s.g.args) then
    { s with passes := s.passes.map (fun x => if isPass die s.g.ctx s.g.args x then p1 else x) }
  else { s with passes := s.passes ++ [p1] }

/-- PEMIT (R280, R388). DESIGN CHOICE (log 123): ARGS that is no multiple of 128 is an alignment fault, and a page that is no HBM page with
SY = 1 is answered as a bad descriptor is (R276). -/
def pemitBody (o : Opnd) (s : State) : Res (Option W64) :=
  let act := activeLanes (effMask s)
  let w := whoOf s.g 2
  let refuse (st : W32) (s : State) : Res (Option W64) :=
    .ok none (onG (put (.vec o.d.toNat (laneIdx.map (fun i => if act.contains i then some st else none)))) s)
  if act.isEmpty then .ok none s
  else if s.g.kind ≠ .bolt then refuse 0xFFFF_FFFE s
  else
    (checkLanes s w s.g.ctx 128 128 needR [(0, s.g.args)]).bind fun ps s1 =>
    match ps with
    | [] => .ok none s1
    | (_, p) :: _ =>
      let (bs, s2) := loadBytes s1 w p 128
      let d := descWords bs 16
      let home := if p.region = 0 ∧ p.sy then some (homeDie p) else none
      let (part, s3) := entryPart s2.g.ctx (coreDie s2.g.core) (d.getD 3 0) s2
      let (buf, s3) := pbufOk d s3
      match pemitRefusal d home part buf act.length s3 with
      | some st => refuse st s3
      | none =>
        let l := act.map (fun i => (i, primRecords d (fld s3.g.gid 0 4) (laneOf (rdV s3 o.a.toNat) i)))
        (recordsCheck l s3).bind fun _ s4 =>
        let first := ((s4.passes.find? (isPass (coreDie s4.g.core) s4.g.ctx s4.g.args)).map (·.next)).getD 0
        let given := (indexed first act).map (fun e => (e.2, e.1))
        let s5 := takePrims d (l.map (fun e => e.2.flatMap (vertexRecord s4 s4.g.panel))) s4
        .ok none (onG (put (.vec o.d.toNat (pickLane given (fun x => BitVec.ofNat 32 x)))) s5)

/-- PEMIT. -/
def execPemit (o : Opnd) (s : State) : Out := runI (.pemit o) s (pemitBody o)

/-! Layers. -/

/-- MLRES. -/
def execMlres (o : Opnd) (s : State) : Out := runI (.mlres o) s (mlresBody false o)
/-- MLRES.CLR. -/
def execMlresClr (o : Opnd) (s : State) : Out := runI (.mlresClr o) s (mlresBody true o)

/-! Rays. -/

/-- A ray descriptor has no reserved field set and no misaligned one (R301, R305). -/
def rayDescOk (bob : Bool) (d : List W64) : Bool :=
  let w3 := d.getD 3 0
  decide ((d.getD 0 0).toNat % 64 = 0 ∧ fld w3 40 24 = 0) && (bob || decide (fld w3 0 21 % 32 = 0)) &&
  (d.drop 4).all (fun x => x == 0)

/-- The rays of the active lanes, with the slots they hold. -/
def raysOf (o : Opnd) (act slots : List Nat) (s : State) : List RayLane :=
  (indexed 0 act).map (fun e =>
    { lane := e.2, ray := (List.range 8).map (fun w => laneOf (rdV s (o.a.toNat + w)) e.2)
      user := (List.range 4).map (fun w => laneOf (rdV s (o.d.toNat + w)) e.2), slot := slots.getD e.1 0 })

/-- The ray commands that a cluster's engine holds. -/
def rayQueue (s : State) : Nat :=
  (s.cmds.filter (fun c => c.core / 4 == s.g.core / 4 && (match c.kind with | .ray .. => true | _ => false))).length

/-- RAYQ.SCR behind its descriptor checks (R304, R305). DESIGN CHOICE (log 116): its bounds faults report TMASK 1, as its descriptor's do. -/
def rayScr (o : Opnd) (act : List Nat) (d : List W64) (s : State) : Res (Option W64) :=
  let w3 := d.getD 3 0
  let nobar := bit w3 21
  let off := 32 * fld w3 22 16
  (firstTrap [rangeFault (fld w3 0 21) 2048 s, if nobar then none else rangeFault off 32 s] s).bind fun _ s1 =>
  (if nobar then (.ok none s1 : Res (Option (Nat × Nat))) else capturePhase off s1).bind fun bar s2 =>
  tryAccept 16 (rayQueue s2) (.ray false d (raysOf o act [] s2)) bar s2

/-- RAYQ.BOB behind its descriptor checks (R304, R391): the slots are reserved as by a waiting SPRES. -/
def rayBob (o : Opnd) (act : List Nat) (d : List W64) (s : State) : Res (Option W64) :=
  let hit := d.getD 1 0
  let miss := d.getD 2 0
  let entries := hit :: (if miss = 0 then [] else [miss])
  match entries.find? (fun e => decide (e.toNat % 4 ≠ 0)) with
  | some e => .trap { cause := 0x04, sub := 0, mask := 1, fault := e } s
  | none =>
  if poolSlots s (coreDie s.g.core) = 0 then spawnFault 2 0 s
  else if 16 ≤ rayQueue s then .stall (holdSlot s)
  else
    match reserve act.length entries s with
    | .lacking s1 => .block ⟨7, 0, hit, act.length⟩ s1
    | .slots offs s1 =>
      .ok none (pressure (coreDie s1.g.core) false (acceptCmd (.ray true d (raysOf o act offs s1)) none s1))

/-- RAYQ and RAYQ.BOB (R301, R305, R391). -/
def rayqBody (bob : Bool) (o : Opnd) (s : State) : Res (Option W64) :=
  let act := activeLanes (effMask s)
  if act.isEmpty then .ok none s else
  (uniDesc (rdS s o.b.toNat) s).bind fun bs s1 =>
  let d := descWords bs 8
  if !rayDescOk bob d then .trap (descFault 3) s1
  else if bob then rayBob o act d s1 else rayScr o act d s1

/-- RAYQ.SCR. -/
def execRayq (o : Opnd) (s : State) : Out := runI (.rayq o) s (rayqBody false o)
/-- RAYQ.BOB. -/
def execRayqBob (o : Opnd) (s : State) : Out := runI (.rayqBob o) s (rayqBody true o)

/-! Seams. -/

/-- A seam descriptor has no must-be-zero bit set and MODS in range for the scope (Table 9-14, R402). -/
def seamDescOk (scope : Nat) (d : List W64) : Bool :=
  let w8 := d.getD 8 0
  let mods := fld w8 0 5
  decide (fld w8 6 58 = 0) && (d.drop 13).all (fun x => x == 0) &&
  (if scope = 5 then decide (mods = 2 ∨ mods = 4 ∨ mods = 8 ∨ mods = 16) else mods == 1)

/-- The seam commands that a die's engine holds. -/
def seamQueue (s : State) : Nat :=
  (s.cmds.filter (fun c => coreDie c.core == coreDie s.g.core && (match c.kind with | .seam .. => true | _ => false))).length

/-- The modules of a seam descriptor's list (Table 9-14). -/
def seamMods (d : List W64) : List Nat :=
  (List.range (fld (d.getD 8 0) 0 5)).map (fun j => fld (d.getD (9 + j / 4) 0) (16 * (j % 4)) 16)

/-- This module's MODID. -/
def ownModule (s : State) : Nat := fld (rdWin s modidOff) 0 16

/-- The position of the module's own MODID in a seam descriptor's list. -/
def modPos (s : State) (d : List W64) : Option Nat := (seamMods d).findIdx? (fun m => m == ownModule s)

/-- How many participants a composite has (R307). -/
def seamParts (scope : Nat) (d : List W64) : Nat := if scope = 3 then 1 else if scope = 4 then 8 else 8 * fld (d.getD 8 0) 0 5

/-- The rank of this participant (R307); one whose MODID is not in the list takes the number of participants. -/
def seamRank (scope : Nat) (d : List W64) (s : State) : Nat :=
  if scope = 3 then 0 else if scope = 4 then coreDie s.g.core else
  match modPos s d with
  | some j => 8 * j + coreDie s.g.core
  | none => seamParts scope d

/-- The leaf of a walk maps a sync page for a seam descriptor: in device HBM, or for participants on several modules through a peer
window (R306, R307). -/
def seamLeaf (scope : Nat) (x : LaneWalk) : Bool :=
  match x.walk with
  | .leaf pte _ _ _ => bit pte 8 && (pteAddr pte / 2 ^ 48 == 0 || (scope == 5 && pteAddr pte / 2 ^ 48 == 2))
  | _ => false

/-- The ending of a check as an engine meets it (R236). -/
def engOf {α : Type} (r : Res α) : Eng α :=
  match r with
  | .ok a s => .ok a s
  | .trap t s =>
    if t.cause = 0x05 then .pause t.fault s
    else .fatal 0x24 (if t.cause = 0x03 then 1 else if t.cause = 0x04 then 2 else 3) t.fault s
  | .fatal c b a s => .fatal c b a s
  | .block _ s => .fatal 0x24 3 0 s
  | .stall s => .fatal 0x24 3 0 s

/-- Check spans for an engine: as `checkSpans`, without the tacks that thread accesses meet. -/
def engSpans (need : Need) (l : List Span) (s : State) : Eng Unit :=
  engOf ((checkPerm s (ropWho s) 1 need (piecesOf 65536 l)).bind fun _ s1 => spanPlaces s1 (ropWho s) need l)

/-- The spans of a pixel's storage: its planes, or its tile record, its drawers and the pool header. -/
def pixelSpans (t : Target) (p : Nat × Nat) (s : State) : List Span × List Span :=
  if t.ml then
    let tile := tileOf t p.1 p.2
    ([⟨0, recordAddr t tile, 320⟩, ⟨0, t.pool, 64⟩], drawerSpans t 0 tile s)
  else ([⟨0, colourAddr t p.1 p.2, t.bpp⟩] ++ (if t.dbase = 0 then [] else [⟨0, depthAddr t p.1 p.2, 4⟩]), [])

/-- Check a pixel's storage: the record before the drawers that it names. -/
def pixelCheck (t : Target) (need : Need) (p : Nat × Nat) (s : State) : Eng Unit :=
  (engSpans need (pixelSpans t p s).1 s).bind fun _ s1 => engSpans need (pixelSpans t p s1).2 s1

/-- Read a pixel. -/
def readPixel (t : Target) (p : Nat × Nat) (s : State) : Eng SeamPixel :=
  (pixelCheck t needR p s).bind fun _ s1 =>
  if t.ml then
    let (l, s2) := readList t (tileOf t p.1 p.2) (inTile p.1 p.2) s1
    .ok ⟨[], [], l⟩ s2
  else
    let (c, s2) := loadVas (ropWho s1) 4 (t.bpp / 4) (colourAddr t p.1 p.2) s1
    let (z, s3) := if t.dbase = 0 then ([], s2) else loadVa (ropWho s2) 4 (depthAddr t p.1 p.2) s2
    .ok ⟨c, z, []⟩ s3

/-- The pixels of a target as it holds them now, of those whose storage is mapped: what its composite starts from (R309). -/
def heldPixels (t : Target) (s : State) : List ((Nat × Nat) × SeamPixel) :=
  ((List.range (tileCount t)).flatMap (tilePixels t)).filterMap (fun p =>
    match readPixel t p s with
    | .ok x _ => some (p, x)
    | _ => none)

/-- The slots of the tiles of a multi-layer target that are free now, of those whose storage is mapped (R309). -/
def heldSeats (t : Target) (s : State) : List (Nat × List (Nat × Nat)) :=
  if !t.ml then [] else
  (List.range (tileCount t)).filterMap (fun i => (tilePixels t i).head?.bind (fun p =>
    match pixelCheck t needR p s with
    | .ok _ s1 => some (i, freeList t i s1)
    | _ => none))

/-- What an accepted SEAM holds. -/
def seamInfo (t : Target) (scope : Nat) (tgt : List Byte) (key : Nat) (d : List W64) (s : State) : SeamInfo :=
  { ml := t.ml, scope := scope, tgt := tgt, key := key, mods := seamMods d, gather := bit (d.getD 8 0) 5, started := false
    rank := seamRank scope d s, parts := seamParts scope d, round := 0, gathered := false, held := heldPixels t s
    seats := heldSeats t s }

/-- SEAM (R306, R307, R402). DESIGN CHOICE (logs 126, 127): a target descriptor that is invalid or of the other form ends in sub-code 3 as a
bad seam descriptor does, and a seam descriptor on no sync page in the alignment fault of a slot. -/
def seamBody (o : Opnd) (s : State) : Res (Option W64) :=
  let k := parOf o
  let ml := k.sel == 1
  let scope := k.scope.toNat
  let b := rdS s o.b.toNat
  (uniDesc (rdS s o.a.toNat) s).bind fun tgt s1 =>
  if canonical b && decide (b.toNat % 128 ≠ 0) then .trap { cause := 0x04, sub := 0, mask := 1, fault := b } s1 else
  (slotAt (seamLeaf scope) b (whoOf s1.g 0) needR 1 s1).bind fun p s2 =>
  let (bs, s3) := loadBytes s2 (whoOf s2.g 0) p 128
  let d := descWords bs 16
  match targetOf tgt with
  | none => .trap (descFault 3) s3
  | some t =>
    if !seamDescOk scope d || t.ml != ml then .trap (descFault 3) s3 else
    let s4 := (releasePart scope s3).2
    if 4 ≤ seamQueue s4 then .stall (holdSlot s4) else
    .ok none (acceptCmd (.seam (seamInfo t scope tgt p.key d s4)) none s4)

/-- SEAM. -/
def execSeam (o : Opnd) (s : State) : Out := runI (.seam o) s (seamBody o)

end Sys2Proof.Machine
end

