-- ==== Sys2Proof/Machine/Fetch.lean ====
section
/-! DEFINITION. Fetching the words at the program counter (03 R103 to R105, Table 3-12, 06 R190, R195): through the TLB and the
core's instruction cache, which is filled through the cluster L1 and is not coherent with stores. -/

namespace Sys2Proof.Machine

/-- The key of an instruction word held by a core. -/
def icKey (core key : Nat) : Nat := core * 2 ^ 62 + key / 4

/-- The fetch fault (Table 8-8) on the word at `va`: TFIRST the first word, TFAULT the word concerned (Table 3-12). -/
def fetchFault {α : Type} (sub : Nat) (va : W64) (s : State) : Res α :=
  .trap { cause := 0x02, sub := sub, fault := va, first := some s.g.pc } s

/-- A leaf may be fetched from: X, and U in the unprivileged view, in which the register window is closed (R190). -/
def fetchAllowed (w : Who) (pte : W64) : Bool :=
  bit pte 4 && (w.priv || (bit pte 5 && pteAddr pte / 2 ^ 48 != 3))

/-- A word that the instruction cache holds is used, unless `refetch` says that the cache no longer holds it (R105). -/
def cachedWord (core key : Nat) (s : State) : Option W32 × State :=
  match cget (fun _ => none) s.icache (icKey core key) with
  | none => (none, s)
  | some x =>
    let s1 := { s with refetch := s.refetch.drop 1 }
    if s.refetch.headD false then (none, s1) else (some x, s1)

/-- One instruction word at a place. -/
def wordAt (w : Who) (p : Phys) (s : State) : W32 × State :=
  match cachedWord w.core p.rkey s with
  | (some x, s1) => (x, s1)
  | (none, s1) =>
    let (bs, s2) := loadBytes s1 w p 4
    let x := bytesWord bs
    if p.region = 3 then (x, s2)
    else (x, { s2 with icache := cset (fun _ => none) s2.icache (icKey w.core p.rkey) (some x) })

/-- Fetch the word at an address for the current group. -/
def fetchWord (va : W64) (s : State) : Res W32 :=
  let w := whoOf s.g 0
  if !canonical va then fetchFault 1 va s
  else if va.toNat % 4 ≠ 0 then fetchFault 2 va s
  else
    match xlate s w va with
    | (.fault, s1) => fetchFault 3 va s1
    | (.format, s1) => .fatal 0x21 0 va s1
    | (.poison sub, s1) => .fatal 0x28 sub va s1
    | (.leaf pte base _ _, s1) =>
      if !fetchAllowed w pte then fetchFault 4 va s1 else
      match physOf s1 (w.core / 48) pte base (va.toNat % 2 ^ 57) with
      | (none, _) => .fatal 0x22 0 va s1
      | (some _, false) => .fatal 0x23 0 va s1
      | (some p, true) =>
        if poisoned s1 w p 4 needR then .fatal 0x28 (poisonSub s1 w p 4) va s1 else
        let (x, s2) := wordAt w p (gather s1 w.core w.tag (va.toNat % 2 ^ 57) false)
        .ok x s2

/-- Fetch the instruction at the program counter of the current group: its first word, and its extension word where XW is 1
(R80, R104). -/
def fetchInstr (s : State) : Res (W32 × W32) :=
  (fetchWord s.g.pc s).bind fun w0 s1 =>
  if hasExt w0 then (fetchWord (s.g.pc + 4) s1).bind fun w1 s2 => .ok (w0, w1) s2
  else .ok (w0, 0) s1

/-- The registers that the instruction at the program counter waits for (R258). -/
def nextMisses (s : State) : List Nat :=
  match fetchInstr s with
  | .ok (w0, w1) s1 =>
    match decode w0 w1 with
    | .instr i _ => if (illegalSub s1 i).isSome then [] else missesOf s1 i
    | .illegal _ => []
  | _ => []

end Sys2Proof.Machine
end

