-- ==== Sys2Proof/Machine/System.lean ====
section
/-! DEFINITION. System registers (02 R76 to R78, 12 R375 to R377) and translation maintenance: TLBINV, HARVEST, MAPPG, CMAINT
(06 R192 to R198, 11 R348, R349, 12 R365, R373, 13 R417). -/

namespace Sys2Proof.Machine

/-! MFSR and MTSR. -/

/-- Word `j` of a replay entry as RPLQ shows it (Table 8-10). -/
def rplWord (r : Replay) (j : Nat) : W64 :=
  match j with
  | 0 => BitVec.ofNat 64 (r.pc.toNat % 2 ^ 57 + (if r.valid then 2 ^ 63 else 0))
  | 1 => pair64 r.word r.ext
  | 2 => r.mask
  | _ => BitVec.ofNat 64 (r.cause.toNat + r.sub.toNat * 256)

/-- The value of a system register, every field (Tables 2-7, 6-8, 8-6, 8-9, 8-10). DESIGN CHOICE (log 97): TCTL of a tile that the partition
lacks reads as it stands after launch. -/
def sysRead (s : State) (n : Nat) : W64 :=
  let g := s.g
  let die := coreDie g.core
  if n = 0 then g.gmode
  else if n = 1 then g.exmask
  else if n = 2 then g.gid
  else if n = 3 then g.pidx
  else if n = 4 then g.bid
  else if n = 5 then g.part
  else if n = 6 then hwloc g
  else if n = 8 then cget zero s.cyc g.core
  else if n = 0x10 then g.fpstat.setWidth 64
  else if n = 0x11 then g.mstat.setWidth 64
  else if n = 0x12 then g.slstat.setWidth 64
  else if n = 0x13 then g.slbnd
  else if n < 0x20 then rdTctl s (n - 0x18)
  else if n < 0x28 then cget zero s.wptr (wptrKey g.panel (n - 0x20))
  else if n = 0x30 then cget zero s.spnbase die
  else if n = 0x31 then cget zero s.spnsize die
  else if n = 0x32 then cget spntmoReset s.spntmo die
  else if n = 0x100 then g.tvec
  else if n = 0x101 then g.tcause
  else if n = 0x102 then g.tfirst
  else if n = 0x103 then g.tfault
  else if n = 0x104 then g.tpc
  else if n = 0x105 then g.tmask
  else if n = 0x106 then g.wbudget
  else if n = 0x107 then g.runcnt
  else if n = 0x108 then g.vmctx
  else if n = 0x109 then g.frpool
  else if n = 0x10A then g.rplop
  else if n = 0x10B then g.tgmode
  else if n < 0x110 then cget zero g.tsave (n - 0x10C)
  else match g.rplq[(n - 0x140) / 4]? with
    | some r => rplWord r ((n - 0x140) % 4)
    | none => 0

/-- The register has no unprivileged view (Table 2-7). -/
def sysHidden (n : Nat) : Bool := decide (0x31 ≤ n)

/-- MFSR (R376): the register in the view of the group. -/
def execMfsr (o : Opnd) (s : State) : Out :=
  runI (.mfsr o) s (fun s =>
    let n := sysIndex o
    .ok none (onG (put (.sca o.d.toNat (if !s.g.priv && sysHidden n then 0 else sysRead s n))) s))

/-- The die of the group holds a bin (R377). -/
def dieHasBin (s : State) : Bool := (cleanBins s).bins.any (fun b => b.die == coreDie s.g.core)

/-- The fields of a replay entry that a handler writes (Table 8-10). -/
def rplSet (r : Replay) (j : Nat) (v : W64) : Replay :=
  match j with
  | 0 => { r with valid := bit v 63 }
  | 2 => { r with mask := v }
  | _ => r

/-- Replace element `i` of a list. -/
def setNth {α : Type} : List α → Nat → (α → α) → List α
  | [], _, _ => []
  | x :: r, 0, f => f x :: r
  | x :: r, i + 1, f => x :: setNth r i f

/-- A write of a register in the privileged view (R377). -/
def sysWritePriv (n : Nat) (v : W64) (s : State) : State :=
  let die := coreDie s.g.core
  if n = 0 then onG (fun g => { g with gmode := v &&& 0x7FFF }) s
  else if n = 0x30 then
    if dieHasBin s then s else { s with spnbase := cset zero s.spnbase die (v &&& 0x01FF_FFFF_FFFF_FFE0) }
  else if n = 0x31 then
    if dieHasBin s then s else { s with spnsize := cset zero s.spnsize die (v &&& 0xF_07FF_FFFF) }
  else if n = 0x32 then { s with spntmo := cset spntmoReset s.spntmo die (v &&& 0x1FF_FFFF) }
  else if n = 0x100 then onG (fun g => { g with tvec := v &&& 0x81FF_FFFF_FFFF_FFFF }) s
  else if n = 0x101 then
    onG (fun g => { g with tcause := (g.tcause &&& ~~~0x7F_0000_FFFF) ||| (v &&& 0x7F_0000_FFFF) }) s
  else if n = 0x102 then onG (fun g => { g with tfirst := v }) s
  else if n = 0x103 then onG (fun g => { g with tfault := v }) s
  else if n = 0x104 then onG (fun g => { g with tpc := v }) s
  else if n = 0x105 then onG (fun g => { g with tmask := v }) s
  else if n = 0x106 then onG (fun g => { g with wbudget := v &&& 0xFFFF_FFFF_FFFF }) s
  else if n = 0x109 then onG (fun g => { g with frpool := v &&& 0x01FF_FFFF_FFFF_FFC0 }) s
  else if n = 0x10B then onG (fun g => { g with tgmode := v &&& 0x7FFF }) s
  else if 0x10C ≤ n ∧ n ≤ 0x10F then onG (fun g => { g with tsave := cset zero g.tsave (n - 0x10C) v }) s
  else if 0x140 ≤ n then
    onG (fun g => { g with rplq := setNth g.rplq ((n - 0x140) / 4) (fun r => rplSet r ((n - 0x140) % 4) v) }) s
  else s

/-- A write of a register: the W1C status flags in both views (R78), the rest in the privileged view only. -/
def sysWrite (n : Nat) (v : W64) (s : State) : State :=
  if n = 0x10 then onG (fun g => { g with fpstat := g.fpstat &&& ~~~(v.setWidth 6) }) s
  else if n = 0x11 then onG (fun g => { g with mstat := g.mstat &&& ~~~(v.setWidth 3) }) s
  else if n = 0x12 then onG (fun g => { g with slstat := g.slstat &&& ~~~(v.setWidth 6) }) s
  else if s.g.priv then sysWritePriv n v s
  else s

/-- MTSR (R377). -/
def execMtsr (o : Opnd) (s : State) : Out :=
  runI (.mtsr o) s (fun s => .ok none (sysWrite (sysIndex o) (rdS s o.a.toNat) s))

/-! TLBs. -/

/-- The core lies in the scope of an instruction of the group (R197, R198): the cores of its die, those of the module, or these and the
translation caches of IOD0 and IOD1, which stand as cores 384 and 385. -/
def coreInScope (g : Group) (scope core : Nat) : Bool :=
  if scope = 3 then core / 48 == coreDie g.core else if scope = 4 then decide (core < 384) else true

/-- TLBINV (R197): the entries of the context in scope go, with their A and D written. -/
def execTlbinv (o : Opnd) (s : State) : Out :=
  runI (.tlbinv o) s (fun s =>
    let k := parOf o
    let all := k.val.getLsbD 0
    let va := rdS s o.a.toNat
    let a := va.toNat % 2 ^ 57
    let tag := fld s.g.vmctx 0 16
    if !all && !canonical va then .trap (laneTrap 0x03 0 [(0, va)]) s else
    .ok none (dropTlb s (fun e =>
      e.ctx == tag && coreInScope s.g k.scope.toNat e.core && (all || decide (e.base ≤ a ∧ a < e.base + 2 ^ e.bits)))))

/-- HARVEST (R196): the A and D of the context's entries are written; the entries stay and do not write the same bits again. -/
def execHarvest (o : Opnd) (s : State) : Out :=
  runI (.harvest o) s (fun s =>
    let tag := fld s.g.vmctx 0 16
    let s1 := (s.tlb.filter (fun e => e.ctx == tag)).foldl writeAd s
    .ok none { s1 with tlb := s1.tlb.map (fun e =>
      if e.ctx = tag then { e with aDone := e.aDone || e.a, dDone := e.dDone || e.d, a := false, d := false } else e) })

/-! MAPPG. -/

/-- Where MAPPG's walk to a level ends (R194): the slot with the value read there, a covering leaf, a missing pointer or an
occupied slot, or a table that breaks R186. -/
inductive MapSlot where
  | slot (key : Nat)
  | mapped
  | noSlot
  | format
  | poison (sub : Nat)
  deriving DecidableEq, Repr

/-- Walk toward an address down to the level that indexes from bit `to_` (R194). -/
def mapWalk (va to_ : Nat) (quota : BitVec 2) : List (Nat × Nat × Nat) → Nat → State → MapSlot × State
  | [], _, s => (.noSlot, s)
  | (sh, n, al) :: rest, pa, s =>
    if !tableOk pa al (8 * 2 ^ n) then (.format, s) else
    let k := tableKey pa + 8 * bitsOf va sh n
    let s1 := touch s k quota 0 false
    if poisonAt s k || poisonAt s (k + 4) then (.poison (homeSub s k), s1) else
    let e := rw8 s1 k
    if bit e 0 && bit e 1 then (if sh = 43 ∨ !leafOk e sh then (.format, s1) else (.mapped, s1))
    else if sh = to_ then (if bit e 0 then (.noSlot, s1) else (.slot k, s1))
    else if !bit e 0 then (.noSlot, s1)
    else if fld e 2 22 ≠ 0 then (.format, s1)
    else mapWalk va to_ quota rest (pteAddr e) s1

/-- Pop the free pool whose header lies at a place: the last entry, or none when it is empty (R192). -/
def poolPop (w : Who) (p : Phys) (s : State) : Option W64 × State :=
  let (c, s1) := homeRead s w p 8
  if c = 0 then (none, s1) else
  let s2 := homeWrite s1 p.key (bytesOf 8 (c - 1)) w.quota (effClass s1 w p) none
  let (e, s3) := homeRead s2 w (p.plus (64 + 8 * (c - 1))) 8
  (some (BitVec.ofNat 64 e), s3)

/-- Push an entry back; it is lost when COUNT has reached CAP (R192). -/
def poolPush (w : Who) (p : Phys) (e : W64) (s : State) : State :=
  let (c, s1) := homeRead s w p 8
  let (cap, s2) := homeRead s1 w (p.plus 8) 8
  if c = cap then s2 else
  let s3 := storeHome s2 w (p.plus (64 + 8 * c)) (bytesOf 8 e.toNat)
  homeWrite s3 p.key (bytesOf 8 (c + 1)) w.quota (effClass s3 w p) none

/-- A pool entry with its PS field cleared, as a leaf. -/
def poolLeaf (e : W64) : W64 := setFld e 21 2 0

/-- The page size exponent of PS (R192). -/
def psBits (e : W64) : Nat := if fld e 21 2 = 0 then 16 else if fld e 21 2 = 1 then 21 else 30

/-- A popped entry breaks R194. -/
def poolBad (e : W64) : Bool := fld e 21 2 == 3 || !bit e 0 || !bit e 1 || !leafOk (poolLeaf e) (psBits e)

/-- The new PTE: the entry with PS, A and D zero and the template's R, W, X, U, SY, CC. -/
def newPte (e tmpl : W64) : W64 := (poolLeaf e &&& ~~~0x19FC) ||| (tmpl &&& 0x193C)

/-- MAPPG (R194). -/
def mappgBody (o : Opnd) (s : State) : Res (Option W64) :=
  let va := rdS s o.a.toNat
  let tmpl := rdS s o.b.toNat
  let w := whoOf s.g 0
  let ret (x : W64) (s : State) : Res (Option W64) := .ok none (onG (put (.sca o.d.toNat x)) s)
  if !canonical va then .trap (laneTrap 0x03 0 [(0, va)]) s
  else if tmpl &&& ~~~0x193C ≠ 0 then ret 4 s
  else if fld s.g.frpool 0 57 = 0 then ret 2 s
  else
    (checkPerm s w 8 needRW [(0, sext57 (fld s.g.frpool 0 57))]).bind fun ws s1 =>
    (places w 16 needRW ws s1).bind fun ps s2 =>
    match ps with
    | [] => ret 2 s2
    | (_, p) :: _ =>
      match poolPop w p s2 with
      | (none, s3) => ret 2 s3
      | (some e, s3) =>
        if poolBad e then .fatal 0x21 0 va s3 else
        match mapWalk (va.toNat % 2 ^ 57) (psBits e) w.quota levels w.root s3 with
        | (.mapped, s4) => ret 1 (poolPush w p e s4)
        | (.noSlot, s4) => ret 3 (poolPush w p e s4)
        | (.format, s4) => .fatal 0x21 0 va s4
        | (.poison sub, s4) => .fatal 0x28 sub va s4
        | (.slot k, s4) => ret 0 (homeWrite s4 k (bytesOf 8 (newPte e tmpl).toNat) w.quota 0 none)

/-- MAPPG. -/
def execMappg (o : Opnd) (s : State) : Out := runI (.mappg o) s (mappgBody o)

/-! Ranges of pages. -/

/-- A mapped page, with the part [lo, hi) of it that a range covers, as offsets in the page. -/
structure PageSpan where
  pte  : W64
  base : Nat
  bits : Nat
  at_  : Nat
  lo   : Nat
  hi   : Nat
  deriving DecidableEq, Repr

/-- The lowest virtual-address bit that the entry indexes at which a walk finds V = 0. -/
def faultShift (va : Nat) : List (Nat × Nat × Nat) → Nat → State → Nat
  | [], _, _ => 16
  | (sh, _, _) :: [], _, _ => sh
  | (sh, n, _) :: rest, pa, s =>
    let e := rw8 s (tableKey pa + 8 * bitsOf va sh n)
    if bit e 0 then faultShift va rest (pteAddr e) s else sh

/-- The mapped pages of the virtual range [va, end_), in rising order; pages that are not mapped are skipped (R198). Addresses
are taken modulo 2^57. -/
def pagesOf (w : Who) (end_ : Nat) : Nat → Nat → State → Res (List PageSpan)
  | 0, _, s => .ok [] s
  | n + 1, va, s =>
    if end_ ≤ va then .ok [] s else
    match xlate s w (BitVec.ofNat 64 va) with
    | (.leaf pte base bits k, s1) =>
      (pagesOf w end_ n (base + 2 ^ bits) s1).bind fun l s2 =>
        .ok (⟨pte, base, bits, k, va - base, min end_ (base + 2 ^ bits) - base⟩ :: l) s2
    | (.fault, s1) =>
      let sh := faultShift va levels w.root s1
      pagesOf w end_ n ((va / 2 ^ sh + 1) * 2 ^ sh) s1
    | (.format, s1) => .fatal 0x21 0 (sext57 va) s1
    | (.poison sub, s1) => .fatal 0x28 sub (sext57 va) s1

/-- An L1 line lies in the covered part of a page, whole lines at a time (R212, R170). -/
def spanLine (x : PageSpan) (line : Nat) : Bool :=
  let pa := pteAddr x.pte
  let lo := x.lo / 128 * 128
  if pa / 2 ^ 48 = 0 then
    let st := pa % 2 ^ 36
    let o := (line % 2 ^ 29 * 128 + 2 ^ 36 - st) % 2 ^ 36
    decide (lo ≤ o ∧ o < x.hi ∧ line / 2 ^ 29 = (interleave (fld x.pte 13 5) (fld x.pte 18 3) st o).1)
  else
    decide (pa + lo ≤ line * 128 ∧ line * 128 < pa + x.hi)

/-- The range of CMAINT (R198): the end, or the lowest address that leaves the canonical half. -/
def rangeEnd (a len : Nat) : Nat ⊕ W64 :=
  if a < 2 ^ 56 then (if a + len ≤ 2 ^ 56 then .inl (a + len) else .inr (BitVec.ofNat 64 (2 ^ 56)))
  else (if a + len ≤ 2 ^ 64 then .inl (a % 2 ^ 57 + len) else .inr 0)

/-- Discard the clean words of a cluster's lines that satisfy a test (R198 .ICI). -/
def discardClean (s : State) (cl : Nat) (p : Nat → Bool) : State :=
  { s with l1 := s.l1.filter (fun e =>
      !(l1Cluster e.1 == cl && p (l1Line e.1) && (match e.2 with | some x => !x.dirty | none => true))) }

/-- The four operations of CMAINT on a cluster (R198). -/
def maintain (op cl : Nat) (p : Nat → Bool) (s : State) : State :=
  match op with
  | 0 => writeBack s cl p
  | 1 => discard s cl p
  | 2 => flush s cl p
  | _ => discardClean s cl p

/-- CMAINT (R348, R349). DESIGN CHOICE (log 125): .INV and .WBI in the unprivileged view are denied where a store of the group would be, AC
apart: without U and on the register window too. -/
def cmaintBody (o : Opnd) (s : State) : Res (Option W64) :=
  let k := parOf o
  let op := k.val.toNat % 4
  let a := rdS s o.a.toNat
  let len := (rdS s o.b.toNat).toNat
  let w := whoOf s.g 0
  if len = 0 then .ok none s
  else if !canonical a then .trap (laneTrap 0x03 0 [(0, a)]) s
  else
    match rangeEnd a.toNat len with
    | .inr x => .trap (laneTrap 0x03 0 [(0, x)]) s
    | .inl end_ =>
      (pagesOf w end_ (len / 65536 + 2) (a.toNat % 2 ^ 57) s).bind fun pages s1 =>
      let denied := if !s.g.priv && (op == 1 || op == 2) then pages.find? (fun x => (permSub w needW (setFld x.pte 10 1 0)).isSome)
        else none
      match denied with
      | some x => .trap (laneTrap 0x06 1 [(0, sext57 (x.base + x.lo))]) s1
      | none =>
        let inPages (l : Nat) : Bool := pages.any (fun x => spanLine x l)
        let scope := k.scope.toNat
        let cls := (l1Clusters s1).filter (fun c => coreInScope s1.g scope (4 * c))
        let s2 := cls.foldl (fun x c => maintain op c inPages x) s1
        .ok none (if op = 3 then { s2 with icache := ckeep (fun x => !coreInScope s2.g scope (x / 2 ^ 62)) s2.icache } else s2)

/-- CMAINT. -/
def execCmaint (o : Opnd) (s : State) : Out := runI (.cmaint o) s (cmaintBody o)

/-! Accessions. -/

/-- The pages of a range that ACCSN takes, or the fault of its first offending address, with alignment to whole pages, which hold 64 KiB at
least, before translation (R238, Table 6-7). -/
def accPages (w : Who) (end_ : Nat) : Nat → Nat → State → Res (List PageSpan)
  | 0, _, s => .ok [] s
  | n + 1, va, s =>
    if end_ ≤ va then .ok [] s else
    let at_ : W64 := sext57 va
    match xlate s w at_ with
    | (.format, s1) => .fatal 0x21 0 at_ s1
    | (.poison sub, s1) => .fatal 0x28 sub at_ s1
    | (.fault, s1) =>
      .trap (if va % 65536 ≠ 0 ∨ end_ < va + 65536 then laneTrap 0x04 0 [(0, at_)] else laneTrap 0x05 1 [(0, at_)]) s1
    | (.leaf pte base bits k, s1) =>
      if va ≠ base ∨ end_ < base + 2 ^ bits then .trap (laneTrap 0x04 0 [(0, at_)]) s1
      else if (permSub w needW (setFld pte 10 1 0)).isSome || pteAddr pte / 2 ^ 48 != 0 || bit pte 8 || bit pte 9 then
        .trap (laneTrap 0x06 1 [(0, at_)]) s1
      else
        (accPages w end_ n (base + 2 ^ bits) s1).bind fun l s2 => .ok (⟨pte, base, bits, k, 0, 2 ^ bits⟩ :: l) s2

/-- The storage of an HBM page: a share of each die of its interleave set (R168). -/
def pagePieces (x : PageSpan) : List (Nat × Nat) :=
  let il := fld x.pte 18 3
  let home := fld x.pte 13 5
  let st := pteAddr x.pte % 2 ^ 36
  if il = 0 then [(hbmKey home st, 2 ^ x.bits)] else
  let n := 4 <<< (il - 1)
  (List.range n).map (fun i => (hbmKey (home - home % n + i) st, 2 ^ x.bits / n))

/-- The memory-side dies of storage pieces. -/
def pieceHomes (l : List (Nat × Nat)) : List Nat := (l.map (fun e => e.1 / 2 ^ 36)).eraseDups

/-- A home has no free accession-table entry (R238). -/
def tableFull (s : State) (md : Nat) : Bool :=
  decide (1024 ≤ (s.accs.filter (fun a => (pieceHomes a.pieces).contains md)).length)

/-- Two storage pieces overlap. -/
def piecesMeet (a b : List (Nat × Nat)) : Bool :=
  a.any (fun x => b.any (fun y => decide (x.1 < y.1 + y.2 ∧ y.1 < x.1 + x.2)))

/-- Set or clear AC in the leaves of pages, and remove their TLB entries at .SYS (R238). -/
def setAc (ac : Bool) (w : Who) (pages : List PageSpan) (s : State) : State :=
  let s1 := pages.foldl (fun a x =>
    homeWrite a x.at_ (bytesOf 8 (setFld (rw8 a x.at_) 10 1 (if ac then 1 else 0)).toNat) w.quota 0 none) s
  dropTlb s1 (fun e => e.ctx == w.tag && pages.any (fun x => x.base == e.base))

/-- ACCSN (R238, R338). DESIGN CHOICE (log 110): one recorded accession is known at an unseal by the context, the virtual base and the
length that sealed it. -/
def accsnBody (o : Opnd) (s : State) : Res (Option W64) :=
  let a := rdS s o.a.toNat
  let b := rdS s o.b.toNat
  let len := fld b 0 63
  let w := whoOf s.g 0
  let ret (x : W64) (s : State) : Res (Option W64) := .ok none (onG (put (.sca o.d.toNat x)) s)
  if !canonical a then .trap (laneTrap 0x03 0 [(0, a)]) s
  else if len = 0 then .trap (laneTrap 0x04 0 [(0, a)]) s
  else
    match rangeEnd a.toNat len with
    | .inr x => .trap (laneTrap 0x03 0 [(0, x)]) s
    | .inl end_ =>
      (accPages w end_ (len / 65536 + 1) (a.toNat % 2 ^ 57) s).bind fun pages s1 =>
      let pieces := pages.flatMap pagePieces
      if bit b 63 then
        let n := ((s1.accs.find? (fun x => x.ctx == s1.g.ctx && x.base == a && x.len == len)).map (·.num)).getD 0
        ret n (setAc false w pages { s1 with accs := s1.accs.filter (fun x => !piecesMeet x.pieces pieces) })
      else
        let s2 := (l1Clusters s1).foldl (fun x c => writeBack x c (fun l => pages.any (fun p => spanLine p l))) s1
        if (pieceHomes pieces).any (tableFull s2) then ret 0 s2 else
        let n : W64 := BitVec.ofNat 64 (fld (rdWin s2 modidOff) 0 16 * 2 ^ 48 + s2.accCount)
        ret n (setAc true w pages
          { s2 with accCount := s2.accCount + 1, accs := ⟨n, s2.g.ctx, a, len, pieces⟩ :: s2.accs })

/-- ACCSN. -/
def execAccsn (o : Opnd) (s : State) : Out := runI (.accsn o) s (accsnBody o)

/-! LAUNCH. -/

/-- The queue of LAUNCH takes a record from the current group (Table 8-3, R242). -/
def launchOk (s : State) (d : W64) : Bool :=
  let q := rdWin s (queueReg (fld d 0 4) 0x10)
  fld d 4 60 == 0 && bit q 0 && bit q 1 && fld q 2 4 == s.g.ctx && bit (rdWin s (ctxReg s.g.ctx 0)) 63

/-- log2 of a queue's ring size (Table 8-2). -/
def ringLog (s : State) (n : Nat) : Nat :=
  let l := fld (rdWin s (queueReg n 0x10)) 10 5
  if 4 ≤ l ∧ l ≤ 16 then l else 4

/-- Slot `m` of the ring of a queue. -/
def ringSlot (s : State) (n m : Nat) : W64 :=
  sext57 (fld (rdWin s (queueReg n 0)) 0 57) + BitVec.ofNat 64 (128 * (m % 2 ^ ringLog s n))

/-- The control pair of a queue. -/
def ctlPair (s : State) (n : Nat) : W64 := sext57 (fld (rdWin s (queueReg n 8)) 0 57)

/-- Write bytes at their homes, eight at a time, through checked leaves; they are no stores of the group (R214, R366). -/
def putVa (w : Who) : Nat → W64 → List Byte → State → State
  | 0, _, _, s => s
  | n + 1, va, bs, s =>
    match physAt s w va with
    | (some p, s1) => putVa w n (va + 8) (bs.drop 8)
        (if p.region = 3 then storeAt w p (bs.take 8) s1 else storeHome s1 w p (bs.take 8))
    | (none, s1) => putVa w n (va + 8) (bs.drop 8) s1

/-- LAUNCH (R247, R366): the release part at .SYS, the record's 128 bytes, then the ring slot and TAIL at their homes, in the view of the
group. DESIGN CHOICE (log 109): a control pair or a slot that is not aligned raises the alignment fault on the LAUNCH. -/
def launchBody (o : Opnd) (s : State) : Res (Option W64) :=
  let d := rdS s o.d.toNat
  let a := rdS s o.a.toNat
  let w := whoOf s.g 0
  let dev := { w with alloc := 2 }
  let ret (x : W64) (s : State) : Res (Option W64) := .ok none (onG (put (.sca o.d.toNat x)) s)
  if a.toNat % 8 ≠ 0 then .trap (laneTrap 0x04 0 [(0, a)]) s else
  let s0 := (releasePart 5 s).2
  if !canonical a then .trap (laneTrap 0x03 0 [(0, a)]) s0 else
  (checkSpans s0 w s0.g.ctx needR [⟨0, a, 128⟩]).bind fun _ s1 =>
  let (bs, s2) := loadVas w 8 16 a s1
  if !launchOk s2 d then ret 2 s2 else
  let n := fld d 0 4
  let pair := ctlPair s2 n
  (checkPerm s2 dev 16 needRW [(0, pair)]).bind fun _ s3 =>
  let (tb, s4) := loadVa dev 8 pair s3
  let (hb, s5) := loadVa dev 8 (pair + 8) s4
  let tail := natOf tb
  if 2 ^ ringLog s5 n ≤ (BitVec.ofNat 64 tail - BitVec.ofNat 64 (natOf hb)).toNat then ret 1 s5 else
  let slot := ringSlot s5 n tail
  (checkPerm s5 dev 128 needW [(0, slot)]).bind fun _ s6 =>
  (checkSpans s6 dev s6.g.ctx needRW [⟨0, pair, 16⟩]).bind fun _ s7 =>
  (checkSpans s7 dev s7.g.ctx needW [⟨0, slot, 128⟩]).bind fun _ s8 =>
  ret 0 (putVa dev 1 pair (bytesOf 8 (tail + 1)) (putVa dev 16 slot bs s8))

/-- LAUNCH. -/
def execLaunch (o : Opnd) (s : State) : Out := runI (.launch o) s (launchBody o)

/-! MIGRATE. -/

/-- Work of the group that MIGRATE waits for (R52): closed batches, and engine commands other than SEAM. -/
def migrateWaits (s : State) : Bool :=
  !s.g.batches.isEmpty || s.cmds.any (fun c => c.grp == s.g.id && (match c.kind with | .seam .. => false | _ => true))

/-- Move the current group to a core (R52, R53): scratchpad and frames do not travel; the target cluster writes back and
invalidates its L1. -/
def moveTo (core : Nat) (s : State) : State :=
  let slot := pickSlot s core
  let s1 := freePanelStore s s.g.panel
  let s2 := onG (fun g => { g with core := core, slot := slot, order := s.nextId, waited := 0 }) s1
  let s3 := { s2 with
    nextId := s2.nextId + 1
    panels := s2.panels.map (fun p => if p.id = s2.g.panel then { p with core := core, die := coreDie core } else p) }
  noteCluster s3.g.panel (core / 4) (flushCluster (core / 4) s3)

/-- MIGRATE (R51 to R54, R378). DESIGN CHOICE (log 111): a group counts as alone by the groups that its panel was launched with. DESIGN
CHOICE (log 98): the operations of the open set are performed before the move too, so that their faults are taken on the old core (R54),
and move along. -/
def migrateBody (o : Opnd) (s : State) : Res (Option W64) :=
  let a := rdS s o.a.toNat
  let ret (x : W64) (s : State) : Res (Option W64) := .ok none (onG (put (.sca o.d.toNat x)) s)
  let bad : Res (Option W64) := .trap { cause := 0x0D, sub := 1 } s
  let alone := (panelOf s s.g.panel).map (fun p => decide (p.groups ≤ 1)) |>.getD true
  if s.g.priv || !alone then bad else
  (namedPlace (whoOf s.g 0) a s).bind fun p s1 =>
  if migrateWaits s1 then .stall s else
  (waitOps [s1.g.id] (fun _ => true) s1).bind fun _ s2 =>
  (fetchRegs s2.g.absent s2).bind fun _ s2 =>
  let s3 := (releasePart 4 s2).2
  let die := homeDie p
  let s4 := onG completeAll s3
  if die = coreDie s4.g.core then ret 1 (acquirePart 4 fullSwatch s4) else
  match placeCore s4 die s4.g.part 1 with
  | none => ret 2 (acquirePart 4 fullSwatch s4)
  | some c => ret 0 (onG (orPending 4 fullSwatch) (moveTo c s4))

/-- MIGRATE. -/
def execMigrate (o : Opnd) (s : State) : Out := runI (.migrate o) s (migrateBody o)

end Sys2Proof.Machine
end

