-- ==== Sys2Proof/Machine/Launch.lean ====
section
/-! DEFINITION. Starting groups (01 R43 to R50, R55, R56, 02 R70, 07 R221, 08 R241 to R248, R314): save records, the state a group
starts with, the panels of bolts and the bobbin groups. -/

namespace Sys2Proof.Machine

/-- The dispatcher may place panels of a context: VALID is set, and it is neither stopped nor halted (R242, R261, R274). -/
def ctxRuns (s : State) (c : Nat) : Bool :=
  bit (rdWin s (ctxReg c 0)) 63 && !bit (rdWin s (ctxReg c 0x28)) 32 && !halted s c

/-- The free save record that a panel receives (R243). DESIGN CHOICE (log 99): the lowest. -/
def freeRecord (s : State) (c : Nat) : Option Nat :=
  let used := (s.panels.filter (fun p => p.ctx == c)).map (·.record)
  (List.range (min (fld (rdWin s (ctxReg c 0x18)) 0 16) (used.length + 1))).find? (fun r => !used.contains r)

/-- The state that every group starts with (Table 2-5, R241, R260, R261, R314). -/
def freshGroup (s : State) (panel : Panel) (gi : Nat) (part entry exmask : W64) (prio ccls : BitVec 2) : Group :=
  { Group.empty with
    live := true, resident := true, id := s.nextId, panel := panel.id, ctx := panel.ctx, core := panel.core
    slot := pickSlot s panel.core, kind := panel.kind, part := part, pc := entry, exmask := exmask
    s := cset zero [] 1 exmask
    gid := BitVec.ofNat 64 gi
    bid := BitVec.allOnes 64
    tvec := rdWin s (ctxReg panel.ctx 0x30)
    frpool := rdWin s (ctxReg panel.ctx 0x38)
    vmctx := rdWin s (ctxReg panel.ctx 0) &&& 0x000F_FFFF_FFFE_FFFF
    rplop := panel.save + BitVec.ofNat 64 (0x38_0000 + 32768 * gi)
    wbudget := waitClocks panel.bud
    order := s.nextId
    prio := prio
    ccls := ccls }

/-- A group joins the machine. -/
def addGroup (g : Group) (s : State) : State :=
  if s.g.live then { s with others := s.others ++ [g], nextId := s.nextId + 1 }
  else { s with g := g, nextId := s.nextId + 1 }

/-- A panel as it is placed on a core with a save record (R243, R241). -/
def freshPanel (s : State) (kind : GroupKind) (ctx die core : Nat) (bolt : Option (Nat × Nat)) (groups rec_ : Nat) : Panel :=
  { id := s.nextId, ctx := ctx, die := die, core := core, resident := true, kind := kind, bolt := bolt, groups := groups
    request := none, record := rec_, save := saveRec s ctx rec_, bud := rdWin s (ctxReg ctx 8) }

/-- A panel joins the machine. -/
def addPanel (p : Panel) (s : State) : State := { s with panels := s.panels ++ [p], nextId := s.nextId + 1 }

/-- Requests made for a panel that now has its place are withdrawn (R254). -/
def withdraw (r : Request) (s : State) : State :=
  { s with panels := s.panels.map (fun p => if p.request = some r then { p with request := none } else p) }

/-! Bolts. -/

/-- The fields of a GRID word (Table 1-3). -/
def gridX (w : W64) : Nat := fld w 0 16
def gridY (w : W64) : Nat := fld w 16 16
def gridZ (w : W64) : Nat := fld w 32 16
def gridGroups (w : W64) : Nat := fld w 48 4 + 1
def gridLanes (w : W64) : Nat := fld w 52 7

/-- The panels of a bolt (R31). -/
def boltPanels (b : Bolt) : Nat := gridX b.grid * gridY b.grid * gridZ b.grid

/-- BID of a bolt (Table 1-7). -/
def boltBid (queue seq : Nat) : W64 := BitVec.ofNat 64 (seq % 2 ^ 32 + queue * 2 ^ 32)

/-- PIDX of the next panel to be placed: x varies fastest, then y, then z (R31, Table 1-7). -/
def nextPidx (b : Bolt) : W64 :=
  let x := gridX b.grid
  let y := gridY b.grid
  BitVec.ofNat 64 (b.placed % x + b.placed / x % y * 2 ^ 16 + b.placed / (x * y) * 2 ^ 32)

/-- A bolt of a queue. -/
def isBolt (queue seq : Nat) (b : Bolt) : Bool := b.queue == queue && b.seq == seq

/-- Start the next panel of a bolt on a core (R26, R31, R70, R221, R248). -/
def startPanel (b : Bolt) (core rec_ : Nat) (s : State) : State :=
  let s0 := if b.clusters.contains (core / 4) then s else flushCluster (core / 4) s
  let p := freshPanel s0 .bolt b.ctx b.die core (some (b.queue, b.seq)) (gridGroups b.grid) rec_
  let mask : W64 := BitVec.ofNat 64 (2 ^ gridLanes b.grid - 1)
  let s1 := (List.range (gridGroups b.grid)).foldl (fun a j =>
    let g := freshGroup a p j b.part b.entry mask b.prio b.ccls
    addGroup { g with s := cset zero g.s 2 b.args, args := b.args, pidx := nextPidx b, bid := boltBid b.queue b.seq } a) (addPanel p s0)
  let s2 := { s1 with bolts := s1.bolts.map (fun x =>
    if isBolt b.queue b.seq x then { x with placed := x.placed + 1, starved := false } else x) }
  withdraw (.queue b.queue) (noteCluster p.id (core / 4) s2)

/-- The bolt of a queue that still has panels not placed (R248). -/
def curBolt (s : State) (n : Nat) : Option Bolt := s.bolts.find? (fun b => b.queue == n && decide (b.placed < boltPanels b))

/-- A launch error or completion-write fault of a queue is still held by the dispatcher, and with it the queue (R273). -/
def queueHeld (s : State) (n : Nat) : Bool :=
  s.outbound.any (fun r => r.die == 8 && r.queue == n && (r.type == 1 || r.type == 6))

/-- The bolt of an enabled queue whose next panel is to be placed (R242, R248). -/
def waitingBolt (s : State) (n : Nat) : Option Bolt :=
  if !bit (rdWin s (queueReg n 0x10)) 0 || queueHeld s n then none else
  (curBolt s n).filter (fun b => b.released && ctxRuns s b.ctx)

/-- The core that a bolt's next panel would take (R49). -/
def boltCore (s : State) (b : Bolt) : Option Nat := placeCore s b.die b.part (gridGroups b.grid)

/-- The queues of a class in the order in which they are served: after the one served last (R248; 15 before any, log 15). -/
def queueOrder (s : State) (cls : Nat) : List Nat :=
  (List.range 16).map (fun i => (cget (fun _ => 15) s.lastQueue cls + 1 + i) % 16)

/-- The bolt that the dispatcher serves next among those that satisfy a test: of the highest class, in the order of its queues
(R248). -/
def servedBolt (s : State) (p : Bolt → Bool) : Option Bolt :=
  (List.range 4).findSome? (fun c => (queueOrder s c).findSome? (fun n =>
    (waitingBolt s n).filter (fun b => b.prio.toNat == c && p b)))

/-- A record about a bolt and no group of it, from IOD0; WHERE is open (Table 8-12, log 16). -/
def boltRec (s : State) (b : Bolt) (type cause sub : Nat) (addr : W64) : EvRec :=
  { type := type, cause := cause, sub := sub, queue := b.queue, die := 8, code := 0, bid := boltBid b.queue b.seq, addr := addr
    where_ := Config.freeW64 s.free 0 &&& 0x7FFF_FFFF_FFFF_FFFF, ctx := b.ctx, grp := none }

/-- PANEL_PLACE (R248, R49, R243): the next panel of the bolt that the dispatcher serves is placed. A panel that finds a core and
no save record waits, and a record of type 5 is posted for it once. -/
def placePanel (s : State) : State :=
  match servedBolt s (fun b => (boltCore s b).isSome && (freeRecord s b.ctx).isSome) with
  | some b =>
    match boltCore s b, freeRecord s b.ctx with
    | some core, some r =>
      startPanel b core r { s with lastQueue := cset (fun _ => 15) s.lastQueue b.prio.toNat b.queue }
    | _, _ => s
  | none =>
    match servedBolt s (fun b => (boltCore s b).isSome && !b.starved) with
    | some b =>
      bump (postRec (boltRec s b 5 0 0 (Config.freeW64 s.free 1)) { s with bolts := s.bolts.map (fun x =>
        if isBolt b.queue b.seq x then { x with starved := true } else x) })
    | none => s

/-! Bobbins. -/

/-- A record about a bobbin group that was not launched (R39, R45, Table 8-12); what the table leaves open is free (log 16). -/
def bobbinRec (s : State) (f : Formed) (type cause sub : Nat) (addr : W64) : EvRec :=
  { type := type, cause := cause, sub := sub, queue := (Config.recordQueue s.free).toNat, die := f.die, code := 0, bid := BitVec.allOnes 64, addr := addr
    where_ := Config.freeW64 s.free 0 &&& 0x7FFF_FFFF_FFFF_FFFF, ctx := f.ctx, grp := none }

/-- The address of a record slot of a die (R37). -/
def slotAddr (s : State) (die off : Nat) : W64 := sext57 (fld (cget zero s.spnbase die) 0 57) + BitVec.ofNat 64 off

/-- Load the eight payload words of records, through the tables of SPNSIZE.CTX (R39, R44). -/
def loadPayloads (die : Nat) : List Nat → State → (List (List W64) ⊕ W64) × State
  | [], s => (.inl [], s)
  | off :: r, s =>
    match devLoad8s s (fld (cget zero s.spnsize die) 32 4) die (slotAddr s die off) 4 with
    | (.inr e, s1) => (.inr e.2, s1)
    | (.inl ws, s1) =>
      match loadPayloads die r s1 with
      | (.inl l, s2) => (.inl (ws :: l), s2)
      | (.inr va, s2) => (.inr va, s2)

/-- Word `w` of a payload of four 64-bit words. -/
def payloadWord (p : List W64) (w : Nat) : W32 :=
  let x := p.getD (w / 2) 0
  if w % 2 = 0 then lo32 x else hi32 x

/-- The payload registers of a bobbin group: word w of record j in lane j of vw (R44). -/
def payloadRegs (l : List (List W64)) : Cells Lanes :=
  csetAll (fun _ => zeroLanes) []
    ((List.range 8).map (fun w => (w, laneIdx.map (fun j => match l[j]? with | some p => payloadWord p w | none => 0))))

/-- Start a formed bobbin group on a core with its payloads (R44, R45, R56, R221). -/
def startBobbin (f : Formed) (part : W64) (core rec_ : Nat) (l : List (List W64)) (s : State) : State :=
  let s0 := flush s (core / 4) (fun x => swatchHit f.swatch x)
  let p := freshPanel s0 .bobbin f.ctx f.die core none 1 rec_
  let s1 := addPanel p s0
  let g := freshGroup s1 p 0 part f.entry (BitVec.ofNat 64 (2 ^ f.offs.length - 1)) f.prio f.ccls
  withdraw (.bobbin f.die) (addGroup { g with v := payloadRegs l, swDie := f.swatch } s1)

/-- What becomes of a formed bobbin group now: none when it waits (R39, R45, R242). DESIGN CHOICE (log 96): a partition word that cannot be
read counts as one that cannot be met, with the same record, and the records are kept. -/
def tryBobbin (f : Formed) (s : State) : Option State :=
  if !ctxRuns s f.ctx then none else
  let (part, s1) := entryPart f.ctx f.die f.entry s
  match part.filter (fun w => partOk w 1) with
  | none =>
    if f.reported || !roomFor s1 f.die then none
    else some (bump (postRec (bobbinRec s1 f 1 0x08 0 (Config.freeW64 s1.free 1))
      { s1 with formed := s1.formed.map (fun x => if x = f then { x with reported := true } else x) }))
  | some w =>
    match placeCore s1 f.die w 1, freeRecord s1 f.ctx with
    | some core, some r =>
      let s2 := { s1 with formed := s1.formed.filter (fun x => !(x == f)) }
      match loadPayloads f.die f.offs s2 with
      | (.inr va, s3) => some (killCtx f.ctx (bump (postRec (bobbinRec s3 f 3 0x24 5 va) s3)))
      | (.inl l, s3) => some (startBobbin f w core r l s3)
    | _, _ => none

/-- BOBBIN_GROUP_PLACE (R45): the first formed group that can be placed, or whose launch error is to be posted. -/
def placeBobbin (s : State) : State := (s.formed.findSome? (fun f => tryBobbin f s)).getD s

end Sys2Proof.Machine
end

