-- ==== Sys2Proof/Machine/Matrix.lean ====
section
/-! DEFINITION. The matrix instructions (05): the operations as they are accepted (R139 to R149, R153 to R155, R157, R162, 12 R374,
R382, 13 R406, R429, R430), batches (R151, R152, R163), and TLD, ACCLD and ACCST, which wait for accepted operations (R153). -/

namespace Sys2Proof.Machine

/-! Batches. -/

/-- The flags and the bound of a completed batch reach the group (R78, R163). -/
def landBatch (b : Batch) (g : Group) : Group :=
  let rounds := b.ops.filter (fun m => m.kind == .wrndF64 || m.kind == .wrndF32)
  let best := rounds.foldl (fun (a : Nat) m => max a ((m.bound.map (·.toNat)).getD 0)) 0
  { g with
    mstat := b.ops.foldl (fun a m => a ||| m.mstat) g.mstat
    slstat := b.ops.foldl (fun a m => a ||| m.slst) g.slstat
    slbnd := if rounds.isEmpty then g.slbnd else BitVec.ofNat 64 (best + b.num.toNat * 2 ^ 32) }

/-- Batches whose operations are all performed complete, in number order: the first one always, and then each that is empty
(R151, R152). -/
def completeBatches (first : Bool) : List Batch → Group → Group
  | [], g => { g with batches := [] }
  | b :: r, g =>
    if b.ops.isEmpty || (first && b.ops.all (·.done)) then completeBatches false r (landBatch b g)
    else { g with batches := b :: r }

/-- MBATCH (R151, R374). -/
def closeBatch (d : Nat) (g : Group) : Group :=
  let n := g.nb + 1
  let g1 := put (.sca d (n.setWidth 64)) { g with nb := n, batches := g.batches ++ [⟨n, g.openSet⟩], openSet := [] }
  completeBatches false g1.batches g1

/-- MBATCH. -/
def execMbatch (o : Opnd) (s : State) : Out := runI (.mbatch o) s (fun s => .ok none (onG (closeBatch o.d.toNat) s))

/-- A closed batch that MBWAIT of number `n` waits for is incomplete (R152). -/
def batchesLeft (n : W32) (g : Group) : Bool := g.batches.any (fun b => decide ((n - b.num).toNat < 2 ^ 31))

/-- MBWAIT (R152, R374). -/
def execMbwait (o : Opnd) (s : State) : Out :=
  runI (.mbwait o) s (fun s =>
    let n := lo32 (rdS s o.a.toNat)
    if batchesLeft n s.g then .block ⟨6, 0, n.setWidth 64, 0⟩ s else .ok none s)

/-! Interlocks. -/

/-- An operation reads a tile. -/
def readsTile (t : Nat) (m : MatOp) : Bool :=
  (match m.kind with | .mma | .mmax | .mmaz | .slmm => true | _ => false) && (m.a == t || m.b == t)

/-- The groups of the current group's panel. -/
def panelIds (s : State) : List Nat := ((allGroups s).filter (fun g => g.live && g.panel == s.g.panel)).map (·.id)

/-- TLD: it waits for accepted operations of its group that read the tile (R153, R419). -/
def execTld (o : Opnd) (s : State) : Out :=
  runI (.tld o) s (fun s =>
    (waitOps [s.g.id] (readsTile o.d.toNat) s).bind fun _ s1 => .ok none (enqueue (.tld o) s1))

/-- ACCLD: it waits for accepted operations of its panel on the frame (R153, R337). -/
def execAccld (o : Opnd) (s : State) : Out :=
  runI (.accld o) s (fun s =>
    (waitOps (panelIds s) (fun m => (framesOf m).contains o.d.toNat) s).bind fun _ s1 => .ok none (enqueue (.accld o) s1))

/-- ACCST: as ACCLD. -/
def execAccst (o : Opnd) (s : State) : Out :=
  runI (.accst o) s (fun s =>
    (waitOps (panelIds s) (fun m => (framesOf m).contains o.d.toNat) s).bind fun _ s1 => .ok none (enqueue (.accst o) s1))

/-- A group has an ACCLD or ACCST on one of some frames in flight, or held in its replay queue while it is in its handler: RFE puts the
valid entries in flight again (R337, R266, R269). -/
def usesFrames (fs : List Nat) (g : Group) : Bool :=
  g.inflight.any (fun e => (frameOf e).any fs.contains) ||
  g.priv && g.rplq.any (fun r => r.valid && (match decode r.word r.ext with
    | .instr (.accld o) _ | .instr (.accst o) _ => fs.contains o.d.toNat
    | _ => false))

/-- A group of the current group's panel has an ACCLD or ACCST outstanding on a frame (R337). -/
def frameInFlight (s : State) (fs : List Nat) : Bool :=
  (allGroups s).any (fun g => g.live && g.panel == s.g.panel && usesFrames fs g)

/-! Acceptance. -/

/-- A matrix operation with nothing captured. -/
def opOf (kind : MatKind) (o : Opnd) (s : State) : MatOp :=
  { kind := kind, d := o.d.toNat, a := o.a.toNat, b := o.b.toNat, tctlA := 0, tctlB := 0, sel := 0, scale := 0, desc := []
    off := 0, k := 0, rm := 0, priv := s.g.priv, paused := none, done := false, mstat := 0, slst := 0, bound := none
    vecs := 0, elems := 0, big := none, bad := false, seeds := [] }

/-- The matrix operand fault (Table 8-8) with the lowest sub-code of Table 5-6 that holds. -/
def matFault (l : List (Nat × Bool)) : Option TrapInfo :=
  (l.find? (·.2)).map (fun e => { cause := 0x09, sub := e.1 })

/-- The bounds faults of the ranges an operation names, in order. -/
def rangeFaults (m : MatOp) (s : State) : List (Option TrapInfo) :=
  (matRanges m).map (fun r => rangeFault r.off (if r.rows = 0 then 0 else (r.rows - 1) * r.stride + r.len) s)

/-- The group has sixteen operations that the arrays have not performed (R149). -/
def opsFull (g : Group) : Bool := decide (16 ≤ ((allOps g).filter (fun x => !x.done)).length)

/-- The tack table of the core has no room for the ranges of an operation (R154, R234). -/
def noTacks (m : MatOp) (s : State) : Bool := decide (64 < (tacksOf s s.g.core).length + (matRanges m).length)

/-- Accept a matrix operation once its checks pass (R148, R149, R154): the limit of sixteen stalls the issue slot, a full tack table the
group. -/
def acceptOp (bad : List (Nat × Bool)) (m : MatOp) (s : State) : Res (Option W64) :=
  (firstTrap (matFault bad :: rangeFaults m s) s).bind fun _ s1 =>
  if frameInFlight s1 (framesOf m) then .stall s1 else
  (match (if opsFull s1.g then waitOps [s1.g.id] (fun _ => true) s1 else .ok () s1) with
   | .stall s2 => (.stall (holdSlot s2) : Res Unit)
   | r => r).bind fun _ s2 =>
  (if noTacks m s2 then waitOps [s2.g.id] (fun x => !(matRanges x).isEmpty) s2 else .ok () s2).bind fun _ s3 =>
  if noTacks m s3 then .stall s3
  else .ok none (onG (fun g => { g with openSet := g.openSet ++ [m] }) s3)

/-- The accepted operand combinations (Table 5-2). -/
def comboOk (a b sel : Nat) : Bool :=
  (decide ((a = 2 ∨ a = 3) ∧ (b = 2 ∨ b = 3)) && decide (sel ≤ 1)) ||
  (a == b && ((a == 4 && (sel == 1 || sel == 2)) || (a == 0 && decide (sel ≤ 1)) || ((a == 1 || a == 5) && sel == 3) ||
    ((a == 6 || a == 7) && sel == 0)))

/-- MMA, MMAX and MMAZ as they issue (R139, R141, R143, R148, R382). -/
def mmaBody (kind : MatKind) (o : Opnd) (s : State) : Res (Option W64) :=
  let ta := rdTctl s o.a.toNat
  let tb := rdTctl s o.b.toNat
  let p := parOf o
  let sel := p.sel.toNat
  let sc := if sel = 0 then 0 else rdS s (p.val.toNat % 64)
  let x := kind == .mmax
  acceptOp
    [ (1, !comboOk (tcTT ta) (tcTT tb) sel),
      (2, decide ((if x then tcRows tb else tcCols tb) ≠ tcCols ta)),
      (3, x && decide (64 < tcCols tb)),
      (4, sel != 0 && decide (fld sc 21 11 ≠ 0 ∨ fld sc 53 11 ≠ 0)) ]
    { opOf kind o s with tctlA := ta, tctlB := tb, sel := sel, scale := sc } s

/-- MMA. -/
def execMma (o : Opnd) (s : State) : Out := runI (.mma o) s (mmaBody .mma o)
/-- MMAX. -/
def execMmax (o : Opnd) (s : State) : Out := runI (.mmax o) s (mmaBody .mmax o)
/-- MMAZ. -/
def execMmaz (o : Opnd) (s : State) : Out := runI (.mmaz o) s (mmaBody .mmaz o)

/-- XSCAN as it issues (R155, R430). -/
def xscanBody (o : Opnd) (s : State) : Res (Option W64) :=
  let a := o.a.toNat
  let d0 := rdS s a
  let d1 := rdS s (a + 1)
  let d2 := rdS s (a + 2)
  let d3 := rdS s (a + 3)
  let esz := if bit d2 37 then 4 else 8
  acceptOp
    [ (4, decide (fld d0 57 6 ≠ 0 ∨ fld d1 21 43 ≠ 0 ∨ fld d2 38 26 ≠ 0 ∨ fld d3 40 24 ≠ 0 ∨ fld d2 0 12 = 0 ∨
        fld d2 12 25 = 0 ∨ 2 ^ 24 < fld d2 12 25 ∨ fld d0 0 57 % esz ≠ 0 ∨ fld d1 0 21 % 2 ≠ 0 ∨ fld d3 0 40 % esz ≠ 0)) ]
    { opOf (if (parOf o).sel = 0 then .xscanRow else .xscanCol) o s with desc := [d0, d1, d2, d3] } s

/-- XSCAN. -/
def execXscan (o : Opnd) (s : State) : Out := runI (.xscan o) s (xscanBody o)

/-- SLMM as it issues (R139, R157, R406). -/
def slmmBody (o : Opnd) (s : State) : Res (Option W64) :=
  let ta := rdTctl s o.a.toNat
  let tb := rdTctl s o.b.toNat
  let v := (parOf o).val.toNat
  let se := rdS s (v / 16 % 64)
  acceptOp
    [ (1, decide (tcTT ta < 8 ∨ tcTT tb < 8)),
      (2, decide (tcCols tb ≠ tcCols ta)),
      (3, decide (32 < tcRows ta ∨ 32 < tcRows tb)),
      (4, decide (fld se 21 11 ≠ 0 ∨ fld se 53 11 ≠ 0)) ]
    { opOf .slmm o s with tctlA := ta, tctlB := tb, scale := se, k := v % 16 } s

/-- SLMM. -/
def execSlmm (o : Opnd) (s : State) : Out := runI (.slmm o) s (slmmBody o)

/-- WRND as it issues (R162, R429). -/
def wrndBody (kind : MatKind) (o : Opnd) (s : State) : Res (Option W64) :=
  let off := (rdS s o.a.toNat + dispOf o).toNat
  acceptOp [(5, decide (off % (if kind = .wrndF64 then 8 else 4) ≠ 0))]
    { opOf kind o s with off := off, rm := BitVec.ofNat 3 (fld s.g.gmode 10 3) } s

/-- WRND.F64. -/
def execWrnd (o : Opnd) (s : State) : Out := runI (.wrnd o) s (wrndBody .wrndF64 o)
/-- WRND.F32. -/
def execWrndF32 (o : Opnd) (s : State) : Out := runI (.wrndF32 o) s (wrndBody .wrndF32 o)

end Sys2Proof.Machine
end

