-- ==== Sys2Proof/Machine/Complete.lean ====
section
/-! DEFINITION. The dispatcher's records and completions (01 R28 to R36, 06 R195, 07 R221, 08 R246, 09 R278): taking a launch
record, releasing a bolt, completing a panel, its bolt and a pass. -/

namespace Sys2Proof.Machine

/-! Records of the dispatcher. -/

/-- A record about a queue and no bolt, from IOD0; BID and WHERE are open (Table 8-12, log 16). -/
def queueRec (s : State) (n type cause sub : Nat) (addr : W64) (c : Nat) : EvRec :=
  { type := type, cause := cause, sub := sub, queue := n, die := 8, code := 0, bid := Config.freeW64 s.free 2, addr := addr
    where_ := Config.freeW64 s.free 0 &&& 0x7FFF_FFFF_FFFF_FFFF, ctx := c, grp := none }

/-- The lowest queue that a context owns, whose number a record about the context and no group carries (R274). -/
def ctxQueue (s : State) (c : Nat) : Nat := ((List.range 16).find? (fun n => fld (rdWin s (queueReg n 0x10)) 2 4 == c)).getD 0

/-- The queue halts: EN goes to 0 and a launch error is posted (R246). -/
def haltQueue (n code : Nat) (addr : W64) (s : State) : State :=
  let q := rdWin s (queueReg n 0x10)
  bump (postRec (queueRec s n 1 code 0 addr (fld q 2 4)) (wrWin s (queueReg n 0x10) (setFld q 0 1 0)))

/-- A fault that the dispatcher meets at a queue's own memory: the queue halts with code 0x0A; a cause that is fatal to a context
is fatal to the queue's (R246, Table 8-8). -/
def queueFault (n c : Nat) (f : Nat × Nat) (addr : W64) (s : State) : State :=
  if 0x20 ≤ f.1 then killCtx c (bump (postRec (queueRec s n 3 f.1 f.2 addr c) s)) else haltQueue n 0x0A addr s

/-- The code of R30 for a record's words, the lowest that holds; the mapping of the ARGS byte is not among them. -/
def recordCode (w : List W64) : Option Nat :=
  let x (i : Nat) : W64 := w.getD i 0
  let grid := x 2
  let ndep := fld (x 6) 0 3
  if gridX grid = 0 ∨ gridY grid = 0 ∨ gridZ grid = 0 then some 0x01
  else if gridLanes grid = 0 ∨ 64 < gridLanes grid then some 0x02
  else if fld grid 59 5 ≠ 0 ∨ fld (x 3) 24 40 ≠ 0 ∨ fld (x 6) 3 61 ≠ 0 ∨ x 15 ≠ 0 then some 0x03
  else if 4 < ndep then some 0x04
  else if (x 0).toNat % 4 ≠ 0 ∨ (x 4).toNat % 8 ≠ 0 ∨ ((List.range ndep).any (fun i => (x (7 + 2 * i)).toNat % 8 != 0)) = true then
    some 0x05
  else if partOk (x 3) (gridGroups grid) = false then some 0x06
  else none

/-- The die that homes the ARGS byte (R48), or the cause of the fault that its mapping meets. -/
def argsDie (c : Nat) (va : W64) (s : State) : (Nat ⊕ (Nat × Nat)) × State :=
  if !canonical va then (.inr (0x03, 0), s) else
  match xlate s (iodWho s c) va with
  | (.leaf pte base _ _, s1) =>
    match (physOf s1 0 pte base (va.toNat % 2 ^ 57)).1 with
    | some p => (.inl (homeDie p), s1)
    | none => (.inr (0x22, 0), s1)
  | (.fault, s1) => (.inr (0x05, 1), s1)
  | (.format, s1) => (.inr (0x21, 0), s1)
  | (.poison sub, s1) => (.inr (0x28, sub), s1)

/-- The bolt of a record. DESIGN CHOICE (log 118): its class is the PRIO of its queue as the record is taken (R57). -/
def boltOf (s : State) (n seq c die : Nat) (addr : W64) (w : List W64) : Bolt :=
  let x (i : Nat) : W64 := w.getD i 0
  let q := rdWin s (queueReg n 0x10)
  let ndep := fld (x 6) 0 3
  { queue := n, seq := seq, ctx := c, die := die, addr := addr, prio := BitVec.ofNat 2 (fld q 6 2), ccls := BitVec.ofNat 2 (fld q 8 2)
    entry := x 0, args := x 1, grid := x 2, part := x 3, doneAddr := x 4, doneVal := x 5
    deps := (List.range ndep).map (fun i => (x (7 + 2 * i), x (8 + 2 * i)))
    released := ndep == 0, placed := 0, completed := 0, starved := false, failed := false, clusters := [] }

/-- Refuse a record or a bolt with a launch error (R30). -/
def refuseBolt (b : Bolt) (code : Nat) (s : State) : State := bump (postRec (boltRec s b 1 code 0 b.addr) s)

/-- A taken record is checked, and becomes the queue's bolt (R28, R30, R48). -/
def admitRecord (n seq c : Nat) (addr : W64) (w : List W64) (s : State) : State :=
  match recordCode w with
  | some code => refuseBolt (boltOf s n seq c 0 addr w) code s
  | none =>
    match argsDie c (w.getD 1 0) s with
    | (.inl die, s1) => { s1 with bolts := s1.bolts ++ [boltOf s1 n seq c die addr w] }
    | (.inr f, s1) =>
      if 0x20 ≤ f.1 then killCtx c (bump (postRec (boltRec s1 (boltOf s1 n seq c 0 addr w) 3 f.1 f.2 (w.getD 1 0)) s1))
      else refuseBolt (boltOf s1 n seq c 0 addr w) 0x07 s1

/-- DISPATCH_TAKE_RECORD (R246, R242, R248): the dispatcher reads the counts, then the record, raises HEAD and checks the
record. -/
def takeRecord (n : Nat) (s : State) : State :=
  let q := rdWin s (queueReg n 0x10)
  let c := fld q 2 4
  if !bit q 0 || !bit (rdWin s (ctxReg c 0)) 63 || (curBolt s n).isSome || queueHeld s n then s else
  let pair := ctlPair s n
  if pair.toNat % 16 ≠ 0 then haltQueue n 0x0A pair s else
  match devLoad8s s c 0 pair 2 with
  | (.inr e, s1) => queueFault n c e.1 e.2 s1
  | (.inl l, s1) =>
    let tail := (l.getD 0 0).toNat
    let head := (l.getD 1 0).toNat
    if tail < head ∨ head + 2 ^ ringLog s1 n < tail then haltQueue n 0x09 (Config.freeW64 s1.free 1) s1
    else if tail = head then s1
    else
      let slot := ringSlot s1 n head
      if slot.toNat % 128 ≠ 0 then haltQueue n 0x0A slot s1 else
      match devLoad8s s1 c 0 slot 16 with
      | (.inr e, s2) => queueFault n c e.1 e.2 s2
      | (.inl w, s2) =>
        match devStore s2 c 0 (pair + 8) (bytesOf 8 (head + 1)) with
        | (some f, s3) => queueFault n c f (pair + 8) s3
        | (none, s3) => admitRecord n (head % 2 ^ 32) c slot w s3

/-- Dependence words read in turn: whether each reaches its value, or the first fault (R32). DESIGN CHOICE (log 117): all of them at one
reading. -/
def depsMet (c die : Nat) : List (W64 × W64) → State → (Bool ⊕ ((Nat × Nat) × W64)) × State
  | [], s => (.inl true, s)
  | (a, v) :: r, s =>
    match devLoad s c die 8 a with
    | (.inr f, s1) => (.inr (f, a), s1)
    | (.inl bs, s1) => if natOf bs < v.toNat then (.inl false, s1) else depsMet c die r s1

/-- DEPENDENCE_RELEASE (R32, R33): the dispatcher reads the dependence words of a queue's bolt. -/
def releaseBolt (n : Nat) (s : State) : State :=
  match (curBolt s n).filter (fun b => !b.released) with
  | none => s
  | some b =>
    let gone (a : State) : State := { a with bolts := a.bolts.filter (fun x => !isBolt b.queue b.seq x) }
    match depsMet b.ctx b.die b.deps s with
    | (.inl true, s1) => { s1 with bolts := s1.bolts.map (fun x => if isBolt b.queue b.seq x then { x with released := true } else x) }
    | (.inl false, s1) => s1
    | (.inr (f, a), s1) =>
      if 0x20 ≤ f.1 then killCtx b.ctx (bump (postRec (boltRec s1 b 3 f.1 f.2 a) (gone s1))) else refuseBolt b 0x0B (gone s1)

/-- A queue whose bolt waits for dependences that are all satisfied now: the dispatcher misses no write that satisfies one (R33), so the
release comes before anything else. -/
def dueRelease (s : State) : Option Nat :=
  if s.bolts.all (·.released) then none else
  (List.range 16).find? (fun n =>
    match (curBolt s n).filter (fun b => !b.released) with
    | none => false
    | some b => (depsMet b.ctx b.die b.deps s).1 == .inl true)

/-! Completion. -/

/-- A completion store through a context's tables (R34, R36): one that faults writes nothing, and a record of type 6 names it; a
cause that Table 8-8 makes fatal also kills the context. DESIGN CHOICE (log 100): no record of type 3 is posted beside that of type 6. -/
def completionStore (b : Bolt) (va : W64) (bs : List Byte) (s : State) : State :=
  match devStore s b.ctx b.die va bs with
  | (none, s1) => s1
  | (some f, s1) =>
    let s2 := bump (postRec (boltRec s1 b 6 f.1 f.2 va) s1)
    if 0x20 ≤ f.1 then killCtx b.ctx s2 else s2

/-- The A and D settings of TLB entries that satisfy a test are written to their tables (R195, R196). -/
def writeTlbAd (p : TlbEntry → Bool) (s : State) : State :=
  let s1 := (s.tlb.filter p).foldl writeAd s
  { s1 with tlb := s1.tlb.map (fun e =>
      if p e then { e with aDone := e.aDone || e.a, dDone := e.dDone || e.d, a := false, d := false } else e) }

/-- Every panel of a bolt has completed (R34, R195, R221): the TLBs' A and D are written, the clusters that ran it write back
their dirty words, and then the completion word is written; a bolt that lost a panel writes none (R35). -/
def finishBolt (b : Bolt) (s : State) : State :=
  let s1 := { s with bolts := s.bolts.filter (fun x => !isBolt b.queue b.seq x) }
  let s2 := writeTlbAd (fun e => e.ctx == ctxTag s1 b.ctx) s1
  let s3 := b.clusters.foldl (fun a c => writeBack a c allLines) s2
  if b.failed || b.doneAddr == 0 then s3 else completionStore b b.doneAddr (bytesOf 8 b.doneVal.toNat) s3

/-- Finish the bolts whose panels have all completed. -/
def finishBolts (s : State) : State :=
  (s.bolts.filter (fun b => decide (boltPanels b ≤ b.completed))).foldl (fun a b => finishBolt b a) s

/-- Every group of a panel has exited, and its commands and matrix operations are done (R34). -/
def panelDone (s : State) (id : Nat) : Bool :=
  (panelGroups s id).all (fun g => g.exited && (allOps g).all (·.done)) && !s.cmds.any (fun c => c.panel == id)

/-- PANEL_COMPLETE (R34): the panel's partition and save record are freed, and its bolt may complete. -/
def completePanel (id : Nat) (s : State) : State :=
  match panelOf s id with
  | none => s
  | some p =>
    if !panelDone s id then s else
    let s1 := freePanelStore (removeGroups (fun g => g.panel == id) { s with panels := s.panels.filter (fun x => x.id != id) }) id
    finishBolts { s1 with bolts := s1.bolts.map (fun x =>
      if p.bolt = some (x.queue, x.seq) then { x with completed := x.completed + 1 } else x) }

/-- A live fragment group of a pass. -/
def ofPass (p : Pass) (g : Group) : Bool :=
  g.live && g.ctx == p.ctx && (match g.frag with | some f => f.die == p.die && f.args == p.args | none => false)

/-- The bolt that a pass's completion stores are made for (R36): only what its record names. -/
def passBolt (p : Pass) : Bolt :=
  { queue := fld p.bolt 32 4, seq := fld p.bolt 0 32, ctx := p.ctx, die := p.die, addr := 0, prio := p.prio, ccls := p.ccls, entry := 0
    args := p.args, grid := 0, part := 0, doneAddr := p.desc.getD 8 0, doneVal := p.desc.getD 9 0, deps := [], released := true
    placed := 0, completed := 0, starved := false, failed := false, clusters := [] }

/-- PASS_COMPLETE (R278): CLOSE is set at the home, every primitive is rasterised and every fragment group has completed. COUNT
is written, DONE set, and then DONEVAL as a release at .SYS. -/
def completePass (die ctx : Nat) (args : W64) (s : State) : State :=
  match s.passes.find? (isPass die ctx args) with
  | none => s
  | some p =>
    if !p.prims.isEmpty || (allGroups s).any (ofPass p) then s else
    match devLoad s ctx die 8 args with
    | (.inr _, s1) => s1
    | (.inl bs, s1) =>
      let ctl := natOf bs
      if ctl % 2 = 0 then s1 else
      let b := passBolt p
      let s2 := (l1Clusters s1).foldl (fun a c => writeBack a c allLines)
        { s1 with passes := s1.passes.filter (fun x => !isPass die ctx args x) }
      let s3 := completionStore b (args + 0x50) (bytesOf 8 (p.accepted + p.culled * 2 ^ 32)) s2
      let s4 := completionStore b args (bytesOf 8 (ctl ||| 2)) s3
      if b.doneAddr = 0 then s4 else completionStore b b.doneAddr (bytesOf 8 b.doneVal.toNat) s4

end Sys2Proof.Machine
end

