-- ==== Sys2Proof/Machine/Rays.lean ====
section
/-! DEFINITION. The ray engines at work (09 R302 to R305): nodes and leaves, exact hits, the result records and their
delivery. -/

namespace Sys2Proof.Machine

/-- A point or direction. -/
structure Vec3 where
  x : Rat
  y : Rat
  z : Rat
  deriving DecidableEq, Repr

def vsub3 (a b : Vec3) : Vec3 := ⟨a.x - b.x, a.y - b.y, a.z - b.z⟩
def dot3 (a b : Vec3) : Rat := a.x * b.x + a.y * b.y + a.z * b.z
def cross3 (a b : Vec3) : Vec3 := ⟨a.y * b.z - a.z * b.y, a.z * b.x - a.x * b.z, a.x * b.y - a.y * b.x⟩

/-- Three FP32 words as a point; none when one of them is not finite. -/
def point3 (x y z : W32) : Option Vec3 :=
  match finiteOf x, finiteOf y, finiteOf z with
  | some a, some b, some c => some ⟨a, b, c⟩
  | _, _, _ => none

/-- A ray that can hit: `hi` is none for no upper limit (R303). -/
structure Ray where
  o  : Vec3
  d  : Vec3
  lo : Rat
  hi : Option Rat
  deriving DecidableEq, Repr

/-- The limits of a ray: a negative tmin acts as 0; none when no t lies within them. -/
def rayLimits (tmin tmax : FVal) : Option (Rat × Option Rat) :=
  if tmin.isNaN || tmax.isNaN || ltF tmax tmin then none else
  match tmin with
  | .inf false => none
  | _ =>
    let lo := match tmin with
      | .fin false m => m
      | _ => 0
    match tmax with
    | .inf false => some (lo, none)
    | .inf true => none
    | x => if x.toRat < lo then none else some (lo, some x.toRat)

/-- The ray of eight words; none when it misses whatever the tree holds (R303). -/
def rayOf (w : List W32) : Option Ray :=
  let f (i : Nat) : W32 := w.getD i 0
  match point3 (f 0) (f 1) (f 2), point3 (f 4) (f 5) (f 6), rayLimits (v32 (f 3)) (v32 (f 7)) with
  | some o, some d, some l => if d.x = 0 ∧ d.y = 0 ∧ d.z = 0 then none else some ⟨o, d, l.1, l.2⟩
  | _, _, _ => none

/-! Boxes. -/

/-- The part of [lo, hi] in which one coordinate of the ray lies in [a, b]. -/
def slab (o d a b : Rat) (x : Option (Rat × Option Rat)) : Option (Rat × Option Rat) :=
  x.bind fun (lo, hi) =>
    if d = 0 then (if a ≤ o ∧ o ≤ b then some (lo, hi) else none) else
    let t := (a - o) / d
    let u := (b - o) / d
    let t0 := if t ≤ u then t else u
    let t1 := if t ≤ u then u else t
    let lo1 := if lo < t0 then t0 else lo
    let hi1 := match hi with
      | some h => if t1 < h then t1 else h
      | none => t1
    if lo1 ≤ hi1 then some (lo1, some hi1) else none

/-- Byte `i` of a node. -/
def nodeByte (n : List Byte) (i : Nat) : Nat := (n.getD i 0).toNat

/-- A word of a node. -/
def nodeWord (n : List Byte) (off : Nat) : W32 := BitVec.ofNat 32 (natOf ((n.drop off).take 4))

/-- Child `c` of an interior node is valid (R302). -/
def childValid (n : List Byte) (c : Nat) : Bool := decide (nodeByte n (16 + 6 * c) ≤ nodeByte n (19 + 6 * c))

/-- The ray meets the box of child `c` (R302); a node whose origin is not finite has no boxes. -/
def childMet (n : List Byte) (r : Ray) (c : Nat) : Bool :=
  match point3 (nodeWord n 0) (nodeWord n 4) (nodeWord n 8) with
  | none => false
  | some p =>
    let sc := pow2 (sextNat 8 (nodeByte n 12))
    let lo (k : Nat) : Rat := (nodeByte n (16 + 6 * c + k) : Nat) * sc
    let hi (k : Nat) : Rat := ((nodeByte n (19 + 6 * c + k) + 1 : Nat) : Rat) * sc
    (slab r.o.z r.d.z (p.z + lo 2) (p.z + hi 2)
      (slab r.o.y r.d.y (p.y + lo 1) (p.y + hi 1)
        (slab r.o.x r.d.x (p.x + lo 0) (p.x + hi 0) (some (r.lo, r.hi))))).isSome

/-- The valid children of a node with their places and whether they are nodes, stored one after another (R302). -/
def childPlaces (n : List Byte) (va : Nat) : List (Nat × Nat × Bool) :=
  let base := va + 64 * (nodeByte n 14 + 256 * nodeByte n 15)
  (indexed 0 ((List.range 8).filter (childValid n))).map (fun e =>
    (e.2, (base + 64 * e.1) % 2 ^ 64, (nodeByte n 13).testBit e.2))

/-! Hits. -/

/-- A hit: t, u, v exactly, and word 3 of the record. -/
structure RayHit where
  t : Rat
  u : Rat
  v : Rat
  w : Nat
  deriving DecidableEq, Repr

/-- The hit of one triangle (R303); a triangle that runs clockwise as seen from the origin has its normal along the ray. -/
def triHit (r : Ray) (cull : Bool) (a b c : Vec3) (w : Nat) : Option RayHit :=
  let e1 := vsub3 b a
  let e2 := vsub3 c a
  let dn := dot3 r.d (cross3 e1 e2)
  if dn = 0 ∨ (cull = true ∧ 0 < dn) then none else
  let p := cross3 r.d e2
  let det := dot3 e1 p
  let tv := vsub3 r.o a
  let q := cross3 tv e1
  let u := dot3 tv p / det
  let v := dot3 r.d q / det
  let t := dot3 e2 q / det
  let below := match r.hi with
    | some h => decide (t ≤ h)
    | none => true
  if 0 ≤ u ∧ 0 ≤ v ∧ u + v ≤ 1 ∧ r.lo ≤ t ∧ below = true then some ⟨t, u, v, w⟩ else none

/-- The hits of a leaf (R302, R303). -/
def leafHits (n : List Byte) (r : Ray) (cullb : Bool) : List RayHit :=
  let q (k : Nat) : Option Vec3 := point3 (nodeWord n (12 * k)) (nodeWord n (12 * k + 4)) (nodeWord n (12 * k + 8))
  let id := (nodeWord n 48).toNat % 2 ^ 31
  let fl := nodeByte n 52
  let cull := cullb && !fl.testBit 1
  let tri (i j k : Nat) (w : Nat) : Option RayHit :=
    match q i, q j, q k with
    | some a, some b, some c => triHit r cull a b c w
    | _, _, _ => none
  (tri 0 1 2 (2 * id)).toList ++ (if fl.testBit 0 then (tri 3 2 1 (2 * id + 1)).toList else [])

/-- Visit the nodes and leaves that the ray's boxes lead to: each place once, `todo` holds those to come with whether they are
nodes. -/
def visitTree (w : Who) (panel : Nat) (r : Ray) (cullb : Bool) :
    Nat → List (Nat × Bool) → List (Nat × Bool) → List RayHit → State → Eng (List RayHit)
  | 0, _, _, hits, s => .ok hits s
  | n + 1, todo, seen, hits, s =>
    match todo with
    | [] => .ok hits s
    | x :: rest =>
      if seen.contains x then visitTree w panel r cullb n rest seen hits s else
      (engRead w panel false 64 x.1 s).bind fun bs s1 =>
        if x.2 then
          let next := ((childPlaces bs x.1).filter (fun c => childMet bs r c.1)).map (fun c => c.2)
          visitTree w panel r cullb n (next ++ rest) (x :: seen) hits s1
        else visitTree w panel r cullb n rest (x :: seen) (hits ++ leafHits bs r cullb) s1

/-- The nearest hit; of equal ones the smallest word 3 (R303). -/
def nearestHit : List RayHit → Option RayHit
  | [] => none
  | h :: r =>
    match nearestHit r with
    | none => some h
    | some k => if k.t < h.t ∨ (k.t = h.t ∧ k.w < h.w) then some k else some h

/-- The result of a ray among its hits: the nearest, or with ANYHIT any of them (R303; log 14). -/
def chooseHit (any : Bool) (hits : List RayHit) (s : State) : Option RayHit :=
  if any then hits[Config.choose s.free 0 % hits.length]? else nearestHit hits

/-- FP32 of an exact value, rounded once. -/
def ratF32 (x : Rat) : W32 := BitVec.ofNat 32 (roundSigned f32 .ne false x).bits

/-- The 32-byte record (R303). -/
def rayRecord (h : Option RayHit) (user : List W32) : List Byte :=
  let head : List W32 := match h with
    | some k => [ratF32 k.t, ratF32 k.u, ratF32 k.v, BitVec.ofNat 32 k.w]
    | none => [0x7F80_0000, 0, 0, 0]
  (head ++ (List.range 4).map (fun i => user.getD i 0)).flatMap (fun x => bytesOf 4 x.toNat)

/-! Delivery. -/

/-- The rays still to be delivered without the one at an index. -/
def dropRay (id i : Nat) (s : State) : State :=
  onCmd id (fun c => { c with kind := match c.kind with
    | .ray bob d rs => .ray bob d (rs.take i ++ rs.drop (i + 1))
    | k => k }) s

/-- Write words of a record in turn for an engine; the lines written. -/
def engWords (w : Who) (panel : Nat) : Nat → Nat → List Byte → Swatch → State → Eng Swatch
  | 0, _, _, sw, s => .ok sw s
  | n + 1, a, bs, sw, s =>
    (engWrite w panel false (a % 2 ^ 64) (bs.take 4) s).bind fun x s1 => engWords w panel n (a + 4) (bs.drop 4) (sw ||| x) s1

/-- Deliver one record (R304): to scratchpad, or into a slot that is then committed to its bin with a release at .DIE. -/
def deliverRay (c : Cmd) (bob : Bool) (d : List W64) (r : RayLane) (h : Option RayHit) (s : State) : Eng Unit :=
  let rec_ := rayRecord h r.user
  if !bob then
    let s1 := scrWrite s c.panel (fld (d.getD 3 0) 0 21 + 32 * r.lane) rec_
    .ok () (countCmd c 32 s1)
  else
    let entry := if h.isSome then d.getD 1 0 else d.getD 2 0
    if h.isNone && entry == 0 then .ok () s else
    let die := coreDie c.core
    let g := (cmdGroup s c).getD Group.empty
    let base := (sext57 (fld (cget zero s.spnbase die) 0 57)).toNat + r.slot
    (engWords (cmdWho s c) c.panel 8 base rec_ 0 s).bind fun x s0 =>
      let w := pendingSw g 3 ||| x
      let s1 := onGroup c.grp (clearPending 3) s0
      let s2 := writeBack (onCmd c.id (fun y => { y with lines := y.lines ||| x }) s1) (c.core / 4) (fun l => swatchHit w l)
      .ok () (commitRec die (panelCtx s2 c.panel) entry r.slot g.prio g.ccls w s2)

/-- The rays of a command that are still to be delivered. -/
def raysLeft (id : Nat) (s : State) : List RayLane :=
  match s.cmds.find? (fun x => x.id == id) with
  | some c => match c.kind with
    | .ray _ _ rs => rs
    | _ => []
  | none => []

/-- Cast and deliver the rays of a command, at most `n`; of those left any may finish next (R305, R391; log 14). -/
def castRays (c : Cmd) (bob : Bool) (d : List W64) : Nat → State → Eng Unit
  | 0, s => .ok () s
  | n + 1, s =>
    match raysLeft c.id s with
    | r :: rs =>
      let all := r :: rs
      let i := Config.choose s.free 1 % all.length
      let r1 := all.getD i r
      let s1 := bump s
      let cullb := bit (d.getD 3 0) 39
      (match rayOf r1.ray with
        | none => (.ok [] s1 : Eng (List RayHit))
        | some ray => visitTree (cmdWho s1 c) c.panel ray cullb (2 ^ 57) [((d.getD 0 0).toNat, true)] [] [] s1).bind fun hits s2 =>
      (deliverRay c bob d r1 (chooseHit (bit (d.getD 3 0) 38) hits s2) s2).bind fun _ s3 =>
      castRays c bob d n (cleanBins (dropRay c.id i (bump s3)))
    | [] => .ok () s

/-- A ray command runs to its end, or until it pauses (R304, R305). -/
def runRays (c : Cmd) (s : State) : State :=
  match c.kind with
  | .ray bob d rays =>
    if waits s c then s else
    match castRays c bob d rays.length s with
    | .ok _ s1 =>
      let lines := ((s1.cmds.find? (fun x => x.id == c.id)).map (·.lines)).getD 0
      cleanBins (finishCmd c lines s1)
    | r => engineStop c r
  | _ => s

end Sys2Proof.Machine
end

