-- ==== Sys2Proof/Machine/Raster.lean ====
section
/-! DEFINITION. The rasteriser and fragment groups (09 R281 to R285): clipping, screen positions, culling, coverage, the rate
image, and the state a fragment group starts with. Positions are exact values, which may be infinite; snapped screen positions are
integers in units of 1/256 pixel, with y growing downward. -/

namespace Sys2Proof.Machine

/-! Clipping. -/

/-- A clip-space position with the weights of vertices 1 and 2 of the primitive. -/
structure ClipVert where
  x  : FVal
  y  : FVal
  z  : FVal
  w  : FVal
  b1 : Rat
  b2 : Rat
  deriving DecidableEq, Repr

/-- A vertex record's position; none when a word is not a number. -/
def clipVert (words : List W32) (b1 b2 : Rat) : Option ClipVert :=
  let c (i : Nat) : FVal := v32 (words.getD i 0)
  if (c 0).isNaN || (c 1).isNaN || (c 2).isNaN || (c 3).isNaN then none else some ⟨c 0, c 1, c 2, c 3, b1, b2⟩

/-- A value is above zero, or below it. -/
def above (x : FVal) : Bool := ltF (xrat 0) x
def below (x : FVal) : Bool := ltF x (xrat 0)

/-- The point between two positions at which a linear function vanishes, each coordinate mixed by its share (log 101). -/
def crossing (f : ClipVert → FVal) (a b : ClipVert) : ClipVert :=
  let t := xdiv (f a) (xadd (f a) (f b).flip)
  let mix (p q : FVal) : FVal := xadd (xmul (xcompl t) p) (xmul t q)
  let share (p q : Rat) : Rat := p + t.toRat * (q - p)
  ⟨mix a.x b.x, mix a.y b.y, mix a.z b.z, mix a.w b.w, share a.b1 b.b1, share a.b2 b.b2⟩

/-- Keep the part of a polygon in which a linear function is not negative. -/
def clipBy (f : ClipVert → FVal) (l : List ClipVert) : List ClipVert :=
  (l.zip (l.drop 1 ++ l.take 1)).flatMap (fun e =>
    (if below (f e.1) then [] else [e.1]) ++
    (if (below (f e.1) && above (f e.2)) || (above (f e.1) && below (f e.2)) then [crossing f e.1 e.2] else []))

/-- The triangle clipped to W > 0, its edge with it, and 0 ≤ Z ≤ W (R281). -/
def clipTriangle (l : List ClipVert) : List ClipVert :=
  clipBy (fun v => xadd v.w v.z.flip) (clipBy (fun v => v.z) (clipBy (fun v => v.w) l))

/-! Screen positions. -/

/-- A snapped screen position with its depth, 1/W and the weights of vertices 1 and 2; the depth and 1/W of a corner at W = 0 are no
numbers. -/
structure ScreenVert where
  x  : Int
  y  : Int
  z  : Option Rat
  iw : Option Rat
  b1 : Rat
  b2 : Rat
  deriving DecidableEq, Repr

/-- A coordinate rounded to a multiple of 1/256 pixel and clipped to magnitude 2^15; none for what is not a number (R281). -/
def snap (x : FVal) : Option Int :=
  match x with
  | .nan .. => none
  | .inf neg => some (if neg then -8388608 else 8388608)
  | .fin .. => some (clampInt (-8388608) 8388608 (roundInt .ne (x.toRat * 256)).1)

/-- A finite value as a number. -/
def finiteRat (x : FVal) : Option Rat :=
  match x with
  | .fin .. => some x.toRat
  | _ => none

/-- The screen position of a clipped vertex (R281): one on the edge W = 0 lies at infinity; none where a position is not a number. -/
def screenVert (width height : Nat) (v : ClipVert) : Option ScreenVert :=
  let w := if v.w.isZero then xrat 0 else v.w
  let half (n : Nat) : FVal := xrat (mkRat (n : Int) 2)
  match snap (xmul (xadd (xdiv v.x w) (xrat 1)) (half width)), snap (xmul (xcompl (xdiv v.y w)) (half height)) with
  | some x, some y => some ⟨x, y, finiteRat (xdiv v.z w), finiteRat (xdiv (xrat 1) w), v.b1, v.b2⟩
  | _, _ => none

/-- Every element, or none when one is missing. -/
def allSome {α : Type} : List (Option α) → Option (List α)
  | [] => some []
  | x :: r =>
    match x, allSome r with
    | some a, some l => some (a :: l)
    | _, _ => none

/-- A triangle of screen positions. -/
abbrev Piece := ScreenVert × ScreenVert × ScreenVert

/-- Twice the signed area of the triangle of two positions and a point: positive for a clockwise turn on screen. -/
def turn (a b : ScreenVert) (px py : Int) : Int := (b.x - a.x) * (py - a.y) - (b.y - a.y) * (px - a.x)

/-- Twice the signed area of a piece. -/
def pieceArea (t : Piece) : Int := turn t.1 t.2.1 t.2.2.x t.2.2.y

/-- The fan of a polygon. -/
def fanOf : List ScreenVert → List Piece
  | a :: r => (r.zip (r.drop 1)).map (fun e => (a, e.1, e.2))
  | [] => []

/-- A point lies on the inner side of an edge of a clockwise triangle, or on the edge where it is a top or left one (R282). -/
def edgeIn (a b : ScreenVert) (px py : Int) : Bool :=
  let e := turn a b px py
  decide (0 < e) || (e == 0 && (decide (b.y < a.y) || (b.y == a.y && decide (a.x < b.x))))

/-- A piece covers a point. -/
def pieceCovers (t : Piece) (px py : Int) : Bool :=
  let ar := pieceArea t
  if ar = 0 then false
  else if 0 < ar then edgeIn t.1 t.2.1 px py && edgeIn t.2.1 t.2.2 px py && edgeIn t.2.2 t.1 px py
  else edgeIn t.1 t.2.2 px py && edgeIn t.2.2 t.2.1 px py && edgeIn t.2.1 t.1 px py

/-- The fields of a VIEW word (Table 9-1). -/
def viewW (v : W64) : Nat := fld v 0 15
def viewH (v : W64) : Nat := fld v 15 15

/-- A primitive on the screen: its pieces, and whether it shows its back face. -/
structure OnScreen where
  pieces : List Piece
  back   : Bool
  deriving DecidableEq, Repr

/-- The steps of R281 up to the face culling: none is a culled primitive. -/
def onScreen (view : W64) (verts : List W32) : Option OnScreen :=
  match clipVert (verts.take 8) 0 0, clipVert ((verts.drop 8).take 8) 1 0, clipVert (verts.drop 16) 0 1 with
  | some a, some b, some c =>
    match allSome ((clipTriangle [a, b, c]).map (screenVert (viewW view) (viewH view))) with
    | none => none
    | some l =>
      let ps := fanOf l
      let area := (ps.map pieceArea).foldl (· + ·) 0
      let back := if bit view 32 then decide (0 < area) else decide (area < 0)
      let cull := fld view 30 2
      if area = 0 ∨ (cull = 1 ∧ back = true) ∨ (cull = 2 ∧ back = false) then none else some ⟨ps, back⟩
  | _, _, _ => none

/-- A fine pixel is covered (R282). -/
def pixelIn (view : W64) (ps : List Piece) (x y : Nat) : Bool :=
  decide (x < viewW view ∧ y < viewH view) && ps.any (fun t => pieceCovers t (256 * x + 128) (256 * y + 128))

/-- The tiles along one axis that pixels from `lo` to `hi` (in units of 1/256) can lie in. -/
def tileSpan (lo hi : Int) (size : Nat) : List Nat :=
  let first := (lo / 2048).toNat
  let last := min (hi / 2048).toNat ((size - 1) / 8)
  if hi < 0 then [] else (List.range (last + 1 - first)).map (fun i => first + i)

/-- The smallest and largest of a list of coordinates. -/
def bounds (l : List Int) : Int × Int :=
  l.foldl (fun a x => (if x < a.1 then x else a.1, if a.2 < x then x else a.2)) (l.headD 0, l.headD 0)

/-- The code of tile (x, y). -/
def tileCode (x y : Nat) : Nat := x + y * 65536

/-- The tiles that hold a covered pixel (R282), row by row. -/
def coveredTiles (view : W64) (ps : List Piece) : List Nat :=
  let vs := ps.flatMap (fun t => [t.1, t.2.1, t.2.2])
  let bx := bounds (vs.map (·.x))
  let by_ := bounds (vs.map (·.y))
  (tileSpan by_.1 by_.2 (viewH view)).flatMap (fun ty =>
    ((tileSpan bx.1 bx.2 (viewW view)).filter (fun tx =>
      (List.range 64).any (fun k => pixelIn view ps (8 * tx + k % 8) (8 * ty + k / 8)))).map (fun tx => tileCode tx ty))

/-- Change the open pass of a die with an address in a context. -/
def onPass (die ctx : Nat) (args : W64) (f : Pass → Pass) (s : State) : State :=
  { s with passes := s.passes.map (fun p => if isPass die ctx args p then f p else p) }

/-- The VIEW word of a pass. -/
def passView (p : Pass) : W64 := p.desc.getD 5 0

/-- Rasterise a primitive: culled ones are counted and go (R281, R282). -/
def rasterPrim (x : Prim) (p : Pass) : Pass :=
  let tiles := match onScreen (passView p) x.verts with
    | some o => coveredTiles (passView p) o.pieces
    | none => []
  if tiles.isEmpty then { p with culled := p.culled + 1, prims := p.prims.filter (fun y => y.seq != x.seq) }
  else { p with prims := p.prims.map (fun y => if y.seq = x.seq then { y with tiles := some tiles } else y) }

/-- PRIMITIVE_RASTERISE: the oldest primitive of a pass that is not yet rasterised. -/
def rasterise (die ctx : Nat) (args : W64) (s : State) : State :=
  match s.passes.find? (isPass die ctx args) with
  | none => s
  | some p =>
    match p.prims.find? (fun x => x.tiles.isNone) with
    | none => s
    | some x => onPass die ctx args (rasterPrim x) s

/-! Fragment groups. -/

/-- The primitives and tiles whose fragment group may be launched now: every earlier primitive is rasterised and none of them
still waits on the tile (R282). -/
def launchable : List Prim → List Nat → List (Prim × Nat)
  | [], _ => []
  | x :: r, before =>
    match x.tiles with
    | none => []
    | some l => ((l.filter (fun t => !before.contains t)).map (fun t => (x, t))) ++ launchable r (before ++ l)

/-- The rate code of a tile, with code 3 acting as code 0 (R283). A rate image that cannot be read leaves the code open (log
17). -/
def rateCode (p : Pass) (tile : Nat) (s : State) : Nat × State :=
  let base := p.desc.getD 6 0
  if base = 0 then (0, s) else
  let t := tile / 65536 * ((viewW (passView p) + 7) / 8) + tile % 65536
  let (c, s1) := match devLoad s p.ctx p.die 1 (base + BitVec.ofNat 64 (t / 4)) with
    | (.inl bs, s1) => (bitsOf (natOf bs) (2 * (t % 4)) 2, s1)
    | (.inr _, s1) => (Config.choose s1.free 0 % 3, bump s1)
  (if c = 3 then 0 else c, s1)

/-- The coarse pixel of a lane at `c` coarse pixels a side (R284). -/
def coarseOf (c i : Nat) : Nat × Nat :=
  let h := c / 2
  let q := i / 4
  (2 * (q % h) + i % 2, 2 * (q / h) + i / 2 % 2)

/-- The fine coverage of a lane (Table 9-4 v3). -/
def laneCover (view : W64) (ps : List Piece) (tile n i : Nat) : Nat :=
  let c := coarseOf (8 / n) i
  ((List.range (n * n)).map (fun k =>
    if pixelIn view ps (8 * (tile % 65536) + n * c.1 + k % n) (8 * (tile / 65536) + n * c.2 + k / n) then 2 ^ k else 0)).foldl (· + ·) 0

/-- The exact weights of vertices 1 and 2 and the depth at a point, extended from a piece (Table 9-4 v0 to v2); none where the formula
divides by zero or meets what is not a number. -/
def weightsAt (t : Piece) (px py : Int) : Option Rat × Option Rat × Option Rat :=
  let ar : Rat := pieceArea t
  if ar = 0 then (none, none, none) else
  let la : Rat := (turn t.2.1 t.2.2 px py : Rat) / ar
  let lb : Rat := (turn t.2.2 t.1 px py : Rat) / ar
  let lc : Rat := (turn t.1 t.2.1 px py : Rat) / ar
  let mixed (f : ScreenVert → Option Rat) : Option Rat :=
    match f t.1, f t.2.1, f t.2.2 with
    | some a, some b, some c => some (la * a + lb * b + lc * c)
    | _, _, _ => none
  let perW (x : Option Rat) : Option Rat :=
    match x, mixed (fun v => v.iw) with
    | some a, some d => if d = 0 then none else some (a / d)
    | _, _ => none
  (perW (mixed (fun v => v.iw.map (fun i => v.b1 * i))), perW (mixed (fun v => v.iw.map (fun i => v.b2 * i))), mixed (fun v => v.z))

/-- The piece that speaks for a point: the one that covers it, else the first with an area. -/
def pieceFor (ps : List Piece) (px py : Int) : Option Piece :=
  (ps.find? (fun t => pieceCovers t px py)).orElse (fun _ => ps.find? (fun t => decide (pieceArea t ≠ 0)))

/-- The weights and depth of a lane's coarse pixel at its centre. -/
def laneWeights (ps : List Piece) (tile n i : Nat) : Option Rat × Option Rat × Option Rat :=
  let c := coarseOf (8 / n) i
  let px : Int := (256 * (8 * (tile % 65536) + n * c.1) + 128 * n : Nat)
  let py : Int := (256 * (8 * (tile / 65536) + n * c.2) + 128 * n : Nat)
  match pieceFor ps px py with
  | some t => weightsAt t px py
  | none => (none, none, none)

/-- A value rounded to FP32; an undefined one is free (log 13). -/
def openF32 (free i : Nat) (x : Option Rat) : W32 := match x with | some r => ratF32 r | none => Config.freeW32 free i

/-- The pixel word of a lane (Table 9-4 v4). -/
def pixelWord (tile n code i : Nat) : W32 :=
  let c := coarseOf (8 / n) i
  BitVec.ofNat 32 (8 * (tile % 65536) + n * c.1 + (8 * (tile / 65536) + n * c.2) * 2 ^ 14 + code * 2 ^ 28)

/-- The registers of Table 9-4, put on a fresh group. -/
def fragmentRegs (p : Pass) (x : Prim) (o : OnScreen) (tile code free : Nat) (g : Group) : Group :=
  let n := 2 ^ code
  let c2 := (8 / n) * (8 / n)
  let cover := (List.range 64).map (fun i => if i < c2 then laneCover (passView p) o.pieces tile n i else 0)
  let quadOn (i : Nat) : Bool := (List.range 4).any (fun k => cover.getD (i / 4 * 4 + k) 0 != 0)
  let ex := maskOf (laneIdx.filter (fun i => decide (i < c2) && quadOn i))
  let lanes (f : Nat → W32) : Lanes := laneIdx.map (fun i => if ex.getLsbD i then f i else 0)
  let ws := laneIdx.map (laneWeights o.pieces tile n)
  let wt (i : Nat) := ws.getD i (none, none, none)
  { g with
    exmask := ex
    s := csetAll zero [] [(1, ex), (2, p.desc.getD 4 0), (3, maskOf (laneIdx.filter (fun i => cover.getD i 0 != 0))),
      (4, BitVec.ofNat 64 (tile % 65536 + tile / 65536 * 2 ^ 16 + code * 2 ^ 32)),
      (5, BitVec.ofNat 64 (x.seq % 2 ^ 32 + (if o.back then 2 ^ 32 else 0)))]
    v := csetAll (fun _ => zeroLanes) []
      [(0, lanes (fun i => openF32 free i (wt i).1)), (1, lanes (fun i => openF32 free (64 + i) (wt i).2.1)),
       (2, lanes (fun i => openF32 free (128 + i) (wt i).2.2)), (3, lanes (fun i => BitVec.ofNat 32 (cover.getD i 0))),
       (4, lanes (pixelWord tile n code))]
    frag := some { die := p.die, args := p.args, tile := tile, seq := x.seq, made := [] } }

/-- A primitive gives up one tile, and its buffer entry once none is left (R280). -/
def dropTile (seq tile : Nat) (p : Pass) : Pass :=
  let left := p.prims.map (fun y =>
    if y.seq = seq then { y with tiles := y.tiles.map (fun l => l.filter (fun t => t != tile)) } else y)
  { p with prims := left.filter (fun y => !(y.tiles == some [])) }

/-- Start the fragment group of a primitive and a tile on a core (R282, R285). -/
def startFragment (p : Pass) (x : Prim) (o : OnScreen) (tile : Nat) (part : W64) (core rec_ : Nat) (s : State) : State :=
  let (code, s1) := rateCode p tile s
  let pn := freshPanel s1 .fragment p.ctx p.die core none 1 rec_
  let s2 := addPanel pn (onPass p.die p.ctx p.args (dropTile x.seq tile) s1)
  let g := fragmentRegs p x o tile code s2.free (freshGroup s2 pn 0 part (p.desc.getD 3 0) 0 x.prio x.ccls)
  let s3 := addGroup g (bump s2)
  scrWrite s3 pn.id 0 (x.verts.flatMap (fun w => bytesOf 4 w.toNat))

/-- FRAGMENT_GROUP_LAUNCH: one of the fragment groups that may be launched, when a core and a save record can take it; which
one is open (log 14). -/
def launchFragment (die ctx : Nat) (args : W64) (s : State) : State :=
  match s.passes.find? (isPass die ctx args) with
  | none => s
  | some p =>
    let all := launchable p.prims []
    match all[Config.choose s.free 0 % all.length]? with
    | none => s
    | some (x, tile) =>
      let (part, s1) := entryPart ctx die (p.desc.getD 3 0) (bump s)
      match part.filter (fun w => partOk w 1), onScreen (passView p) x.verts with
      | some w, some o =>
        match placeCore s1 die w 1, freeRecord s1 ctx with
        | some core, some r => if ctxRuns s1 ctx then startFragment p x o tile w core r s1 else s
        | _, _ => s
      | _, _ => s

end Sys2Proof.Machine
end

