-- ==== Sys2Proof/Machine/Seams.lean ====
section
/-! DEFINITION. The seam engines at work (09 R307 to R309, 13 R402): composites, the exchange rounds, the merges of
flat and multi-layer targets, the gather, and completion. -/

namespace Sys2Proof.Machine

/-- The seam command that a command is. -/
def seamOf (c : Cmd) : Option SeamInfo :=
  match c.kind with
  | .seam x => some x
  | _ => none

/-- The command with its seam fields changed. -/
def onSeam (f : SeamInfo → SeamInfo) (c : Cmd) : Cmd :=
  match seamOf c with
  | none => c
  | some x => { c with kind := .seam (f x) }

/-- The exchange rounds of a composite. -/
def seamRounds (x : SeamInfo) : Nat := Nat.log2 x.parts

/-! Forming a composite. -/

/-- The seam commands on a descriptor, oldest first. -/
def seamsOn (key : Nat) (s : State) : List (Cmd × SeamInfo) :=
  s.cmds.filterMap (fun c => (seamOf c).bind (fun x => if x.key = key then some (c, x) else none))

/-- The participants of the next composite: for each rank the oldest command; none while one lacks (R307). -/
def gatherRanks (l : List (Cmd × SeamInfo)) : List Nat → Option (List (Cmd × SeamInfo))
  | [] => some []
  | r :: rest =>
    match l.find? (fun e => e.2.rank == r) with
    | none => none
    | some e => (gatherRanks l rest).map (e :: ·)

/-- Two targets may meet in one composite (R307). -/
def sameShape (a b : List Byte) : Bool :=
  match targetOf a, targetOf b with
  | some t, some u =>
    decide (t.w = u.w ∧ t.h = u.h ∧ t.fmt = u.fmt ∧ t.ml = u.ml ∧ t.lcap = u.lcap ∧ t.rule = u.rule) &&
    ((t.dbase == 0) == (u.dbase == 0))
  | _, _ => false

/-- Add 1 to half of the descriptor's first word at its home: the lower half is DONE, the upper ABORT (R307, R309). -/
def countSeam (key : Nat) (abort : Bool) (s : State) : State :=
  let v := rw8 s key
  let v1 := if abort then setFld v 32 32 (fld v 32 32 + 1) else setFld v 0 32 (fld v 0 32 + 1)
  homeWrite s key (bytesOf 8 v1.toNat) 0 0 none

/-- The route entry of a module (R324). -/
def routeOf (s : State) (m : Nat) : Option Nat := (List.range 16).find? (fun i => fld (rdWin s (rtReg i)) 0 16 == m)

/-- A seam descriptor's list of modules names this module, and a route entry for each other one (R307, R324). -/
def routesListed (mods : List Nat) (s : State) : Bool :=
  mods.contains (ownModule s) && mods.all (fun m => m == ownModule s || (routeOf s m).isSome)

/-- The oldest command of each die; none while one lacks. -/
def gatherDies (l : List (Cmd × SeamInfo)) : List Nat → Option (List (Cmd × SeamInfo))
  | [] => some []
  | d :: rest =>
    match l.find? (fun e => coreDie e.1.core == d) with
    | none => none
    | some e => (gatherDies l rest).map (e :: ·)

/-- Add ABORT or DONE where the descriptor is homed in this module; elsewhere its home does so (R307, R309). -/
def countHere (key : Nat) (abort : Bool) (s : State) : State := if isHbm key then countSeam key abort s else s

/-- SEAM_COMPOSITE (R307): once every participant has arrived, the composite starts or is refused. At .SYS the event stands for the arrival
of the other modules' participants; whether their targets match is free (log 56). -/
def formComposite (key : Nat) (s : State) : State :=
  let l := seamsOn key s
  if l.any (fun e => e.2.started) then s else
  match l with
  | [] => s
  | (_, x) :: _ =>
    let same := l.filter (fun e => e.2.scope == x.scope && e.2.parts == x.parts)
    let refuse (ps : List (Cmd × SeamInfo)) : State :=
      countHere key true { s with cmds := s.cmds.filter (fun c => !ps.any (fun e => e.1.id == c.id)) }
    let match_ (ps : List (Cmd × SeamInfo)) : Bool := ps.all (fun e => sameShape x.tgt e.2.tgt)
    let start (ps : List (Cmd × SeamInfo)) : State :=
      ps.foldl (fun a e => onCmd e.1.id (onSeam (fun y => { y with started := true })) a) s
    if x.scope = 5 then
      match gatherDies same (List.range 8) with
      | none => s
      | some ps => bump (if match_ ps && routesListed x.mods s && Config.choose s.free 0 % 2 == 0 then start ps else refuse ps)
    else
      match gatherRanks same (List.range x.parts) with
      | none => s
      | some ps => if match_ ps then start ps else refuse ps

/-! Acting for a command. -/

/-- Act with a command's issuer as the current group, on the command's core and in its view; the lines written go to the command
`to_`, not to the group's pending swatches, and the group that was current is current again. -/
def asEngine {α : Type} (c : Cmd) (to_ : Nat) (f : State → Eng α) (s : State) : Eng α :=
  match focus (fun g => g.id == c.grp) s with
  | none => .fatal 0x24 4 0 s
  | some s1 =>
    let g0 := s1.g
    let back (s3 : State) : State :=
      let lines := s3.g.swSys
      let s4 := onG (fun g => { g with core := g0.core, priv := g0.priv, swDie := g0.swDie, swMod := g0.swMod, swSys := g0.swSys }) s3
      let s5 := onCmd to_ (fun x => { x with lines := x.lines ||| lines }) s4
      if s.g.live then (focus (fun g => g.id == s.g.id) s5).getD s5 else s5
    match f (onG (fun g => { g with core := c.core, priv := c.priv, swDie := 0, swMod := 0, swSys := 0 }) s1) with
    | .ok a s3 => .ok a (back s3)
    | .pause va s3 => .pause va (back s3)
    | .fatal k b va s3 => .fatal k b va (back s3)

/-! Pixels. -/

/-- Merge a received flat pixel into the stored one; `low` says that the stored one is the lower side (R308). -/
def mergeFlat (t : Target) (low : Bool) (own got : SeamPixel) : SeamPixel :=
  if t.dbase = 0 then
    let f := storedColour t (if low then own.col else got.col)
    let b := storedColour t (if low then got.col else own.col)
    let fa := f.getD 3 (.fin false 0)
    { own with col := colourBytes t ((indexed 0 f).map (fun e => xover e.2 fa (b.getD e.1 (.fin false 0)))) }
  else
    let a := decodeF f32 (natOf own.z)
    let b := decodeF f32 (natOf got.z)
    let ownWins := if a.isNaN || b.isNaN || eqF a b then low else ltF a b
    if ownWins then own else { own with col := got.col, z := got.z }

/-- The words of a plane that the engine writes: a word that others have stored to, so that memory and the engine's own pixel differ,
keeps what they stored or takes the composited value, freely (R309, R11; log 56). -/
def openWords (n j : Nat) (own mem new : List Byte) : List Byte :=
  (List.range (new.length / 4)).flatMap (fun i =>
    let word (l : List Byte) : List Byte := (l.drop (4 * i)).take 4
    if word mem != word own && Config.choose n (j + i) % 2 == 0 then word mem else word new)

/-- Store a flat pixel, over one that the engine holds as `own` and memory as `mem`. -/
def writeFlat (t : Target) (p : Nat × Nat) (own mem new : SeamPixel) (s : State) : State :=
  let s1 := storeVa (ropWho s) 2 (colourAddr t p.1 p.2) (openWords s.free 0 own.col mem.col new.col) (bump s)
  if t.dbase = 0 then s1 else storeVa (ropWho s1) 1 (depthAddr t p.1 p.2) (openWords s.free 2 own.z mem.z new.z) s1

/-! Lists of layers. -/

/-- Put a slot among slots in rising order of chain position and number. -/
def addSlot (p : Nat × Nat) (l : List (Nat × Nat)) : List (Nat × Nat) :=
  let lower (x : Nat × Nat) : Bool := decide (x.1 < p.1 ∨ (x.1 = p.1 ∧ x.2 < p.2))
  l.takeWhile lower ++ p :: l.dropWhile lower

/-- Pop drawers until a tile has `n` free slots, or none can be had (R298, R308); the free slots. -/
def supply (t : Target) (tile n : Nat) : Nat → List (Nat × Nat) → State → Eng (List (Nat × Nat))
  | 0, free, s => .ok free s
  | k + 1, free, s =>
    let c := poolCount t s
    let chain := chainOf t tile s
    if n ≤ free.length ∨ 16 ≤ chain.length ∨ c = 0 then .ok free s else
    (engSpans needR [⟨0, t.pool + BitVec.ofNat 64 (64 + 4 * (c - 1)), 4⟩] s).bind fun _ s1 =>
      let d := poolEntry t (c - 1) s1
      (engSpans needRW [⟨0, (nodeBase t s1).1 + BitVec.ofNat 64 (4096 * (d % 2 ^ 31)), 4096⟩] s1).bind fun _ s2 =>
        let s3 := addDrawer t tile d (storeVa (ropWho s2) 2 t.pool (bytesOf 8 (c - 1)) s2)
        supply t tile n k (((freeList t tile s3).filter (fun p => !chain.contains p.1)).foldl (fun a p => addSlot p a) free) s3

/-- Merge the adjacent pair of least difference: the result keeps the slot of the front layer, or of the back one where the front has
none (R455). -/
def mergeOnce (rule : Nat) (l : List Layer) : List Layer :=
  let j := leastDiff ((l.zip (l.drop 1)).map (fun e => depthDiff e.1.depth e.2.depth))
  match l[j]?, l[j + 1]? with
  | some f, some b => l.take j ++ { mergeLayers rule false f b with place := f.place.orElse (fun _ => b.place) } :: l.drop (j + 2)
  | _, _ => l

/-- Merge until at most `cap` layers are left (R308). -/
def mergeDown (rule : Nat) (cap : Nat) : Nat → List Layer → List Layer
  | 0, l => l
  | n + 1, l => if l.length ≤ cap then l else mergeDown rule cap n (mergeOnce rule l)

/-- Layers without a slot take slots in turn. -/
def fillSlots : List (Nat × Nat) → List Layer → List Layer
  | _, [] => []
  | slots, l :: r =>
    match l.place, slots with
    | none, x :: rest => { l with place := some x } :: fillSlots rest r
    | _, slots => l :: fillSlots slots r

/-- Free a node. -/
def clearNode (t : Target) (tile : Nat) (p : Nat × Nat) (s : State) : State :=
  match nodeAddr t tile p.1 p.2 s with
  | (some a, s1) => storeVa (ropWho s1) 4 a (bytesOf 16 0) s1
  | (none, s1) => s1

/-- Write a pixel's list made of its own layers and received ones, where `old` are the slots that the pixel holds, `free` those of its tile
that the engine holds free, and `low` says that the own layers are the lower side (R308); the list, and the slots then free. Where slots lack,
DEG = 0 writes nothing and answers no list, and DEG = 1 merges the received layers that have none into the nearest (R298). -/
def seatList (t : Target) (tile px : Nat) (old free : List (Nat × Nat)) (own got : List Layer) (low : Bool) (s : State) :
    Eng (Option (List Layer) × List (Nat × Nat)) :=
  let total := own.length + got.length
  let want := min total t.lcap
  (supply t tile (want - old.length) 17 free s).bind fun free s1 =>
    let cap := old.length + free.length
    if cap < want && !t.deg then .ok (none, free) s1 else
    let short := if cap < want then total - cap else 0
    let here := got.take (got.length - short)
    let joined := if low then here.foldl (fun a f => placeLayer f a) own else own.foldl (fun a f => placeLayer f a) here
    let l := (got.drop (got.length - short)).foldl (fun a f => degradeInto t.rule f a) (mergeDown t.rule t.lcap total joined)
    let kept := l.filterMap (·.place)
    let l2 := oncePerSlot (fillSlots (old.filter (fun p => !kept.contains p) ++ free) l)
    let used := l2.filterMap (·.place)
    let left := old.filter (fun p => !used.contains p)
    let s2 := writeList t tile px l2 (bump s1)
    .ok (some l2, left.foldl (fun a p => addSlot p a) (free.filter (fun p => !used.contains p)))
      (left.foldl (fun a p => clearNode t tile p a) s2)

/-! Strips. -/

/-- The pixels of strip `k` of `n` (R308), tile row by tile row. -/
def stripPixels (t : Target) (n k : Nat) : List (Nat × Nat) :=
  let rows := (t.h + 7) / 8
  let per := (t.w + 7) / 8
  let a := k * rows / n
  let b := (k + 1) * rows / n
  ((List.range (b - a)).flatMap (fun r => (List.range per).map (fun x => (a + r) * per + x))).flatMap (tilePixels t)

/-- The pixels of the strips that a rank keeps in a round. -/
def keptPixels (t : Target) (n rank round : Nat) : List (Nat × Nat) :=
  ((List.range n).filter (fun k => k % 2 ^ (round + 1) == rank % 2 ^ (round + 1))).flatMap (stripPixels t n)

/-- What came of a pixel: it is done, or the drawer pool of the receiving target is empty. -/
inductive SeamStep where
  | done
  | noDrawer (pool : W64)
  deriving DecidableEq, Repr

/-- A pixel of a command's target as the command holds it, where it does. -/
def heldPixel (id : Nat) (p : Nat × Nat) (s : State) : Option SeamPixel :=
  ((cmdOf s id).bind seamOf).bind (fun x => (x.held.find? (fun e => e.1 == p)).map (·.2))

/-- A command holds a pixel of its target. -/
def holdPixel (id : Nat) (p : Nat × Nat) (x : SeamPixel) : State → State :=
  onCmd id (onSeam (fun y => { y with held := (p, x) :: y.held.filter (fun e => e.1 != p) }))

/-- The slots of a tile that are free to a command: those that it holds free, or those of the tile's chain where it could not see them at
issue. -/
def freeSeats (id : Nat) (t : Target) (tile : Nat) (s : State) : List (Nat × Nat) :=
  (((cmdOf s id).bind seamOf).bind (fun x => (x.seats.find? (fun e => e.1 == tile)).map (·.2))).getD (freeList t tile s)

/-- A command holds slots of a tile free. -/
def holdSeats (id tile : Nat) (l : List (Nat × Nat)) : State → State :=
  onCmd id (onSeam (fun y => { y with seats := (tile, l) :: y.seats.filter (fun e => e.1 != tile) }))

/-- Receive a pixel into the target of a command: merged with what the command holds there, or in place of it for the gather. -/
def receive (id : Nat) (t : Target) (p : Nat × Nat) (replace low : Bool) (got : SeamPixel) (s : State) : Eng SeamStep :=
  (pixelCheck t needRW p s).bind fun _ s1 =>
  (readPixel t p s1).bind fun mem s2 =>
  let own := (heldPixel id p s2).getD mem
  if t.ml then
    let tile := tileOf t p.1 p.2
    let bare := got.ls.map (fun l => { l with place := none })
    (seatList t tile (inTile p.1 p.2) (own.ls.filterMap (·.place)) (freeSeats id t tile s2) (if replace then [] else own.ls) bare low s2).bind
      fun x s3 => match x.1 with
        | some l => .ok .done (holdSeats id tile x.2 (holdPixel id p ⟨[], [], l⟩ s3))
        | none => .ok (.noDrawer t.pool) (holdSeats id tile x.2 s3)
  else
    let new := if replace then got else mergeFlat t low own got
    .ok .done (holdPixel id p new (writeFlat t p own mem new s2))

/-- Go on with the pixels of a stretch after one that has been received, and count it. -/
def nextPixel (me : Nat) (go : State → Eng SeamStep) (x : SeamStep) (s : State) : Eng SeamStep :=
  match x with
  | .noDrawer pool => .ok (.noDrawer pool) s
  | .done => go (onCmd me (fun c => { c with done := c.done + 1 }) s)

/-- Carry pixels from one participant's target into another's, and count them. -/
def carryPixels (me : Nat) (src dst : Cmd) (ts td : Target) (replace low : Bool) : List (Nat × Nat) → State → Eng SeamStep
  | [], s => .ok .done s
  | p :: r, s =>
    (asEngine src me (readPixel ts p) s).bind fun got s1 =>
    (asEngine dst me (receive dst.id td p replace low ((heldPixel src.id p s1).getD got)) s1).bind fun x s2 =>
    nextPixel me (carryPixels me src dst ts td replace low r) x s2

/-! Participants of other modules (R308, R321, R324; log 56). -/

/-- A participant of a composite belongs to another module. -/
def foreign (x : SeamInfo) (rank : Nat) : Bool := x.scope == 5 && rank / 8 != x.rank / 8

/-- The module of a participant can be reached: its route has a live port (R324). -/
def reaches (s : State) (x : SeamInfo) (rank : Nat) : Bool := (routeOf s (x.mods.getD (rank / 8) 0)).any (routeLive s)

/-- A pixel as strip data of another module carries it: what it holds is free (log 56). -/
def strangePixel (t : Target) (n : Nat) : SeamPixel :=
  if t.ml then
    ⟨[], [], (List.range (Config.choose n 0 % (t.lcap + 1))).foldl (fun a i => placeLayer
      { place := none, depth := Config.freeW32 n i, col := Config.freeW64 n i, cov := Config.choose n (3 * i + 1) % 256
        mrg := Config.choose n (3 * i + 2) % 2 == 1, deg := Config.choose n (3 * i + 3) % 2 == 1 } a) []⟩
  else ⟨(bytesOf 8 (Config.freeW64 n 0).toNat).take t.bpp, if t.dbase = 0 then [] else bytesOf 4 (Config.freeW32 n 0).toNat, []⟩

/-- Receive pixels that come from another module into a command's target, and count them. -/
def receivePixels (c : Cmd) (t : Target) (replace low : Bool) : List (Nat × Nat) → State → Eng SeamStep
  | [], s => .ok .done s
  | p :: r, s =>
    (asEngine c c.id (receive c.id t p replace low (strangePixel t s.free)) (bump s)).bind fun x s1 =>
    nextPixel c.id (receivePixels c t replace low r) x s1

/-- Read pixels of a command's target to send them to another module, and count them. -/
def sendPixels (c : Cmd) (t : Target) : List (Nat × Nat) → State → Eng SeamStep
  | [], s => .ok .done s
  | p :: r, s =>
    (asEngine c c.id (readPixel t p) s).bind fun _ s1 => nextPixel c.id (sendPixels c t r) .done s1

/-- The pixels that participants of other modules gather into the target of rank 0. -/
def strangeStrips (t : Target) (x : SeamInfo) : List (Nat × Nat) :=
  ((List.range x.parts).filter (foreign x)).flatMap (stripPixels t x.parts)

/-- How a stretch of a seam command ends. -/
def endStretch (c : Cmd) (f : SeamInfo → SeamInfo) (r : Eng SeamStep) : State :=
  match r with
  | .ok .done s => onCmd c.id (fun x => { onSeam f x with done := 0 }) s
  | .ok (.noDrawer pool) s =>
    if issuerGone s c then engineFatal c 0x24 4 pool s
    else postEngine c.grp ⟨0x0E, 2, pool⟩ (onCmd c.id (fun x => { x with paused := some pool }) s)
  | .pause va s => engineStop c (.pause va s)
  | .fatal k b va s => engineStop c (.fatal k b va s)

/-- A stretch with a participant of another module, or the link fault where its module cannot be reached (R324, R200). -/
def farStretch (c : Cmd) (x : SeamInfo) (rank : Nat) (f : SeamInfo → SeamInfo) (r : Eng SeamStep) (s : State) : State :=
  if reaches s x rank then endStretch c f r else engineStop c (.fatal 0x23 0 (c.paused.getD 0) s)

/-- SEAM_EXCHANGE (R308): the next round of a participant, once its partner has come as far; after the last round, its gather. With a
partner of another module the event stands for the arrival of its data. -/
def runSeam (c : Cmd) (s : State) : State :=
  match seamOf c with
  | none => s
  | some x =>
    if !x.started || waits s c then s else
    let mates := (seamsOn x.key s).filter (fun e => e.2.started)
    match targetOf x.tgt with
    | none => s
    | some t =>
      let low := !x.rank.testBit x.round
      let kept := (keptPixels t x.parts x.rank x.round).drop c.done
      let next (y : SeamInfo) : SeamInfo := { y with round := y.round + 1 }
      let brought (y : SeamInfo) : SeamInfo := { y with gathered := true }
      let strip := (stripPixels t x.parts x.rank).drop c.done
      if x.round < seamRounds x then
        if foreign x (x.rank ^^^ 2 ^ x.round) then
          farStretch c x (x.rank ^^^ 2 ^ x.round) next (receivePixels c t false low kept s) s
        else
        match mates.find? (fun e => e.2.rank == x.rank ^^^ 2 ^ x.round) with
        | none => s
        | some m =>
          if m.2.round < x.round then s else
          match targetOf m.2.tgt with
          | none => s
          | some u =>
            endStretch c next (carryPixels c.id m.1 c u t false low kept s)
      else if x.gather && !x.gathered then
        if x.rank = 0 then endStretch c brought (receivePixels c t true true ((strangeStrips t x).drop c.done) s)
        else if foreign x 0 then farStretch c x 0 brought (sendPixels c t strip s) s
        else
        match mates.find? (fun e => e.2.rank == 0) with
        | none => s
        | some m =>
          match targetOf m.2.tgt with
          | none => s
          | some u =>
            endStretch c brought (carryPixels c.id c m.1 t u true true strip s)
      else s

/-- The lines that the seam engines of other modules wrote for a composite at .SYS: free (log 56). -/
def strangeLines (n : Nat) : Swatch := BitVec.ofNat 448 ((List.range 7).foldl (fun a i => a * 2 ^ 64 + (Config.freeW64 n i).toNat) 0)

/-- SEAM_COMPLETE (R309): every participant's rounds and gather are done; DONE and SWATCH at the home, where this module holds it, and the
commands end. -/
def completeSeam (key : Nat) (s : State) : State :=
  let l := (seamsOn key s).filter (fun e => e.2.started)
  if l.isEmpty || !l.all (fun e => decide (seamRounds e.2 ≤ e.2.round) && (!e.2.gather || e.2.gathered)) then s else
  let far := l.any (fun e => e.2.scope == 5)
  let lines := l.foldl (fun (a : Swatch) e => a ||| e.1.lines) (if far then strangeLines s.free else 0)
  let old : Swatch := BitVec.ofNat 448 (natOf (rbs s (key + 8) 56))
  let s1 := if isHbm key then homeWrite s (key + 8) (bytesOf 56 (old ||| lines).toNat) 0 0 none else s
  let s2 := l.foldl (fun a e => finishCmd e.1 e.1.lines a) (countHere key false s1)
  if far then bump s2 else s2

end Sys2Proof.Machine
end

