-- ==== Sys2Proof/Machine/Evict.lean ====
section
/-! DEFINITION. Blocking points, pre-emption, eviction and restore, budgets and the snapshot (08 R252 to R262), and engine work
run to its end. -/

namespace Sys2Proof.Machine

/-! Engine work. -/

/-- An accepted command runs until it completes or pauses; a copy delivers up to `bytes` bytes. -/
def runCmd (bytes : Nat) (c : Cmd) (s : State) : State :=
  match c.kind with
  | .copy .. => runCopy c bytes s
  | .qnt .. => runQnt c s
  | .ray .. => runRays c s
  | .seam .. => runSeam c s

/-- The bytes that a copy command still has to deliver. -/
def cmdBytes (c : Cmd) : Nat :=
  match c.kind with
  | .copy _ _ _ _ _ rowlen nrows _ _ => rowlen * nrows
  | _ => 0

/-- ENGINE_TRANSLATION_FAULT (R236): the command's engine runs on, and meets a page that is not mapped; one that meets none is
another event. -/
def faultCmd (id : Nat) (s : State) : State :=
  match cmdOf s id with
  | none => s
  | some c =>
    if c.paused.isSome || c.lost then s else
    let s1 := runCmd (cmdBytes c) c s
    match cmdOf s1 id with
    | some d => if d.paused.isSome then s1 else s
    | none => s

/-- Every operation that a group's arrays have accepted. -/
def allDue : MatOp → Bool := fun _ => true

/-- BATCH_COMPLETE (R151, R152): the oldest batch is performed and completes; with no closed batch the operations of the open set
are performed. -/
def runBatch (id : Nat) (s : State) : State :=
  match (allGroups s).find? (fun g => g.live && g.id == id) with
  | none => s
  | some g =>
    let n := match g.batches with
      | b :: _ => b.ops.length
      | [] => g.openSet.length
    onGroup id (fun g => completeBatches true g.batches g) (runWhile allDue id n s)

/-- Every accepted operation of a group is performed, and its closed batches complete in turn. -/
def runBatches (id : Nat) : Nat → State → State
  | 0, s => s
  | n + 1, s => runBatches id n (runBatch id s)

/-- The operations and batches of a group, with one turn for the open set. -/
def matrixTurns (s : State) (id : Nat) : Nat :=
  ((allGroups s).filter (fun g => g.live && g.id == id)).foldl (fun a g => a + g.batches.length + 1) 0

/-- Every command of a panel other than SEAM runs (R237, R255). -/
def runPanelCmds (panel : Nat) (s : State) : State :=
  (s.cmds.filter (fun c => c.panel == panel && (match c.kind with | .seam .. => false | _ => true))).foldl
    (fun a c => match cmdOf a c.id with
      | some d => runCmd (cmdBytes d) d a
      | none => a) s

/-! Wake conditions. -/

/-- The place of a saved object for a group, through its tables, with no effect. -/
def objectPlace (s : State) (g : Group) (va : W64) : Option Phys :=
  match (walk s (fld g.vmctx 17 35 * 2 ^ 17) 0 va).1 with
  | .leaf pte base _ _ => (physOf s (coreDie g.core) pte base (va.toNat % 2 ^ 57)).1
  | _ => none

/-- The `n` bytes of a saved object at its home: host memory as the coherency agent reads it, the register window as a load of it. -/
def objectBytes (s : State) (g : Group) (va : W64) (n : Nat) : List Byte :=
  match objectPlace s g va with
  | some p => (devRead s p n).1
  | none => List.replicate n 0

/-- The 64-bit word of a saved object at its home. -/
def objectWord (s : State) (g : Group) (va : W64) : W64 := BitVec.ofNat 64 (natOf (objectBytes s g va 8))

/-- A reservation of `n` slots for an entry address could be met now (R40). -/
def couldReserve (s : State) (g : Group) (n : Nat) (entry : W64) : Bool :=
  let die := coreDie g.core
  (s.bins.any (isBin die g.ctx entry) || decide ((s.bins.filter (fun b => b.die == die)).length < 64)) &&
    decide ((usedOffs s die).length + n ≤ poolSlots s die)

/-- The saved wake condition of a blocked group holds (Table 8-5, R257). A group at kind 11 goes on by the host's answer only; one
that its answer has set free is blocked no more. -/
def wakeMet (s : State) (g : Group) : Bool :=
  match g.block with
  | none => true
  | some b =>
    if b.kind = 1 then phaseDone (readPbar s g.panel b.addr.toNat) b.val.toNat
    else if b.kind = 2 then dbDone (objectWord s g b.addr) b.val.toNat
    else if b.kind = 3 then decide ((readPbar s g.panel b.addr.toNat).phase ≠ b.val.toNat)
    else if b.kind = 4 then
      (if b.size = 32 then decide ((readPbar s g.panel b.addr.toNat).expect ≠ 0) else decide (dbExpect (objectWord s g b.addr) ≠ 0))
    else if b.kind = 5 then decide (natOf (objectBytes s g b.addr b.size) ≠ b.val.toNat % 2 ^ (8 * b.size))
    else if b.kind = 6 then !batchesLeft (lo32 b.val) g
    else if b.kind = 7 then couldReserve s g b.size b.val
    else if b.kind = 8 then true
    else if b.kind = 9 then !panelTargeted s g.panel
    else if b.kind = 10 then roomFor s (coreDie g.core)
    else false

/-- The current group leaves its blocking point: a record that waited for room is posted (R273), an overdue load has returned, any
other point is left and its instruction executes again (R252). -/
def leavePoint (s : State) : State :=
  match s.g.block with
  | some b =>
    if b.kind = 10 then postAndWait b.val.toNat (b.size == 1) (unblock s)
    else if b.kind = 8 then
      onG (fun g => { g with inflight := g.inflight.map (fun e => { e with overdue := false, lost := false }) }) (unblock s)
    else unblock s
  | none => s

/-- WAKE_BLOCKED_GROUP (R252): a resident group whose condition is met resumes. -/
def wakeGroup (id : Nat) (s : State) : State :=
  withGroup id (fun s => if s.g.resident && s.g.block.isSome && !s.g.halted && wakeMet s s.g then leavePoint s else s) s

/-- A read of the watched word of the current group, which is blocked at `b`, meets an uncorrectable error: its sub-code (R328). -/
def watchedError (s : State) (b : Block) : Option Nat :=
  match objectPlace s s.g b.addr with
  | some p => if b.kind == 5 && homePoisoned s p b.size needR then some (homeSub s p.rkey) else none
  | none => none

/-- The current group reads its watched word again, which may end its context (R328); else it goes on as `next` says. -/
def watchAgain (b : Block) (next : State → State) (s : State) : State :=
  match watchedError s b with
  | some sub => fatalEnd 0x28 sub b.addr s
  | none => next s

/-- PEER_WINDOW_REREAD (R386): the watched word of a peer window is read again. -/
def rereadPeer (id : Nat) (s : State) : State :=
  withGroup id (fun s =>
    match s.g.block with
    | some b =>
      if s.g.resident && !s.g.halted && b.kind == 5 && (objectPlace s s.g b.addr).any (fun p => p.region == 2) then
        watchAgain b (fun s => if wakeMet s s.g then leavePoint s else s) s
      else s
    | none => s) s

/-- A load whose home lies outside the core's quartet, or in host or peer memory (Table 8-5). -/
def isRemote (s : State) (g : Group) (e : InFlight) : Bool :=
  (loadAddrs e).any (fun va =>
    match objectPlace s g va with
    | some p => p.region != 0 || p.rkey / 2 ^ 36 / 4 != coreDie g.core
    | none => false)

/-- LDTHR_EXPIRY (R252): a remote load in flight has been outstanding for LDTHR clocks. -/
def expireLoad (id : Nat) (s : State) : State :=
  withGroup id (fun s => onG (fun g => { g with inflight := g.inflight.map (fun e =>
    if isRemote s s.g e then { e with overdue := true } else e) }) s) s

/-! Engine faults. -/

/-- ENGINE_FAULT_DELIVERY (R263): a held engine fault is taken at an instruction boundary or a blocking point, outside the
privileged view. Issued memory instructions complete first, and may trap themselves. -/
def deliverFault (s : State) : State :=
  match s.g.held with
  | [] => s
  | h :: rest =>
    if s.g.priv || !s.g.resident || s.g.exited || s.g.halted then s else
    match drainAll s with
    | .ok _ s1 =>
      takeTrap { cause := h.cause, sub := h.sub, fault := h.addr, first := some 0 } false
        (onG (fun g => { offPoint g with held := rest }) s1)
    | .trap t s1 => takeTrap t true (onG offPoint s1)
    | .fatal c b a s1 => fatalEnd c b a s1
    | .block _ s1 => s1
    | .stall s1 => notReady s1

/-! Requests. -/

/-- What waits for a core of a die: what a request for it is made for, its class and its context (R254). -/
structure Waiter where
  what : Request
  prio : BitVec 2
  ctx  : Nat
  deriving DecidableEq, Repr

/-- The class of a panel: that of its groups (R57). -/
def panelPrio (s : State) (id : Nat) : BitVec 2 := ((panelGroups s id).head?.map (·.prio)).getD 0

/-- An evicted panel has a group whose condition is met, or of kinds 8 to 10 (R256). -/
def panelReady (s : State) (id : Nat) : Bool :=
  (panelGroups s id).any (fun g => !g.exited &&
    (wakeMet s g || (match g.block with | some b => decide (8 ≤ b.kind ∧ b.kind ≤ 10) | none => false)))

/-- The panels of queues, evicted panels, bobbin groups and fragment groups that wait for a core of a die; a fragment group has the class
of its primitive (R282). -/
def waiters (s : State) (die : Nat) : List Waiter :=
  ((List.range 16).filterMap (fun n => (waitingBolt s n).bind (fun b =>
    if b.die == die && (boltCore s b).isNone then some ⟨.queue n, b.prio, b.ctx⟩ else none))) ++
  (s.panels.filterMap (fun p =>
    if p.die == die && !p.resident && ctxRuns s p.ctx && panelReady s p.id && (placeCore s die (panelPart s p.id) p.groups).isNone then
      some ⟨.panel p.id, panelPrio s p.id, p.ctx⟩ else none)) ++
  (s.formed.filterMap (fun f =>
    match (entryPart f.ctx die f.entry s).1 with
    | some w => if f.die == die && ctxRuns s f.ctx && partOk w 1 && (placeCore s die w 1).isNone then
        some ⟨.bobbin die, f.prio, f.ctx⟩ else none
    | none => none)) ++
  (s.passes.flatMap (fun p =>
    match (entryPart p.ctx die (p.desc.getD 3 0) s).1 with
    | some w => if p.die == die && ctxRuns s p.ctx && partOk w 1 && (placeCore s die w 1).isNone then
        (launchable p.prims []).map (fun e => ⟨.bobbin die, e.1.prio, p.ctx⟩) else []
    | none => []))

/-- The resident panels of a core that satisfy a test. -/
def panelsOn (s : State) (core : Nat) (p : Panel → Bool) : List Panel := s.panels.filter (fun x => x.resident && x.core == core && p x)

/-- The number of the lowest class among panels (0 is the highest class). -/
def lowestClass (s : State) (l : List Panel) : Nat := l.foldl (fun a p => max a (panelPrio s p.id).toNat) 0

/-- The core that a request goes to: of those with a panel that satisfies the test, the one with the lowest-class panels, then the
fewest resident groups, then the lowest number (R254). -/
def requestCore (s : State) (die : Nat) (p : Panel → Bool) : Option Nat :=
  ((coresOf die).filter (fun c => !(panelsOn s c p).isEmpty)).foldl (fun a c =>
    match a with
    | none => some c
    | some b =>
      let x := lowestClass s (panelsOn s b p)
      let y := lowestClass s (panelsOn s c p)
      if x < y ∨ (x = y ∧ residentOn s c < residentOn s b) then some c else a) none

/-- Panels become targets of a request, unless another request already targets them. -/
def target (r : Request) (l : List Panel) (s : State) : State :=
  { s with panels := s.panels.map (fun p =>
      if l.any (fun x => x.id == p.id) && p.request.isNone then { p with request := some r } else p) }

/-- PREEMPT_REQUEST (R254): something of class p waits for a core of the die, and panels of a lower class are resident there. -/
def requestPreempt (die : Nat) (s : State) : State :=
  let lower (w : Waiter) : Option Nat := requestCore s die (fun x => decide (w.prio.toNat < (panelPrio s x.id).toNat))
  match (waiters s die).find? (fun w => (lower w).isSome) with
  | none => s
  | some w =>
    match lower w with
    | none => s
    | some c =>
      let worst := lowestClass s (panelsOn s c (fun _ => true))
      target w.what (panelsOn s c (fun x => (panelPrio s x.id).toNat == worst)) s

/-! Eviction. -/

/-- How many issued instructions of a blocked group complete before it is saved: at kind 8 those before the overdue load, which holds a
replay entry with what stands behind it; else all (R255, R269). -/
def settleCount (g : Group) (b : Block) : Nat :=
  if b.kind = 8 then (g.inflight.takeWhile (fun e => !e.overdue)).length else g.inflight.length

/-- The current group is made ready to be saved (R255). -/
def settleGroup (s : State) : State :=
  match s.g.block with
  | none => s
  | some b =>
    match drain (settleCount s.g b) s with
    | .ok _ s1 => s1
    | .trap t s1 => takeTrap t true (onG offPoint s1)
    | .fatal c k a s1 => fatalEnd c k a s1
    | .block _ s1 => s1
    | .stall s1 => s1

/-- Every group of a panel is blocked or has exited, and one of them is blocked (R255). -/
def allBlocked (s : State) (id : Nat) : Bool :=
  let gs := panelGroups s id
  gs.all (fun g => !g.halted && (g.exited || g.block.isSome)) && gs.any (fun g => !g.exited)

/-- The work of a panel that has to end before it is saved has ended. -/
def panelQuiet (s : State) (id : Nat) : Bool :=
  (panelGroups s id).all (fun g => (allOps g).all (·.done) && g.batches.isEmpty && g.held.isEmpty &&
    (g.inflight.isEmpty || (match g.block with | some b => b.kind == 8 | none => false))) &&
  !s.cmds.any (fun c => c.panel == id && (match c.kind with | .seam .. => false | _ => true))

/-- The steps of R255 that end a panel's work: pending writes, issued instructions, engine commands and matrix operations. -/
def quiesce (id : Nat) (s : State) : State :=
  let ids := (panelGroups s id).map (·.id)
  let s1 := ids.foldl (fun a i => withGroup i settleGroup (onGroup i completeAll a)) s
  ids.foldl (fun a i => runBatches i (matrixTurns a i) a) (runPanelCmds id s1)

/-- The units of a panel's image, the first 3.5 MiB of its save record, as they are reached for a group of the panel through its context's
tables (R243, R258); or the end that a fault makes. -/
def imageUnits (need : Need) (p : Panel) (s : State) : (List Nat × State) ⊕ State :=
  match (panelGroups s p.id).head?.bind (fun g => focus (fun x => x.id == g.id) s) with
  | none => .inl ([], s)
  | some s1 =>
    match recordUnits need p.save 896 0 s1 with
    | (.inr e, s2) => .inr (fatalCtx e.1.1 e.1.2 e.2 s2)
    | (.inl l, s2) =>
      match (if need.r then imagePoison s2 l else none) with
      | some k => .inr (fatalCtx 0x28 (homeSub s2 k) p.save s2)
      | none => .inl (l, refocus s s2)

/-- The image is written: the host gives up its lines (R319), and the bytes of its units are open, and carry no owner and no poison (R243,
R177, R328; log 18). -/
def writeImage (l : List Nat) (s : State) : State :=
  let s1 := touchImage (fun _ => true) l true s
  let s2 := (s1.hostLines.filter (fun x => l.contains (x / 32))).foldl (fun a x => backInvalidate a (128 * x)) s1
  bump { s2 with
    image := l.map (fun u => ⟨u, s.free, []⟩) ++ s2.image.filter (fun x => !l.contains x.unit)
    tags := ckeep (fun w => !l.contains (w / 1024)) s2.tags
    poison := ckeep (fun w => !l.contains (w / 1024)) s2.poison }

/-- Save a panel whose work has ended (R255 steps 3 and 4): the lines of the groups' pending .DIE swatches are written back, the image is
written to the save record, and the panel leaves its core. -/
def savePanel (p : Panel) (s : State) : State :=
  match imageUnits needW p s with
  | .inr s1 => s1
  | .inl (l, s0) =>
    let s1 := (panelGroups s0 p.id).foldl (fun a g => writeBack a (p.core / 4) (fun x => swatchHit g.swDie x)) s0
    let s2 := mapGroups (fun g => if g.live && g.panel == p.id then { g with resident := false, stall := 0, waited := 0 } else g) s1
    writeImage l { s2 with panels := s2.panels.map (fun x => if x.id = p.id then { x with resident := false, request := none } else x) }

/-- Evict a panel (R255): its work ends; a command or instruction that traps its group instead abandons the eviction. -/
def evict (p : Panel) (s : State) : State :=
  let s1 := quiesce p.id s
  if (panelOf s1 p.id).isSome && allBlocked s1 p.id && panelQuiet s1 p.id then savePanel p s1 else s1

/-- PANEL_EVICT (R255, R261): a request targets the panel, or its context is stopped. -/
def evictPanel (id : Nat) (s : State) : State :=
  match panelOf s id with
  | none => s
  | some p =>
    if p.resident && allBlocked s id && (p.request.isSome || bit (rdWin s (ctxReg p.ctx 0x28)) 32) then evict p s else s

/-- IDLE_EVICT_TIMEOUT (R255): each group of the panel has been blocked at kinds 1 to 7 for 65,536 clocks while another panel waits
for the die. -/
def evictIdle (id : Nat) (s : State) : State :=
  match panelOf s id with
  | none => s
  | some p =>
    let idle := (panelGroups s id).all (fun g => g.exited || (match g.block with | some b => chargedKind b | none => false))
    if p.resident && allBlocked s id && idle && !(waiters s p.die).isEmpty then evict p s else s

/-! Restore. -/

/-- The codes of every register of a partition (R258). -/
def allAbsent (part : W64) : List Nat :=
  List.range (8 * partVR part) ++ (List.range (16 * (partSR part + 1))).map (fun n => 128 + n) ++
    (List.range (partTR part)).map (fun n => 192 + n)

/-- The home of an object looks it up for a read of `n` bytes, and a read of the register window that is refused is logged (R311, R460). -/
def touchObject (va : W64) (n : Nat) (s : State) : State :=
  match objectPlace s s.g va with
  | some p => if p.region = 3 then (devRead s p n).2 else touch s p.rkey s.g.ccls 2 false
  | none => s

/-- A restored group that is blocked at MWAIT reads its watched word again (R257). -/
def readAgain (s : State) : State :=
  match s.g.block with
  | some b => if b.kind = 5 then watchAgain b (touchObject b.addr b.size) s else s
  | none => s

/-- A group of a panel comes to a core: its registers are absent, TVEC is loaded again (R258, R314). `ord` is the same for the groups that
come together, so that the lower GID goes first among them (R57). -/
def bringBack (p : Panel) (core ord : Nat) (id : Nat) (s : State) : State :=
  let slot := pickSlot s core
  let s1 := onGroup id (fun g =>
    if g.exited then { g with core := core }
    else
      { g with
        core := core, slot := slot, resident := true, order := ord, waited := 0, absent := allAbsent g.part
        tvec := rdWin s (ctxReg p.ctx 0x30) }) s
  withGroup id (fun a => match a.g.block with
    | some b => if 8 ≤ b.kind ∧ b.kind ≤ 10 then leavePoint a else readAgain a
    | none => a) s1

/-- The ids of a panel's groups, by rising GID. -/
def panelOrder (s : State) (id : Nat) : List Nat :=
  (List.range 16).flatMap (fun k => ((panelGroups s id).filter (fun g => fld g.gid 0 4 == k)).map (·.id))

/-- PANEL_RESTORE (R256, R258, R50): an evicted panel that is ready comes to a core of its die; on another cluster than the one it
left, that cluster first writes back and invalidates its whole L1. The core has room for all the panel's groups, those that have exited
among them (log 106). -/
def restorePanel (id : Nat) (s : State) : State :=
  match panelOf s id with
  | none => s
  | some p =>
    if p.resident || !ctxRuns s p.ctx || !panelReady s id then s else
    match placeCore s p.die (panelPart s id) p.groups with
    | none => s
    | some core =>
      match imageUnits needR p s with
      | .inr s1 => s1
      | .inl (l, s0) =>
        let s1 := if core / 4 = p.core / 4 then touchImage (fun _ => true) l false s0 else flushCluster (core / 4) (touchImage (fun _ => true) l false s0)
        let s2 : State := { s1 with panels := s1.panels.map (fun x =>
          if x.id = id then { x with resident := true, core := core, request := none } else x) }
        let s3 := (panelOrder s2 id).foldl (fun a i => bringBack p core s2.nextId i a) { s2 with nextId := s2.nextId + 1 }
        withdraw (.panel id) (noteCluster id (core / 4) s3)

/-- REGISTER_MISS_FETCH (R258): the next instruction of a group waits for an absent register, which is fetched. -/
def fetchMiss (id : Nat) (s : State) : State :=
  withGroup id (fun s =>
    if s.g.block.isSome || !s.g.resident || s.g.exited then s else
    match nextMisses s with
    | [] => s
    | c :: _ =>
      match fetchRegs [c] s with
      | .ok _ s1 => s1
      | .fatal k b a s1 => fatalEnd k b a s1
      | .trap _ s1 => s1
      | .block _ s1 => s1
      | .stall s1 => s1) s

/-! Budgets. -/

/-- SLICE of a CTXBUD word in clocks (Table 8-1). -/
def sliceClocks (bud : W64) : Nat := max 1 (fld bud 0 16) * 4096

/-- RUNBUD of a CTXBUD word in clocks. -/
def runClocks (bud : W64) : Nat := max 1 (fld bud 40 24) * 2 ^ 20

/-- An evicted panel whose groups' conditions are all unmet. -/
def asleep (s : State) (p : Panel) : Bool := !p.resident && (panelGroups s p.id).all (fun g => g.exited || !wakeMet s g)

/-- A slice is charged to the groups of a context that wait in evicted panels of a die (R261). -/
def chargeSlice (ctx die : Nat) (s : State) : State :=
  mapGroups (fun g =>
    if g.live && g.ctx == ctx && !g.exited && s.panels.any (fun p => p.id == g.panel && p.die == die && asleep s p) &&
        (match g.block with | some b => chargedKind b | none => false) then
      { g with wbudget := BitVec.ofNat 64 (g.wbudget.toNat - sliceClocks (budOf s g)) }
    else g) s

/-- SLICE_END (R254, R261): the slice is charged; when a panel of another context of the same class waits for the die, a request
targets the context's panels on the chosen core. -/
def endSlice (ctx die : Nat) (s : State) : State :=
  let s1 := chargeSlice ctx die s
  let mine (x : Panel) : Bool := x.ctx == ctx
  let classes := (s1.panels.filter (fun p => p.resident && p.die == die && mine p)).map (fun p => panelPrio s1 p.id)
  match (waiters s1 die).find? (fun w => w.ctx != ctx && classes.contains w.prio) with
  | none => s1
  | some w =>
    match requestCore s1 die (fun x => mine x && panelPrio s1 x.id == w.prio) with
    | some c => target w.what (panelsOn s1 c mine) s1
    | none => s1

/-- A context is stopped (R261). -/
def stopCtx (c : Nat) (s : State) : State :=
  let o := ctxReg c 0x28
  wrWin s o (setFld (rdWin s o) 32 1 1)

/-- A group's running clocks have reached its budget (R260). -/
def runExpired (s : State) (g : Group) : Bool :=
  g.live && g.resident && !g.exited && !g.halted && decide (runClocks (budOf s g) ≤ g.runcnt.toNat)

/-- A group's waiting clocks have run out and its context is not stopped yet (R261). -/
def waitExpired (s : State) (g : Group) : Bool :=
  g.live && !g.exited && !g.halted && g.wbudget == 0 && !bit (rdWin s (ctxReg g.ctx 0x28)) 32

/-- The run budget of the current group ends its context (R260). -/
def endRun (s : State) : State := fatalCtx 0x25 0 s.g.tfault s

/-- RUN_BUDGET_EXPIRY: a group's RUNCNT has reached its budget (R260). -/
def expireRun (id : Nat) (s : State) : State :=
  match focus (fun g => g.id == id) s with
  | none => s
  | some s1 => if runExpired s1 s1.g then endRun s1 else s

/-- WAIT_BUDGET_EXPIRY: the WBUDGET of a waiting group has reached zero, and its context is stopped (R261). -/
def expireWait (id : Nat) (s : State) : State :=
  match (allGroups s).find? (fun g => g.live && g.id == id) with
  | none => s
  | some g =>
    let evicted := !g.resident && s.panels.any (fun p => p.id == g.panel && asleep s p)
    let waits := if g.resident then charged g else g.block.any chargedKind
    if g.exited || g.halted || g.wbudget != 0 || bit (rdWin s (ctxReg g.ctx 0x28)) 32 || !waits || !(g.resident || evicted) then s
    else stopCtx g.ctx s

/-- A budget that is due now is settled (R260, R261); none when no budget is. -/
def dueBudget (s : State) : Option State :=
  match (allGroups s).find? (runExpired s) with
  | some g => (focus (fun x => x.id == g.id) s).map endRun
  | none => ((allGroups s).find? (waitExpired s)).map (fun g => stopCtx g.ctx s)

/-! The snapshot. -/

/-- Put an element in order of a key. -/
def insertBy (f : Group → Nat) (x : Group) : List Group → List Group
  | [] => [x]
  | y :: r => if f x < f y then x :: y :: r else y :: insertBy f x r

/-- The blocked groups of a context in save-record order, and in each panel by group number (R262). -/
def snapGroups (s : State) (c : Nat) : List Group :=
  let key (g : Group) : Nat := ((panelOf s g.panel).map (·.record)).getD 0 * 16 + fld g.gid 0 4
  ((allGroups s).filter (fun g => g.live && g.ctx == c && !g.exited && g.block.isSome)).foldl (fun a g => insertBy key g a) []

/-- The kind that a snapshot entry gives: 12 for a group between a refused arrival and its next accepted one that stands at a point
without a condition. -/
def snapKind (g : Group) (b : Block) : Nat := if g.refused.isSome ∧ 8 ≤ b.kind ∧ b.kind ≤ 10 then 12 else b.kind

/-- The object that an entry names (R262), as 64 bytes; none where the point names none. -/
def snapObject (s : State) (g : Group) (b : Block) : Option (List Byte) :=
  let k := snapKind g b
  if k = 12 then some (objectBytes s g (g.refused.getD 0) 64)
  else if k = 1 ∨ k = 3 ∨ (k = 4 ∧ b.size = 32) then some (scrRead s g.panel b.addr.toNat 32 ++ List.replicate 32 0)
  else if k = 2 ∨ k = 4 then some (objectBytes s g b.addr 64)
  else if k = 5 then some (objectBytes s g b.addr b.size ++ List.replicate (64 - b.size) 0)
  else none

/-- The homes look up the object in memory that the entry of the current group names: a device barrier or a watched word (R262, R460). -/
def touchNamed (s : State) : State :=
  match s.g.block with
  | some b =>
    let k := snapKind s.g b
    if k = 12 then touchObject (s.g.refused.getD 0) 64 s
    else if k = 2 ∨ (k = 4 ∧ b.size ≠ 32) then touchObject b.addr 64 s
    else if k = 5 then touchObject b.addr b.size s
    else s
  | none => s

/-- An entry of the snapshot as sixteen words (R262). What it does not state is free (log 19). -/
def snapEntry (s : State) (i : Nat) (g : Group) : List W64 :=
  let b := g.block.getD ⟨0, 0, 0, 0⟩
  let k := snapKind g b
  let open_ (j : Nat) : W64 := Config.freeW64 s.free (16 * i + j)
  let addr := if k = 12 then g.refused.getD 0 else if 1 ≤ k ∧ k ≤ 5 then b.addr else open_ 3
  let val := if (1 ≤ k ∧ k ≤ 3) ∨ (5 ≤ k ∧ k ≤ 7) then b.val else open_ 4
  let object : List W64 := match snapObject s g b with
    | some bs => (List.range 8).map (fun j => wordsOfBytes bs j)
    | none => (List.range 8).map (fun j => open_ (8 + j))
  [g.bid, BitVec.ofNat 64 (fld g.pidx 0 48 + fld g.gid 0 4 * 2 ^ 48), BitVec.ofNat 64 k, addr, val, 0, 0, 0] ++ object

/-- Store words from an address up through a context's tables; a word whose store faults is not written (log 19). -/
def snapStore (c : Nat) : List W64 → W64 → State → State
  | [], _, s => s
  | x :: r, va, s => snapStore c r (va + 8) (devStore s c 0 va (bytesOf 8 x.toNat)).2

/-- CONTEXT_SNAPSHOT (R261, R262): every panel of a stopped context is evicted; the snapshot is written and a record of type 4
posted. -/
def snapshot (c : Nat) (s : State) : State :=
  if !bit (rdWin s (ctxReg c 0x28)) 32 || halted s c || s.snapped.contains c || s.panels.any (fun p => p.ctx == c && p.resident) then s else
  let gs := snapGroups s c
  let room := (fld (rdWin s (ctxReg c 0x28)) 0 16 * 1024 - 64) / 128
  let kept := gs.take room
  let header : List W64 := [BitVec.ofNat 64 kept.length, BitVec.ofNat 64 (gs.length - kept.length), BitVec.ofNat 64 c, 0, 0, 0, 0, 0]
  let words := header ++ (indexed 0 kept).flatMap (fun e => snapEntry s e.1 e.2)
  let s1 := if fld (rdWin s (ctxReg c 0x28)) 0 16 = 0 then s
    else snapStore c words (sext57 (fld (rdWin s (ctxReg c 0x20)) 0 57)) (kept.foldl (fun a g => withGroup g.id touchNamed a) s)
  let r := queueRec s1 (ctxQueue s1 c) 4 0 0 (Config.freeW64 s1.free 1) c
  bump (postRec r { s1 with snapped := c :: s1.snapped })

end Sys2Proof.Machine
end

