-- ==== Sys2Proof/Machine/Report.lean ====
section
/-! DEFINITION. The event queue (08 R272 to R274, 10 R315): records leave the dies' outbound buffers for the ring. -/

namespace Sys2Proof.Machine

/-- The words of a record at index `m` (Table 8-12). P is 1 on even passes through the ring. -/
def recordWords (s : State) (r : EvRec) (m : Nat) : List W64 :=
  let p := if m / 2 ^ eventLog s % 2 = 0 then 1 else 0
  [BitVec.ofNat 64 (r.type % 256 + r.cause % 256 * 2 ^ 8 + r.sub % 256 * 2 ^ 16 + r.queue % 16 * 2 ^ 24 + r.die % 16 * 2 ^ 28 +
      r.code % 128 * 2 ^ 32 + p * 2 ^ 63), r.bid, r.addr, r.where_]

/-- The address of slot `m` of the ring. -/
def eventSlot (s : State) (m : Nat) : W64 := sext57 (fld (rdWin s eqBase) 0 57) + BitVec.ofNat 64 (32 * (m % 2 ^ eventLog s))

/-- Store the words of a record through the tables of context 0; none when a store faults, and the record is held and written again (R272).
DESIGN CHOICE (log 121): so it is with the causes that R272 does not list. -/
def recordStore : List W64 → W64 → State → Option State
  | [], _, s => some s
  | x :: r, va, s =>
    match devStore s 0 0 va (bytesOf 8 x.toNat) with
    | (none, s1) => recordStore r (va + 8) s1
    | (some _, _) => none

/-- A record enters the event queue (R272, R274, R315): EQTAIL advances, vector 0 fires; a fatal record sets FATALPEND, which fires
vector 1; a group that waits for the host is known by the record's index. -/
def enterQueue (r : EvRec) (s : State) : Option State :=
  let m := eventTail s
  (recordStore (recordWords s r m) (eventSlot s m) s).map (fun s1 =>
    let s2 := wrWin s1 eqTail (BitVec.ofNat 64 ((m + 1) % 2 ^ 32))
    let s3 := { s2 with
      outputs := s2.outputs ++ [.msix 0]
      waiting := s2.waiting ++ (match r.grp with | some id => [(m, id)] | none => []) }
    if r.type = 3 then
      { wrWin s3 eqStat (setFld (rdWin s3 eqStat) 0 1 1) with outputs := s3.outputs ++ [.msix 1] }
    else s3)

/-- The records of a die without its oldest. -/
def dropOldest (die : Nat) : List EvRec → List EvRec
  | [] => []
  | r :: l => if r.die = die then l else r :: dropOldest die l

/-- FAULT_RECORD_POST (R273, R274): the oldest record of a die's buffer enters the event queue when a slot that it may take is free;
a fatal record that finds FATALPEND set is dropped and halts its context. A write that faults leaves the record where it is. -/
def postOldest (die : Nat) (s : State) : State :=
  match s.outbound.find? (fun r => r.die == die) with
  | none => s
  | some r =>
    let s1 := { s with outbound := dropOldest die s.outbound }
    if r.type = 3 ∧ bit (rdWin s eqStat) 0 then
      dropFatal r.ctx s1
    else if (r.type = 3 ∧ 1 ≤ eventRoom s) ∨ 2 ≤ eventRoom s then (enterQueue r s1).getD s
    else s

/-- EVENT_WRITE_RETRY (R272): the write of the first record that waits is tried again. -/
def retryPost (s : State) : State :=
  match s.outbound with
  | [] => s
  | r :: _ => postOldest r.die s

end Sys2Proof.Machine
end

