-- ==== Sys2Proof/Machine/World.lean ====
section
/-! DEFINITION. The host link, the fabric, the management port, errors and sparing, power and cooling (10 R316 to R333, 06 R200,
R201, R239). -/

namespace Sys2Proof.Machine

/-- The bytes of HDM (R317). -/
def hdmSize : Nat := 2_048_000_000_000

/-- The storage key of an HDM offset (R317). -/
def hdmKey (h : Nat) : Nat := hbmKey (h / 4096 % 32) (h / 2 ^ 17 * 4096 + h % 4096)

/-- Answer the outside world. -/
def emit (o : Output) (s : State) : State := { s with outputs := s.outputs ++ [o] }

/-! The host. -/

/-- HOST_SNOOP (R316): the line's dirty words are written back to the host and every copy is invalidated. -/
def snoopHost (pa : Nat) (s : State) : State :=
  let line := hostKey (pa % 2 ^ 48) / 128
  (l1Clusters s).foldl (fun a c => flush a c (fun l => l == line)) s

/-- A host write of one byte at its home: a store of the home's own, which clears the word's owner tag and does not reach the L1s
(R318). DESIGN CHOICE (log 107): it fills the home cache under class 0, as the accesses of peers and of IOD0 do. -/
def hostByte (h : Nat) (b : Byte) (s : State) : State :=
  let k := hdmKey h
  wb (tagWrite (touch s k 0 0 true) k none) k b

/-- Write bytes from an HDM offset up. -/
def hostBytes : Nat → List Byte → State → State
  | _, [], s => s
  | h, b :: r, s => hostBytes (h + 1) r (hostByte h b s)

/-- The words that a span of HDM covers whole lose their poison (R328). -/
def cleanWords (h n : Nat) (s : State) : State :=
  (List.range (n / 4 + 1)).foldl (fun a i =>
    let w := (h + 3) / 4 * 4 + 4 * i
    if w + 4 ≤ h + n then { a with poison := cset (fun _ => false) a.poison (hdmKey w / 4) false } else a) s

/-- HOST_MEM_WRITE (R318). -/
def hostWrite (h : Nat) (bs : List Byte) (s : State) : State :=
  if h + bs.length ≤ hdmSize then cleanWords h bs.length (hostBytes h bs s) else emit .refused s

/-- The bytes from an HDM offset up, as the homes hold them. -/
def hdmBytes (s : State) (h : Nat) : Nat → List Byte
  | 0 => []
  | n + 1 => rb s (hdmKey h) :: hdmBytes s (h + 1) n

/-- The words of a span of HDM that carry poison, counted from the word of its first byte. -/
def hdmPoison (s : State) (h n : Nat) : List Nat :=
  (List.range ((h % 4 + n + 3) / 4)).filter (fun i => cget (fun _ => false) s.poison (hdmKey (h / 4 * 4 + 4 * i) / 4))

/-- The lines of a span of HDM. -/
def hdmLines (h n : Nat) : List Nat :=
  if n = 0 then [] else (List.range ((h % 128 + n + 127) / 128)).map (fun i => h / 128 * 128 + 128 * i)

/-- Every line of a span is read at its home. -/
def touchSpan (h n : Nat) (s : State) : State := (hdmLines h n).foldl (fun a x => touch a (hdmKey x) 0 0 false) s

/-- HOST_MEM_READ (R318, R319, R328): the homes' copies, with poison; the snoop filter notes the lines that the host may now
cache. -/
def hostRead (h n : Nat) (s : State) : State :=
  if hdmSize < h + n then emit .refused s else
  let s1 := touchSpan h n s
  let new := ((hdmLines h n).map (fun x => hdmKey x / 128)).filter (fun l => !s1.hostLines.contains l)
  emit (.data (hdmBytes s1 h n) (hdmPoison s1 h n)) { s1 with hostLines := s1.hostLines ++ new }

/-- HOST_WINDOW_READ (R311): the register, or zero, logged, for an access that is refused. -/
def windowRead (o n : Nat) (m : Master) (s : State) : W64 × State :=
  if n = 8 ∧ (regAt o).isSome then (rdWin s o, s) else (0, logRefused s o m)

/-- A read of the window through BAR0. -/
def hostWindowRead (o n : Nat) (s : State) : State :=
  let (v, s1) := windowRead o n .host s
  emit (.data (bytesOf n v.toNat) []) s1

/-! Peers. -/

/-- The span lies in HDM, and where it writes, on no accessioned page (R321). -/
def peerMay (s : State) (h n : Nat) (write : Bool) : Bool :=
  decide (h + n ≤ hdmSize) &&
  !(write && (List.range n).any (fun i => accessionOf s (hdmKey (h + i)) != 0))

/-- PEER_READ (R321, R239). -/
def peerRead (h n : Nat) (s : State) : State :=
  if peerMay s h n false then emit (.data (hdmBytes s h n) (hdmPoison s h n)) (touchSpan h n s) else emit .refused s

/-- ACCESSIONED_READ (R239, R321, R328): one line, and its accession number or 0. -/
def peerLine (h : Nat) (s : State) : State :=
  let a := h / 128 * 128
  if peerMay s a 128 false then
    emit (.accession (accessionOf s (hdmKey a)) (hdmBytes s a 128) (hdmPoison s a 128)) (touchSpan a 128 s)
  else emit .refused s

/-- Write the words of a list whose mask is set, from an HDM offset up. -/
def peerWords : Nat → List W32 → List Bool → State → State
  | h, w :: ws, m :: ms, s =>
    peerWords (h + 4) ws ms (if m then homeWrite s (hdmKey h) (bytesOf 4 w.toNat) 0 2 none else s)
  | _, _, _, s => s

/-- The recorded response of a request in the window that a home keeps for its module and requester (R201, R320). -/
def recorded (s : State) (src : PeerId) (seq h : Nat) : Option W64 :=
  (s.performed.find? (fun p => p.src == src && p.md == hdmKey h / 2 ^ 36 && p.seq == seq)).map (·.resp)

/-- Record a performed request; the home keeps the newest 2,048 of each module and requester, the newest first (R201, R320). -/
def record (src : PeerId) (seq h : Nat) (resp : W64) (s : State) : State :=
  let md := hdmKey h / 2 ^ 36
  let mine (p : Performed) : Bool := p.src == src && p.md == md
  { s with performed := (⟨src, md, seq, resp⟩ :: s.performed.filter mine).take 2048 ++ s.performed.filter (fun p => !mine p) }

/-- PEER_WRITE (R201, R321): a class 2 store at the home, performed once and acknowledged; a request already in the window is
acknowledged again. -/
def peerWrite (dest : PeerReq) (ws : List W32) (mask : List Bool) (s : State) : State :=
  if (recorded s dest.src dest.seq dest.hdm).isSome then emit (.data [] []) s
  else if !peerMay s dest.hdm (4 * ws.length) true then emit .refused s
  else emit (.data [] []) (record dest.src dest.seq dest.hdm 0 (peerWords dest.hdm ws mask s))

/-- The selector of an operation (Table 3-7). -/
def rmwCode : RmwOp → Nat
  | .add => 0
  | .min => 1
  | .max => 2
  | .and => 3
  | .or => 4
  | .xor => 5
  | .xchg => 6
  | .fadd => 7
  | .fmin => 8
  | .fmax => 9

/-- The size of a peer's read-modify-write: 4 or 8 bytes. -/
def rmwSize : PeerRmw → Nat
  | .rmw _ _ n _ => if n = 8 then 8 else 4
  | .cas n _ _ => if n = 8 then 8 else 4

/-- The value that a peer's read-modify-write leaves; none when it writes nothing. -/
def rmwNew (op : PeerRmw) (old : Nat) : Option Nat :=
  let n := rmwSize op
  match op with
  | .rmw o sx _ x => some (rmwValue n (rmwCode o) sx old (x.toNat % 2 ^ (8 * n)))
  | .cas _ e x => if old = e.toNat % 2 ^ (8 * n) then some (x.toNat % 2 ^ (8 * n)) else none

/-- PEER_ATOMIC (R177, R178, R201, R321, R328): performed once at the home; a request already in the window gets its recorded
response, and one of a word that carries poison gets the poison and writes nothing. -/
def peerAtomic (src : PeerId) (seq h : Nat) (op : PeerRmw) (s : State) : State :=
  let n := rmwSize op
  let k := hdmKey h
  match recorded s src seq h with
  | some v => emit (.data (bytesOf n v.toNat) []) s
  | none =>
    if !peerMay s h n true || h % n != 0 then emit .refused s else
    let s1 := touch s k 0 0 false
    let old := natOf (rbs s1 k n)
    let bad := hdmPoison s1 h n
    if !bad.isEmpty then emit (.data (bytesOf n old) bad) s1 else
    let s2 := match rmwNew op old with
      | some x => homeWrite s1 k (bytesOf n x) 0 0 none
      | none => clearOwners s1 k n
    emit (.data (bytesOf n old) []) (record src seq h (BitVec.ofNat 64 old) s2)

/-! Requests in flight. -/

/-- The group that holds an issued instruction with an id, and its place among those in flight. -/
def requestOf (s : State) (id : Nat) : Option (Group × Nat) :=
  (allGroups s).findSome? (fun g =>
    if g.live then (g.inflight.findIdx? (fun e => e.id == id)).map (fun i => (g, i)) else none)

/-- The instruction of a request. -/
def requestInstr (s : State) (id : Nat) : Option Instr :=
  (requestOf s id).bind (fun r =>
    match r.1.inflight[r.2]? with
    | some e => match decode e.word e.ext with
      | .instr i _ => some i
      | .illegal _ => none
    | none => none)

/-- Perform the issued instructions of the current group up to and with one of them (R269). -/
def drainTo (n : Nat) (s : State) : State :=
  match drain n s with
  | .ok _ s1 => s1
  | .trap t s1 => takeTrap t true s1
  | .fatal c b a s1 => fatalEnd c b a s1
  | .block b s1 => onG (fun g => { g with block := some b }) s1
  | .stall s1 => s1

/-- A held request whose instruction satisfies a test is performed, after those issued before it. -/
def performRequest (p : Instr → Bool) (id : Nat) (s : State) : State :=
  match requestOf s id, requestInstr s id with
  | some (g, i), some x => if p x then withGroup g.id (drainTo (i + 1)) s else s
  | _, _ => s

/-- Atomics and reductions. -/
def isRmw : Instr → Bool
  | .atom _ | .cas _ | .red _ => true
  | _ => false

/-- Stores, atomics and reductions, which a registrar multicasts. -/
def isUpdate : Instr → Bool
  | .st _ | .sst _ | .atom _ | .cas _ | .red _ => true
  | _ => false

/-- Update the issued instructions of every group. -/
def onInflight (f : InFlight → InFlight) : State → State := mapGroups (fun g => { g with inflight := g.inflight.map f })

/-- REQUEST_REISSUE_TIMEOUT of an engine's request (R200); ADDR of the link fault's record is the address that the command last paused at,
else 0 (log 115). -/
def reissueCmd (c : Cmd) (s : State) : State :=
  if c.tries < 16 then onCmd c.id (fun x => { x with tries := x.tries + 1, lost := false }) s
  else engineStop c (.fatal 0x23 0 (c.paused.getD 0) s)

/-- The asker whose requests go by a request id (log 74): from 2^32 up they alternate between the ports of contexts, the issuing groups, the
arrays for groups, and the lines of clusters. -/
def askerOf (id : Nat) : Option Asker :=
  let n := (id - 2 ^ 32) / 4
  if id < 2 ^ 32 then none
  else if id % 4 = 0 then (if n < 16 then some (.ioPort n) else none)
  else if id % 4 = 1 then some (.issuer n)
  else if id % 4 = 2 then some (.arrays n)
  else some (.line (n / 2 ^ 48) (n % 2 ^ 48))

/-- An instruction makes requests as it issues. -/
def asksAtIssue (i : Instr) : Bool :=
  writesNow i || (match i with
    | .mwait _ | .pfetch _ | .tlbinv _ | .harvest _ | .accsn _ | .cmaint _ | .rfe _ | .xscan _ => true
    | _ => false)

/-- A group that is to issue makes requests: for a register, for the words of its next instruction, or for what that instruction does as it
issues. -/
def asksNow (s : State) (g : Group) : Bool :=
  mayIssue g && ((focus (fun x => x.id == g.id) s).map (fun a =>
    !a.g.absent.isEmpty || (match fetchInstr a with
      | .ok (w0, w1) a1 => a1.icache != a.icache || a1.tlb.length != a.tlb.length || (match decode w0 w1 with
        | .instr i _ => asksAtIssue i
        | .illegal _ => false)
      | _ => true))).getD false

/-- An asker has a request on its way: IOD0 for a context whose enabled queue may be read, whose bolts or panels stand, or whose
tables take records; a group that asks now; the arrays for an accepted XSCAN; a cluster with dirty words of the line. -/
def asking (s : State) : Asker → Bool
  | .ioPort c => (List.range 16).any (fun n => let q := rdWin s (queueReg n 0x10)
      bit q 0 && fld q 2 4 == c && bit (rdWin s (ctxReg c 0)) 63 && !queueHeld s n) ||
      s.bolts.any (fun b => b.ctx == c) || s.panels.any (fun p => p.ctx == c) || (c == 0 && !s.outbound.isEmpty)
  | .issuer id => (allGroups s).any (fun g => g.id == id && asksNow s g)
  | .arrays id => needsOps scansMemory id s
  | .line cl line => (List.range 32).any (fun i => (l1Get s cl line i).any (·.dirty))

/-- A link fault of a context that no group has met: the record names no group (R200, R274). -/
def linkFault (c : Nat) (s : State) : State :=
  killCtx c (bump (postRec (queueRec s (ctxQueue s c) 3 0x23 0 (Config.freeW64 s.free 1) c) s))

/-- The contexts with panels. -/
def busyCtxs (s : State) : List Nat := (List.range 16).filter (fun c => s.panels.any (fun p => p.ctx == c))

/-- The link fault of an asker (R200): of the arrays and of a group as it issues, that of the group; of a line that a cluster writes back, that
of one of the contexts with panels, as nothing says whose store its words hold (log 74). -/
def linkFaultOf (a : Asker) (s : State) : State :=
  match a with
  | .ioPort c => linkFault c s
  | .issuer id | .arrays id => withGroup id (fun x => fatalCtx 0x23 0 x.g.tfault x) s
  | .line _ _ => ((busyCtxs s)[Config.choose s.free 0 % (busyCtxs s).length]?).elim s (fun c => linkFault c (bump s))

/-- REQUEST_REISSUE_TIMEOUT of a lost request of an asker (R200, R274; log 74). -/
def reissueAsker (a : Asker) (s : State) : State :=
  match s.reqLost.find? (fun e => e.1 == a) with
  | none => s
  | some e =>
    if e.2 < 16 then { answered a s with reqLost := (answered a s).reqLost ++ [(a, e.2 + 1)] }
    else linkFaultOf a (answered a s)

/-- REQUEST_REISSUE_TIMEOUT (R200): the request is sent again; after sixteen reissues it ends in the link fault. -/
def reissue (id : Nat) (s : State) : State :=
  match requestOf s id with
  | none => match cmdOf s id, askerOf id with
    | some c, _ => reissueCmd c s
    | none, some a => reissueAsker a s
    | none, none => s
  | some (g, i) =>
    if (g.inflight[i]?.map (·.tries)).getD 0 < 16 then
      onInflight (fun e => if e.id = id then { e with tries := e.tries + 1, lost := false } else e) s
    else
      match focus (fun x => x.id == g.id) s with
      | some s1 => fatalCtx 0x23 0 s1.g.tfault s1
      | none => s

/-- A request that an asker has on its way is lost; one that has been lost before keeps its count of reissues. -/
def loseAsker (a : Asker) (s : State) : State :=
  if !asking s a || s.reqLost.any (fun e => e.1 == a) then s else { s with reqLost := s.reqLost ++ [(a, 0)] }

/-- FLIT_CRC_DROP (R320): a request of an instruction in flight, of an engine's command or of an asker is lost on the fabric until it is
reissued. -/
def dropFlit (id : Nat) (s : State) : State :=
  let s1 := onCmd id (fun c => { c with lost := true }) (onInflight (fun e => if e.id = id then { e with lost := true } else e) s)
  (askerOf id).elim s1 (fun a => loseAsker a s1)

/-- The addresses in memory that an engine command comes to next. -/
def nextAddrs (c : Cmd) : List W64 :=
  let at_ (a : Nat) : W64 := BitVec.ofNat 64 a
  match c.kind with
  | .copy _ ssp dsp src dst rowlen _ sstr dstr =>
    (if ssp then [] else [at_ (src + c.done / rowlen * sstr + c.done % rowlen)]) ++
    (if dsp then [] else [at_ (dst + c.done / rowlen * dstr + c.done % rowlen)])
  | .qnt _ d0 d1 _ d3 =>
    let n := fld d3 12 12
    let esz := if fld d3 44 2 = 0 then 4 else 2
    let i := c.read / esz
    (if bit d0 63 then [] else [at_ (descAddr d0 + i / n * fld d3 24 20 + i % n * esz)]) ++
    (if bit d1 63 then [] else [at_ (descAddr d1 + c.done)])
  | _ => []

/-- An engine command comes next to addresses that what it reads from memory gives: nodes and leaves, pixels and drawers. -/
def followsMemory (c : Cmd) : Bool :=
  match c.kind with
  | .ray .. | .seam _ => true
  | _ => false

/-- The homes on a memory-side die that an access goes to: of a load of a replicated page the near replica, of an update every replica
(R180, R181). -/
def goesTo (md : Nat) (write : Bool) (p : Phys) : Bool :=
  let on (k : Nat) : Bool := isHbm k && k / 2 ^ 36 == md
  if !write then on p.rkey else if p.rp then (replicaKeys (p.key / 2 ^ 36) (p.key % 2 ^ 36)).any on else on p.key

/-- A captured instruction is one of the stores and read-modify-writes whose addresses it holds itself. -/
def updates (e : InFlight) : Bool :=
  match decode e.word e.ext with
  | .instr i _ => storesMemory i && !byDescriptor e
  | .illegal _ => false

/-- The accesses in flight toward a memory-side die that is reset are lost until they are reissued (R326, R200): those of groups, of
engine commands and of the arrays. Where addresses depend on what memory holds, any access may be on its way there (log 69). -/
def loseToward (md : Nat) (s : State) : State :=
  let at_ (write : Bool) (g : Group) (va : W64) : Bool := (objectPlace s g va).any (goesTo md write)
  let chance (id : Nat) : Bool := Config.choose s.free id % 2 == 1
  let toward (g : Group) (e : InFlight) : Bool := (sentAddrs e).any (at_ (updates e) g) || (byDescriptor e && chance e.id)
  let gone (c : Cmd) : Bool :=
    let g := (cmdGroup s c).getD Group.empty
    (nextAddrs c).any (fun a => at_ false g a || at_ true g a) || (followsMemory c && chance c.id)
  let scans (g : Group) : Bool := needsOps scansMemory g.id s && chance g.id
  let s1 := ((allGroups s).filter (fun g => g.live && scans g)).foldl (fun a g => loseAsker (.arrays g.id) a) s
  bump (mapGroups (fun g => { g with inflight := g.inflight.map (fun e => if toward g e then { e with lost := true } else e) })
    { s1 with cmds := s1.cmds.map (fun c => if gone c then { c with lost := true } else c) })

/-- AD_FLUSH_TIMEOUT (R195): the settings of one TLB entry are written to its table. -/
def flushAd (core tag page : Nat) (s : State) : State :=
  writeTlbAd (fun e => e.core == core && e.ctx == tag && e.base == page) s

/-! Errors and sparing. -/

/-- Append an entry to the sparing log (R330): unit and action in the first word, the place in the second. -/
def logSpare (unit action place : Nat) (s : State) : State :=
  let n := (rdWin s spheadOff).toNat
  let i := n % 256
  wrWin (wrWin (wrWin s (splogReg (2 * i)) (BitVec.ofNat 64 (unit + action * 2 ^ 32))) (splogReg (2 * i + 1)) (BitVec.ofNat 64 place))
    spheadOff (BitVec.ofNat 64 (n + 1))

/-- The lowest core of a die that is not fenced. -/
def liveCore (s : State) (die : Nat) : Option Nat := (coresOf die).find? (fun c => !fenced s c)

/-- A core is fenced (Table 10-8, R38): its resident panels are targeted, and its bins go to the lowest live core of the die. -/
def fenceCore (core : Nat) (s : State) : State :=
  let o := cfenceReg (core / 48)
  let s1 := wrWin s o (rdWin s o ||| (1#64 <<< (core % 48)))
  let owner := (liveCore s1 (core / 48)).getD core
  target .host (panelsOn s1 core (fun _ => true))
    { s1 with bins := s1.bins.map (fun b => if b.owner = core then { b with owner := owner } else b) }

/-- The line that lies in the frame to be disabled, where it is not an empty one: the one named, else in a full set any (log 70). -/
def frameLine (s : State) (md line : Nat) : Option HomeLine :=
  let inset := s.lines.filter (fun h => h.md == md && h.off % 32768 == line % 32768)
  match inset.find? (fun h => h.off == line) with
  | some h => some h
  | none => if setSize s md (line % 32768) ≤ inset.length then inset[Config.choose s.free 0 % inset.length]? else none

/-- The frame of a home cache that holds a line is disabled, the line written to HBM first if it is dirty (Table 10-8, R460). -/
def loseWay (md line : Nat) (s : State) : State :=
  let s1 := match frameLine s md line with
    | some h => bump (evictLine s h)
    | none => s
  { s1 with lostWays := s1.lostWays ++ [(md, line % 32768)] }

/-- A port degrades to one lane, or goes down at a second lasting fault (Table 10-8). -/
def degradePort (p : Nat) (s : State) : State :=
  let o := pstatReg p
  wrWin s o (setFld (rdWin s o) 0 2 (if fld (rdWin s o) 0 2 = 2 then 1 else 0))

/-- The number of a unit's sparing action (Table 10-8; log 70). -/
def actionOf (unit : Nat) : Nat := if unit < 384 then 0 else if unit < 416 then 1 else if unit < 448 then 2 else 3

/-- The sparing action of a unit at a place (Table 10-8): a core, a bank and row of HBM, a line of a home cache, or a port; every
action is logged. The spare rows of a bank are counted by die and bank number `place / 2^20`. -/
def spareAction (unit place : Nat) (s : State) : State :=
  if unit < 384 then logSpare unit 0 place (fenceCore unit s)
  else if unit < 416 then
    let md := unit - 384
    let bank := md * 2 ^ 20 + place / 2 ^ 20
    let used := cget (fun _ => 0) s.spareRows bank
    if used < 8 then
      logSpare unit 1 place { s with spareRows := cset (fun _ => 0) s.spareRows bank (used + 1), rowCopies := s.rowCopies ++ [(md, place)] }
    else logSpare unit 1 place s
  else if unit < 448 then logSpare unit 2 place (loseWay (unit - 416) place s)
  else logSpare unit 3 place (degradePort (unit - 448) s)

/-- LAST is set and the action runs (R329, R325). -/
def spareUnit (unit place : Nat) (s : State) : State :=
  let o := cecReg unit
  spareAction unit place (wrWin s o (setFld (rdWin s o) 48 1 1))

/-- COUNT of a unit exceeds its THR, and THR does not disable sparing (R329). -/
def overThreshold (c : W64) : Bool := decide (fld c 32 16 ≠ 0xFFFF ∧ fld c 32 16 < fld c 0 32)

/-- The lasting fault of a unit has been noted. -/
def noted (s : State) (unit : Nat) : Bool := cget (fun _ => false) s.lasting unit

/-- A unit whose COUNT has come to exceed its THR has a lasting fault: its action runs once, and that of a port that is not down a second time;
one whose COUNT no longer exceeds it may come to another (R329, Table 10-8). -/
def noteLasting (unit : Nat) (s : State) : State :=
  let c := rdWin s (cecReg unit)
  if overThreshold c == noted s unit then s else
  let s1 := { s with lasting := cset (fun _ => false) s.lasting unit (overThreshold c) }
  let again := !bit c 48 || (decide (448 ≤ unit) && decide (fld (rdWin s (pstatReg (unit - 448))) 0 2 ≠ 0))
  if overThreshold c && again then spareUnit unit (cget (fun _ => 0) s.lastFix unit) s1 else s1

/-- A correction in a unit at a place (R327, R329): counted, and when COUNT comes to exceed THR the fault is lasting. -/
def countCorrected (unit place : Nat) (s : State) : State :=
  let o := cecReg unit
  let c := rdWin s o
  let n := if fld c 0 32 = 0xFFFF_FFFF then 0xFFFF_FFFF else fld c 0 32 + 1
  noteLasting unit (wrWin { s with lastFix := cset (fun _ => 0) s.lastFix unit place } o (setFld c 0 32 n))

/-- The unit of a CEC whose lasting fault has still to be noted: a write has lowered THR. -/
def newlyLasting (s : State) (o : Nat) (c : W64) : Option Nat :=
  match regAt o with
  | some (.cec u) => if overThreshold c && !noted s u then some u else none
  | _ => none

/-- The lasting fault of a unit is noted, or is no more (R329). -/
def dueSpare (s : State) : Option State :=
  ((s.win.findSome? (fun e => newlyLasting s e.1 e.2)).orElse (fun _ =>
    (s.lasting.find? (fun e => !overThreshold (rdWin s (cecReg e.1)))).map (·.1))).map (fun u => noteLasting u s)

/-- CEC_WINDOW_BOUNDARY (R329). -/
def endWindow (unit : Nat) (s : State) : State :=
  let o := cecReg unit
  wrWin s o (setFld (rdWin s o) 0 32 0)

/-- HBM_ROW_COPY_DONE (R329, Table 10-8): the oldest copy of a stack ends. -/
def rowCopied (md : Nat) (s : State) : State :=
  match s.rowCopies.find? (fun e => e.1 == md) with
  | some e => { s with rowCopies := s.rowCopies.erase e }
  | none => s

/-- The CEC unit of a line's L1 slice: the core of the cluster whose number the slice has (R170, Table 10-8). -/
def sliceUnit (cl line : Nat) : Nat := 4 * cl + sliceOf line

/-- A cluster takes one word from its home: the seen bit of a word that another cluster owns is set (R177). -/
def seeWord (s : State) (k cluster : Nat) : State :=
  { s with tags := s.tags.map (fun e =>
      if e.1 = k / 4 then (e.1, e.2.map (fun t => if t.cluster = cluster then t else { t with seen := true })) else e) }

/-- An uncorrectable error in a word of a cluster's L1 (Table 10-7): a clean word is fetched again from its home, which counts as a
correction; a dirty word is poisoned. -/
def lostL1Word (cl line i : Nat) (s : State) : State :=
  match l1Get s cl line i with
  | none => s
  | some e =>
    if e.dirty then l1Set s cl line i (some { e with poison := true })
    else
      let s1 := seeWord (touch s e.store e.quota e.alloc false) e.store cl
      countCorrected (sliceUnit cl line) line (l1Set s1 cl line i (some { e with val := rw4 s1 e.store, poison := poisonAt s1 e.store }))

/-- The poison that the OR of a translation buffer has met in a table entry of a context tag ends the contexts that use the tag, with the
record of cause 0x28 (R195, R328; log 108). -/
def walkerError (tag key : Nat) (s : State) : State :=
  ((List.range 16).filter (fun c => bit (rdWin s (ctxReg c 0)) 63 && ctxTag s c == tag)).foldl (fun a c =>
    killCtx c (bump (postRec (queueRec a (ctxQueue a c) 3 0x28 (homeSub a key) (Config.freeW64 a.free 1) c) a))) s

/-- A hardware error that the next instruction meets (R327, R328, R72). -/
def meetError (e : HwError) (s : State) : State :=
  match e with
  | .corrected u p => if u < 576 then countCorrected u p s else s
  | .lostWord k => { s with poison := cset (fun _ => false) s.poison (k / 4) true }
  | .lostL1 line i => lostL1Word (s.g.core / 4) line i s
  | .poisonedPte tag k => walkerError tag k s
  | .poolWord => if s.g.live then fatalPanel 0x20 0 s.g.tfault s else s

/-! Resets. -/

/-- A context has a resident panel or engine work on a die. -/
def worksOn (s : State) (c die : Nat) : Bool :=
  s.panels.any (fun p => p.ctx == c && p.resident && p.core / 48 == die) ||
  s.cmds.any (fun x => panelCtx s x.panel == c && x.core / 48 == die)

/-- Kill, with no record, the contexts that work on a die (R326). -/
def killWorkers (die : Nat) (s : State) : State :=
  ((List.range 16).filter (fun c => worksOn s c die)).foldl (fun a c => ctxKillNow c a) s

/-- The correctable-error counts of units start anew at their reset (R329). -/
def clearCounts (units : List Nat) (s : State) : State := units.foldl (fun a u => endWindow u a) s

/-- A compute die returns to its reset state (R326): its cores, L1s, TLBs, instruction caches and spawn bins, with what its
reservations held. DESIGN CHOICE (log 112): its spawn-pool registers, formed groups and open passes go too. -/
def resetCompute (die : Nat) (s : State) : State :=
  let s1 := clearCounts ((List.range 48).map (fun j => 48 * die + j)) (killWorkers die s)
  let on (core : Nat) : Bool := core / 48 == die
  mapGroups (fun g => { g with reserved := g.reserved.filter (fun r => r.die != die) })
    { s1 with
      cyc := ckeep (fun c => !on c) s1.cyc
      l1 := ckeep (fun k => !on (l1Cluster k * 4)) s1.l1
      tlb := s1.tlb.filter (fun e => !on e.core)
      icache := ckeep (fun k => !on (k / 2 ^ 62)) s1.icache
      bins := s1.bins.filter (fun b => b.die != die)
      formed := s1.formed.filter (fun f => f.die != die)
      passes := s1.passes.filter (fun p => p.die != die)
      spnbase := ckeep (fun d => d != die) s1.spnbase
      spnsize := ckeep (fun d => d != die) s1.spnsize
      spntmo := ckeep (fun d => d != die) s1.spntmo }

/-- A home cache is discarded with no write-back; its stack keeps its contents, and accesses on their way to it are lost (R326, R460). -/
def resetMemory (md : Nat) (s0 : State) : State :=
  let s := clearCounts [384 + md, 416 + md] (loseToward md s0)
  let s1 := (s.lines.filter (fun h => h.md == md)).foldl (fun a h =>
    dropTags (putMarks (match h.old with | some bs => wbs a (hbmKey md (h.off * 128)) bs | none => a) md h.off h.marks) md h.off) s
  { s1 with lines := s1.lines.filter (fun h => h.md != md) }

/-- The ports of IOD1 are down until they train again, and its translation cache is empty (R326). -/
def resetIod1 (s : State) : State :=
  let s1 := clearCounts ((List.range 64).map (fun p => 512 + p)) { s with tlb := s.tlb.filter (fun e => e.core != 385) }
  (List.range 64).foldl (fun a p => wrWin a (pstatReg (64 + p)) 0) s1

/-- Reset a die by its number of R332: 0 to 7, 8 to 39, 41. -/
def resetDie (d : Nat) (s : State) : State :=
  if d < 8 then resetCompute d s else if d < 40 then resetMemory (d - 8) s else if d = 41 then resetIod1 s else s

/-- RESET (R325, R326): the dies that the mask names. -/
def resetDies (mask : BitVec 41) (s : State) : State :=
  (List.range 41).foldl (fun a i => if mask.getLsbD i then resetDie (if i = 40 then 41 else i) a else a) s

/-- POWER_ON_RESET (R326): the module is as after reset; host and peer memory is not the module's. -/
def powerOn (s : State) : State :=
  { State.reset with
    mem := ckeep (fun k => decide (2 ^ 48 ≤ k)) s.mem
    nextId := s.nextId, free := s.free, holds := s.holds, refetch := s.refetch, fills := s.fills, turns := s.turns
    errors := s.errors, inputs := s.inputs, outputs := s.outputs }

/-! The management port. -/

/-- An answer with a completion code. -/
def complete (code : Nat) (v : W64) (s : State) : State := emit (.code code v) s

/-- READ (R325): an offset that no register has is a bad argument, and the access is logged (R311). -/
def mgmtRead (o : Nat) (s : State) : State :=
  let (v, s1) := windowRead o 8 .mgmt s
  complete (if (regAt o).isSome then 0 else 1) v s1

/-- WRITE (R312, R325). -/
def mgmtWrite (o : Nat) (v : W64) (s : State) : State :=
  let code := if (regAt o).isNone then 1 else if mayWrite s o .mgmt then 0 else 2
  complete code 0 (winWrite o 8 v .mgmt s)

/-- The offset is the base of a block with a BLKCTL (Table 10-1). -/
def isBlockBase (o : Nat) : Bool :=
  o == schedBase || o == fabBase || o == relBase || o == powBase || (List.range 32).any (fun n => o == mdBase n)

/-- TAKE and GIVE (Table 10-6). -/
def setOwner (o v : Nat) (s : State) : State :=
  if o = 0 then complete 2 0 s
  else if isBlockBase o then complete 0 0 (wrWin s (blkctlOff o) (BitVec.ofNat 64 v))
  else complete 1 0 s

/-- SPARE (R325, R329): the unit's action at the place of its last correction; a unit that does not exist, or an action that is not the
unit's, is a bad argument. -/
def forceSpare (unit action : Nat) (s : State) : State :=
  if unit < 576 ∧ action = actionOf unit then complete 0 0 (spareUnit unit (cget (fun _ => 0) s.lastFix unit) s) else complete 1 0 s

/-- TELEM: temperatures, powers and clocks of every die, and EQSTAT. -/
def telemetry (s : State) : State :=
  let st (d : Nat) : W64 := rdWin s (pstateReg d)
  let ds := List.range 42
  complete 0 0 <| emit (.telem (ds.map (fun d => BitVec.ofNat 64 (fld (st d) 24 8)) ++ ds.map (fun d => BitVec.ofNat 64 (fld (st d) 32 32)) ++
    ds.map (fun d => BitVec.ofNat 64 (fld (st d) 0 16)) ++ [rdWin s eqStat])) s

/-- CLRFOVF (R325). -/
def clearOverflow (s : State) : State := complete 0 0 (wrWin s eqStat (setFld (rdWin s eqStat) 1 1 0))

/-! Power. -/

/-- The cap that Table 10-9 gives a die, in watts. -/
def tableCap (d : Nat) : Nat := if d < 8 then 480 else if d < 40 then 75 else 400

/-- A register as it stood at the start of the power window (R332). -/
def atStart (s : State) (o : Nat) : Nat := fld (cget winReset s.capStart o) 0 16

/-- The cap of a die and the module limit of this window (Table 10-10). -/
def dieCap (s : State) (d : Nat) : Nat := min (tableCap d) (atStart s (pcapReg d))
def moduleCap (s : State) : Nat := min 6000 (atStart s pmodOff)

/-- The nominal and the lowest clock of a die in MHz. -/
def nominalMhz (d : Nat) : Nat := if d < 8 then 1200 else if d < 40 then 1600 else 1000
def lowestMhz (d : Nat) : Nat := if d < 8 then 400 else 800

/-- Clock steps that a compute die loses when the module exceeds its limit: in proportion to its share of the power of the compute
dies, by a factor that is not stated (R331; log 21). -/
def shareSteps (s : State) (mw dies : Nat) : Nat :=
  if dies = 0 then 1 else (mw * (Config.choose s.free 0 % 64 + 1) + dies - 1) / dies

/-- PSTATE of a die at the end of a window (R331, R333, Table 10-10). -/
def powerStep (s : State) (total dies mw tj d : Nat) : W64 :=
  let old := rdWin s (pstateReg d)
  let mhz := fld old 0 16
  let overDie := decide (1000 * dieCap s d < mw)
  let overAll := decide (1000 * moduleCap s < total) && decide (d < 8)
  let hot := decide (95 ≤ tj)
  let down := (if overDie || hot then 1 else 0) + (if overAll then shareSteps s mw dies else 0)
  let new :=
    if 40 ≤ d then mhz
    else if 0 < down then max (lowestMhz d) (mhz - 100 * down)
    else if mw * 100 < 95 * (1000 * dieCap s d) ∧ overAll = false then min (nominalMhz d) (mhz + 100)
    else mhz
  let lowered := decide (new < nominalMhz d)
  let pc := lowered && (bit old 16 || overDie || overAll)
  let tc := lowered && (bit old 17 || hot)
  BitVec.ofNat 64 (new + (if pc then 2 ^ 16 else 0) + (if tc then 2 ^ 17 else 0) + min tj 255 * 2 ^ 24 + mw % 2 ^ 32 * 2 ^ 32)

/-- A die that has reached 115 °C is latched and reset; IOD0 is latched only (R332, R333). -/
def thermalTrip (d tj : Nat) (s : State) : State :=
  if tj < 115 then s else
  let s1 := wrWin s tlatchOff (rdWin s tlatchOff ||| (1#64 <<< d))
  if d = 40 then s1 else resetDie d s1

/-- POWER_WINDOW_END (R331 to R333), with the power in milliwatts and the temperature of every die over the window. -/
def endPower (mw tj : List Nat) (s : State) : State :=
  let total := mw.foldl (· + ·) 0
  let dies := (mw.take 8).foldl (· + ·) 0
  let ds := List.range 42
  let s1 := ds.foldl (fun a d => wrWin a (pstateReg d) (powerStep s total dies (mw.getD d 0) (tj.getD d 0) d)) s
  let s2 := ds.foldl (fun a d => thermalTrip d (tj.getD d 0) a) s1
  bump { s2 with capStart := csetAll winReset [] (((List.range 42).map pcapReg ++ [pmodOff]).map (fun o => (o, rdWin s2 o))) }

/-! Links. -/

/-- SVETFEN_LINK_TRAIN (R330): the lanes of a port's link. -/
def trainPort (p lanes : Nat) (s : State) : State :=
  wrWin s (pstatReg p) (setFld (rdWin s (pstatReg p)) 0 2 (min lanes 2))

/-- The greatest setting of a list in falling order that a limit admits; 0 where there is none. -/
def bestOf (l : List Nat) (limit : Nat) : Nat := (l.find? (fun x => decide (x ≤ limit))).getD 0

/-- HOST_LINK_TRAIN (R315): the link trains to the best common width and rate, given the greatest that the other end supports. -/
def trainHost (width rate : Nat) (s : State) : State :=
  let w := bestOf [16, 8, 4] width
  let r := bestOf [128, 64, 32] rate
  { s with hostLink := if w = 0 ∨ r = 0 then (0, 0) else (w, r) }

end Sys2Proof.Machine
end

