-- ==== Sys2Proof/Machine/Events.lean ====
section
/-! DEFINITION. The events of the opcode table: what the engines, the dispatcher, the homes, the host, peers and the management
port do. An event whose condition does not hold changes nothing. -/

namespace Sys2Proof.Machine

/-- An event takes effect as one step. -/
def event (f : State → State) (s : State) : Out := .next (commit s (f s))

/-! Groups. -/

/-- ENGINE_FAULT_DELIVERY (R263). -/
def execEngineFaultDelivery (grp : Nat) (s : State) : Out := event (withGroup grp deliverFault) s
/-- ENGINE_TRANSLATION_FAULT (R236). -/
def execEngineTranslationFault (cmd : Nat) (s : State) : Out := event (faultCmd cmd) s
/-- REGISTER_MISS_FETCH (R258). -/
def execRegisterMissFetch (grp : Nat) (s : State) : Out := event (fetchMiss grp) s
/-- WAKE_BLOCKED_GROUP (R252). -/
def execWakeBlockedGroup (grp : Nat) (s : State) : Out := event (wakeGroup grp) s
/-- LDTHR_EXPIRY (R252). -/
def execLdthrExpiry (grp : Nat) (s : State) : Out := event (expireLoad grp) s
/-- PEER_WINDOW_REREAD (R386). -/
def execPeerWindowReread (grp : Nat) (s : State) : Out := event (rereadPeer grp) s

/-! The dispatcher. -/

/-- DISPATCH_TAKE_RECORD (R246). -/
def execDispatchTakeRecord (queue : Nat) (s : State) : Out := event (takeRecord queue) s
/-- DEPENDENCE_RELEASE (R32). -/
def execDependenceRelease (queue : Nat) (s : State) : Out := event (releaseBolt queue) s
/-- PANEL_PLACE (R248). -/
def execPanelPlace (s : State) : Out := event placePanel s
/-- PANEL_COMPLETE (R34). -/
def execPanelComplete (panel : Nat) (s : State) : Out := event (completePanel panel) s
/-- PREEMPT_REQUEST (R254). -/
def execPreemptRequest (die : Nat) (s : State) : Out := event (requestPreempt die) s
/-- PANEL_EVICT (R255). -/
def execPanelEvict (panel : Nat) (s : State) : Out := event (evictPanel panel) s
/-- IDLE_EVICT_TIMEOUT (R255). -/
def execIdleEvictTimeout (panel : Nat) (s : State) : Out := event (evictIdle panel) s
/-- PANEL_RESTORE (R256). -/
def execPanelRestore (panel : Nat) (s : State) : Out := event (restorePanel panel) s
/-- SLICE_END (R254). -/
def execSliceEnd (ctx die : Nat) (s : State) : Out := event (endSlice ctx die) s
/-- RUN_BUDGET_EXPIRY (R260). -/
def execRunBudgetExpiry (grp : Nat) (s : State) : Out := event (expireRun grp) s
/-- WAIT_BUDGET_EXPIRY (R261). -/
def execWaitBudgetExpiry (grp : Nat) (s : State) : Out := event (expireWait grp) s
/-- CONTEXT_SNAPSHOT (R262). -/
def execContextSnapshot (ctx : Nat) (s : State) : Out := event (snapshot ctx) s

/-! Records and the host's answers. -/

/-- FAULT_RECORD_POST (R273). -/
def execFaultRecordPost (die : Nat) (s : State) : Out := event (postOldest die) s
/-- EVENT_WRITE_RETRY (R272). -/
def execEventWriteRetry (s : State) : Out := event retryPost s
/-- A host write of FRESP with an index and an ACT (R274). -/
def hostAnswer (index act : Nat) : State → State := winWrite frespOff 8 (BitVec.ofNat 64 (index % 2 ^ 32 + act * 2 ^ 32)) .host
/-- FRESP_RESUME (R274). -/
def execFrespResume (index : Nat) (s : State) : Out := event (hostAnswer index 0) s
/-- FRESP_KILL (R274). -/
def execFrespKill (index : Nat) (s : State) : Out := event (hostAnswer index 1) s
/-- A host write of CTXMISC that sets one command bit and leaves the fields that a write sets as they are (Table 8-1). -/
def hostCommand (c n : Nat) (s : State) : State :=
  let o := ctxReg c 0x28
  winWrite o 8 (BitVec.ofNat 64 (fld (rdWin s o) 0 32 + 2 ^ n)) .host s
/-- CTX_PREEMPT (R254). -/
def execCtxPreempt (ctx : Nat) (s : State) : Out := event (hostCommand ctx 34) s
/-- CTX_KILL (R244). -/
def execCtxKill (ctx : Nat) (s : State) : Out := event (hostCommand ctx 35) s
/-- CTX_STOP_RESUME (R261). -/
def execCtxStopResume (ctx : Nat) (s : State) : Out := event (hostCommand ctx 32) s
/-- REGISTER_WRITE (R312). -/
def execRegisterWrite (off size : Nat) (value : W64) (s : State) : Out := event (winWrite off size value .host) s
/-- HOST_WINDOW_READ (R311). -/
def execHostWindowRead (off size : Nat) (s : State) : Out := event (hostWindowRead off size) s

/-! Spawned work and engines. -/

/-- A bin's timer has run out: its committed records make a group (R43). -/
def binTimeout (die ctx : Nat) (entry : W64) (s : State) : State :=
  match s.bins.find? (isBin die ctx entry) with
  | some b => if b.timer && !b.recs.isEmpty then cleanBins (formGroup 63 b s) else s
  | none => s

/-- A command of the kind that a test names runs. -/
def runCmdIf (p : CmdKind → Bool) (bytes id : Nat) (s : State) : State :=
  match cmdOf s id with
  | some c => if p c.kind then runCmd bytes c s else s
  | none => s

/-- SPAWN_BIN_TIMEOUT (R43). -/
def execSpawnBinTimeout (die ctx : Nat) (entry : W64) (s : State) : Out := event (binTimeout die ctx entry) s
/-- BOBBIN_GROUP_PLACE (R45). -/
def execBobbinGroupPlace (s : State) : Out := event placeBobbin s
/-- COPY_COMMAND_COMPLETE (R232). -/
def execCopyCommandComplete (cmd bytes : Nat) (s : State) : Out :=
  event (runCmdIf (fun k => match k with | .copy .. => true | _ => false) bytes cmd) s
/-- QNT_COMMAND_COMPLETE (R138). -/
def execQntCommandComplete (cmd : Nat) (s : State) : Out :=
  event (runCmdIf (fun k => match k with | .qnt .. => true | _ => false) 0 cmd) s
/-- BATCH_COMPLETE (R152). -/
def execBatchComplete (grp : Nat) (s : State) : Out := event (runBatch grp) s
/-- RAYQ_COMMAND_COMPLETE (R305). -/
def execRayqCommandComplete (cmd : Nat) (s : State) : Out :=
  event (runCmdIf (fun k => match k with | .ray .. => true | _ => false) 0 cmd) s
/-- SEAM_COMPOSITE (R307). -/
def execSeamComposite (key : Nat) (s : State) : Out := event (formComposite key) s
/-- SEAM_EXCHANGE (R308). -/
def execSeamExchange (cmd : Nat) (s : State) : Out :=
  event (runCmdIf (fun k => match k with | .seam .. => true | _ => false) 0 cmd) s
/-- SEAM_COMPLETE (R309). -/
def execSeamComplete (key : Nat) (s : State) : Out := event (completeSeam key) s
/-- PRIMITIVE_RASTERISE (R281). -/
def execPrimitiveRasterise (die ctx : Nat) (args : W64) (s : State) : Out := event (rasterise die ctx args) s
/-- FRAGMENT_GROUP_LAUNCH (R282). -/
def execFragmentGroupLaunch (die ctx : Nat) (args : W64) (s : State) : Out := event (launchFragment die ctx args) s
/-- PASS_COMPLETE (R278). -/
def execPassComplete (die ctx : Nat) (args : W64) (s : State) : Out := event (completePass die ctx args) s

/-! Homes and requests. -/

/-- HOME_WRITEBACK_MERGE (R174, R177): a cluster evicts a line and the home merges its dirty words. -/
def execHomeWritebackMerge (cluster line : Nat) (s : State) : Out := event (fun s => flush s cluster (fun l => l == line)) s
/-- HOME_ATOMIC (R178). -/
def execHomeAtomic (req : Nat) (s : State) : Out := event (performRequest isRmw req) s
/-- REPLICA_MULTICAST (R181). -/
def execReplicaMulticast (req : Nat) (s : State) : Out := event (performRequest isUpdate req) s
/-- REQUEST_REISSUE_TIMEOUT (R200). -/
def execRequestReissueTimeout (req : Nat) (s : State) : Out := event (reissue req) s
/-- FLIT_CRC_DROP (R320). -/
def execFlitCrcDrop (req : Nat) (s : State) : Out := event (dropFlit req) s
/-- AD_FLUSH_TIMEOUT (R195). -/
def execAdFlushTimeout (core ctx page : Nat) (s : State) : Out := event (flushAd core ctx page) s

/-! The host link and peers. -/

/-- HOST_SNOOP (R316). -/
def execHostSnoop (pa : Nat) (s : State) : Out := event (snoopHost pa) s
/-- HOST_MEM_WRITE (R318). -/
def execHostMemWrite (hdm : Nat) (bytes : List Byte) (s : State) : Out := event (hostWrite hdm bytes) s
/-- HOST_MEM_READ (R318). -/
def execHostMemRead (hdm size : Nat) (s : State) : Out := event (hostRead hdm size) s
/-- PEER_READ (R321). -/
def execPeerRead (hdm size : Nat) (s : State) : Out := event (peerRead hdm size) s
/-- ACCESSIONED_READ (R321). -/
def execAccessionedRead (hdm : Nat) (s : State) : Out := event (peerLine hdm) s
/-- PEER_WRITE (R321). -/
def execPeerWrite (dest : PeerReq) (words : List W32) (mask : List Bool) (s : State) : Out := event (peerWrite dest words mask) s
/-- PEER_ATOMIC (R321). -/
def execPeerAtomic (src : PeerId) (seq hdm : Nat) (op : PeerRmw) (s : State) : Out := event (peerAtomic src seq hdm op) s
/-- SVETFEN_LINK_TRAIN (R330). -/
def execSvetfenLinkTrain (port lanes : Nat) (s : State) : Out := event (trainPort port lanes) s
/-- HOST_LINK_TRAIN (R315). -/
def execHostLinkTrain (width rate : Nat) (s : State) : Out := event (trainHost width rate) s

/-! The management port, errors, power. -/

/-- READ (R325). -/
def execRead (off : Nat) (s : State) : Out := event (mgmtRead off) s
/-- WRITE (R312). -/
def execWrite (off : Nat) (value : W64) (s : State) : Out := event (mgmtWrite off value) s
/-- TAKE (R312). -/
def execTake (off : Nat) (s : State) : Out := event (setOwner off 1) s
/-- GIVE (R325). -/
def execGive (off : Nat) (s : State) : Out := event (setOwner off 0) s
/-- TELEM (R325). -/
def execTelem (s : State) : Out := event telemetry s
/-- RESET (R326). -/
def execReset (dies : BitVec 41) (s : State) : Out := event (fun s => complete 0 0 (resetDies dies s)) s
/-- SPARE (R325, R329). -/
def execSpare (unit action : Nat) (s : State) : Out := event (forceSpare unit action) s
/-- CLRFOVF (R325). -/
def execClrfovf (s : State) : Out := event clearOverflow s
/-- CEC_WINDOW_BOUNDARY (R329). -/
def execCecWindowBoundary (unit : Nat) (s : State) : Out := event (endWindow unit) s
/-- HBM_ROW_COPY_DONE (R329). -/
def execHbmRowCopyDone (md : Nat) (s : State) : Out := event (rowCopied md) s
/-- POWER_WINDOW_END (R331). -/
def execPowerWindowEnd (milliwatts celsius : List Nat) (s : State) : Out := event (endPower milliwatts celsius) s
/-- POWER_ON_RESET (R326). -/
def execPowerOnReset (s : State) : Out := .next (powerOn s)

end Sys2Proof.Machine
end

