-- ==== Sys2Proof/Machine/Dispatch.lean ====
section
/-! DEFINITION. The meaning of every instruction and event: one arm per constructor, in the order of the opcode table. -/

namespace Sys2Proof.Machine

/-- What an instruction or event does. -/
def exec (i : Instr) (s : State) : Host.Outcome State Fault Refusal :=
  match i with
  | .nop o => Sys2Proof.Machine.execNop o s
  | .yieldpt o => Sys2Proof.Machine.execYieldpt o s
  | .exit o => Sys2Proof.Machine.execExit o s
  | .ret o => Sys2Proof.Machine.execRet o s
  | .rfe o => Sys2Proof.Machine.execRfe o s
  | .svc o => Sys2Proof.Machine.execSvc o s
  | .trap o => Sys2Proof.Machine.execTrap o s
  | .bra o => Sys2Proof.Machine.execBra o s
  | .brc o => Sys2Proof.Machine.execBrc o s
  | .bzm o => Sys2Proof.Machine.execBzm o s
  | .call o => Sys2Proof.Machine.execCall o s
  | .mode o => Sys2Proof.Machine.execMode o s
  | .mfsr o => Sys2Proof.Machine.execMfsr o s
  | .mtsr o => Sys2Proof.Machine.execMtsr o s
  | .migrate o => Sys2Proof.Machine.execMigrate o s
  | .launch o => Sys2Proof.Machine.execLaunch o s
  | .tlbinv o => Sys2Proof.Machine.execTlbinv o s
  | .harvest o => Sys2Proof.Machine.execHarvest o s
  | .mappg o => Sys2Proof.Machine.execMappg o s
  | .accsn o => Sys2Proof.Machine.execAccsn o s
  | .cmaint o => Sys2Proof.Machine.execCmaint o s
  | .sadd o => Sys2Proof.Machine.execSadd o s
  | .ssub o => Sys2Proof.Machine.execSsub o s
  | .smul o => Sys2Proof.Machine.execSmul o s
  | .smulh o => Sys2Proof.Machine.execSmulh o s
  | .smad o => Sys2Proof.Machine.execSmad o s
  | .sand o => Sys2Proof.Machine.execSand o s
  | .sor o => Sys2Proof.Machine.execSor o s
  | .sxor o => Sys2Proof.Machine.execSxor o s
  | .sshl o => Sys2Proof.Machine.execSshl o s
  | .sshr o => Sys2Proof.Machine.execSshr o s
  | .ssra o => Sys2Proof.Machine.execSsra o s
  | .smin o => Sys2Proof.Machine.execSmin o s
  | .smax o => Sys2Proof.Machine.execSmax o s
  | .scmp o => Sys2Proof.Machine.execScmp o s
  | .ssel o => Sys2Proof.Machine.execSsel o s
  | .smov o => Sys2Proof.Machine.execSmov o s
  | .sli o => Sys2Proof.Machine.execSli o s
  | .spopc o => Sys2Proof.Machine.execSpopc o s
  | .sclz o => Sys2Proof.Machine.execSclz o s
  | .sffs o => Sys2Proof.Machine.execSffs o s
  | .vadd o => Sys2Proof.Machine.execVadd o s
  | .vsub o => Sys2Proof.Machine.execVsub o s
  | .vmul o => Sys2Proof.Machine.execVmul o s
  | .vmulh o => Sys2Proof.Machine.execVmulh o s
  | .vmad o => Sys2Proof.Machine.execVmad o s
  | .vand o => Sys2Proof.Machine.execVand o s
  | .vor o => Sys2Proof.Machine.execVor o s
  | .vxor o => Sys2Proof.Machine.execVxor o s
  | .vshl o => Sys2Proof.Machine.execVshl o s
  | .vshr o => Sys2Proof.Machine.execVshr o s
  | .vsra o => Sys2Proof.Machine.execVsra o s
  | .vmin o => Sys2Proof.Machine.execVmin o s
  | .vmax o => Sys2Proof.Machine.execVmax o s
  | .vabs o => Sys2Proof.Machine.execVabs o s
  | .vcmp o => Sys2Proof.Machine.execVcmp o s
  | .vsel o => Sys2Proof.Machine.execVsel o s
  | .vmov o => Sys2Proof.Machine.execVmov o s
  | .vmovImm o => Sys2Proof.Machine.execVmovImm o s
  | .vmovScalar o => Sys2Proof.Machine.execVmovScalar o s
  | .vpopc o => Sys2Proof.Machine.execVpopc o s
  | .vclz o => Sys2Proof.Machine.execVclz o s
  | .vbfe o => Sys2Proof.Machine.execVbfe o s
  | .vbfi o => Sys2Proof.Machine.execVbfi o s
  | .fadd o => Sys2Proof.Machine.execFadd o s
  | .fsub o => Sys2Proof.Machine.execFsub o s
  | .fmul o => Sys2Proof.Machine.execFmul o s
  | .fma o => Sys2Proof.Machine.execFma o s
  | .fmin o => Sys2Proof.Machine.execFmin o s
  | .fmax o => Sys2Proof.Machine.execFmax o s
  | .fcmp o => Sys2Proof.Machine.execFcmp o s
  | .frcp o => Sys2Proof.Machine.execFrcp o s
  | .frsq o => Sys2Proof.Machine.execFrsq o s
  | .fsqrt o => Sys2Proof.Machine.execFsqrt o s
  | .fex2 o => Sys2Proof.Machine.execFex2 o s
  | .flg2 o => Sys2Proof.Machine.execFlg2 o s
  | .ftrig o => Sys2Proof.Machine.execFtrig o s
  | .frnd o => Sys2Proof.Machine.execFrnd o s
  | .fcvt o => Sys2Proof.Machine.execFcvt o s
  | .fcls o => Sys2Proof.Machine.execFcls o s
  | .fscl o => Sys2Proof.Machine.execFscl o s
  | .shfl o => Sys2Proof.Machine.execShfl o s
  | .shflScalar o => Sys2Proof.Machine.execShflScalar o s
  | .shfx o => Sys2Proof.Machine.execShfx o s
  | .vote o => Sys2Proof.Machine.execVote o s
  | .rfal o => Sys2Proof.Machine.execRfal o s
  | .vred o => Sys2Proof.Machine.execVred o s
  | .vscan o => Sys2Proof.Machine.execVscan o s
  | .viota o => Sys2Proof.Machine.execViota o s
  | .ld o => Sys2Proof.Machine.execLd o s
  | .st o => Sys2Proof.Machine.execSt o s
  | .lds o => Sys2Proof.Machine.execLds o s
  | .sts o => Sys2Proof.Machine.execSts o s
  | .sld o => Sys2Proof.Machine.execSld o s
  | .sst o => Sys2Proof.Machine.execSst o s
  | .ldacq o => Sys2Proof.Machine.execLdacq o s
  | .strel o => Sys2Proof.Machine.execStrel o s
  | .fence o => Sys2Proof.Machine.execFence o s
  | .atom o => Sys2Proof.Machine.execAtom o s
  | .cas o => Sys2Proof.Machine.execCas o s
  | .red o => Sys2Proof.Machine.execRed o s
  | .pfetch o => Sys2Proof.Machine.execPfetch o s
  | .mwait o => Sys2Proof.Machine.execMwait o s
  | .barinit o => Sys2Proof.Machine.execBarinit o s
  | .bararv o => Sys2Proof.Machine.execBararv o s
  | .barwait o => Sys2Proof.Machine.execBarwait o s
  | .cpy o => Sys2Proof.Machine.execCpy o s
  | .cpywp o => Sys2Proof.Machine.execCpywp o s
  | .qnt o => Sys2Proof.Machine.execQnt o s
  | .spres o => Sys2Proof.Machine.execSpres o s
  | .spresW o => Sys2Proof.Machine.execSpresW o s
  | .spcom o => Sys2Proof.Machine.execSpcom o s
  | .tcfg o => Sys2Proof.Machine.execTcfg o s
  | .tld o => Sys2Proof.Machine.execTld o s
  | .tst o => Sys2Proof.Machine.execTst o s
  | .mma o => Sys2Proof.Machine.execMma o s
  | .mmax o => Sys2Proof.Machine.execMmax o s
  | .mmaz o => Sys2Proof.Machine.execMmaz o s
  | .accld o => Sys2Proof.Machine.execAccld o s
  | .accst o => Sys2Proof.Machine.execAccst o s
  | .mbatch o => Sys2Proof.Machine.execMbatch o s
  | .mbwait o => Sys2Proof.Machine.execMbwait o s
  | .xscan o => Sys2Proof.Machine.execXscan o s
  | .slmm o => Sys2Proof.Machine.execSlmm o s
  | .wrnd o => Sys2Proof.Machine.execWrnd o s
  | .wrndF32 o => Sys2Proof.Machine.execWrndF32 o s
  | .vemit o => Sys2Proof.Machine.execVemit o s
  | .pemit o => Sys2Proof.Machine.execPemit o s
  | .texs o => Sys2Proof.Machine.execTexs o s
  | .texsL o => Sys2Proof.Machine.execTexsL o s
  | .texsB o => Sys2Proof.Machine.execTexsB o s
  | .texf o => Sys2Proof.Machine.execTexf o s
  | .texfL o => Sys2Proof.Machine.execTexfL o s
  | .rtst o => Sys2Proof.Machine.execRtst o s
  | .rtld o => Sys2Proof.Machine.execRtld o s
  | .mlins o => Sys2Proof.Machine.execMlins o s
  | .mlres o => Sys2Proof.Machine.execMlres o s
  | .mlresClr o => Sys2Proof.Machine.execMlresClr o s
  | .rayq o => Sys2Proof.Machine.execRayq o s
  | .rayqBob o => Sys2Proof.Machine.execRayqBob o s
  | .seam o => Sys2Proof.Machine.execSeam o s
  | .engineFaultDelivery grp => Sys2Proof.Machine.execEngineFaultDelivery grp s
  | .engineTranslationFault cmd => Sys2Proof.Machine.execEngineTranslationFault cmd s
  | .registerMissFetch grp => Sys2Proof.Machine.execRegisterMissFetch grp s
  | .wakeBlockedGroup grp => Sys2Proof.Machine.execWakeBlockedGroup grp s
  | .ldthrExpiry grp => Sys2Proof.Machine.execLdthrExpiry grp s
  | .dispatchTakeRecord queue => Sys2Proof.Machine.execDispatchTakeRecord queue s
  | .dependenceRelease queue => Sys2Proof.Machine.execDependenceRelease queue s
  | .panelPlace => Sys2Proof.Machine.execPanelPlace s
  | .panelComplete panel => Sys2Proof.Machine.execPanelComplete panel s
  | .preemptRequest die => Sys2Proof.Machine.execPreemptRequest die s
  | .panelEvict panel => Sys2Proof.Machine.execPanelEvict panel s
  | .idleEvictTimeout panel => Sys2Proof.Machine.execIdleEvictTimeout panel s
  | .panelRestore panel => Sys2Proof.Machine.execPanelRestore panel s
  | .sliceEnd ctx die => Sys2Proof.Machine.execSliceEnd ctx die s
  | .runBudgetExpiry grp => Sys2Proof.Machine.execRunBudgetExpiry grp s
  | .waitBudgetExpiry grp => Sys2Proof.Machine.execWaitBudgetExpiry grp s
  | .contextSnapshot ctx => Sys2Proof.Machine.execContextSnapshot ctx s
  | .faultRecordPost die => Sys2Proof.Machine.execFaultRecordPost die s
  | .eventWriteRetry => Sys2Proof.Machine.execEventWriteRetry s
  | .frespResume index => Sys2Proof.Machine.execFrespResume index s
  | .frespKill index => Sys2Proof.Machine.execFrespKill index s
  | .ctxPreempt ctx => Sys2Proof.Machine.execCtxPreempt ctx s
  | .ctxKill ctx => Sys2Proof.Machine.execCtxKill ctx s
  | .ctxStopResume ctx => Sys2Proof.Machine.execCtxStopResume ctx s
  | .registerWrite off size value => Sys2Proof.Machine.execRegisterWrite off size value s
  | .spawnBinTimeout die ctx entry => Sys2Proof.Machine.execSpawnBinTimeout die ctx entry s
  | .bobbinGroupPlace => Sys2Proof.Machine.execBobbinGroupPlace s
  | .copyCommandComplete cmd bytes => Sys2Proof.Machine.execCopyCommandComplete cmd bytes s
  | .qntCommandComplete cmd => Sys2Proof.Machine.execQntCommandComplete cmd s
  | .batchComplete grp => Sys2Proof.Machine.execBatchComplete grp s
  | .rayqCommandComplete cmd => Sys2Proof.Machine.execRayqCommandComplete cmd s
  | .seamComposite key => Sys2Proof.Machine.execSeamComposite key s
  | .seamExchange cmd => Sys2Proof.Machine.execSeamExchange cmd s
  | .seamComplete key => Sys2Proof.Machine.execSeamComplete key s
  | .primitiveRasterise die ctx args => Sys2Proof.Machine.execPrimitiveRasterise die ctx args s
  | .fragmentGroupLaunch die ctx args => Sys2Proof.Machine.execFragmentGroupLaunch die ctx args s
  | .passComplete die ctx args => Sys2Proof.Machine.execPassComplete die ctx args s
  | .homeWritebackMerge cluster line => Sys2Proof.Machine.execHomeWritebackMerge cluster line s
  | .homeAtomic req => Sys2Proof.Machine.execHomeAtomic req s
  | .replicaMulticast req => Sys2Proof.Machine.execReplicaMulticast req s
  | .requestReissueTimeout req => Sys2Proof.Machine.execRequestReissueTimeout req s
  | .adFlushTimeout core ctx page => Sys2Proof.Machine.execAdFlushTimeout core ctx page s
  | .hostSnoop pa => Sys2Proof.Machine.execHostSnoop pa s
  | .hostMemWrite hdm bytes => Sys2Proof.Machine.execHostMemWrite hdm bytes s
  | .hostMemRead hdm size => Sys2Proof.Machine.execHostMemRead hdm size s
  | .peerRead hdm size => Sys2Proof.Machine.execPeerRead hdm size s
  | .accessionedRead hdm => Sys2Proof.Machine.execAccessionedRead hdm s
  | .peerWrite dest words mask => Sys2Proof.Machine.execPeerWrite dest words mask s
  | .peerAtomic src seq hdm op => Sys2Proof.Machine.execPeerAtomic src seq hdm op s
  | .read off => Sys2Proof.Machine.execRead off s
  | .write off value => Sys2Proof.Machine.execWrite off value s
  | .take off => Sys2Proof.Machine.execTake off s
  | .give off => Sys2Proof.Machine.execGive off s
  | .telem => Sys2Proof.Machine.execTelem s
  | .reset dies => Sys2Proof.Machine.execReset dies s
  | .spare unit action => Sys2Proof.Machine.execSpare unit action s
  | .clrfovf => Sys2Proof.Machine.execClrfovf s
  | .cecWindowBoundary unit => Sys2Proof.Machine.execCecWindowBoundary unit s
  | .hbmRowCopyDone md => Sys2Proof.Machine.execHbmRowCopyDone md s
  | .powerWindowEnd milliwatts celsius => Sys2Proof.Machine.execPowerWindowEnd milliwatts celsius s
  | .powerOnReset => Sys2Proof.Machine.execPowerOnReset s
  | .svetfenLinkTrain port lanes => Sys2Proof.Machine.execSvetfenLinkTrain port lanes s
  | .hostLinkTrain width rate => Sys2Proof.Machine.execHostLinkTrain width rate s
  | .hostWindowRead off size => Sys2Proof.Machine.execHostWindowRead off size s
  | .peerWindowReread grp => Sys2Proof.Machine.execPeerWindowReread grp s
  | .flitCrcDrop req => Sys2Proof.Machine.execFlitCrcDrop req s

end Sys2Proof.Machine
end

