-- ==== Sys2Proof/Machine/Room.lean ====
section
/-! DEFINITION. Capacities (00 R4, 06 R166, R170, R189): an L1 slice of 256 KiB, an instruction cache of 64 KiB and a TLB of 512 entries
that hold more than they have room for give one up before anything else happens. Which one leaves is free (log 9). -/

namespace Sys2Proof.Machine

/-- The lines of 128 bytes that a slice of 256 KiB holds (Table 0-2, Table 6-1). -/
def sliceCap : Nat := 2048
/-- The words that an instruction cache of 64 KiB holds (Table 0-2). -/
def icacheCap : Nat := 16384
/-- The entries of a core's TLB (R189). -/
def tlbCap : Nat := 512

/-- One of a list, freely. -/
def freelyOf {α : Type} (s : State) (l : List α) : Option α := l[Config.choose s.free 0 % l.length]?

/-- The lines that a slice of a cluster's L1 holds (R170). -/
def sliceLines (s : State) (cl sl : Nat) : List Nat :=
  ((s.l1.filter (fun e => l1Cluster e.1 == cl && sliceOf (l1Line e.1) == sl)).map (fun e => l1Line e.1)).eraseDups

/-- The line holds a word of the lowest replacement priority (Table 6-3). -/
def lineLow (s : State) (cl line : Nat) : Bool :=
  s.l1.any (fun e => l1Cluster e.1 == cl && l1Line e.1 == line && (match e.2 with | some x => x.alloc == 1 | none => false))

/-- The line that leaves a slice holding more than its capacity; those of the lowest replacement priority go first (Table 6-3). -/
def sliceVictim (s : State) (cl sl : Nat) : Option Nat :=
  let l := sliceLines s cl sl
  if l.length ≤ sliceCap then none else
  let low := l.filter (lineLow s cl)
  freelyOf s (if low.isEmpty then l else low)

/-- A full slice writes a line back and gives it up (R174). -/
def l1Room (s : State) : Option State :=
  if s.l1.length ≤ sliceCap then none else
  (l1Clusters s).findSome? (fun cl => (List.range 4).findSome? (fun sl =>
    (sliceVictim s cl sl).map (fun line => bump (flush s cl (fun l => l == line)))))

/-- A full instruction cache gives a word up. -/
def icacheRoom (s : State) : Option State :=
  if s.icache.length ≤ icacheCap then none else
  (List.range 384).findSome? (fun core =>
    let l := s.icache.filter (fun e => e.1 / 2 ^ 62 == core)
    if l.length ≤ icacheCap then none else
    (freelyOf s l).map (fun e => bump { s with icache := ckeep (fun k => k != e.1) s.icache }))

/-- A full TLB gives an entry up, which writes its A and D first (log 102). -/
def tlbRoom (s : State) : Option State :=
  if s.tlb.length ≤ tlbCap then none else
  (List.range 384).findSome? (fun core =>
    let l := s.tlb.filter (fun e => e.core == core)
    if l.length ≤ tlbCap then none else (freelyOf s l).map (fun v => bump (dropTlb s (fun e => e == v))))

/-- A structure that holds more than it has room for gives one up. -/
def makeRoom (s : State) : Option State := (l1Room s).orElse (fun _ => (icacheRoom s).orElse (fun _ => tlbRoom s))

end Sys2Proof.Machine
end

