-- ==== Sys2Proof/Machine/Issue.lean ====
section
/-! DEFINITION. Which group issues (01 R57, R58, 08 R251), the instruction it issues (03 R103, R104), and what comes before an
instruction: due budgets, hardware errors, engine faults to be delivered. And how a program is placed. -/

namespace Sys2Proof.Machine

/-! Issue. -/

/-- A trap that is raised before the instruction issues: the issued memory instructions are performed first (R264), and may trap
themselves. -/
def trapFirst (t : TrapInfo) (s : State) : State :=
  goOn (drainAll s) (takeTrap t false)

/-- The current group issues the instruction at its program counter: fetch, decode, execute. A word that decodes to nothing traps
(R93), as does a fetch that faults (R103). -/
def issueWord (s : State) : Out :=
  match fetchInstr s with
  | .ok (w0, w1) s1 =>
    match decode w0 w1 with
    | .instr i _ => exec i s1
    | .illegal n => .next (commit s (spend s.g 1 (trapFirst (illegalTrap n s1) s1)))
  | .trap t s1 => .next (commit s (spend s.g 1 (trapFirst t s1)))
  | .fatal c b a s1 => .next (commit s (spend s.g 1 (fatalEnd c b a s1)))
  | .block b s1 => .next (commit s (spend s.g 1 (onG (fun g => { g with block := some b }) s1)))
  | .stall s1 => .next (commit s (spend s.g 1 s1))

/-- The current group comes to an instruction boundary: a held engine fault is delivered there (R263), else it issues. -/
def boundary (s : State) : Out :=
  if !s.g.held.isEmpty && !s.g.priv then .next (commit s (spend s.g 1 (deliverFault s))) else issueWord s

/-! Arbitration. -/

/-- Put a number in rising order, once. -/
def insertNo (x : Nat) : List Nat → List Nat
  | [] => [x]
  | y :: r => if x < y then x :: y :: r else if x = y then y :: r else y :: insertNo x r

/-- The slots that have a group which takes part, in rising order. -/
def activeSlots (s : State) : List Nat := ((allGroups s).filter mayIssue).foldl (fun a g => insertNo (slotNo g) a) []

/-- The slot whose turn it is: the one that `turns` names, else the next after the current group's. -/
def turnSlot (s : State) : Option Nat × State :=
  let l := activeSlots s
  match s.turns with
  | t :: r => (l[t % l.length]?, { s with turns := r })
  | [] => ((l.find? (fun k => decide (slotNo s.g < k))).orElse (fun _ => l.head?), s)

/-- The group has been passed over 48 times or more (R57). -/
def overdue (g : Group) : Bool := decide (48 ≤ g.waited)

/-- Of two ready groups of a slot, the first issues before the second (R57, rules 1 to 3). -/
def before (a b : Group) : Bool :=
  let longer := decide (b.waited < a.waited) ||
    (a.waited == b.waited && (decide (a.order < b.order) || (a.order == b.order && decide (fld a.gid 0 4 < fld b.gid 0 4))))
  if overdue a != overdue b then overdue a
  else if overdue a then longer
  else decide (a.prio.toNat < b.prio.toNat) || (a.prio == b.prio && longer)

/-- The groups of a slot that take part and whose STALL count has run out. -/
def candidates (s : State) (k : Nat) : List Group := (allGroups s).filter (fun g => mayIssue g && slotNo g == k && g.stall == 0)

/-- An interlock would hold the next instruction of a group: on trial it has no effect (R57, R251). -/
def interlocked (s : State) (g : Group) : Bool :=
  match focus (fun x => x.id == g.id) s with
  | none => false
  | some s1 =>
    match boundary (onG (fun x => { x with idle := false }) s1) with
    | .next t => (allGroups t).any (fun x => x.live && x.id == g.id && x.idle)
    | _ => false

/-- The ready groups of a slot (R57); a group that is alone needs no trial. -/
def readyGroups (s : State) (k : Nat) : List Group :=
  let l := candidates s k
  if l.length ≤ 1 then l else l.filter (fun g => !interlocked s g)

/-- The group that the rules of R57 choose. -/
def firstOf (l : List Group) : Option Group :=
  l.foldl (fun a g =>
    match a with
    | none => some g
    | some b => if before g b then some g else a) none

/-- An opportunity of a slot passes (R57, R251): the ready groups that are not picked have been passed over, and a group that is not ready
counts nothing. The group that is picked counts anew when it issues. How long a group has been ready is counted in these opportunities
(log 105). -/
def tally (k : Nat) (ready : List Group) (pick : Nat) (s : State) : State :=
  mapGroups (fun g =>
    if g.live && slotNo g == k then
      { g with
        idle := if g.id == pick then false else g.idle
        waited := if ready.any (fun x => x.id == g.id) then (if g.id = pick then g.waited else g.waited + 1) else 0 }
    else g) s

/-- The group that a slot picks, with the counts of its groups. A slot that is stalled for want of room has no opportunity: the group
that it waits for tries again, or one is picked that an engine fault is to be delivered to (R230, R149, R251). -/
def slotPick (k : Nat) (s : State) : Option Nat × State :=
  let l := candidates s k
  let s1 := { s with slotHeld := s.slotHeld.filter (fun e => e.1 != k) }
  match s.slotHeld.find? (fun e => e.1 == k && l.any (fun g => g.id == e.2)) with
  | some h =>
    match l.find? (fun g => !g.held.isEmpty && !g.priv && g.id != h.2) with
    | some g => (some g.id, s)
    | none => (some h.2, onGroup h.2 (fun g => { g with idle := false }) s1)
  | none =>
    let ready := readyGroups s1 k
    match (firstOf ready).orElse (fun _ => firstOf l) with
    | some g => (some g.id, tally k ready g.id s1)
    | none => (none, s1)

/-- What happens next. -/
inductive Turn where
  | idle
  | tick (core : Nat) (s : State)
  | issue (s : State)
  deriving DecidableEq, Repr

/-- The cluster of the current group fetches the line of an address on its own, where the address is that of ordinary device memory:
an L1 may fill a word at any time (R210, R389). The walk that finds it reads its table entries at their homes. -/
def fillOwn (va : W64) (s : State) : State :=
  if !canonical va then s else
  let root := fld s.g.vmctx 17 35 * 2 ^ 17
  match walk s root s.g.ccls va with
  | (.leaf pte base bits k, s0) =>
    let s1 := { s0 with leaves := addLeaf s0.leaves root base pte bits k }
    match (physOf s1 (coreDie s.g.core) pte base (va.toNat % 2 ^ 57)).1 with
    | some p => if p.region = 0 ∧ atHome s1 (whoOf s.g 0) p = false then fillLine s1 (whoOf s.g 0) p else s1
    | none => s1
  | (_, s1) => s1

/-- The lines that `fills` lists for this turn are fetched. -/
def fillTurn (s : State) : State :=
  match s.fills with
  | l :: r => l.foldl (fun a va => fillOwn va a) { s with fills := r }
  | [] => s

/-- Whose turn it is: the picked group of the slot becomes the current one, its lost request has been reissued by now (R200; log 74), and its
cluster may fetch lines on its own first; a slot whose groups are all stalled lets a clock pass. -/
def nextTurn (s : State) : Turn :=
  match turnSlot s with
  | (none, _) => .idle
  | (some k, s1) =>
    match slotPick k s1 with
    | (none, s2) => .tick (k / 4) s2
    | (some id, s2) =>
      match focus (fun x => x.id == id) s2 with
      | some s3 => .issue (fillTurn (answered (.issuer id) s3))
      | none => .tick (k / 4) s2

/-- The cores with a resident group. -/
def busyCores (s : State) : List Nat :=
  ((allGroups s).filter (fun g => g.live && g.resident)).foldl (fun a g => insertNo g.core a) []

/-- No group can issue: a clock passes on every core with a resident group. -/
def idleClock (s : State) : State := (busyCores s).foldl (fun a c => passClocks c 1 a) s

/-! Steps without an event. -/

/-- A blocked group that holds an engine fault and no issued instruction: the fault is delivered at the blocking point (R263). -/
def faultAtPoint (s : State) : Option Group :=
  (allGroups s).find? (fun g => g.live && g.resident && !g.exited && !g.halted && !g.priv && g.block.isSome && !g.held.isEmpty &&
    g.inflight.isEmpty)

/-- A step without an event: a budget that is due, a hardware error, a fault delivered at a blocking point, else the turn of a
group. -/
def groupStep (s : State) : Out :=
  match dueBudget s with
  | some s1 => .next (commit s s1)
  | none =>
    match s.errors with
    | e :: r => .next (commit s (meetError e { s with errors := r }))
    | [] =>
      match faultAtPoint s with
      | some g => .next (commit s (withGroup g.id deliverFault s))
      | none =>
        match nextTurn s with
        | .idle => .next (idleClock s)
        | .tick core s1 => .next (passClocks core 1 s1)
        | .issue s1 => boundary s1

/-- The writes of the register window that the last step has made take effect (R271, R311). -/
def dueWrites (s : State) : Option State :=
  match s.lateWrites with
  | [] => none
  | l => some (l.foldl (fun a e => winWrite e.1 8 e.2 .host a) { s with lateWrites := [] })

/-- What comes before anything else: writes of the register window take effect, a bolt whose dependences are all satisfied now is
released (R33), a unit over its threshold is spared (R329), and a cache or TLB that is over its capacity gives something up (R166,
R189). -/
def dueNow (s : State) : Option State :=
  (dueWrites s).orElse (fun _ =>
    match dueRelease s with
    | some n => some (releaseBolt n s)
    | none => (dueSpare s).orElse (fun _ => makeRoom s))

/-- A step (08, 95): what is due now, else the event that comes next, else a step of a group. -/
def nextStep (s : State) : Out :=
  match dueNow s with
  | some s1 => .next (commit s s1)
  | none =>
    match s.inputs with
    | i :: rest => if isWord i then .refused .notEvent else exec i { s with inputs := rest }
    | [] => groupStep s

/-! Placing a program. -/

/-- The partition of the placed group: every register, thirty granules of scratchpad and every frame. -/
def placedPart : W64 := 16 ||| (3 <<< 5) ||| (8 <<< 7) ||| (30 <<< 11) ||| (64 <<< 17)

/-- The address of the placed instruction, in the 1 GiB page that maps address 0 up to offset 0 up of MD0. -/
def placedPc : W64 := 0x0100_0000
/-- The level-0 and level-1 tables of the placed group. -/
def placedRoot : Nat := 0x2000_0000
def placedTable : Nat := 0x2010_0000
/-- The address of the placed panel's save record. -/
def placedSave : W64 := 0x1000_0000

/-- The table entries of the placed group: a pointer to the level-1 table, and one leaf with V, LEAF, R, W, X and U. -/
def placedTables : List (Nat × Byte) :=
  (indexed placedRoot (bytesOf 8 (1 + placedTable / 4096 * 2 ^ 24))) ++ (indexed placedTable (bytesOf 8 0x3F))

/-- The panel of the placed group. -/
def placedPanel : Panel :=
  { id := 0, ctx := 0, die := 0, core := 0, resident := true, kind := .bolt, bolt := none, groups := 1, request := none, record := 0
    save := placedSave, bud := 0x0100_0000_1000_0100 }

/-- The placed group. -/
def placedGroup (s : State) : Group :=
  { freshGroup s placedPanel 0 placedPart placedPc (BitVec.allOnes 64) 0 0 with
    id := 0, slot := 0, vmctx := BitVec.ofNat 64 placedRoot, bid := 0 }

/-- The bytes of an instruction, and a group on core 0 that fetches them next: a program that is loaded from outside the machine. -/
def placeWord (bytes : List Byte) (s : State) : State :=
  { s with
    g := placedGroup s, others := [], panels := [placedPanel], bolts := [], slotHeld := [], tlb := [], icache := [], l1 := [], errors := [], inputs := [], turns := [], fills := []
    mem := csetAll zero s.mem (placedTables ++ indexed placedPc.toNat bytes) }

end Sys2Proof.Machine
end

