-- ==== Sys2Proof/Machine/Step.lean ====
section
/-! DEFINITION. One step of the machine, and the placing of an instruction where the next step fetches it. -/

namespace Sys2Proof.Machine

/-- One step: the next event, or the next instruction of a group. -/
def step (s : State) : Host.Outcome State Fault Refusal := nextStep s

/-- The state with an instruction whose bits are `w`, numbered as the opcode table numbers them, stored where `step` fetches its
next instruction. -/
def State.withFetchWord (s : State) (nbits w : Nat) : State := placeWord (tableBytes nbits w) s

end Sys2Proof.Machine
end

