-- ==== Sys2Proof/Safety.lean ====
section
/-! DEFINITION. What counts as a safe run, in the terms that the claims use: the form that every state between two steps has, the
states in which an instruction word executes normally, and what it leaves when it has had its own effect. -/

namespace Sys2Proof.Safety

open Machine

/-- Between two steps memory has its canonical form and the journal of stores is empty. -/
def Steady (s : State) : Prop := s.mem.wf = true ∧ s.wr = []

/-- Nothing is stored from `s` to `t`: memory and the stores of the step under way are as they were. -/
def StoresNothing (s t : State) : Prop := t.mem = s.mem ∧ t.wr = s.wr

/-- An instruction that accesses memory finds no accepted XSCAN of its group that has yet to read memory (R155), and one that reads it no
RAYQ.BOB or SEAM of its group that has yet to write (R206). -/
def scanned (i : Instr) (s : State) : Bool :=
  let reads := isReplay i || (match i with | .mwait _ => true | _ => false)
  (!(writesNow i || reads) || !needsOps scansMemory s.g.id s) && (!reads || (ownOpen s).isEmpty)

/-- An instruction word executes normally: the current group is live, no check of Table 3-10 holds, nothing that it has issued is
still in flight, every register is present (R258), no access of an engine has to come first (R155, R206), and no store of a step is pending. -/
def ready (i : Instr) (s : State) : Bool :=
  s.g.live && (illegalSub s i).isNone && s.g.inflight.isEmpty && s.g.absent.isEmpty && scanned i s && s.wr.isEmpty

/-- Two records of one group that differ at most in the counters that clocks move: STALL, RUNCNT and WBUDGET. -/
def Clocked (a b : Group) : Prop :=
  ∃ stall runcnt wbudget, b = { a with stall := stall, runcnt := runcnt, wbudget := wbudget }

/-- Clocks pass from `s` to `t`: the groups' counters, the cores' cycle counters and the counter of free values may differ, and
nothing else. -/
def Follows (s t : State) : Prop :=
  Clocked s.g t.g ∧ List.Forall₂ Clocked s.others t.others ∧
  ∃ cyc free, t = { s with g := t.g, others := t.others, cyc := cyc, free := free }

/-- The instruction has its own effect, which makes `s'` of `s`, and has issued with the branch target `j` (none: the next
instruction): its stores reach memory, the program counter moves, and clocks pass. -/
def Completes (i : Instr) (s : State) (j : Option W64) (s' : State) : Prop :=
  ∃ t, exec i s = .next t ∧ Follows (commit s (onG (advance i j) s')) t

/-- The instruction's step ends in `s'` with its stores in memory, and clocks pass; nothing issues. -/
def Ends (i : Instr) (s s' : State) : Prop := ∃ t, exec i s = .next t ∧ Follows (commit s s') t

/-- The instruction posts one fixed-latency result at issue distance `l` (R98), has no other effect, and goes on at the next
instruction. -/
def Posts (i : Instr) (s : State) (l : Nat) (e : Effect) : Prop := Completes i s none (onG (post l e) s)

/-- The instruction writes one interlocked result (R99), has no other effect, and goes on at the next instruction. -/
def Puts (i : Instr) (s : State) (e : Effect) : Prop := Completes i s none (onG (put e) s)

/-- The instruction posts an element result for every active lane into register `d` (a pair under FP64) with the flags that those
lanes raise, and has no other effect. -/
def PostsLanes (i : Instr) (s : State) (l d : Nat) (f : Nat → List Nat × Fl) : Prop :=
  Completes i s none (onG (postLanes l (etOf s) d (perLane (effMask s) f)) s)

/-- The operand of a scalar instruction that its B field or its immediate gives. -/
def opB (s : State) (o : Opnd) : W64 :=
  match o.x with
  | .imm v => v.signExtend 64
  | _ => rdS s o.b.toNat

/-- The magnitude of code `k` of a format, sign apart, as the format goes on above its largest finite code (R113, R121). -/
def gridValue (f : Fmt) (k : Nat) : Rat :=
  let e := k / 2 ^ f.fb
  if e = 0 then (k : Rat) * pow2 (1 - (f.bias : Int) - f.fb)
  else ((2 ^ f.fb + k % 2 ^ f.fb : Nat) : Rat) * pow2 ((e : Int) - f.bias - f.fb)

/-- The neighbour that a mode selects for a magnitude `x` of a sign (R120): `k`, whose value is `lo`, or `k + 1`, whose value is `hi`. -/
def selects (rm : Rm) (neg : Bool) (k : Nat) (lo x hi : Rat) : Nat :=
  if x = lo then k else
  match rm with
  | .tz => k
  | .up => if neg then k else k + 1
  | .dn => if neg then k + 1 else k
  | .ne => if x - lo < hi - x then k else if hi - x < x - lo then k + 1 else if k % 2 = 0 then k else k + 1
  | .na => if x - lo < hi - x then k else k + 1

/-- A magnitude of a sign is tiny after rounding to the precision of a format with an unbounded exponent range (R122): below its smallest
normal value `n`, and not rounded up to that from the last value before it. -/
def tinyRounded (f : Fmt) (rm : Rm) (neg : Bool) (x : Rat) : Bool :=
  let n := pow2 (1 - (f.bias : Int))
  let last := n - pow2 (-(f.bias : Int) - f.fb)
  decide (x < n) && (decide (x ≤ last) || decide (selects rm neg 1 last x n = 1))

/-- The instruction writes, interlocked, a one-source function of every active lane's elements with the flags, where `f` takes a choice that
the manual leaves open (R359), and has no other effect. -/
def PutsFunction (i : Instr) (s : State) (o : Opnd) (f : Fmt → Rm → Bool → Nat → FRes) : Prop :=
  let lane (k : Nat) : List FRes := (indexed 0 (regElems s (etOf s) o.a.toNat k)).map (fun e =>
    f (etFmt (etOf s)) (gmRM s.g.gmode) (Config.upperNeighbour s.free (2 * k + e.1)) e.2)
  Completes i s none (bump (onG (putLanes (etOf s) o.d.toNat
    (perLane (effMask s) (fun k => ((lane k).map (·.bits), flAll ((lane k).map (·.fl)))))) s))

/-- The instruction writes, interlocked, to every active lane of vD the lane `src` of vA, and of the pair under FP64 (R403), and has no other
effect. -/
def MovesLanes (i : Instr) (s : State) (o : Opnd) (src : Nat → Nat) : Prop :=
  let one (r d : Nat) : Effect := .vec d (masked (effMask s) (fun k => laneOf (rdV s r) (src k)))
  Completes i s none (onG (fun g =>
    let g1 := put (one o.a.toNat o.d.toNat) g
    if etOf s = 5 then put (one (o.a.toNat + 1) (o.d.toNat + 1)) g1 else g1) s)

/-- A global memory instruction as it stands once it has issued and before it is performed: it has captured its operands, the
program counter has moved on, and it is the one instruction in flight. -/
def begun (i : Instr) (s : State) : State := { onG (advance i none) (enqueue i s) with holds := s.holds.drop 1 }

/-- The instruction that has just issued, with what it captured. -/
def entryOf (i : Instr) (s : State) : InFlight :=
  { id := s.nextId, pc := s.g.pc, word := (encode i).1, ext := (encode i).2, mask := effMask s
    scal := captureS i s, vecs := captureV i s, tries := 0, lost := false, overdue := false
    tctl := issueTctl i s, olds := [], done := false }

/-- A memory instruction that is not held in flight may be performed in its own step. -/
def goes (i : Instr) (s : State) : Prop := ready i s = true ∧ WellFormed i = true ∧ s.holds.headD false = false

/-- The memory instruction issues and is performed in one step, which makes `s'` of `begun i s`; it is in flight no more. -/
def Performs (i : Instr) (s s' : State) : Prop :=
  ∃ t, exec i s = .next t ∧ Follows (commit s (onG (fun g => { g with inflight := g.inflight.drop 1 }) s')) t

/-- The byte that the loads of a cluster find at a place of ordinary memory: that of its L1 where the word is valid there, else
that of the home. -/
def peek (s : State) (cl : Nat) (p : Phys) : Byte :=
  match l1Get s cl p.line (p.key % 128 / 4) with
  | some e => e.val.extractLsb' (8 * (p.key % 4)) 8
  | none => rb s p.rkey

/-- A place of ordinary device memory, which a store of the class reaches through the L1 (R173, R175): HBM, on no sync page and on no
replicated page, of an effective class below 2. -/
def plain (s : State) (w : Who) (p : Phys) : Prop :=
  p.region = 0 ∧ p.sy = false ∧ p.rp = false ∧ p.rkey = p.key ∧ (effClass s w p).toNat < 2

/-- The matrix operation `m` of an instruction is accepted into the open set when its scratchpad ranges lie in the partition, no other
group of the panel has an ACCLD or ACCST in flight on its frames, fewer than 16 operations of the group are left to perform, and its
tacks find room (R149, R153, R154). -/
def Accepts (i : Instr) (s : State) (m : MatOp) : Prop :=
  (∀ r ∈ matRanges m, r.off + (if r.rows = 0 then 0 else (r.rows - 1) * r.stride + r.len) ≤ scrBytes s.g.part) →
  frameInFlight s (framesOf m) = false → ((allOps s.g).filter (fun x => !x.done)).length < 16 →
  (tacksOf s s.g.core).length + (matRanges m).length ≤ 64 →
  Completes i s none (onG (fun g => { g with openSet := g.openSet ++ [m] }) s)

/-- The event is one step, which makes `s'` of `s`: its stores reach memory, and nothing follows it. -/
def Happens (e : Instr) (s s' : State) : Prop := exec e s = .next (commit s s')

/-- After an event has acted on another group, the group that was current is current again, where it still lives. -/
def backTo (s t : State) : State := if s.g.live then (focus (fun g => g.id == s.g.id) t).getD t else t

/-- The event acts on the group `id`, which is current in `s1`, and makes `s2` of `s1`; then the group that was current is current again. -/
def HappensTo (e : Instr) (s s2 : State) : Prop := Happens e s (backTo s s2)

end Sys2Proof.Safety
end

