-- ==== Sys2Proof/Certificates/Slice0/Obligations.lean ====
section
/-! DEFINITION. The statements for the provers. -/

open Sys2Proof Sys2Proof.Machine Sys2Proof.Safety

/-! Encoding and decoding. -/

/-- R79, R80, R82, R84, R86, R89, R91: every well-formed instruction word decodes from its own words, from its own bytes, and from the
number that the opcode table writes for it, with every operand at every value that the encoding admits. -/
def Obligations.DecodeOfEncode : Prop :=
  ∀ i : Instr, isWord i = true → WellFormed i = true →
    decode (encode i).1 (encode i).2 = .instr i (instrLen i) ∧
    decodeBytes (wordBytes (encode i).1 ++ wordBytes (encode i).2) = .instr i (instrLen i) ∧
    decodeTableWord (8 * instrLen i) ((encode i).1.toNat + (encode i).2.toNat % 2 ^ (8 * instrLen i - 32) * 2 ^ 32) = some i

/-- R79, R80, R82: words that decode are the words of the instruction they decode to: no bit of either word is dropped, and two
different pairs of words never mean the same instruction.

Table 3-10, Table 3-6, R79, R82, R89, R93: a zero word (sub-code 1), an unassigned opcode (2), an extension word of kind 0b11 (3), an
extension that the opcode does not take or lacks (4), and a reserved selector of opcodes 0x01 and 0x0B (5) are refused, each under its
own sub-code. The opcodes that need an extension word and those that take none are written out as in Table 3-6. -/
def Obligations.EncodeOfDecode : Prop :=
  (∀ (w0 w1 : W32) (i : Instr) (n : Nat), decode w0 w1 = .instr i n →
    isWord i = true ∧ n = instrLen i ∧ (encode i).1 = w0 ∧ (n = 8 → (encode i).2 = w1) ∧ (n = 4 → hasExt w0 = false)) ∧
  ((∀ w1 : W32, decode 0 w1 = .illegal 1) ∧
  (∀ (w0 w1 : W32) (op : Nat), op = (w0.extractLsb' 21 7).toNat → w0 ≠ 0 →
    (opAssigned op = false → decode w0 w1 = .illegal 2) ∧
    (opAssigned op = true → w0.getLsbD 28 = true → w1.extractLsb' 30 2 = 3 → decode w0 w1 = .illegal 3) ∧
    (∀ x, opAssigned op = true → (if w0.getLsbD 28 then decodeExt w1 else some Ext.none) = some x →
      (decode w0 w1 = .illegal 4 ↔ extAccepted (opForm op) x = false)) ∧
    (w0.getLsbD 28 = false → (3 ≤ op ∧ op ≤ 8) ∨ op = 0x0B ∨ op = 0x14 ∨ (0x1D ≤ op ∧ op ≤ 0x1E) ∨ op = 0x20 ∨ op = 0x28 ∨
      (0x32 ≤ op ∧ op ≤ 0x33) ∨ op = 0x38 ∨ op = 0x3C ∨ op = 0x3F ∨ op = 0x47 ∨ op = 0x59 ∨ (0x62 ≤ op ∧ op ≤ 0x64) ∨
      (0x71 ≤ op ∧ op ≤ 0x72) ∨ op = 0x74 ∨ op = 0x7D → decode w0 w1 = .illegal 4) ∧
    (w0.getLsbD 28 = true → w1.extractLsb' 30 2 ≠ 3 → (1 ≤ op ∧ op ≤ 2) ∨ (9 ≤ op ∧ op ≤ 10) ∨ op = 0x1F ∨ (0x21 ≤ op ∧ op ≤ 0x23) ∨
      op = 0x31 ∨ (0x35 ≤ op ∧ op ≤ 0x36) ∨ (0x40 ≤ op ∧ op ≤ 0x46) ∨ op = 0x48 ∨ (0x4B ≤ op ∧ op ≤ 0x50) ∨ (0x66 ≤ op ∧ op ≤ 0x67) ∨
      (0x6F ≤ op ∧ op ≤ 0x70) ∨ op = 0x75 ∨ (0x78 ≤ op ∧ op ≤ 0x7A) → decode w0 w1 = .illegal 4) ∧
    (op = 1 → w0.getLsbD 28 = false → 7 ≤ (w0.extractLsb' 14 7).toNat → decode w0 w1 = .illegal 5) ∧
    (op = 0x0B → w0.getLsbD 28 = true → w1.extractLsb' 30 2 = 2 → 5 ≤ (w1.extractLsb' 14 4).toNat → decode w0 w1 = .illegal 5)))

/-- Words that the manual writes out (R193, R265, R358, R374, R382, R387, R394, R395, R415, R425) decode to the instructions they stand for. -/
def Obligations.DecodedWords : Prop :=
  decode 0x0020_0000 0 = .instr (.nop ⟨0, 0, 0, 0, .none⟩) 4 ∧
  decode 0xE020_0000 0 = .instr (.nop ⟨7, 0, 0, 0, .none⟩) 4 ∧
  decode 0x0020_CF00 0 = .instr (.ret ⟨0, 3, 30, 0, .none⟩) 4 ∧
  decode 0x0021_4003 0 = .instr (.svc ⟨0, 5, 0, 3, .none⟩) 4 ∧
  decode 0x0CE0_8300 0 = .instr (.tcfg ⟨0, 2, 6, 0, .none⟩) 4 ∧
  decode 0x06A1_4100 0 = .instr (.vpopc ⟨0, 5, 2, 0, .none⟩) 4 ∧
  decode 0x09A1_C180 0 = .instr (.rfal ⟨0, 7, 3, 0, .none⟩) 4 ∧
  decode 0x0DE1_4000 0 = .instr (.mbatch ⟨0, 5, 0, 0, .none⟩) 4 ∧
  decode 0x1B20_0000 0xA600_0000 = .instr (.fence ⟨0, 0, 0, 0, .par ⟨4, 3, 0, 0, false, 0, 0, 0⟩⟩) 8 ∧
  decode 0x1161_0A15 0x8000_8000 = .instr (.mappg ⟨0, 4, 20, 21, .par ⟨0, 0, 0, 0, false, 0, 2, 0⟩⟩) 8 ∧
  decode 0x1D41_0001 0x8000_400C = .instr (.mma ⟨0, 4, 0, 1, .par ⟨0, 0, 0, 0, false, 0, 1, 12⟩⟩) 8

/-! Steps. -/

/-- R57, R93, R103: when nothing is due, it is the turn of a group that stands at an instruction boundary, and the words at its
program counter decode to `i`, the step is the execution of `i` in the state that the fetch left.

File 95 of the spec: an event that is due is the whole step.

Every instruction and every event goes on from every state: there is neither a fault nor a refusal (08 Table 8-8: what goes wrong is
a trap, a record or a kill). -/
def Obligations.StepRunsDecoded : Prop :=
  (∀ (s s1 s2 : State) (w0 w1 : W32) (i : Instr) (n : Nat),
    dueNow s = none → s.inputs = [] → dueBudget s = none → s.errors = [] → faultAtPoint s = none → nextTurn s = .issue s1 →
    (s1.g.held = [] ∨ s1.g.priv = true) → fetchInstr s1 = .ok (w0, w1) s2 → decode w0 w1 = .instr i n →
    step s = exec i s2) ∧
  (∀ (s : State) (i : Instr) (r : List Instr), dueNow s = none → s.inputs = i :: r → isWord i = false →
    step s = exec i { s with inputs := r }) ∧
  (∀ (i : Instr) (s : State), ∃ t, exec i s = .next t)

/-- Between two steps memory has its canonical form and no store of a step is left over: every step keeps it. -/
def Obligations.StepKeepsSteady : Prop := ∀ s t : State, Steady s → step s = .next t → Steady t

/-- The invariant of StepKeepsSteady holds after reset, and in the reset state with a program word placed.

R64, Tables 2-2 to 2-5, Table 1-4, Tables 8-1, 8-2, 8-4 and 8-11, Tables 10-1, 10-2, 10-5, 10-9 and 10-10, R313, R314, R329, R330: the values
that the manual gives for reset and for the launch of a group, register by register. (That MODID, for which it gives none, reads 0 is the
model's own choice, log 5, and is not stated here.) -/
def Obligations.ResetState : Prop :=
  (Steady State.reset ∧ ∀ nbits w : Nat, Steady (State.reset.withFetchWord nbits w)) ∧
  (State.reset.g.live = false ∧ State.reset.others = [] ∧ State.reset.panels = [] ∧ State.reset.bolts = [] ∧ State.reset.bins = [] ∧
    State.reset.lines = [] ∧ State.reset.l1 = [] ∧ State.reset.tlb = [] ∧ State.reset.accs = [] ∧
    (∀ c, cget zero State.reset.cyc c = 0) ∧
    (∀ d, cget zero State.reset.spnbase d = 0 ∧ cget zero State.reset.spnsize d = 0 ∧ cget spntmoReset State.reset.spntmo d = 8192)) ∧
  (∀ c, c < 16 → rdWin State.reset (ctxReg c 0) = 0 ∧ fld (rdWin State.reset (ctxReg c 8)) 0 16 = 256 ∧
    fld (rdWin State.reset (ctxReg c 8)) 16 24 = 4096 ∧ fld (rdWin State.reset (ctxReg c 8)) 40 24 = 65536 ∧
    rdWin State.reset (ctxReg c 0x10) = 0 ∧ rdWin State.reset (ctxReg c 0x18) = 0 ∧ rdWin State.reset (ctxReg c 0x20) = 0 ∧
    fld (rdWin State.reset (ctxReg c 0x28)) 16 16 = 2048 ∧ rdWin State.reset (ctxReg c 0x28) &&& 0xFFFF_FFFF_0000_FFFF = 0 ∧
    rdWin State.reset (ctxReg c 0x30) = 0 ∧ rdWin State.reset (ctxReg c 0x38) = 0) ∧
  (∀ n, n < 16 → rdWin State.reset (queueReg n 0) = 0 ∧ rdWin State.reset (queueReg n 8) = 0 ∧ fld (rdWin State.reset (queueReg n 0x10)) 10 5 = 4 ∧
    rdWin State.reset (queueReg n 0x10) &&& 0xFFFF_FFFF_FFFF_83FF = 0) ∧
  (∀ c, c < 4 → rdWin State.reset (ccqReg c) = 16) ∧
  (rdWin State.reset eqBase = 0 ∧ rdWin State.reset eqCtl = 6 ∧ rdWin State.reset eqHead = 0 ∧ rdWin State.reset eqTail = 0 ∧
    rdWin State.reset eqStat = 0 ∧ rdWin State.reset devidOff = 0x4B90_0001_0000_0000 ∧ rdWin State.reset ownlogOff = 0 ∧
    rdWin State.reset pmodOff = 6000 ∧ rdWin State.reset tlatchOff = 0 ∧ rdWin State.reset spheadOff = 0) ∧
  (∀ i, i < 16 → rdWin State.reset (rtReg i) = 0 ∧ rdWin State.reset (pmaskReg i) = 0 ∧ rdWin State.reset (pmaskhReg i) = 0) ∧
  (∀ w, w < 256 → rdWin State.reset (pwReg w 0) = 0 ∧ rdWin State.reset (pwReg w 8) = 0 ∧ rdWin State.reset (pwReg w 16) = 0) ∧
  (∀ p, p < 128 → rdWin State.reset (pstatReg p) = 0) ∧ (∀ k, k < 8 → rdWin State.reset (cfenceReg k) = 0) ∧
  (∀ u, u < 576 → fld (rdWin State.reset (cecReg u)) 0 32 = 0 ∧ fld (rdWin State.reset (cecReg u)) 32 16 = 64 ∧
    bit (rdWin State.reset (cecReg u)) 48 = false) ∧
  (∀ d, d < 42 → rdWin State.reset (pcapReg d) = (if d < 8 then 480 else if d < 40 then 75 else 400) ∧
    rdWin State.reset (pstateReg d) = (if d < 8 then 1200 else if d < 40 then 1600 else 1000)) ∧
  (ownerOf State.reset 0 = .mgmt ∧ ownerOf State.reset schedBase = .host ∧ ownerOf State.reset fabBase = .host ∧
    ownerOf State.reset relBase = .mgmt ∧ ownerOf State.reset powBase = .mgmt ∧
    ∀ n, n < 32 → ownerOf State.reset (mdBase n) = .host ∧ rdWin State.reset (mdBase n) = 0) ∧
  (∀ (s : State) (p : Panel) (gi : Nat) (part entry mask : W64) (a b : BitVec 2) (g : Group), g = freshGroup s p gi part entry mask a b →
    g.gmode = 1 ∧ g.v = [] ∧ (∀ k, cget zero g.s k = if k = 1 then mask else 0) ∧ g.t = [] ∧
    (∀ t, cget (fun _ => tctlReset) g.tctl t = 0x2_0400) ∧ g.fpstat = 0 ∧ g.mstat = 0 ∧ g.slstat = 0 ∧ g.slbnd = 0 ∧
    g.tvec = rdWin s (ctxReg p.ctx 0x30) ∧ g.frpool = rdWin s (ctxReg p.ctx 0x38) ∧ g.pc = entry ∧ g.priv = false ∧ g.exmask = mask ∧
    g.part = part ∧ g.pend = [] ∧ g.inflight = [] ∧ g.rplq = [] ∧ g.openSet = [] ∧ g.batches = [] ∧ g.reserved = [])

/-! Hazards. -/

/-- R98, the scalar part: a result posted at distance `l` is invisible while less than `l` has passed, and is there once `l` has.

R98 and R421, the vector part: lanes for which the result has no value keep theirs, every lane turns at the same distance.

R100: of two writes of one register the later in program order is the one that stays, whatever the distances and whether the later
one is posted or interlocked.

R102: completing the pending writes of a group gives each register its last posted value, and leaves none pending. -/
def Obligations.ResultAtDistance : Prop :=
  (∀ (g : Group) (n l d : Nat) (x : W64), g.pend = [] →
    cget zero (retire d (post l (.sca n x) g)).s n = (if l ≤ d then x else cget zero g.s n) ∧
    (∀ m, m ≠ n → cget zero (retire d (post l (.sca n x) g)).s m = cget zero g.s m) ∧
    (∀ e, cget zero (retire e (retire d (post l (.sca n x) g))).s n = (if l ≤ d + e ∨ l ≤ d then x else cget zero g.s n))) ∧
  (∀ (g : Group) (n l d : Nat) (m : W64) (f : Nat → W32), g.pend = [] → ∀ i, i < 64 →
    laneOf (cget (fun _ => zeroLanes) (retire d (post l (.vec n (masked m f)) g)).v n) i =
      (if l ≤ d ∧ m.getLsbD i = true then f i else laneOf (cget (fun _ => zeroLanes) g.v n) i)) ∧
  (∀ (g : Group) (n l k d : Nat) (x y : W64), k ≤ d →
    cget zero (retire d (post k (.sca n y) (post l (.sca n x) g))).s n = y ∧
    cget zero (retire d (put (.sca n y) (post l (.sca n x) g))).s n = y) ∧
  (∀ (g : Group) (n l : Nat) (x : W64),
    (completeAll g).pend = [] ∧ cget zero (completeAll (post l (.sca n x) g)).s n = x ∧
    completeAll (completeAll g) = completeAll g)

/-- R101: with GMODE.SCB set, an instruction that reads a register with a write still pending is illegal under sub-code 0x0B, unless a
lower sub-code holds; with SCB clear it is not illegal under 0x0B. -/
def Obligations.Scoreboard : Prop :=
  ∀ (i : Instr) (s : State),
    (gmSCB s.g.gmode = true → (∃ r ∈ readsOf s i, pendingOn s.g r = true) → ∃ n, illegalSub s i = some n ∧ n ≤ 0x0B) ∧
    (illegalSub s i = some 0x0B ↔ (gmSCB s.g.gmode = true ∧ (∃ r ∈ readsOf s i, pendingOn s.g r = true) ∧
      illegalSub (onG (fun g => { g with pend := [] }) s) i = none))

/-! Exceptions. -/

/-- R264, R93, R94: an instruction word that meets a condition of Table 3-10, in the unprivileged view and with the handler on, is not
executed: the group's pending writes take effect, TPC, TFIRST and TFAULT hold its address, TCAUSE its cause 0x01 and the lowest
sub-code that holds, TGMODE and TSAVE what the handler is going to overwrite, and the group goes to TVEC.ADDR in the privileged view
with GMODE 63 and EXMASK in s63. Every other register, memory, and every other group stay as they were.

R264, R265, R273: without a handler, or without s60 to s63, the same trap posts a record of type 2 with the cause to the event
queue, where the die has room, and the group waits for the host at kind 11, in the privileged view, with its program counter where it
was. -/
def Obligations.IllegalWords : Prop :=
  (∀ (i : Instr) (s : State) (n : Nat), isWord i = true → s.g.live = true → s.g.inflight = [] → s.g.priv = false →
    bit s.g.tvec 63 = true → partSR s.g.part = 3 → illegalSub s i = some n →
    ∃ s', Ends i s s' ∧
      s'.g.pc = sext57 (fld s.g.tvec 0 57) ∧ s'.g.priv = true ∧ s'.g.gmode = 63 ∧ s'.g.tpc = s.g.pc ∧ s'.g.tfirst = s.g.pc ∧
      s'.g.tfault = s.g.pc ∧ s'.g.tmask = 0 ∧ s'.g.tcause = BitVec.ofNat 64 (1 + n % 256 * 256) ∧
      s'.g.tgmode = (completeAll s.g).gmode ∧ (∀ k, k < 4 → cget zero s'.g.tsave k = cget zero (completeAll s.g).s (60 + k)) ∧
      cget zero s'.g.s 63 = s.g.exmask ∧ (∀ k, k ≠ 63 → cget zero s'.g.s k = cget zero (completeAll s.g).s k) ∧
      s'.g.v = (completeAll s.g).v ∧ s'.g.tctl = (completeAll s.g).tctl ∧ s'.g.t = s.g.t ∧ s'.g.pend = [] ∧ s'.g.rplq = [] ∧
      StoresNothing s s' ∧ s'.others = s.others ∧ s'.scratch = s.scratch ∧ s'.frames = s.frames ∧ s'.l1 = s.l1) ∧
  (∀ (i : Instr) (s : State) (n : Nat), isWord i = true → s.g.live = true → s.g.inflight = [] → s.g.priv = false →
    (bit s.g.tvec 63 = false ∨ partSR s.g.part ≠ 3) → illegalSub s i = some n → roomFor s (coreDie s.g.core) = true →
    halted s s.g.ctx = false →
    ∃ s' r, Ends i s s' ∧ s'.outbound = s.outbound ++ [r] ∧ r.type = 2 ∧ r.cause = 1 ∧ r.sub = n % 256 ∧ r.addr = s.g.pc ∧
      r.bid = s.g.bid ∧ r.die = coreDie s.g.core ∧ r.grp = some s.g.id ∧
      s'.g.block = some ⟨11, 0, 0, 0⟩ ∧ s'.g.pc = s.g.pc ∧ s'.g.tpc = s.g.pc ∧ s'.g.priv = true ∧ StoresNothing s s' ∧ s'.others = s.others)

/-- R268 whole: a trap of any cause from 0x01 to 0x11 raised in the privileged view ends the context, with a fatal record of cause 0x26 that
names the address, and no live group or panel of the context is left; a register-miss fetch in the privileged view is not one, nor is the wait
of a TRAP there: both leave the group live in its view. (A halted context posts no record, R274, and issues nothing. A record that finds all
eight entries of its die's buffer taken, the reserved one too, has no entry to take, R273: HostAnswers.) -/
def Obligations.TrapInHandlerIsFatal : Prop :=
  (∀ (t : TrapInfo) (own : Bool) (s : State), 0x01 ≤ t.cause → t.cause ≤ 0x11 → s.g.priv = true →
    (∀ g ∈ allGroups (takeTrap t own s), g.live = true → g.ctx ≠ s.g.ctx) ∧ (∀ p ∈ (takeTrap t own s).panels, p.ctx ≠ s.g.ctx) ∧
    (halted s s.g.ctx = false → bufferFull s (coreDie s.g.core) = false →
      takeTrap t own s = killCtx s.g.ctx { s with outbound := s.outbound ++ [groupRec s.g 3 0x26 0 0 t.fault false] } ∧
      ∃ r, (takeTrap t own s).outbound = s.outbound ++ [r] ∧ r.type = 3 ∧ r.cause = 0x26 ∧ r.addr = t.fault)) ∧
  (∀ (s s2 : State) (c : Nat) (l : List Nat) (p : Phys), s.g.live = true → s.g.priv = true → s.g.block = none → s.g.resident = true →
    s.g.exited = false → nextMisses s = c :: l → recPlace s needR 8 (recordBase s) = (.inl p, s2) → s2.g = s.g →
    ∃ s3, Happens (.registerMissFetch s.g.id) s s3 ∧ s3.g = { s.g with absent := s.g.absent.filter (fun x => x != c) } ∧
      s3.panels = s2.panels ∧ s3.outbound = s2.outbound) ∧
  (∀ (o : Opnd) (s : State), ready (.trap o) s = true → s.g.priv = true → roomFor s (coreDie s.g.core) = true → halted s s.g.ctx = false →
    ∃ s' r, Ends (.trap o) s s' ∧ s'.outbound = s.outbound ++ [r] ∧ r.type = 2 ∧ s'.g.live = true ∧ s'.g.priv = true ∧
      s'.panels = s.panels ∧ s'.others = s.others)

/-- R244, R39: a kill leaves no live group, no panel and no bin of the context, discards its accepted engine commands and, with its groups,
their matrix operations, frees the storage of its panels, and disables the queues that it owns; memory, every L1, the groups, panels, bins,
commands and panel storage of other contexts and the other queues stay as they are. (A context's panels are those of `s.panels` with its
number; a live group of another context stands in a panel of its own.)

The model's own choice (log 26): the killed context's formed groups and passes go too, and those of other contexts stay. -/
def Obligations.KillEndsContext : Prop :=
  ∀ (c : Nat) (s t : State) (lost : Nat → Bool), t = killCtx c s → (∀ id, lost id = s.panels.any (fun p => p.ctx == c && p.id == id)) →
    (∀ g ∈ allGroups t, g.live = true → g.ctx ≠ c ∧ lost g.panel = false ∧ g ∈ allGroups s) ∧
    t.panels = s.panels.filter (fun p => !lost p.id) ∧ (∀ p ∈ t.panels, p.ctx ≠ c) ∧
    (∀ b ∈ t.bins, b.ctx ≠ c ∧ b ∈ s.bins) ∧
    t.cmds = s.cmds.filter (fun x => !lost x.panel) ∧
    t.formed = s.formed.filter (fun f => f.ctx != c) ∧ t.passes = s.passes.filter (fun p => p.ctx != c) ∧
    t.mem = s.mem ∧ t.wr = s.wr ∧ t.l1 = s.l1 ∧ t.tlb = s.tlb ∧ t.outbound = s.outbound ∧
    (s.g.live = true → s.g.ctx ≠ c → lost s.g.panel = false → t.g = s.g) ∧
    (∀ g ∈ s.others, g.live = true → g.ctx ≠ c → lost g.panel = false → g ∈ t.others) ∧
    (∀ b ∈ s.bins, b.ctx ≠ c → binHeld t b = true → b ∈ t.bins) ∧
    (∀ id k, k < 2 ^ 21 → cget zero t.scratch (scrKey id k) = (if lost id then 0 else cget zero s.scratch (scrKey id k))) ∧
    (∀ id d i, d < 64 → i < 4096 → frameGet t id d i = (if lost id then 0 else frameGet s id d i)) ∧
    (∀ n, n < 16 → fld (rdWin s (queueReg n 0x10)) 2 4 = c → bit (rdWin t (queueReg n 0x10)) 0 = false) ∧
    (∀ n, n < 16 → fld (rdWin s (queueReg n 0x10)) 2 4 ≠ c → rdWin t (queueReg n 0x10) = rdWin s (queueReg n 0x10)) ∧
    (∀ x, (∀ n, n < 16 → x ≠ queueReg n 0x10) → rdWin t x = rdWin s x)

/-- R266, R396, R100: RFE in the privileged view, with no valid replay entry, goes on at TPC in the unprivileged view with GMODE from TGMODE
and s60 to s63 from TSAVE, as those stand, with no earlier write of a restored register pending any more; every other register, every
other pending write, memory and every other group stay as they were.

R266, R271, R396: with valid replay entries it does so with these re-injected, in index order, each with the address, words, mask and tile
control of its entry and as many scalar sources and vector sources of 64 lanes as its opcode captures; where the environment holds them they
stand in flight, and nothing of their effect has happened. The scalars of entry e are the doublewords from RPLOP + 2,048 e, its vectors the
words from 64 bytes further on, as they stand in memory at the RFE. -/
def Obligations.RfeReturns : Prop :=
  (∀ (l : List (Nat × Replay)) (s s1 : State) (x : List InFlight), reload l s = (.inl x, s1) →
    x.map (fun e => (e.pc, e.word, e.ext, e.mask, e.tctl)) =
      ((l.map (·.2)).filter (·.valid)).map (fun r => (r.pc, r.word, r.ext, r.mask, r.tctl)) ∧
    (∀ e ∈ x, e.scal.length = (capturedBy e.word e.ext).1 ∧ e.vecs.length = (capturedBy e.word e.ext).2 ∧ ∀ v ∈ e.vecs, v.length = 64)) ∧
  (∀ (e : Nat) (r : Replay) (s s1 s2 : State) (va : W64) (sc : List Nat) (vs : List Lanes), r.valid = true →
    va = s.g.rplop + BitVec.ofNat 64 (2048 * e) → recLoads 8 (capturedBy r.word r.ext).1 va s = (.inl sc, s1) →
    loadVecs (capturedBy r.word r.ext).2 (va + 64) s1 = (.inl vs, s2) →
    ∃ x s3, reload [(e, r)] s = (.inl [x], s3) ∧ x.scal = sc.map (BitVec.ofNat 64) ∧ x.vecs = vs ∧ s3 = { s2 with nextId := s3.nextId }) ∧
  (∀ (n : Nat) (va : W64) (s s1 s2 s3 : State) (p : Phys) (k : Nat) (bs : List Byte) (l : List Nat), recPlace s needR n va = (.inl p, s1) →
    loadBytes s1 (whoOf s1.g 0) p n = (bs, s2) → recLoads n k (va + BitVec.ofNat 64 n) s2 = (.inl l, s3) →
    recLoads n (k + 1) va s = (.inl (natOf bs :: l), s3)) ∧
  (∀ (o : Opnd) (s s1 : State) (x : List InFlight), ready (.rfe o) s = true → s.holds.headD false = true →
    reload (indexed 0 s.g.rplq) s = (.inl x, s1) → x ≠ [] → s1.g = s.g → s1.holds = s.holds →
    ∃ s', Completes (.rfe o) s (some s.g.tpc) { s' with holds := s.holds.drop 1 } ∧ s' = resumeCmds (onG (leaveTrap x) s1) ∧
      s'.g.inflight = x ∧ s'.g.priv = false ∧ s'.g.gmode = s.g.tgmode ∧ s'.g.v = s.g.v ∧ s'.others = s1.others ∧
      (partSR s.g.part = 3 → ∀ k, k < 4 → cget zero s'.g.s (60 + k) = cget zero s.g.tsave k)) ∧
  ∀ (o : Opnd) (s : State), ready (.rfe o) s = true → (∀ r ∈ s.g.rplq, r.valid = false) →
    ∃ s', Completes (.rfe o) s (some s.g.tpc) s' ∧
      s'.g.gmode = s.g.tgmode ∧ s'.g.priv = false ∧
      (partSR s.g.part = 3 → ∀ k, k < 4 → cget zero s'.g.s (60 + k) = cget zero s.g.tsave k) ∧
      (∀ k, k < 60 ∨ 64 ≤ k ∨ partSR s.g.part ≠ 3 → cget zero s'.g.s k = cget zero s.g.s k) ∧
      (∀ p, p ∈ s'.g.pend ↔ p ∈ s.g.pend ∧ (∀ w, p.eff ≠ .mode w) ∧ (∀ n x, p.eff = .sca n x → partSR s.g.part = 3 → n < 60)) ∧
      s'.g.v = s.g.v ∧ s'.g.t = s.g.t ∧ s'.g.tctl = s.g.tctl ∧ s'.g.inflight = [] ∧ s'.g.held = s.g.held ∧
      StoresNothing s s' ∧ s'.others = s.others ∧ s'.l1 = s.l1 ∧ s'.scratch = s.scratch

/-- R264 with R266: a handler that changes nothing gives back to a group, at its RFE, what the group had when it trapped: every scalar
register, s63 too, GMODE, the program counter and the view, with its pending writes in effect. -/
def Obligations.TrapThenReturn : Prop :=
  ∀ (t : TrapInfo) (s : State), s.g.inflight = [] → s.g.priv = false → bit s.g.tvec 63 = true → partSR s.g.part = 3 →
    let b := returnFromTrap (takeTrap t false s)
    b.g.pc = s.g.pc ∧ b.g.priv = false ∧ b.g.gmode = (completeAll s.g).gmode ∧ b.g.v = (completeAll s.g).v ∧ b.g.exmask = s.g.exmask ∧
      (∀ k, cget zero b.g.s k = cget zero (completeAll s.g).s k) ∧ StoresNothing s b ∧ b.others = s.others

/-- R265, R414: SVC n in the unprivileged view with the handler on takes the trap of cause 0x10 with TPC at the next instruction and n in
TCAUSE.CODE; in the privileged view it is a trap in the handler.

R265, R414: TRAP n in the unprivileged view with the handler on takes the trap of cause 0x11 with TPC at it; in the privileged view it
posts a record of type 2 with n, where the die has room, and waits at kind 11 to go on at the next instruction.

R264, R265, R273: SVC n and TRAP n in the unprivileged view without a handler, or without s60 to s63, save the same registers (but TSAVE
without s60 to s63), enter the privileged view, and post a record of type 2 with the cause and n, where the die has room, and wait for the
host at kind 11; without room they wait at kind 10 to post it. -/
def Obligations.SystemCalls : Prop :=
  (∀ (o : Opnd) (s : State) (i : Instr) (cause : Nat) (next : W64), (i = .svc o ∧ cause = 0x10 ∧ next = s.g.pc + 4) ∨
      (i = .trap o ∧ cause = 0x11 ∧ next = s.g.pc) → ready i s = true → s.g.priv = false →
    (bit s.g.tvec 63 = false ∨ partSR s.g.part ≠ 3) → halted s s.g.ctx = false →
    ∃ s', Ends i s s' ∧ s'.g.priv = true ∧ s'.g.tpc = next ∧ s'.g.tfirst = s.g.pc ∧ s'.g.tcause = BitVec.ofNat 64 (cause + o.b.toNat * 2 ^ 32) ∧
      s'.g.tgmode = (completeAll s.g).gmode ∧ s'.g.gmode = (completeAll s.g).gmode ∧ s'.g.s = (completeAll s.g).s ∧
      s'.g.v = (completeAll s.g).v ∧ (partSR s.g.part ≠ 3 → s'.g.tsave = s.g.tsave) ∧ StoresNothing s s' ∧ s'.others = s.others ∧
      (roomFor s (coreDie s.g.core) = true → s'.g.block = some ⟨11, 0, 0, 0⟩ ∧ ∃ r, s'.outbound = s.outbound ++ [r] ∧ r.type = 2 ∧
        r.cause = cause ∧ r.sub = 0 ∧ r.code = o.b.toNat ∧ r.bid = s.g.bid ∧ r.die = coreDie s.g.core ∧ r.grp = some s.g.id) ∧
      (roomFor s (coreDie s.g.core) = false → s'.g.block = some ⟨10, 0, BitVec.ofNat 64 o.b.toNat, 0⟩ ∧ s'.outbound = s.outbound)) ∧
  (∀ (o : Opnd) (s : State), ready (.svc o) s = true →
    (s.g.priv = false → bit s.g.tvec 63 = true → partSR s.g.part = 3 →
      ∃ s', Ends (.svc o) s s' ∧ s'.g.pc = sext57 (fld s.g.tvec 0 57) ∧ s'.g.priv = true ∧ s'.g.gmode = 63 ∧ s'.g.tpc = s.g.pc + 4 ∧
        s'.g.tfirst = s.g.pc ∧ s'.g.tcause = BitVec.ofNat 64 (0x10 + o.b.toNat * 2 ^ 32) ∧ s'.g.tgmode = (completeAll s.g).gmode ∧
        (∀ k, k ≠ 63 → cget zero s'.g.s k = cget zero (completeAll s.g).s k) ∧ s'.g.v = (completeAll s.g).v ∧
        StoresNothing s s' ∧ s'.others = s.others) ∧
    (s.g.priv = true → ∃ s', Ends (.svc o) s s' ∧ (∀ g ∈ allGroups s', g.live = true → g.ctx ≠ s.g.ctx) ∧
      (halted s s.g.ctx = false → bufferFull s (coreDie s.g.core) = false → ∃ r, s'.outbound = s.outbound ++ [r] ∧
        r.type = 3 ∧ r.cause = 0x26))) ∧
  (∀ (o : Opnd) (s : State), ready (.trap o) s = true →
    (s.g.priv = false → bit s.g.tvec 63 = true → partSR s.g.part = 3 →
      ∃ s', Ends (.trap o) s s' ∧ s'.g.pc = sext57 (fld s.g.tvec 0 57) ∧ s'.g.priv = true ∧ s'.g.gmode = 63 ∧ s'.g.tpc = s.g.pc ∧
        s'.g.tfirst = s.g.pc ∧ s'.g.tcause = BitVec.ofNat 64 (0x11 + o.b.toNat * 2 ^ 32) ∧ s'.g.tgmode = (completeAll s.g).gmode ∧
        (∀ k, k ≠ 63 → cget zero s'.g.s k = cget zero (completeAll s.g).s k) ∧ s'.g.v = (completeAll s.g).v ∧
        StoresNothing s s' ∧ s'.others = s.others) ∧
    (s.g.priv = true → halted s s.g.ctx = false → roomFor s (coreDie s.g.core) = true →
      Completes (.trap o) s none (onG (fun g => { g with block := some ⟨11, 0, 0, 1⟩ })
        { s with outbound := s.outbound ++ [groupRec s.g 2 0x11 0 o.b.toNat s.g.tfault true] })))

/-- R93, R197, R196, R194, R266: in the unprivileged view RFE, TLBINV, HARVEST and MAPPG are illegal, and so trap, under sub-code 0x0A or
a lower one that holds too; no other word instruction is illegal under 0x0A, and none of them in the privileged view.

R264, R93: with the handler on and nothing in flight that trap is taken: cause 0x01 with the sub-code, TPC at the instruction, and the
group in the privileged view at TVEC.ADDR; the TLBs, memory and the pools stay as they were. -/
def Obligations.PrivilegedOnly : Prop :=
  (∀ (o : Opnd) (i : Instr) (s : State), i = .rfe o ∨ i = .tlbinv o ∨ i = .harvest o ∨ i = .mappg o → s.g.priv = false →
    ∃ n, illegalSub s i = some n ∧ n ≤ 0x0A ∧
      (s.g.live = true → s.g.inflight = [] → bit s.g.tvec 63 = true → partSR s.g.part = 3 →
        ∃ s', Ends i s s' ∧ s'.g.pc = sext57 (fld s.g.tvec 0 57) ∧ s'.g.priv = true ∧ s'.g.tpc = s.g.pc ∧
          s'.g.tcause = BitVec.ofNat 64 (1 + n * 256) ∧ s'.tlb = s.tlb ∧ StoresNothing s s')) ∧
  (∀ (i : Instr) (s : State), illegalSub s i = some 0x0A →
    s.g.priv = false ∧ ∃ o, i = .rfe o ∨ i = .tlbinv o ∨ i = .harvest o ∨ i = .mappg o)

/-! Control flow. -/

/-- R345, R346, R352, R383, R384, R387, R394: NOP, BRA, BRC, BZM, CALL, RET and MODE execute; each moves the program counter as it says
and CALL and MODE post one result at distance 1; nothing else changes.

R383, R384: the fields of GMODE that MODE's D bits enable take their bits of the immediate; the others stay. -/
def Obligations.ControlFlow : Prop :=
  (∀ (o : Opnd) (s : State),
    (ready (.nop o) s = true → Completes (.nop o) s none s) ∧
    (ready (.bra o) s = true → Completes (.bra o) s (some (s.g.pc + w64 (4 * (o.d ++ o.a ++ o.b : BitVec 21).toInt))) s) ∧
    (ready (.brc o) s = true → Completes (.brc o) s
      (if (match o.d.toNat with
           | 0 => decide ((rdS s o.a.toNat).toInt = 0)
           | 1 => decide ((rdS s o.a.toNat).toInt ≠ 0)
           | 2 => decide ((rdS s o.a.toNat).toInt < 0)
           | 3 => decide (0 ≤ (rdS s o.a.toNat).toInt)
           | 4 => decide (0 < (rdS s o.a.toNat).toInt)
           | _ => decide ((rdS s o.a.toNat).toInt ≤ 0)) = true
       then some (s.g.pc + branchOff o) else none) s) ∧
    (ready (.bzm o) s = true → Completes (.bzm o) s
      (if ∀ k, k < 64 → ¬ ((rdS s o.a.toNat).getLsbD k = true ∧ s.g.exmask.getLsbD k = true) then some (s.g.pc + branchOff o) else none) s) ∧
    (ready (.call o) s = true → Completes (.call o) s (some (s.g.pc + branchOff o)) (onG (post 1 (.sca o.d.toNat (s.g.pc + 8))) s)) ∧
    (ready (.ret o) s = true → Completes (.ret o) s (some (rdS s o.a.toNat)) s) ∧
    (ready (.mode o) s = true → Posts (.mode o) s 1 (.mode (modeNew o s.g.gmode)))) ∧
  (∀ (o : Opnd) (v : BitVec 30) (w : W64), o.x = .imm v →
    gmMS (modeNew o w) = (if o.d.getLsbD 0 then v.toNat % 64 else gmMS w) ∧
    gmET (modeNew o w) = (if o.d.getLsbD 1 then v.toNat / 64 % 16 else gmET w) ∧
    fld (modeNew o w) 10 3 = (if o.d.getLsbD 2 then v.toNat / 1024 % 8 else fld w 10 3) ∧
    gmSAT (modeNew o w) = (if o.d.getLsbD 3 then v.getLsbD 13 else gmSAT w) ∧
    gmSCB (modeNew o w) = (if o.d.getLsbD 4 then v.getLsbD 14 else gmSCB w) ∧ fld (modeNew o w) 15 49 = fld w 15 49)

/-- R351, R352, R253, R431: YIELDPT changes nothing unless a pre-emption request targets the panel, and is then a blocking point of kind 9
from which the group goes on at the next instruction; EXIT of a group none of whose commands is paused at a fault ends the group: it has no
registers, no pending writes, no pending swatches, no issued instruction and no uncommitted reservation any more, and keeps its identity and
its accepted matrix operations; while a command of it is paused at a fault, EXIT ends the panel with cause 0x24, sub-code 4 (R236). -/
def Obligations.YieldAndExit : Prop :=
  ∀ (o : Opnd) (s : State),
    (ready (.yieldpt o) s = true → targeted s = false → Completes (.yieldpt o) s none s) ∧
    (ready (.yieldpt o) s = true → targeted s = true →
      Completes (.yieldpt o) s none (onG (fun g => { g with block := some ⟨9, 0, 0, 0⟩ }) s)) ∧
    (∀ va, ready (.exit o) s = true → pausedAt s = some va → Ends (.exit o) s (fatalPanel 0x24 4 va s)) ∧
    (ready (.exit o) s = true → pausedAt s = none → ∃ s', Completes (.exit o) s none s' ∧
      s'.g.live = true ∧ s'.g.exited = true ∧ s'.g.resident = false ∧ s'.g.v = [] ∧ s'.g.s = [] ∧ s'.g.pend = [] ∧ s'.g.reserved = [] ∧
      s'.g.swDie = 0 ∧ s'.g.swMod = 0 ∧ s'.g.swSys = 0 ∧ s'.g.inflight = [] ∧ s'.g.id = s.g.id ∧ s'.g.panel = s.g.panel ∧
      s'.g.gid = s.g.gid ∧ s'.g.pidx = s.g.pidx ∧ s'.g.bid = s.g.bid ∧ s'.g.openSet = s.g.openSet ∧ s'.g.batches = s.g.batches ∧
      s'.g.t = s.g.t ∧ s'.others = s.others ∧ StoresNothing s s' ∧ s'.scratch = s.scratch ∧ s'.l1 = s.l1 ∧ s'.panels = s.panels ∧
      s'.bins = s.bins.filter (binHeld (onG exitedGroup s)))

/-! System registers, translation and maintenance. -/

/-- R376, R377, R99: MFSR writes the register in the view of the group, and a register that has no unprivileged view reads zero there.
MTSR writes a status register's flags away in either view (R78), and nothing else in the unprivileged one; in the privileged view it sets,
register by register of Tables 2-7 and 8-9, exactly the bits that a write may set: of GMODE and TGMODE bits 14:0, of SPNBASE and SPNSIZE
their fields while the die holds no bin, of SPNTMO, TVEC, TCAUSE, WBUDGET and FRPOOL their fields, of TFIRST, TFAULT, TPC, TMASK and TSAVE0 to
TSAVE3 all, of a replay entry its valid bit and its lane mask; a write of any other register has no effect.

Read-back: after MTSR in the privileged view MFSR of the same register finds the bits that it set, and no other register of indices 0x100
to 0x10F changes. (The indices, the fields and the masks are those of the tables; what the unassigned bits read is zero.) -/
def Obligations.SystemRegisters : Prop :=
  (∀ (o : Opnd) (s : State), ready (.mfsr o) s = true → Puts (.mfsr o) s (.sca o.d.toNat
    (if s.g.priv = false ∧ 0x31 ≤ sysIndex o then 0 else sysRead s (sysIndex o)))) ∧
  (∀ (o : Opnd) (s : State) (n : Nat) (v : W64), ready (.mtsr o) s = true → n = sysIndex o → v = rdS s o.a.toNat →
    (n = 0x10 → Completes (.mtsr o) s none (onG (fun g => { g with fpstat := g.fpstat &&& ~~~(v.setWidth 6) }) s)) ∧
    (n = 0x11 → Completes (.mtsr o) s none (onG (fun g => { g with mstat := g.mstat &&& ~~~(v.setWidth 3) }) s)) ∧
    (n = 0x12 → Completes (.mtsr o) s none (onG (fun g => { g with slstat := g.slstat &&& ~~~(v.setWidth 6) }) s)) ∧
    (s.g.priv = false → n ≠ 0x10 → n ≠ 0x11 → n ≠ 0x12 → Completes (.mtsr o) s none s) ∧
    (s.g.priv = true →
      (n = 0 → Completes (.mtsr o) s none (onG (fun g => { g with gmode := v &&& 0x7FFF }) s)) ∧
      (n = 0x30 → Completes (.mtsr o) s none (if dieHasBin s then s else
        { s with spnbase := cset zero s.spnbase (coreDie s.g.core) (v &&& 0x01FF_FFFF_FFFF_FFE0) })) ∧
      (n = 0x31 → Completes (.mtsr o) s none (if dieHasBin s then s else
        { s with spnsize := cset zero s.spnsize (coreDie s.g.core) (v &&& 0xF_07FF_FFFF) })) ∧
      (n = 0x32 → Completes (.mtsr o) s none { s with spntmo := cset spntmoReset s.spntmo (coreDie s.g.core) (v &&& 0x1FF_FFFF) }) ∧
      (n = 0x100 → Completes (.mtsr o) s none (onG (fun g => { g with tvec := v &&& 0x81FF_FFFF_FFFF_FFFF }) s)) ∧
      (n = 0x101 → Completes (.mtsr o) s none
        (onG (fun g => { g with tcause := (g.tcause &&& 0xFFFF_FF80_FFFF_0000) ||| (v &&& 0x7F_0000_FFFF) }) s)) ∧
      (n = 0x102 → Completes (.mtsr o) s none (onG (fun g => { g with tfirst := v }) s)) ∧
      (n = 0x103 → Completes (.mtsr o) s none (onG (fun g => { g with tfault := v }) s)) ∧
      (n = 0x104 → Completes (.mtsr o) s none (onG (fun g => { g with tpc := v }) s)) ∧
      (n = 0x105 → Completes (.mtsr o) s none (onG (fun g => { g with tmask := v }) s)) ∧
      (n = 0x106 → Completes (.mtsr o) s none (onG (fun g => { g with wbudget := v &&& 0xFFFF_FFFF_FFFF }) s)) ∧
      (n = 0x109 → Completes (.mtsr o) s none (onG (fun g => { g with frpool := v &&& 0x01FF_FFFF_FFFF_FFC0 }) s)) ∧
      (n = 0x10B → Completes (.mtsr o) s none (onG (fun g => { g with tgmode := v &&& 0x7FFF }) s)) ∧
      (0x10C ≤ n → n ≤ 0x10F → Completes (.mtsr o) s none (onG (fun g => { g with tsave := cset zero g.tsave (n - 0x10C) v }) s)) ∧
      (0x140 ≤ n → ∃ s', Completes (.mtsr o) s none s' ∧ s'.g.rplq.length = s.g.rplq.length ∧
        s' = onG (fun g => { g with rplq := s'.g.rplq }) s ∧
        (∀ e r, s.g.rplq[e]? = some r → s'.g.rplq[e]? = some (
          if e = (n - 0x140) / 4 ∧ n % 4 = 0 then { r with valid := bit v 63 }
          else if e = (n - 0x140) / 4 ∧ n % 4 = 2 then { r with mask := v } else r))) ∧
      ((1 ≤ n ∧ n ≤ 8) ∨ (0x13 ≤ n ∧ n ≤ 0x27) ∨ n = 0x107 ∨ n = 0x108 ∨ n = 0x10A → Completes (.mtsr o) s none s) ∧
      (n < 0x10 ∨ 0x12 < n → Completes (.mtsr o) s none (sysWritePriv n v s)))) ∧
  (∀ (s : State) (v : W64),
    (∀ n, n = 0x102 ∨ n = 0x103 ∨ n = 0x104 ∨ n = 0x105 ∨ (0x10C ≤ n ∧ n ≤ 0x10F) → sysRead (sysWritePriv n v s) n = v) ∧
    sysRead (sysWritePriv 0 v s) 0 = v &&& 0x7FFF ∧ sysRead (sysWritePriv 0x100 v s) 0x100 = v &&& 0x81FF_FFFF_FFFF_FFFF ∧
    sysRead (sysWritePriv 0x10B v s) 0x10B = v &&& 0x7FFF ∧ sysRead (sysWritePriv 0x106 v s) 0x106 = v &&& 0xFFFF_FFFF_FFFF ∧
    (∀ n m, 0x102 ≤ n → n ≤ 0x10F → 0x100 ≤ m → m ≤ 0x10F → n ≠ m → sysRead (sysWritePriv n v s) m = sysRead s m))

/-- R197: TLBINV in the privileged view writes the A and D of the entries it names and removes them: those of the context in scope (of the
cores of its die, of the module, or of these and the translation caches of IOD0 and IOD1), all of them or those whose page holds the
address; an address that is not canonical traps with cause 0x03.

R196, R365: HARVEST writes the A and D that the translation buffers have gathered for the context, keeps every entry with its translation,
and an entry does not write the same setting again: after it no access sets A, and no store D, of an entry that had it written; an entry with
neither A nor D writes nothing.

R198, R348, R349: CMAINT over no bytes changes nothing; over a range of mapped pages, in the privileged view or with pages that its group
may write, it writes back, discards, or does both to the lines of the range in every cluster in scope, and .ICI discards the instruction
caches in scope with the clean words; in the unprivileged view .INV and .FL over a page without W trap with cause 0x06. -/
def Obligations.TranslationMaintenance : Prop :=
  (∀ (o : Opnd) (s : State), ready (.tlbinv o) s = true →
    ((parOf o).val.getLsbD 0 = true ∨ canonical (rdS s o.a.toNat) = true →
      Completes (.tlbinv o) s none (dropTlb s (fun e =>
        e.ctx == fld s.g.vmctx 0 16 &&
        (if (parOf o).scope = 3 then e.core / 48 == s.g.core / 48 else if (parOf o).scope = 4 then decide (e.core < 384) else true) &&
        ((parOf o).val.getLsbD 0 ||
          decide (e.base ≤ (rdS s o.a.toNat).toNat % 2 ^ 57 ∧ (rdS s o.a.toNat).toNat % 2 ^ 57 < e.base + 2 ^ e.bits))))) ∧
    ((parOf o).val.getLsbD 0 = false → canonical (rdS s o.a.toNat) = false →
      Ends (.tlbinv o) s (takeTrap { cause := 3, sub := 0, mask := 1, fault := rdS s o.a.toNat } false s))) ∧
  (∀ (o : Opnd) (s : State), ready (.harvest o) s = true →
    ∃ s', Completes (.harvest o) s none s' ∧
      s'.tlb = s.tlb.map (fun e => if e.ctx = fld s.g.vmctx 0 16 then
        { e with aDone := e.aDone || e.a, dDone := e.dDone || e.d, a := false, d := false } else e) ∧
      s'.mem = s.mem ∧ s'.g = s.g ∧ s'.l1 = s.l1 ∧
      s'.wr = ((s.tlb.filter (fun e => e.ctx == fld s.g.vmctx 0 16)).foldl writeAd s).wr) ∧
  (∀ (s : State) (e : TlbEntry), e.a = false → e.d = false → writeAd s e = s) ∧
  (∀ (s : State) (core tag va : Nat) (store : Bool) (e : TlbEntry), e ∈ (gather s core tag va store).tlb →
    ∃ f ∈ s.tlb, f.aDone = e.aDone ∧ f.dDone = e.dDone ∧ (f.aDone = true → e.a = f.a) ∧ (f.dDone = true → e.d = f.d)) ∧
  (∀ (o : Opnd) (s : State), ready (.cmaint o) s = true →
    (rdS s o.b.toNat = 0 → Completes (.cmaint o) s none s) ∧
    (∀ e pages s1, rdS s o.b.toNat ≠ 0 → canonical (rdS s o.a.toNat) = true →
      rangeEnd (rdS s o.a.toNat).toNat (rdS s o.b.toNat).toNat = .inl e →
      pagesOf (whoOf s.g 0) e ((rdS s o.b.toNat).toNat / 65536 + 2) ((rdS s o.a.toNat).toNat % 2 ^ 57) s = .ok pages s1 →
      s1.g = s.g →
      (s.g.priv = true ∨ ((parOf o).val.toNat % 4 ≠ 1 ∧ (parOf o).val.toNat % 4 ≠ 2) ∨
          (∀ p ∈ pages, bit p.pte 3 = true ∧ bit p.pte 5 = true ∧ pteAddr p.pte / 2 ^ 48 ≠ 3) →
        ∃ s', Completes (.cmaint o) s none s' ∧
          ∀ s2, s2 = ((l1Clusters s1).filter (fun c => coreInScope s.g (parOf o).scope.toNat (4 * c))).foldl
            (fun x c => match (parOf o).val.toNat % 4 with
              | 0 => writeBack x c (fun l => pages.any (fun p => spanLine p l))
              | 1 => Machine.discard x c (fun l => pages.any (fun p => spanLine p l))
              | 2 => flush x c (fun l => pages.any (fun p => spanLine p l))
              | _ => discardClean x c (fun l => pages.any (fun p => spanLine p l))) s1 →
            ((parOf o).val.toNat % 4 ≠ 3 → s' = s2) ∧
            ((parOf o).val.toNat % 4 = 3 → s' = { s2 with icache := s'.icache } ∧
              (∀ k, cget (fun _ => none) s'.icache k = (if coreInScope s.g (parOf o).scope.toNat (k / 2 ^ 62) then none
                else cget (fun _ => none) s2.icache k)))) ∧
      (s.g.priv = false → (parOf o).val.toNat % 4 = 1 ∨ (parOf o).val.toNat % 4 = 2 → (∃ p ∈ pages, bit p.pte 3 = false) →
        ∃ s' t, Ends (.cmaint o) s s' ∧ s' = takeTrap t false s1 ∧ t.cause = 6)))

/-- R194, R192, R373: MAPPG answers 4 for a template with a bit that it may not have, 2 without a pool or with an empty one, and with a
pool entry and a free slot writes the entry with the template's R, W, X, U, SY and CC into the slot and answers 0; where a page is mapped
there already it answers 1, and where a table is lacking 3, and the pool has its entry again; every answer is one interlocked write of sD.

R238, R338: ACCSN of a range whose pages it may take, with a free table entry at every home, writes the pages' lines back, records the
accession under the next number, sets AC in the pages' leaves, removes their translations in every translation buffer, and answers the number;
with a full table it answers 0 and records nothing. An unseal removes every record that overlaps the range, clears AC in the leaves, removes
their translations, and answers the number that the range was recorded under, or 0. -/
def Obligations.PageInstructions : Prop :=
  (∀ (o : Opnd) (s : State), ready (.mappg o) s = true → canonical (rdS s o.a.toNat) = true →
    (rdS s o.b.toNat &&& ~~~0x193C ≠ 0 → Puts (.mappg o) s (.sca o.d.toNat 4)) ∧
    (rdS s o.b.toNat &&& ~~~0x193C = 0 → fld s.g.frpool 0 57 = 0 → Puts (.mappg o) s (.sca o.d.toNat 2)) ∧
    (∀ ws ps s1 s2 p r, rdS s o.b.toNat &&& ~~~0x193C = 0 → fld s.g.frpool 0 57 ≠ 0 →
      checkPerm s (whoOf s.g 0) 8 needRW [(0, sext57 (fld s.g.frpool 0 57))] = .ok ws s1 → places (whoOf s.g 0) 16 needRW ws s1 = .ok (p :: ps) s2 →
      r = p.2 →
      (∀ s3, poolPop (whoOf s.g 0) r s2 = (none, s3) → s3.g.live = true → Completes (.mappg o) s none (onG (put (.sca o.d.toNat 2)) s3)) ∧
      (∀ s3 e q s4, poolPop (whoOf s.g 0) r s2 = (some e, s3) → poolBad e = false →
        mapWalk ((rdS s o.a.toNat).toNat % 2 ^ 57) (psBits e) s.g.ccls levels (fld s.g.vmctx 17 35 * 2 ^ 17) s3 = (q, s4) → s4.g.live = true →
        (∀ k, q = .slot k → Completes (.mappg o) s none
          (onG (put (.sca o.d.toNat 0)) (homeWrite s4 k (bytesOf 8 (newPte e (rdS s o.b.toNat)).toNat) s.g.ccls 0 none))) ∧
        (q = .mapped → Completes (.mappg o) s none (onG (put (.sca o.d.toNat 1)) (poolPush (whoOf s.g 0) r e s4))) ∧
        (q = .noSlot → Completes (.mappg o) s none (onG (put (.sca o.d.toNat 3)) (poolPush (whoOf s.g 0) r e s4)))))) ∧
  (∀ (o : Opnd) (s s1 : State) (e : Nat) (pages : List PageSpan), ready (.accsn o) s = true →
    canonical (rdS s o.a.toNat) = true → fld (rdS s o.b.toNat) 0 63 ≠ 0 →
    rangeEnd (rdS s o.a.toNat).toNat (fld (rdS s o.b.toNat) 0 63) = .inl e →
    accPages (whoOf s.g 0) e (fld (rdS s o.b.toNat) 0 63 / 65536 + 1) ((rdS s o.a.toNat).toNat % 2 ^ 57) s = .ok pages s1 →
    s1.g = s.g →
    (bit (rdS s o.b.toNat) 63 = false →
      ∀ s2, s2 = (l1Clusters s1).foldl (fun x c => writeBack x c (fun l => pages.any (fun p => spanLine p l))) s1 → s2.g = s.g →
      ((pieceHomes (pages.flatMap pagePieces)).any (tableFull s2) = true → Completes (.accsn o) s none (onG (put (.sca o.d.toNat 0)) s2)) ∧
      ((pieceHomes (pages.flatMap pagePieces)).any (tableFull s2) = false →
        ∃ n, n = BitVec.ofNat 64 (fld (rdWin s2 modidOff) 0 16 * 2 ^ 48 + s2.accCount) ∧
          Completes (.accsn o) s none (onG (put (.sca o.d.toNat n)) (setAc true (whoOf s.g 0) pages { s2 with
            accCount := s2.accCount + 1
            accs := ⟨n, s.g.ctx, rdS s o.a.toNat, fld (rdS s o.b.toNat) 0 63, pages.flatMap pagePieces⟩ :: s2.accs })))) ∧
    (bit (rdS s o.b.toNat) 63 = true → ∃ n,
      Completes (.accsn o) s none (onG (put (.sca o.d.toNat n)) (setAc false (whoOf s.g 0) pages
        { s1 with accs := s1.accs.filter (fun x => !piecesMeet x.pieces (pages.flatMap pagePieces)) })) ∧
      ((∃ x ∈ s1.accs, x.ctx = s.g.ctx ∧ x.base = rdS s o.a.toNat ∧ x.len = fld (rdS s o.b.toNat) 0 63) →
        ∃ x ∈ s1.accs, x.ctx = s.g.ctx ∧ x.base = rdS s o.a.toNat ∧ x.len = fld (rdS s o.b.toNat) 0 63 ∧ x.num = n) ∧
      ((∀ x ∈ s1.accs, ¬ (x.ctx = s.g.ctx ∧ x.base = rdS s o.a.toNat ∧ x.len = fld (rdS s o.b.toNat) 0 63)) → n = 0))) ∧
  (∀ (ac : Bool) (w : Who) (pages : List PageSpan) (s : State),
    (∀ e ∈ (setAc ac w pages s).tlb, e.ctx = w.tag → ∀ x ∈ pages, x.base ≠ e.base) ∧
    (setAc ac w pages s).accs = s.accs ∧ (setAc ac w pages s).g = s.g ∧
    ((∀ e ∈ s.tlb, e.a = false ∧ e.d = false) → pages.Pairwise (fun x y => x.at_ + 8 ≤ y.at_ ∨ y.at_ + 8 ≤ x.at_) →
      ∀ x ∈ pages, ∀ b, b < 64 → bit (rw8 (setAc ac w pages s) x.at_) b = (if b = 10 then ac else bit (rw8 s x.at_) b)))

/-- R247, R366: LAUNCH to a queue that may not take a record from the group answers 2; to a full ring it answers 1; else the 128 bytes of the
record go to the ring slot of TAIL, TAIL goes up by one, and it answers 0. -/
def Obligations.LaunchRecords : Prop :=
  ∀ (o : Opnd) (s s1 s2 : State) (bs : List Byte), ready (.launch o) s = true →
    canonical (rdS s o.a.toNat) = true → (rdS s o.a.toNat).toNat % 8 = 0 →
    checkSpans (releasePart 5 s).2 (whoOf s.g 0) (releasePart 5 s).2.g.ctx needR [⟨0, rdS s o.a.toNat, 128⟩] = .ok () s1 →
    loadVas (whoOf s.g 0) 8 16 (rdS s o.a.toNat) s1 = (bs, s2) → s2.g.live = true →
    (launchOk s2 (rdS s o.d.toNat) = false → Completes (.launch o) s none (onG (put (.sca o.d.toNat 2)) s2)) ∧
    (∀ dev n pair ws s3 tb s4 hb s5, dev = { whoOf s.g 0 with alloc := 2 } → n = fld (rdS s o.d.toNat) 0 4 →
      launchOk s2 (rdS s o.d.toNat) = true → pair = ctlPair s2 n → checkPerm s2 dev 16 needRW [(0, pair)] = .ok ws s3 →
      loadVa dev 8 pair s3 = (tb, s4) → loadVa dev 8 (pair + 8) s4 = (hb, s5) → s5.g.live = true →
      (2 ^ ringLog s5 n ≤ (BitVec.ofNat 64 (natOf tb) - BitVec.ofNat 64 (natOf hb) : W64).toNat →
        Completes (.launch o) s none (onG (put (.sca o.d.toNat 1)) s5)) ∧
      (∀ ws2 s6 s7 s8, (BitVec.ofNat 64 (natOf tb) - BitVec.ofNat 64 (natOf hb) : W64).toNat < 2 ^ ringLog s5 n →
        checkPerm s5 dev 128 needW [(0, ringSlot s5 n (natOf tb))] = .ok ws2 s6 →
        checkSpans s6 dev s6.g.ctx needRW [⟨0, pair, 16⟩] = .ok () s7 →
        checkSpans s7 dev s7.g.ctx needW [⟨0, ringSlot s5 n (natOf tb), 128⟩] = .ok () s8 →
        (putVa dev 1 pair (bytesOf 8 (natOf tb + 1)) (putVa dev 16 (ringSlot s5 n (natOf tb)) bs s8)).g.live = true →
        Completes (.launch o) s none
          (onG (put (.sca o.d.toNat 0)) (putVa dev 1 pair (bytesOf 8 (natOf tb + 1)) (putVa dev 16 (ringSlot s5 n (natOf tb)) bs s8)))))

/-- R51 to R54, R378: MIGRATE of a group that is alone in its panel and has no accepted matrix operation, no closed batch and no command but
SEAM left, in the unprivileged view: it stays and answers 1 where the address is homed on its own die, it stays and answers 2 where the other
die has no core for it, and else it answers 0 on a core of the die that homes the address, with its registers and without its panel's
scratchpad and frames. In the privileged view, and in a panel of several groups, it traps with cause 0x0D. -/
def Obligations.MigrateMoves : Prop :=
  ∀ (o : Opnd) (s : State), ready (.migrate o) s = true →
    (s.g.priv = false → ((panelOf s s.g.panel).map (fun p => decide (p.groups ≤ 1))).getD true = true →
      ∀ p s1, namedPlace (whoOf s.g 0) (rdS s o.a.toNat) s = .ok p s1 → s1.g = s.g → migrateWaits s1 = false →
      needsOps (fun _ => true) s.g.id s1 = false →
      ∀ s4, s4 = onG completeAll (releasePart 4 s1).2 →
      (homeDie p = s4.g.core / 48 → Completes (.migrate o) s none (onG (put (.sca o.d.toNat 1)) (acquirePart 4 fullSwatch s4))) ∧
      (homeDie p ≠ s4.g.core / 48 → placeCore s4 (homeDie p) s4.g.part 1 = none →
        Completes (.migrate o) s none (onG (put (.sca o.d.toNat 2)) (acquirePart 4 fullSwatch s4))) ∧
      (∀ c, homeDie p ≠ s4.g.core / 48 → placeCore s4 (homeDie p) s4.g.part 1 = some c →
        ∃ s', Completes (.migrate o) s none s' ∧ s'.g.core = c ∧ s'.g.panel = s.g.panel ∧ s'.g.v = s4.g.v ∧
          cget zero s'.g.s o.d.toNat = 0 ∧ (∀ k, k ≠ o.d.toNat → cget zero s'.g.s k = cget zero s4.g.s k) ∧
          s'.scratch = ckeep (fun x => decide (x / 2 ^ 21 ≠ s.g.panel)) s4.scratch)) ∧
    (s.g.priv = true ∨ ((panelOf s s.g.panel).map (fun p => decide (p.groups ≤ 1))).getD true = false →
      Ends (.migrate o) s (takeTrap { cause := 0x0D, sub := 1 } false s))

/-! The scalar instructions. -/

/-- R399, R400, R98: SADD, SSUB, SMUL, SMULH and SMAD post the exact sum, difference, product, high half of the product, and product plus
addend, modulo 2^64, at distances 1, 1, 3, 3 and 3, and change nothing else.

R399: SAND, SOR and SXOR act on each bit, SSHL multiplies by 2^n, SSHR divides the unsigned and SSRA the signed value by 2^n with floor,
where n is the low six bits of B; each posts at distance 1. -/
def Obligations.ScalarArithmetic : Prop :=
  (∀ (o : Opnd) (s : State) (a b c : Nat) (x y : Int), a = (rdS s o.a.toNat).toNat → b = (opB s o).toNat → c = (scalarC s o).toNat →
    x = (rdS s o.a.toNat).toInt → y = (opB s o).toInt →
    (ready (.sadd o) s = true → Posts (.sadd o) s 1 (.sca o.d.toNat (BitVec.ofNat 64 (a + b)))) ∧
    (ready (.ssub o) s = true → Posts (.ssub o) s 1 (.sca o.d.toNat (BitVec.ofInt 64 (x - y)))) ∧
    (ready (.smul o) s = true → Posts (.smul o) s 3 (.sca o.d.toNat (BitVec.ofNat 64 (a * b)))) ∧
    (ready (.smulh o) s = true → (parOf o).sel = 1 → Posts (.smulh o) s 3 (.sca o.d.toNat (BitVec.ofNat 64 (a * b / 2 ^ 64)))) ∧
    (ready (.smulh o) s = true → (parOf o).sel ≠ 1 → Posts (.smulh o) s 3 (.sca o.d.toNat (BitVec.ofInt 64 (x * y / 2 ^ 64)))) ∧
    (ready (.smad o) s = true →
      Posts (.smad o) s 3 (.sca o.d.toNat (BitVec.ofNat 64 (a * (rdS s o.b.toNat).toNat + c))))) ∧
  (∀ (o : Opnd) (s : State) (a b : W64) (n : Nat), a = rdS s o.a.toNat → b = opB s o → n = b.toNat % 64 →
    (ready (.sand o) s = true → ∃ r : W64, (∀ k, r.getLsbD k = (a.getLsbD k && b.getLsbD k)) ∧ Posts (.sand o) s 1 (.sca o.d.toNat r)) ∧
    (ready (.sor o) s = true → ∃ r : W64, (∀ k, r.getLsbD k = (a.getLsbD k || b.getLsbD k)) ∧ Posts (.sor o) s 1 (.sca o.d.toNat r)) ∧
    (ready (.sxor o) s = true → ∃ r : W64, (∀ k, r.getLsbD k = (a.getLsbD k != b.getLsbD k)) ∧ Posts (.sxor o) s 1 (.sca o.d.toNat r)) ∧
    (ready (.sshl o) s = true → Posts (.sshl o) s 1 (.sca o.d.toNat (BitVec.ofNat 64 (a.toNat * 2 ^ n)))) ∧
    (ready (.sshr o) s = true → Posts (.sshr o) s 1 (.sca o.d.toNat (BitVec.ofNat 64 (a.toNat / 2 ^ n)))) ∧
    (ready (.ssra o) s = true → Posts (.ssra o) s 1 (.sca o.d.toNat (BitVec.ofInt 64 (a.toInt / 2 ^ n)))))

/-- R399 to R401, Table 3-7: SMIN, SMAX, SCMP, SSEL, SMOV and SLI post at distance 1 the smaller or larger operand by the reading that SEL
names, 1 or 0 by the predicate, the selected operand, the operand, and the immediate: sign-extended, zero-extended for A = 1, or in the
high half over the kept low half for A = 2.

R401: SPOPC counts the set bits, SCLZ the zero bits above the highest set one, SFFS the zero bits below the lowest set one, and both of
the latter give 64 for zero; each posts at distance 1. -/
def Obligations.ScalarSelect : Prop :=
  (∀ (o : Opnd) (s : State) (a b : W64) (lt : W64 → W64 → Prop), a = rdS s o.a.toNat → b = opB s o →
    (∀ x y, lt x y ↔ if (parOf o).sel = 1 then x.toNat < y.toNat else x.toInt < y.toInt) →
    (ready (.smin o) s = true → (lt b a → Posts (.smin o) s 1 (.sca o.d.toNat b)) ∧ (¬ lt b a → Posts (.smin o) s 1 (.sca o.d.toNat a))) ∧
    (ready (.smax o) s = true → (lt a b → Posts (.smax o) s 1 (.sca o.d.toNat b)) ∧ (¬ lt a b → Posts (.smax o) s 1 (.sca o.d.toNat a))) ∧
    (ready (.scmp o) s = true → ∃ p : Bool, Posts (.scmp o) s 1 (.sca o.d.toNat (if p then 1 else 0)) ∧
      ((parOf o).sel = 0 → (p = true ↔ a = b)) ∧ ((parOf o).sel = 1 → (p = true ↔ a ≠ b)) ∧
      ((parOf o).sel = 2 → (p = true ↔ a.toInt < b.toInt)) ∧ ((parOf o).sel = 3 → (p = true ↔ a.toInt ≤ b.toInt)) ∧
      ((parOf o).sel = 4 → (p = true ↔ b.toInt < a.toInt)) ∧ ((parOf o).sel = 5 → (p = true ↔ b.toInt ≤ a.toInt)) ∧
      ((parOf o).sel = 6 → (p = true ↔ a.toNat < b.toNat)) ∧ ((parOf o).sel = 7 → (p = true ↔ a.toNat ≤ b.toNat)) ∧
      ((parOf o).sel = 8 → (p = true ↔ b.toNat < a.toNat)) ∧ ((parOf o).sel = 9 → (p = true ↔ b.toNat ≤ a.toNat))) ∧
    (ready (.ssel o) s = true →
      Posts (.ssel o) s 1 (.sca o.d.toNat (if scalarC s o = 0 then rdS s o.b.toNat else a))) ∧
    (ready (.smov o) s = true → Posts (.smov o) s 1 (.sca o.d.toNat a)) ∧
    (∀ v, ready (.sli o) s = true → o.x = .imm v →
      (o.a = 0 → Posts (.sli o) s 1 (.sca o.d.toNat (BitVec.ofInt 64 v.toInt))) ∧
      (o.a = 1 → Posts (.sli o) s 1 (.sca o.d.toNat (BitVec.ofNat 64 v.toNat))) ∧
      (o.a = 2 → Posts (.sli o) s 1 (.sca o.d.toNat
        (BitVec.ofInt 64 (v.toInt * 2 ^ 32 + ((keptS s o.d.toNat).toNat % 2 ^ 32 : Nat))))))) ∧
  (∀ (o : Opnd) (s : State) (a : W64), a = rdS s o.a.toNat →
    (ready (.spopc o) s = true →
      Posts (.spopc o) s 1 (.sca o.d.toNat (BitVec.ofNat 64 ((List.range 64).filter (fun k => a.getLsbD k)).length))) ∧
    (ready (.sclz o) s = true → ∃ n, Posts (.sclz o) s 1 (.sca o.d.toNat (BitVec.ofNat 64 n)) ∧ n ≤ 64 ∧ a.toNat < 2 ^ (64 - n) ∧
      (n < 64 → 2 ^ (63 - n) ≤ a.toNat)) ∧
    (ready (.sffs o) s = true → ∃ n, Posts (.sffs o) s 1 (.sca o.d.toNat (BitVec.ofNat 64 n)) ∧ n ≤ 64 ∧
      (∀ k, k < n → a.getLsbD k = false) ∧ (n < 64 → a.getLsbD n = true)))

/-! The vector integer instructions. -/

/-- R421, R422, R85, R98: the instructions with modifiers post, for every active lane, the element results of their operation: the exact value
of it on the modified elements, narrowed once to the element, by saturation where SAT is set and the operation saturates, else by wrapping,
at distance 2, or 4 for the multiplying ones.

R422 in numbers, for 32-bit elements without modifiers and without SAT: the lane's result is the operation modulo 2^32, and no flag is
raised; for packed 16-bit elements each half of the lane is its own element.

R422 in numbers, with SAT, for 32-bit signed elements without modifiers: a result beyond the element's range becomes the nearest end of it
and raises IS; one within it is exact and raises nothing. -/
def Obligations.VectorArithmetic : Prop :=
  (∀ (o : Opnd) (s : State),
    (ready (.vadd o) s = true → PostsLanes (.vadd o) s 2 o.d.toNat (intLane s o true (fun a b _ => a + b))) ∧
    (ready (.vsub o) s = true → PostsLanes (.vsub o) s 2 o.d.toNat (intLane s o true (fun a b _ => a - b))) ∧
    (ready (.vmul o) s = true → PostsLanes (.vmul o) s 4 o.d.toNat (intLane s o true (fun a b _ => a * b))) ∧
    (ready (.vmulh o) s = true → PostsLanes (.vmulh o) s 4 o.d.toNat
      (intLane s o false (fun a b _ => a * b / (if etOf s = 2 ∨ etOf s = 3 then 65536 else 4294967296)))) ∧
    (ready (.vmad o) s = true → PostsLanes (.vmad o) s 4 o.d.toNat (intLane s o true (fun a b c => a * b + c))) ∧
    (ready (.vmin o) s = true → PostsLanes (.vmin o) s 2 o.d.toNat (intLane s o false (fun a b _ => min a b))) ∧
    (ready (.vmax o) s = true → PostsLanes (.vmax o) s 2 o.d.toNat (intLane s o false (fun a b _ => max a b))) ∧
    (ready (.vabs o) s = true → PostsLanes (.vabs o) s 2 o.d.toNat (intLane s o true (fun a _ _ => (a.natAbs : Int))))) ∧
  (∀ (s : State) (o : Opnd) (f : Int → Int → Int → Int) (sats : Bool) (i : Nat), o.x = .none → gmSAT s.g.gmode = false →
    (etOf s = 0 → intLane s o sats f i =
      ([(BitVec.ofInt 32 (f (laneOf (rdV s o.a.toNat) i).toInt (laneOf (rdV s o.b.toNat) i).toInt 0)).toNat], 0)) ∧
    (etOf s = 1 → intLane s o sats f i =
      ([(BitVec.ofInt 32 (f (laneOf (rdV s o.a.toNat) i).toNat (laneOf (rdV s o.b.toNat) i).toNat 0)).toNat], 0)) ∧
    (etOf s = 3 → intLane s o sats f i =
      ([(BitVec.ofInt 16 (f ((laneOf (rdV s o.a.toNat) i).toNat % 65536 : Nat) ((laneOf (rdV s o.b.toNat) i).toNat % 65536 : Nat) 0)).toNat,
        (BitVec.ofInt 16 (f ((laneOf (rdV s o.a.toNat) i).toNat / 65536 : Nat) ((laneOf (rdV s o.b.toNat) i).toNat / 65536 : Nat) 0)).toNat], 0))) ∧
  (∀ (s : State) (o : Opnd) (f : Int → Int → Int → Int) (i : Nat) (x : Int), o.x = .none → gmSAT s.g.gmode = true → etOf s = 0 →
    x = f (laneOf (rdV s o.a.toNat) i).toInt (laneOf (rdV s o.b.toNat) i).toInt 0 →
    (x < -2147483648 → intLane s o true f i = ([2147483648], flIS)) ∧ (2147483647 < x → intLane s o true f i = ([2147483647], flIS)) ∧
    (-2147483648 ≤ x → x ≤ 2147483647 → intLane s o true f i = ([(BitVec.ofInt 32 x).toNat], 0)))

/-- R421, R422, R424, R425: the logical operations, the shifts, the selects and moves, and the counts post their element results at distance
2: the shift counts are taken modulo the element width, VSHR and VSRA divide with floor, VSEL takes A where the bit of sC is set, VPOPC
and VCLZ count in the element. They raise no flag.

R425: VBFE takes the field of U bits at position P of A, where B holds the position in bits 4 to 0 and the width in bits 13 to 8 and a
field that leaves the element is cut, sign-extended under I32; VBFI puts the low bits of A into that field of C. -/
def Obligations.VectorLogicShift : Prop :=
  (∀ (o : Opnd) (s : State),
    (ready (.vand o) s = true → PostsLanes (.vand o) s 2 o.d.toNat (rawLane s o (fun _ a b _ => a &&& b))) ∧
    (ready (.vor o) s = true → PostsLanes (.vor o) s 2 o.d.toNat (rawLane s o (fun _ a b _ => a ||| b))) ∧
    (ready (.vxor o) s = true → PostsLanes (.vxor o) s 2 o.d.toNat (rawLane s o (fun _ a b _ => a ^^^ b))) ∧
    (ready (.vshl o) s = true → PostsLanes (.vshl o) s 2 o.d.toNat (rawLane s o (fun w a b _ => a <<< (b % w) % 2 ^ w))) ∧
    (ready (.vshr o) s = true → PostsLanes (.vshr o) s 2 o.d.toNat (rawLane s o (fun w a b _ => a >>> (b % w)))) ∧
    (ready (.vsra o) s = true → PostsLanes (.vsra o) s 2 o.d.toNat
      (rawLane s o (fun w a b _ => (BitVec.ofInt w (sextNat w a / 2 ^ (b % w))).toNat))) ∧
    (ready (.vsel o) s = true → PostsLanes (.vsel o) s 2 o.d.toNat
      (fun i => (if (scalarC s o).getLsbD i = true then regElems s (etOf s) o.a.toNat i else elemsB s (etOf s) o i, 0))) ∧
    (ready (.vmov o) s = true → PostsLanes (.vmov o) s 2 o.d.toNat (fun i => (regElems s (etOf s) o.a.toNat i, 0))) ∧
    (∀ v, ready (.vmovImm o) s = true → o.x = .imm v →
      PostsLanes (.vmovImm o) s 2 o.d.toNat (fun _ => (immElems (etOf s) v, 0))) ∧
    (∀ k, ready (.vmovScalar o) s = true → o.x = .bro k → k.bsc = true →
      PostsLanes (.vmovScalar o) s 2 o.d.toNat (fun _ => (castElems (etOf s) k.bhi (rdS s o.b.toNat), 0))) ∧
    (ready (.vpopc o) s = true → PostsLanes (.vpopc o) s 2 o.d.toNat
      (fun i => ((regElems s (etOf s) o.a.toNat i).map (fun x => ((List.range (elemBits (etOf s))).filter (fun k => x.testBit k)).length), 0))) ∧
    (ready (.vclz o) s = true → PostsLanes (.vclz o) s 2 o.d.toNat
      (fun i => ((regElems s (etOf s) o.a.toNat i).map (leadingZeros (elemBits (etOf s))), 0)))) ∧
  (∀ (o : Opnd) (s : State) (p u : Nat → Nat), etOf s ≤ 1 → (∀ b, p b = b % 32) → (∀ b, u b = min (b / 256 % 64) (32 - b % 32)) →
    (ready (.vbfe o) s = true → PostsLanes (.vbfe o) s 2 o.d.toNat (rawLane s o (fun _ a b _ =>
      if u b = 0 then 0 else if etOf s = 0 then (BitVec.ofInt 32 (sextNat (u b) (a / 2 ^ p b % 2 ^ u b))).toNat else a / 2 ^ p b % 2 ^ u b))) ∧
    (ready (.vbfi o) s = true → PostsLanes (.vbfi o) s 2 o.d.toNat (rawLane s o (fun _ a b c =>
      c % 2 ^ p b + a % 2 ^ u b * 2 ^ p b + c / 2 ^ (p b + u b) * 2 ^ (p b + u b)))))

/-- R423, R426: VCMP posts at distance 3 a scalar with one bit for every active lane, set where the predicate holds for every element of it,
and no bit for the other lanes.

R423: the predicates of VCMP on elements without modifiers: .EQ to .GE compare signed and .LTU to .GEU unsigned, whatever the signedness of ET,
and under the 16x2 types both halves must hold.

R356, Table 11-7: FCMP posts at distance 3 a scalar with one bit for every active lane, set where the predicate holds for every element
of it, and no bit for the other lanes, with the flags of the lanes. -/
def Obligations.Compares : Prop :=
  (∀ (o : Opnd) (s : State), ready (.vcmp o) s = true → ∃ (m : W64) (f : Fl),
    Completes (.vcmp o) s none (onG (fun g => postFlags 3 f (post 3 (.sca o.d.toNat m) g)) s) ∧
    (∀ i, i < 64 → m.getLsbD i = ((effMask s).getLsbD i && (vcmpLane s o (selOf o) i).1)) ∧
    (f = 0 ∨ f = flIS) ∧ (gmSAT s.g.gmode = false → f = 0)) ∧
  (∀ (o : Opnd) (s : State) (p i w : Nat) (P : Nat → Nat → Bool) (S : Nat → Int) (xs ys : List Nat),
    etOf s ≤ 3 → p < 10 → modsA o = ⟨false, false⟩ → modsB o = ⟨false, false⟩ → w = (if etOf s ≤ 1 then 32 else 16) →
    xs = regElems s (etOf s) o.a.toNat i → ys = elemsB s (etOf s) o i →
    (∀ x, S x = if x < 2 ^ (w - 1) then (x : Int) else (x : Int) - 2 ^ w) →
    (∀ x y, P x y = (if p = 0 then decide (x = y) else if p = 1 then decide (x ≠ y) else if p = 2 then decide (S x < S y)
      else if p = 3 then decide (S x ≤ S y) else if p = 4 then decide (S y < S x) else if p = 5 then decide (S y ≤ S x)
      else if p = 6 then decide (x < y) else if p = 7 then decide (x ≤ y) else if p = 8 then decide (y < x) else decide (y ≤ x))) →
    (etOf s ≤ 1 → (vcmpLane s o p i).1 = P (xs.getD 0 0) (ys.getD 0 0)) ∧
    (2 ≤ etOf s → (vcmpLane s o p i).1 = (P (xs.getD 0 0) (ys.getD 0 0) && P (xs.getD 1 0) (ys.getD 1 0)))) ∧
  (∀ (s : State) (n i : Nat), (etOf s ≤ 1 → regElems s (etOf s) n i = [(laneOf (rdV s n) i).toNat]) ∧
    (etOf s = 2 ∨ etOf s = 3 → regElems s (etOf s) n i = [(laneOf (rdV s n) i).toNat % 2 ^ 16, (laneOf (rdV s n) i).toNat / 2 ^ 16]) ∧
    (∀ (o : Opnd) (k : K10), o.x = .par k → elemsB s (etOf s) o i = regElems s (etOf s) o.b.toNat i)) ∧
  (∀ (o : Opnd) (s : State), ready (.fcmp o) s = true → ∃ (m : W64) (f : Fl),
    Completes (.fcmp o) s none (onG (fun g => postFlags 3 f (post 3 (.sca o.d.toNat m) g)) s) ∧
    (∀ i, i < 64 → m.getLsbD i = ((effMask s).getLsbD i && (fcmpLane s o (selOf o) i).1)) ∧
    (f = flAll ((activeLanes (effMask s)).map (fun i => (fcmpLane s o (selOf o) i).2))))

/-! The vector floating-point instructions. -/

/-- R353, R361, R362, R355, R363, R98: the rounded instructions post, for every active lane, the results and flags of their operation on the
modified operands, in the format that ET names and under GMODE.RM: FADD, FSUB, FMUL, FMA, FMIN, FMAX, FRND, FCLS and FSCL, at distance 4,
or 6 under FP64.

R363: FSCL is x times 2 to the count, rounded once, with NaNs quieted and infinities and zeros unchanged (every count above 5000 acts as
5000, and every one below -5000 as that).

R362, R120: FRND of a finite x gives the integral value that the mode selects, with the sign of x, and NX when it differs from x; of two that
are equally near, the even one under RNE and the one away from zero under RNA. -/
def Obligations.FloatRounded : Prop :=
  (∀ (o : Opnd) (s : State) (l : Nat), l = (if etOf s = 5 then 6 else 4) →
    (ready (.fadd o) s = true → PostsLanes (.fadd o) s l o.d.toNat (floatLane s o (fun f rm a b _ => addF f rm (decodeF f a) (decodeF f b)))) ∧
    (ready (.fsub o) s = true → PostsLanes (.fsub o) s l o.d.toNat (floatLane s o (fun f rm a b _ => subF f rm (decodeF f a) (decodeF f b)))) ∧
    (ready (.fmul o) s = true → PostsLanes (.fmul o) s l o.d.toNat (floatLane s o (fun f rm a b _ => mulF f rm (decodeF f a) (decodeF f b)))) ∧
    (ready (.fma o) s = true → PostsLanes (.fma o) s l o.d.toNat
      (floatLane s o (fun f rm a b c => fmaF f rm (decodeF f a) (decodeF f b) (decodeF f c)))) ∧
    (ready (.fmin o) s = true → PostsLanes (.fmin o) s l o.d.toNat
      (floatLane s o (fun f _ a b _ => ⟨minmaxF f false a b, minmaxFlag (decodeF f a) (decodeF f b)⟩))) ∧
    (ready (.fmax o) s = true → PostsLanes (.fmax o) s l o.d.toNat
      (floatLane s o (fun f _ a b _ => ⟨minmaxF f true a b, minmaxFlag (decodeF f a) (decodeF f b)⟩))) ∧
    (ready (.frnd o) s = true → PostsLanes (.frnd o) s l o.d.toNat (floatLane s o (fun f rm a _ _ => rndF f rm a))) ∧
    (ready (.fcls o) s = true → PostsLanes (.fcls o) s l o.d.toNat (floatLane s o (fun f _ a _ _ => ⟨2 ^ classBit f a, 0⟩))) ∧
    (ready (.fscl o) s = true → PostsLanes (.fscl o) s l o.d.toNat (fun i =>
      let rs := (indexed 0 (regElems s (etOf s) o.a.toNat i)).map (fun e =>
        sclF (etFmt (etOf s)) (gmRM s.g.gmode) e.2 (sclCount s (etOf s) o i e.1))
      (rs.map (·.bits), flAll (rs.map (·.fl)))))) ∧
  (∀ (f : Fmt) (rm : Rm) (x : Nat) (n : Int) (m : Bool) (a : Rat),
    (decodeF f x = .fin m a → 0 < a → -5000 ≤ n → n ≤ 5000 → sclF f rm x n = roundF f rm m (a * pow2 n)) ∧
    (5000 ≤ n → sclF f rm x n = sclF f rm x 5000) ∧ (n ≤ -5000 → sclF f rm x n = sclF f rm x (-5000)) ∧
    ((decodeF f x = .inf m ∨ decodeF f x = .fin m 0) → sclF f rm x n = ⟨x, 0⟩ ∧ rndF f rm x = ⟨x, 0⟩) ∧
    (∀ q p, decodeF f x = .nan m q p → sclF f rm x n = ⟨nanBits f m p, if q then 0 else flNV⟩ ∧
      rndF f rm x = ⟨nanBits f m p, if q then 0 else flNV⟩) ∧
    (decodeF f x = .fin m a → 0 < a → ∃ k : Nat, (rndF f rm x).bits = (roundF f .ne m (k : Rat)).bits ∧
      ((rndF f rm x).fl = if (k : Rat) = a then 0 else flNX) ∧ (k : Rat) < a + 1 ∧ a < (k : Rat) + 1 ∧
      (rm = .tz → (k : Rat) ≤ a) ∧ (rm = .up → if m then (k : Rat) ≤ a else a ≤ (k : Rat)) ∧
      (rm = .dn → if m then a ≤ (k : Rat) else (k : Rat) ≤ a) ∧
      (rm = .ne ∨ rm = .na → (k : Rat) - a ≤ 1 / 2 ∧ a - (k : Rat) ≤ 1 / 2) ∧
      ((k : Rat) - a = 1 / 2 ∨ a - (k : Rat) = 1 / 2 → (rm = .ne → k % 2 = 0) ∧ (rm = .na → a < (k : Rat)))))

/-- R120 to R122: what rounding once means, in every format, mode and sign: a positive rational lies between two neighbours of the format,
which goes on above its largest finite code, and becomes the one that the mode selects, with NX where it differs and UF where it is tiny after
rounding as well; where that one lies above the largest finite value, the result is that of Table 4-4, with OF and NX.

R120 to R122, R353, R361: sums, products and fused sums of finite values are the exact rational result rounded once, with the flags of
that one rounding; a sum that is exactly zero has the sign of both operands where they agree, else minus under round-down only.

R123 to R125, R361: a NaN operand decides the result: the first NaN in the order A, B, C, quieted, and NV when an operand signals (or the
product is zero times infinity); infinities of unlike sign have no sum, nor has zero times infinity a product: the generated NaN of cause 3
or 4 and NV, in every order and sign; other sums and products of infinities are infinities without a flag.

R130, R131: the minimum and the maximum are operands, the other one where one is a NaN, with minus zero below plus zero, and the generated NaN
of cause 1 for two NaNs.

Table 11-7: on values that are not NaNs the predicates are those of the order, with infinities at its ends and both zeros equal;
a NaN meets NE and UNORD only, and an ordered predicate raises NV for it, the others only for one that signals. -/
def Obligations.FloatExact : Prop :=
  (∀ (f : Fmt), f ∈ [f64, f32, f16, bf16, e5m2, e4m3, e2m1] → ∀ (rm : Rm) (m : Bool) (x : Rat),
    (0 < x → ∃ k, gridValue f k ≤ x ∧ x < gridValue f (k + 1)) ∧ roundF f rm m 0 = ⟨signBits f m, 0⟩ ∧
    (∀ k, k ≤ maxCode f → decodeF f (signBits f m + k) = .fin m (gridValue f k)) ∧
    (∀ k j, 0 < x → gridValue f k ≤ x → x < gridValue f (k + 1) → j = selects rm m k (gridValue f k) x (gridValue f (k + 1)) →
      (j ≤ maxCode f → roundF f rm m x = ⟨signBits f m + j, (if gridValue f j = x then 0 else flNX) |||
        (if gridValue f j ≠ x ∧ tinyRounded f rm m x = true then flUF else 0)⟩) ∧
      (maxCode f < j → roundF f rm m x = ⟨if f = e4m3 ∨ f = e2m1 ∨ rm = .tz ∨ (rm = .up ∧ m = true) ∨ (rm = .dn ∧ m = false)
        then signBits f m + maxCode f else infBits f m, flOF ||| flNX⟩))) ∧
  (maxCode f64 = 0x7FEF_FFFF_FFFF_FFFF ∧ maxCode f32 = 0x7F7F_FFFF ∧ maxCode f16 = 0x7BFF ∧ maxCode bf16 = 0x7F7F ∧ maxCode e5m2 = 0x7B ∧
    maxCode e4m3 = 0x7E ∧ maxCode e2m1 = 7 ∧ (∀ f m, infBits f m = signBits f m + (2 ^ f.eb - 1) * 2 ^ f.fb)) ∧
  (∀ (f : Fmt) (rm : Rm) (m n k : Bool) (x y z : Rat), 0 ≤ x → 0 ≤ y → 0 ≤ z →
    (addF f rm (.fin m x) (.fin n y) =
      (let e : Rat := (if m then -x else x) + (if n then -y else y)
       if e = 0 then ⟨signBits f (if m = n then m else decide (rm = .dn)), 0⟩ else roundF f rm (decide (e < 0)) (if e < 0 then -e else e))) ∧
    (subF f rm (.fin m x) (.fin n y) = addF f rm (.fin m x) (.fin (!n) y)) ∧
    (mulF f rm (.fin m x) (.fin n y) = roundF f rm (m != n) (x * y)) ∧
    (fmaF f rm (.fin m x) (.fin n y) (.fin k z) =
      (let e : Rat := (if m != n then -(x * y) else x * y) + (if k then -z else z)
       if e = 0 then ⟨signBits f (if (m != n) = k then k else decide (rm = .dn)), 0⟩
       else roundF f rm (decide (e < 0)) (if e < 0 then -e else e)))) ∧
  (∀ (f : Fmt) (rm : Rm) (a b c : FVal),
    (a.isNaN = true ∨ b.isNaN = true → ∃ n, firstNaN f [a, b] = some n ∧ addF f rm a b = ⟨n, snanFlag [a, b]⟩ ∧
      subF f rm a b = ⟨n, snanFlag [a, b]⟩ ∧ mulF f rm a b = ⟨n, snanFlag [a, b]⟩ ∧ fmaF f rm a b c = ⟨n, snanFlag [a, b, c]⟩) ∧
    (∀ m q p, a.isNaN = false → b.isNaN = false → c = .nan m q p → fmaF f rm a b c =
      ⟨nanBits f m p, if q = false ∨ (a.isInf = true ∧ b.isZero = true) ∨ (a.isZero = true ∧ b.isInf = true) then flNV else 0⟩)) ∧
  (∀ (f : Fmt) (rm : Rm) (a b : Bool) (n : Bool) (y : Rat) (c : FVal), c.isNaN = false → 0 ≤ y →
    addF f rm (.inf a) (.inf b) = (if a = b then ⟨infBits f a, 0⟩ else ⟨genNaN f 3, flNV⟩) ∧
    subF f rm (.inf a) (.inf b) = (if a = b then ⟨genNaN f 3, flNV⟩ else ⟨infBits f a, 0⟩) ∧
    mulF f rm (.inf a) (.inf b) = ⟨infBits f (a != b), 0⟩ ∧
    addF f rm (.inf a) (.fin n y) = ⟨infBits f a, 0⟩ ∧ addF f rm (.fin n y) (.inf a) = ⟨infBits f a, 0⟩ ∧
    subF f rm (.inf a) (.fin n y) = ⟨infBits f a, 0⟩ ∧ subF f rm (.fin n y) (.inf a) = ⟨infBits f (!a), 0⟩ ∧
    mulF f rm (.inf a) (.fin n y) = (if y = 0 then ⟨genNaN f 4, flNV⟩ else ⟨infBits f (a != n), 0⟩) ∧
    mulF f rm (.fin n y) (.inf a) = (if y = 0 then ⟨genNaN f 4, flNV⟩ else ⟨infBits f (a != n), 0⟩) ∧
    fmaF f rm (.inf a) (.fin n 0) c = ⟨genNaN f 4, flNV⟩ ∧ fmaF f rm (.fin n 0) (.inf a) c = ⟨genNaN f 4, flNV⟩ ∧
    (∀ u v : FVal, u.isNaN = false → v.isNaN = false → u.isInf = true ∨ v.isInf = true → u.isZero = false → v.isZero = false →
      fmaF f rm u v c = (if c = .inf (!(u.neg != v.neg)) then ⟨genNaN f 3, flNV⟩ else ⟨infBits f (u.neg != v.neg), 0⟩)) ∧
    (∀ m (x : Rat), fmaF f rm (.fin m x) (.fin n y) (.inf a) = ⟨infBits f a, 0⟩)) ∧
  (genNaN f64 3 = 0x7FF8_0000_0000_0003 ∧ genNaN f32 3 = 0x7FC0_0003 ∧ genNaN f16 3 = 0x7E03 ∧ genNaN bf16 3 = 0x7FC3 ∧
    genNaN f64 4 = 0x7FF8_0000_0000_0004 ∧ genNaN f32 4 = 0x7FC0_0004 ∧ genNaN f16 4 = 0x7E04 ∧ genNaN bf16 4 = 0x7FC4) ∧
  (∀ (f : Fmt) (mx : Bool) (x y : Nat) (a b : FVal), a = decodeF f x → b = decodeF f y →
    (a.isNaN = true → b.isNaN = true → minmaxF f mx x y = genNaN f 1 ∧ minmaxFlag a b = flNV) ∧
    (a.isNaN = true → b.isNaN = false → minmaxF f mx x y = y ∧ minmaxFlag a b = snanFlag [a]) ∧
    (a.isNaN = false → b.isNaN = true → minmaxF f mx x y = x ∧ minmaxFlag a b = snanFlag [b]) ∧
    (a.isNaN = false → b.isNaN = false → minmaxFlag a b = 0 ∧
      (minmaxF f mx x y = x ∨ minmaxF f mx x y = y) ∧
      (∀ r, r = decodeF f (minmaxF f mx x y) → (mx = true → ltTotal r a = false ∧ ltTotal r b = false) ∧
        (mx = false → ltTotal a r = false ∧ ltTotal b r = false)))) ∧
  (∀ (P : Bool → Bool → Bool → Nat → Bool), (∀ lt eq gt k, P lt eq gt k = (if k = 0 then eq else if k = 1 then !eq else if k = 2 then lt
      else if k = 3 then lt || eq else if k = 4 then gt else if k = 5 then gt || eq else decide (k = 7))) →
    ∀ (k : Nat) (m n a b : Bool) (x y : Rat), k < 8 → 0 ≤ x → 0 ≤ y →
      fcmpPred k (.fin m x) (.fin n y) = (P (decide ((if m then -x else x) < (if n then -y else y)))
        (decide ((if m then -x else x) = (if n then -y else y))) (decide ((if n then -y else y) < (if m then -x else x))) k, 0) ∧
      fcmpPred k (.inf a) (.inf b) = (P (a && !b) (a == b) (b && !a) k, 0) ∧
      fcmpPred k (.inf a) (.fin n y) = (P a false (!a) k, 0) ∧ fcmpPred k (.fin n y) (.inf a) = (P (!a) false a k, 0)) ∧
  (∀ (a b : FVal) (k : Nat), a.isNaN = true ∨ b.isNaN = true → k < 8 →
    (fcmpPred k a b).1 = decide (k = 1 ∨ k = 6) ∧
    (fcmpPred k a b).2 = (if 2 ≤ k ∧ k ≤ 5 then flNV else snanFlag [a, b]))

/-- R359, R360, R99: the one-source functions write, interlocked, the results of every active lane with their flags, and take a fresh choice
for the results that the accuracy column leaves open: whichever it is, the statement holds.

R360, Table 11-9, R124: the special results that are not open, in each format, rounding mode and whatever the open choice: of a negative
number, −∞ too, the square root, the reciprocal square root and the logarithm are the generated NaN of cause 5 with NV, as are the sine and
the cosine of an infinity; the reciprocals of a zero are infinite with its sign and DZ and those of an infinity zeros, the square root of a
zero is that zero and of +∞ is +∞, 2^−∞ is +0, 2^+∞ is +∞ and 2^0 is 1, the logarithm of a zero is −∞ with DZ, of 1 is +0 and of +∞ is +∞,
the sine of a zero is that zero and its cosine 1; a NaN operand comes back quieted, with NV when it signals. -/
def Obligations.FloatFunctions : Prop :=
  (∀ (o : Opnd) (s : State),
    (ready (.frcp o) s = true → PutsFunction (.frcp o) s o (fun f rm _ x => rcpF f rm x)) ∧
    (ready (.frsq o) s = true → PutsFunction (.frsq o) s o rsqF) ∧
    (ready (.fsqrt o) s = true → PutsFunction (.fsqrt o) s o (fun f rm _ x => sqrtF f rm x)) ∧
    (ready (.fex2 o) s = true → PutsFunction (.fex2 o) s o ex2F) ∧ (ready (.flg2 o) s = true → PutsFunction (.flg2 o) s o lg2F) ∧
    (ready (.ftrig o) s = true → PutsFunction (.ftrig o) s o (trigF (o.b == 1)))) ∧
  (∀ (f : Fmt) (rm : Rm) (up : Bool), f = f64 ∨ f = f32 ∨ f = f16 ∨ f = bf16 →
    (∀ x, decodeF f x = .inf true ∨ (∃ a : Rat, 0 < a ∧ decodeF f x = .fin true a) →
      sqrtF f rm x = ⟨genNaN f 5, flNV⟩ ∧ rsqF f rm up x = ⟨genNaN f 5, flNV⟩ ∧ lg2F f rm up x = ⟨genNaN f 5, flNV⟩) ∧
    (∀ x m c, decodeF f x = .inf m → rcpF f rm x = ⟨signBits f m, 0⟩ ∧ trigF c f rm up x = ⟨genNaN f 5, flNV⟩ ∧
      ex2F f rm up x = (if m then ⟨0, 0⟩ else ⟨infBits f false, 0⟩)) ∧
    (∀ x, decodeF f x = .inf false → sqrtF f rm x = ⟨x, 0⟩ ∧ rsqF f rm up x = ⟨0, 0⟩ ∧ lg2F f rm up x = ⟨x, 0⟩) ∧
    (∀ m, decodeF f (signBits f m) = .fin m 0 ∧ rcpF f rm (signBits f m) = ⟨infBits f m, flDZ⟩ ∧
      rsqF f rm up (signBits f m) = ⟨infBits f m, flDZ⟩ ∧ sqrtF f rm (signBits f m) = ⟨signBits f m, 0⟩ ∧
      lg2F f rm up (signBits f m) = ⟨infBits f true, flDZ⟩ ∧ trigF false f rm up (signBits f m) = ⟨signBits f m, 0⟩ ∧
      trigF true f rm up (signBits f m) = ⟨(roundF f .ne false 1).bits, 0⟩ ∧
      ex2F f rm up (signBits f m) = ⟨(roundF f .ne false 1).bits, 0⟩) ∧
    (∀ x r, decodeF f x = .fin false 1 → r = (⟨(roundF f .ne false 1).bits, 0⟩ : FRes) → rcpF f rm x = r ∧ rsqF f rm up x = r ∧
      sqrtF f rm x = r ∧ lg2F f rm up x = ⟨0, 0⟩) ∧
    (∀ x m q p c r, decodeF f x = .nan m q p → r = (⟨nanBits f m p, if q then 0 else flNV⟩ : FRes) → rcpF f rm x = r ∧ rsqF f rm up x = r ∧
      sqrtF f rm x = r ∧ ex2F f rm up x = r ∧ lg2F f rm up x = r ∧ trigF c f rm up x = r))

/-- R127 to R129, R357: FCVT posts for every active lane the conversion of the source element that PART names: an element narrower than the
lane replaces only its own bits of vD, an FP64 one the pair, at distance 4, or 6 with FP64 on either side. The element read is element PART
modulo the source's count where the destination has several elements, else element PART, or the whole pair of an FP64 source.

R128, Table 4-7: to a floating-point format a finite value, also that of an integer, is rounded once (as FloatExact says), and NaNs and
infinities become what the table says.

R129, Table 4-8: to .I32 and .N32 a finite value becomes the integer that the mode selects, saturated with NV outside the range, with NX where
it differs; a NaN gives 0 and an infinity the end of the range, with NV. -/
def Obligations.FloatConvert : Prop :=
  (∀ (o : Opnd) (s : State) (src dst part i ns nd : Nat) (count : Nat → Nat),
    (∀ c, count c = (if c = 4 ∨ c = 5 then 2 else if c = 6 ∨ c = 7 then 4 else if c = 8 then 8 else 1)) → src ≤ 8 → dst ≤ 8 →
    ns = count src → nd = count dst →
    (src = 2 → cvtSource s o src dst part i =
      (laneOf (rdV s o.a.toNat) i).toNat + (laneOf (rdV s (o.a.toNat + 1)) i).toNat * 2 ^ 32) ∧
    (src ≠ 2 → cvtSource s o src dst part i =
      (laneOf (rdV s o.a.toNat) i).toNat / 2 ^ ((if 1 < nd then part % ns else part) * (32 / ns)) % 2 ^ (32 / ns))) ∧
  (∀ (src dst x : Nat) (rm : Rm) (f d : Fmt) (fmt : Nat → Fmt),
    (∀ c, fmt c = (if c = 2 then f64 else if c = 3 then f32 else if c = 4 then f16 else if c = 5 then bf16 else if c = 6 then e4m3
      else if c = 7 then e5m2 else e2m1)) → src ≤ 8 → 2 ≤ dst → dst ≤ 8 → f = fmt src → d = fmt dst →
    (∀ m a, 2 ≤ src → decodeF f x = .fin m a → convertElem src dst rm x = roundF d rm m a) ∧
    (∀ v : Int, src < 2 → x < 2 ^ 32 → v = (if src = 0 ∧ 2 ^ 31 ≤ x then (x : Int) - (2 : Int) ^ 32 else (x : Int)) →
      convertElem src dst rm x = roundF d rm (decide (v < 0)) (v.natAbs : Rat)) ∧
    (∀ m q p, 2 ≤ src → decodeF f x = .nan m q p → convertElem src dst rm x =
      (if dst = 8 then ⟨0, flNV⟩
       else ⟨if dst = 6 then (if m then 0xFF else 0x7F) else nanBits d m p, if q then 0 else flNV⟩)) ∧
    (∀ m, 2 ≤ src → decodeF f x = .inf m → convertElem src dst rm x =
      (if dst = 6 then ⟨if m then 0xFE else 0x7E, flOF⟩ else if dst = 8 then ⟨if m then 0xF else 7, flOF⟩ else ⟨infBits d m, 0⟩)) ∧
    nanBits d true 3 = nanBits d false 3 + 2 ^ (d.width - 1) ∧ nanBits e5m2 false 3 = 0x7F ∧ infBits e5m2 true = 0xFC) ∧
  (∀ (src dst x : Nat) (rm : Rm) (f : Fmt) (fmt : Nat → Fmt) (lo hi : Int),
    (∀ c, fmt c = (if c = 2 then f64 else if c = 3 then f32 else if c = 4 then f16 else if c = 5 then bf16 else if c = 6 then e4m3
      else if c = 7 then e5m2 else e2m1)) → 2 ≤ src → src ≤ 8 → dst ≤ 1 → f = fmt src →
    lo = (if dst = 0 then -2 ^ 31 else 0) → hi = (if dst = 0 then 2 ^ 31 - 1 else 2 ^ 32 - 1) →
    (∀ m q p, decodeF f x = .nan m q p → convertElem src dst rm x = ⟨0, flNV⟩) ∧
    (∀ m, decodeF f x = .inf m → convertElem src dst rm x = ⟨((if m then lo else hi) % 2 ^ 32).toNat, flNV⟩) ∧
    (∀ m a (k : Nat) (v : Int), decodeF f x = .fin m a → (k : Rat) ≤ a → a < (k : Rat) + 1 →
      v = (if m then -((selects rm m k k a (k + 1) : Nat) : Int) else ((selects rm m k k a (k + 1) : Nat) : Int)) →
      convertElem src dst rm x = (if hi < v then ⟨(hi % 2 ^ 32).toNat, flNV⟩ else if v < lo then ⟨(lo % 2 ^ 32).toNat, flNV⟩
        else ⟨(v % 2 ^ 32).toNat, if a = (k : Rat) then 0 else flNX⟩))) ∧
  ∀ (o : Opnd) (s : State) (src dst part : Nat), ready (.fcvt o) s = true → dst = (parOf o).sel.toNat →
    src = (parOf o).val.toNat % 16 → part = (parOf o).val.toNat / 16 % 8 →
    (cvtCount dst ≤ 1 → Completes (.fcvt o) s none (onG (postLanes (if src = 2 ∨ dst = 2 then 6 else 4) (if dst = 2 then 5 else 4) o.d.toNat
      (perLane (effMask s) (fun i => let r := convertElem src dst (gmRM s.g.gmode) (cvtSource s o src dst part i); ([r.bits], r.fl)))) s)) ∧
    (1 < cvtCount dst → ∃ f, Completes (.fcvt o) s none
        (onG (postLanes (if src = 2 then 6 else 4) 4 o.d.toNat (perLane (effMask s) f)) s) ∧
      ∀ i, (f i).2 = (convertElem src dst (gmRM s.g.gmode) (cvtSource s o src dst part i)).fl ∧ (f i).1.length = 1 ∧
        ∀ k, k < 32 → ((f i).1.getD 0 0).testBit k =
          (if part * cvtWidth dst ≤ k ∧ k < (part + 1) * cvtWidth dst then
            (convertElem src dst (gmRM s.g.gmode) (cvtSource s o src dst part i)).bits.testBit (k - part * cvtWidth dst)
           else (laneOf (keptV s o.d.toNat) i).getLsbD k))

/-! The cross-lane instructions. -/

/-- R403: SHFL and SHFX write, interlocked, to every active lane the lane of vA that the index names, as stored before the instruction, and
the pair under FP64; the other lanes keep theirs.

R426, R395, R403: VOTE writes whether some, or whether every, active lane of vA is nonzero, or the mask of those that are; RFAL writes the
value of the lowest active lane, zero-extended, and 0 for an empty mask; VIOTA writes to every active lane its index, or the number of
active lanes below it. -/
def Obligations.CrossLane : Prop :=
  (∀ (o : Opnd) (s : State),
    (ready (.shfl o) s = true → MovesLanes (.shfl o) s o (fun k => (laneOf (rdV s o.b.toNat) k).toNat % 64)) ∧
    (∀ e, ready (.shflScalar o) s = true → o.x = .bro e → MovesLanes (.shflScalar o) s o
      (fun _ => (if e.bhi then (rdS s o.b.toNat).toNat / 2 ^ 32 else (rdS s o.b.toNat).toNat % 2 ^ 32) % 64)) ∧
    (ready (.shfx o) s = true → o.b.toNat < 64 → MovesLanes (.shfx o) s o (fun k => k ^^^ o.b.toNat))) ∧
  (∀ (o : Opnd) (s : State),
    (ready (.vote o) s = true → ∃ r : W64, Puts (.vote o) s (.sca o.d.toNat r) ∧
      (o.b = 0 → (r = 1 ∨ r = 0) ∧ (r = 1 ↔ ∃ k, k < 64 ∧ (effMask s).getLsbD k = true ∧ laneOf (rdV s o.a.toNat) k ≠ 0)) ∧
      (o.b = 1 → (r = 1 ∨ r = 0) ∧ (r = 1 ↔ ∀ k, k < 64 → (effMask s).getLsbD k = true → laneOf (rdV s o.a.toNat) k ≠ 0)) ∧
      (o.b = 2 → ∀ k, k < 64 → r.getLsbD k = ((effMask s).getLsbD k && decide (laneOf (rdV s o.a.toNat) k ≠ 0)))) ∧
    (ready (.rfal o) s = true → ∃ r : W64, Puts (.rfal o) s (.sca o.d.toNat r) ∧ (effMask s = 0 → r = 0) ∧
      (∀ k, k < 64 → (effMask s).getLsbD k = true → (∀ j, j < k → (effMask s).getLsbD j = false) →
        r = BitVec.ofNat 64 (laneOf (rdV s o.a.toNat) k).toNat)) ∧
    (ready (.viota o) s = true → o.b = 0 → Puts (.viota o) s (.vec o.d.toNat (masked (effMask s) (fun k => BitVec.ofNat 32 k)))) ∧
    (ready (.viota o) s = true → o.b ≠ 0 → Puts (.viota o) s (.vec o.d.toNat (masked (effMask s) (fun k =>
      BitVec.ofNat 32 ((List.range k).filter (fun j => decide (j < 64) && (effMask s).getLsbD j)).length)))))

/-- R427, R426, R131: VRED combines the active lanes from the lowest up into sD: integer sums exactly in 64 bits; else the left fold of the
operation (FP32 sums rounded under GMODE.RM at each step, FP32 minima and maxima as R131 has them, integer ones by ET, the bitwise operations
on the bits), an integer minimum or maximum sign-extended under I32 and every other result zero-extended, with every flag of the fold's steps;
over no active lane it writes 0. VSCAN writes to each active lane the same fold over the active lanes up to it, where integer sums wrap at 32
bits, or with .EX over those below it, and then to the lowest the identity of the operation, with the flags of the steps that its results need. -/
def Obligations.Reductions : Prop :=
  ∀ (o : Opnd) (s : State) (xs : List W32) (op : Nat) (ident : W32) (step : W32 → W32 → W32 × Fl) (fold : List W32 → W32 × Fl),
    xs = (activeLanes (effMask s)).map (laneOf (rdV s o.a.toNat)) → op = o.b.toNat % 16 →
    (∀ a b, step a b =
      (if op = 0 then (if etOf s = 4 then (BitVec.ofNat 32 (addF f32 (gmRM s.g.gmode) (decodeF f32 a.toNat) (decodeF f32 b.toNat)).bits,
          (addF f32 (gmRM s.g.gmode) (decodeF f32 a.toNat) (decodeF f32 b.toNat)).fl) else (a + b, 0))
       else if op = 1 ∨ op = 2 then
        (if etOf s = 4 then (BitVec.ofNat 32 (minmaxF f32 (op == 2) a.toNat b.toNat), minmaxFlag (decodeF f32 a.toNat) (decodeF f32 b.toNat))
         else if etOf s = 0 then ((if op = 1 then (if b.toInt < a.toInt then b else a) else (if a.toInt < b.toInt then b else a)), 0)
         else ((if op = 1 then (if b.toNat < a.toNat then b else a) else (if a.toNat < b.toNat then b else a)), 0))
       else if op = 3 then (a &&& b, 0) else if op = 4 then (a ||| b, 0) else (a ^^^ b, 0))) →
    ident = (if op = 0 then (if etOf s = 4 then 0x8000_0000 else 0)
      else if op = 1 then (if etOf s = 4 then 0x7F80_0000 else if etOf s = 0 then 0x7FFF_FFFF else 0xFFFF_FFFF)
      else if op = 2 then (if etOf s = 4 then 0xFF80_0000 else if etOf s = 0 then 0x8000_0000 else 0)
      else if op = 3 then 0xFFFF_FFFF else 0) →
    fold [] = (ident, 0) → (∀ x l, fold (x :: l) = l.foldl (fun z y => ((step z.1 y).1, z.2 ||| (step z.1 y).2)) (x, 0)) →
    (ready (.vred o) s = true → ∀ r : W64 × Fl,
      r = (if xs = [] then (0, 0)
        else if op = 0 ∧ etOf s = 0 then (BitVec.ofInt 64 ((xs.map (fun x => x.toInt)).sum), 0)
        else if op = 0 ∧ etOf s = 1 then (BitVec.ofNat 64 ((xs.map (fun x => x.toNat)).sum), 0)
        else ((if (op = 1 ∨ op = 2) ∧ etOf s = 0 then (fold xs).1.signExtend 64 else (fold xs).1.setWidth 64), (fold xs).2)) →
      Completes (.vred o) s none (onG (fun g => let g1 := put (.sca o.d.toNat r.1) g; { g1 with fpstat := g1.fpstat ||| r.2 }) s)) ∧
    (ready (.vscan o) s = true → ∀ (ex : Bool) (fl : Fl), ex = o.b.getLsbD 4 → fl = (fold (if ex then xs.dropLast else xs)).2 →
      Completes (.vscan o) s none (onG (fun g =>
        let g1 := put (.vec o.d.toNat (masked (effMask s) (fun i => (fold (((activeLanes (effMask s)).filter (fun j =>
          if ex then decide (j < i) else decide (j ≤ i))).map (laneOf (rdV s o.a.toNat)))).1))) g
        { g1 with fpstat := g1.fpstat ||| fl }) s))

/-! Global memory. -/

/-- R269: an instruction that is kept in flight issues whatever memory says, where the environment holds it: it stands in flight with the
mask and the operands that it captured, its program counter moved on, and nothing of its effect has happened. Held: LD, ST, SLD, SST,
LDACQ, ATOM, CAS, RED, TST, the texture and render-output instructions, and MLINS.

R367 to R369, R188: LD of lanes whose addresses, base plus scaled signed index plus displacement, are aligned, mapped, readable and free
of tacks loads each active lane's element, sign- or zero-extended, into vD, or both words of it into vD and vD+1.

R410, R411: ST of lanes that may be written stores each active lane's element, of vD, or of vD and vD+1 for eight bytes, at its address,
the lanes in ascending order; where two store to one place the free value says which stays.

R404, R405, R370, R217: SLD loads the element at base plus scaled index plus displacement into sD, extended; SST stores sD there; LDACQ
loads the 8-byte word at sA plus displacement and then acquires at its scope, with the slot's swatch where the word is a slot's VALUE. -/
def Obligations.LoadsAndStores : Prop :=
  (∀ (i : Instr) (s : State), isReplay i = true → ready i s = true → s.holds.headD false = true →
    (∀ o, i ≠ .tld o ∧ i ≠ .accld o ∧ i ≠ .accst o) →
    ∃ t, exec i s = .next t ∧ Follows (commit s (begun i s)) t ∧ (begun i s).g.inflight = [entryOf i s] ∧
      (entryOf i s).mask = effMask s ∧ (begun i s).g.pc = s.g.pc + BitVec.ofNat 64 (instrLen i)) ∧
  (∀ (o : Opnd) (s s1 : State) (ps : List (Nat × Phys)) (n : Nat), goes (.ld o) s → n = sizeOf_ (parOf o) →
    checkLanes (begun (.ld o) s) (whoOf s.g (parOf o).ccls) s.g.ctx n n needR
      ((activeLanes (effMask s)).map (fun i => (i, rdS s o.a.toNat + w64 ((laneOf (rdV s o.b.toNat) i).toInt * scaleMul (parOf o)) + dispOf o))) = .ok ps s1 →
    Performs (.ld o) s (onG (putLoaded o.d.toNat n (parOf o).sx (loadLanes (whoOf s.g (parOf o).ccls) n ps s1).1)
      (loadLanes (whoOf s.g (parOf o).ccls) n ps s1).2)) ∧
  (∀ (o : Opnd) (s s1 : State) (ps : List (Nat × Phys)) (n : Nat), goes (.st o) s → n = sizeOf_ (parOf o) →
    checkLanes (begun (.st o) s) (whoOf s.g (parOf o).ccls) s.g.ctx n n needW
      ((activeLanes (effMask s)).map (fun i => (i, rdS s o.a.toNat + w64 ((laneOf (rdV s o.b.toNat) i).toInt * scaleMul (parOf o)) + dispOf o))) = .ok ps s1 →
    Performs (.st o) s (bump (storeLanes (whoOf s.g (parOf o).ccls) n
      (fun i => (laneOf (rdV s o.d.toNat) i).toNat + (if n = 8 then (laneOf (rdV s (o.d.toNat + 1)) i).toNat * 2 ^ 32 else 0)) ps [] s1))) ∧
  (∀ (o : Opnd) (s s1 : State) (p : Nat × Phys) (ps : List (Nat × Phys)) (n : Nat) (w : Who), n = sizeOf_ (parOf o) →
    (goes (.sld o) s → w = whoOf s.g (parOf o).ccls → checkLanes (begun (.sld o) s) w s.g.ctx n n needR
        [(0, rdS s o.a.toNat + w64 ((rdS s o.b.toNat).toInt * scaleMul (parOf o)) + dispOf o)] = .ok [p] s1 →
      Performs (.sld o) s (onG (put (.sca o.d.toNat
        (if (parOf o).sx then w64 (sextNat (8 * n) (natOf (loadBytes s1 w p.2 n).1)) else BitVec.ofNat 64 (natOf (loadBytes s1 w p.2 n).1))))
        (loadBytes s1 w p.2 n).2)) ∧
    (goes (.sst o) s → w = whoOf s.g (parOf o).ccls → checkLanes (begun (.sst o) s) w s.g.ctx n n needW
        [(0, rdS s o.a.toNat + w64 ((rdS s o.b.toNat).toInt * scaleMul (parOf o)) + dispOf o)] = .ok [p] s1 →
      Performs (.sst o) s (bump (storeAt w p.2 (bytesOf n (rdS s o.d.toNat).toNat) s1))) ∧
    (goes (.ldacq o) s → w = whoOf s.g 2 → checkLanes (begun (.ldacq o) s) w s.g.ctx 8 8 needR [(0, rdS s o.a.toNat + dispOf o)] = .ok (p :: ps) s1 →
      ∀ bs s2, loadBytes s1 w p.2 8 = (bs, s2) →
      Performs (.ldacq o) s (acquirePart (parOf o).scope.toNat (if isSlot p.2 then slotSwatch s2 p.2 else fullSwatch)
        (onG (put (.sca o.d.toNat (BitVec.ofNat 64 (natOf bs)))) s2))))

/-- R339 to R341, R347, R392, R393, R219: ATOM, CAS and RED of active lanes that may be read and written release where ORDER says so, perform
each lane's read-modify-write at the home in ascending lane order, put the old values into vD (RED puts nothing), and acquire where
ORDER says so. With no active lane they do nothing.

R340, Table 11-3, R130: the operations at both sizes: .ADD modulo 2^w, .MIN and .MAX unsigned or with SX signed, .AND, .OR, .XOR and .XCHG on
the bits, .FADD the sum rounded once under RNE with the stored value as operand A, and .FMIN and .FMAX one of the two values, the lower or the
upper with minus zero below plus zero, the other one where one is a NaN, and the generated NaN of cause 1 for two NaNs. -/
def Obligations.AtomicsComplete : Prop :=
  (∀ (n old x : Nat) (sx : Bool) (S : Nat → Int) (f : Fmt), n = 4 ∨ n = 8 → old < 2 ^ (8 * n) → x < 2 ^ (8 * n) →
    (∀ y, S y = if y < 2 ^ (8 * n - 1) then (y : Int) else (y : Int) - 2 ^ (8 * n)) → f = (if n = 4 then f32 else f64) →
    rmwValue n 0 sx old x = (old + x) % 2 ^ (8 * n) ∧
    rmwValue n 1 false old x = min old x ∧ rmwValue n 2 false old x = max old x ∧
    S (rmwValue n 1 true old x) = min (S old) (S x) ∧ S (rmwValue n 2 true old x) = max (S old) (S x) ∧
    (rmwValue n 1 true old x = old ∨ rmwValue n 1 true old x = x) ∧ (rmwValue n 2 true old x = old ∨ rmwValue n 2 true old x = x) ∧
    rmwValue n 3 sx old x = old &&& x ∧ rmwValue n 4 sx old x = old ||| x ∧ rmwValue n 5 sx old x = old ^^^ x ∧ rmwValue n 6 sx old x = x ∧
    rmwValue n 7 sx old x = (addF f .ne (decodeF f old) (decodeF f x)).bits ∧
    (∀ op r, op = 8 ∨ op = 9 → r = rmwValue n op sx old x →
      ((decodeF f old).isNaN = true → (decodeF f x).isNaN = true → r = if n = 4 then 0x7FC0_0001 else 0x7FF8_0000_0000_0001) ∧
      ((decodeF f old).isNaN = true → (decodeF f x).isNaN = false → r = x) ∧
      ((decodeF f old).isNaN = false → (decodeF f x).isNaN = true → r = old) ∧
      (∀ lower upper : FVal, ((lower = decodeF f old ∧ upper = decodeF f x) ∨ (lower = decodeF f x ∧ upper = decodeF f old)) →
        ((∃ m n a b, lower = .fin m a ∧ upper = .fin n b ∧
            ((if m then -a else a) < (if n then -b else b) ∨ ((if m then -a else a) = (if n then -b else b) ∧ (m = true ∨ n = false)))) ∨
          (lower = .inf true ∧ upper.isNaN = false) ∨ (upper = .inf false ∧ lower.isNaN = false)) →
        decodeF f r = if op = 8 then lower else upper) ∧
      (r = old ∨ r = x ∨ ((decodeF f old).isNaN = true ∧ (decodeF f x).isNaN = true)))) ∧
  ∀ (o : Opnd) (s s1 : State) (ps : List (Nat × Phys)) (n nv : Nat) (rel acq : Bool) (i : Instr)
    (f : Nat → Nat → Option Nat) (fin : List (Nat × Nat) → Group → Group) (data : Nat → Nat → Nat),
    n = sizeOf_ (parOf o) → nv = (if n = 8 then 2 else 1) → (rel = true ↔ (parOf o).order = 2 ∨ (parOf o).order = 3) →
    (acq = true ↔ (parOf o).order = 1 ∨ (parOf o).order = 3) →
    (∀ r k, data r k = (laneOf (rdV s r) k).toNat + (if n = 8 then (laneOf (rdV s (r + 1)) k).toNat * 2 ^ 32 else 0)) →
    ((i = .atom o ∧ fin = putLoaded o.d.toNat n false ∧
        f = fun k old => some (rmwValue n (parOf o).sel.toNat (parOf o).sx old (data o.d.toNat k))) ∨
      (i = .red o ∧ fin = (fun _ g => g) ∧
        f = fun k old => some (rmwValue n (parOf o).sel.toNat (parOf o).sx old (data o.d.toNat k))) ∨
      (i = .cas o ∧ fin = putLoaded o.d.toNat n false ∧
        f = fun k old => if old = data o.d.toNat k then some (data (o.d.toNat + nv) k) else none)) →
    goes i s →
    checkLanes (begun i s) (whoOf s.g 0) s.g.ctx n n needRW
      ((activeLanes (effMask s)).map (fun k => (k, rdS s o.a.toNat + w64 ((laneOf (rdV s o.b.toNat) k).toInt * scaleMul (parOf o)) + dispOf o))) = .ok ps s1 →
    (ps = [] → Performs i s s1) ∧
    (ps ≠ [] → ∀ x s3, ps.foldl (fun a lp => atomLane (whoOf s.g 0) n (parOf o).scope.toNat rel f lp a)
        (⟨[], 0, false, false⟩, if rel then (releasePart (parOf o).scope.toNat s1).2 else s1) = (x, s3) →
      ∀ s4, s4 = onG (fin x.rets) (if x.dep then onG (clearPending (parOf o).scope.toNat) s3 else s3) →
      Performs i s (if acq then acquirePart (parOf o).scope.toNat (if x.all then fullSwatch else x.sw) s4 else s4))

/-- R415, R98: TCFG posts sA as the tile control of tD at distance 1. R418, R419: with no accepted matrix operation on the tile, and rows that
are aligned, mapped, permitted and free of tacks, TLD leaves in tD the bytes of its rows and zero elsewhere, and TST stores each row's
chunks at their swizzled places, later rows last.

R419: row i of a tile access starts at sA plus displacement plus i times sB, and its chunk c lies at 16 times c exclusive-or the row's
swizzle key; a row has the bytes that COLS elements of the tile's type take.

R335 to R337: with no accepted matrix operation of the panel on the frame, ACCLD loads the frame's 4,096 words from 128-byte aligned,
readable memory, and ACCST stores them as they stand; an ACCLD or ACCST of another group that is in flight on the frame keeps what the frame
held before the load (R337). -/
def Obligations.TilesAndFrames : Prop :=
  (∀ (o : Opnd) (s s1 : State) (w : Who) (tc : W64), w = whoOf s.g (parOf o).ccls →
    (ready (.tcfg o) s = true → Posts (.tcfg o) s 1 (.tctl o.d.toNat (rdS s o.a.toNat))) ∧
    (goes (.tld o) s → tc = rdTctl s o.d.toNat → needsOps (readsTile o.d.toNat) s.g.id s = false →
      tileCheck o (entryOf (.tld o) s) tc 0 w needR (begun (.tld o) s) = .ok () s1 →
      Performs (.tld o) s ((tileRows o (entryOf (.tld o) s) tc 0).foldl (fun a r =>
        let x := loadRow w tc (parOf o).sel.toNat r a
        onG (tileSet o.d.toNat (64 * r.1) x.1) x.2) (onG (fun g => { g with t := ckeep (fun b => decide (b / 4096 ≠ o.d.toNat)) g.t }) s1))) ∧
    (goes (.tst o) s → tc = rdTctl s o.d.toNat → tileCheck o (entryOf (.tst o) s) tc 0 w needW (begun (.tst o) s) = .ok () s1 →
      Performs (.tst o) s ((tileRows o (entryOf (.tst o) s) tc 0).foldl (fun a r =>
        (rowChunks tc (parOf o).sel.toNat r).foldl (fun b c =>
          storeVa w 16 c.2.1 ((List.range c.2.2).map (fun k => tileByte b.g o.d.toNat (64 * r.1 + 16 * c.1 + k))) b) a) s1))) ∧
  (∀ (o : Opnd) (s : State) (tc : W64) (i c : Nat), goes (.tld o) s → i < tcRows tc → 16 * c < rowBytes tc →
    (i, rdS s o.a.toNat + dispOf o + BitVec.ofNat 64 i * rdS s o.b.toNat) ∈ tileRows o (entryOf (.tld o) s) tc 0 ∧
    (tileRows o (entryOf (.tld o) s) tc 0).length = tcRows tc ∧
    ∀ r sel, (c, r.2 + BitVec.ofNat 64 (16 * (c ^^^ swzKey sel r.1)), min 16 (rowBytes tc - 16 * c)) ∈ rowChunks tc sel r) ∧
  (∀ (o : Opnd) (s s1 : State) (a : W64), a = rdS s o.a.toNat + dispOf o →
    (∀ id ∈ panelIds s, needsOps (fun m => (framesOf m).contains o.d.toNat) id s = false) →
    (goes (.accld o) s → frameCheck a (whoOf s.g 0) needR (begun (.accld o) s) = .ok () s1 →
      Performs (.accld o) s ((List.range 4096).foldl (fun x i =>
        let y := loadVa (whoOf s.g 0) 4 (a + BitVec.ofNat 64 (4 * i)) x
        frameSet y.2.g.panel o.d.toNat i (BitVec.ofNat 32 (natOf y.1)) y.2) (keepOlds o.d.toNat s1))) ∧
    (goes (.accst o) s → frameCheck a (whoOf s.g 0) needW (begun (.accst o) s) = .ok () s1 →
      Performs (.accst o) s ((List.range 4096).foldl (fun x i =>
        storeVa (whoOf s.g 0) 1 (a + BitVec.ofNat 64 (4 * i)) (bytesOf 4 (frameGet x x.g.panel o.d.toNat i).toNat) x) s1)))

/-- R287 to R289, R416: TEXS, TEXS.L, TEXS.B, TEXF and TEXF.L with an active lane, a readable descriptor and readable texels sample the
texture for each active lane, at the level that quad derivatives, vA, or a bias give, into vD to vD+3; a descriptor with an invalid field
gives zeros. -/
def Obligations.TexturesComplete : Prop :=
  ∀ (o : Opnd) (s s1 s2 : State) (i : Instr) (rd : Tex → Nat → Reads) (p : Nat × Phys) (ps : List (Nat × Phys)) (bs : List Byte) (u v l : Lanes),
    u = rdV s o.d.toNat → v = rdV s (o.d.toNat + 1) → l = rdV s o.a.toNat →
    ((i = .texs o ∧ rd = fun t => texsReads t u v (quadLambda t u v 0)) ∨
      (i = .texsL o ∧ rd = fun t => texsReads t u v (fun k => givenLambda (laneOf l k))) ∨
      (i = .texsB o ∧ rd = fun t => texsReads t u v (quadLambda t u v (sextNat 8 (parOf o).val.toNat))) ∨
      (i = .texf o ∧ rd = fun t => texfReads t u v (fun _ => 0)) ∨
      (i = .texfL o ∧ rd = fun t => texfReads t u v (fun k => (laneOf l k).toInt))) →
    goes i s →
    checkLanes (begun i s) (whoOf s.g 0) s.g.ctx 64 64 needR ((activeLanes (effMask s)).map (fun k => (k, rdS s o.b.toNat))) = .ok (p :: ps) s1 →
    loadBytes s1 (whoOf s.g 0) p.2 64 = (bs, s2) →
    (texOf bs = none → Performs i s (onG (putRun o.d.toNat ((activeLanes (effMask s)).map (fun k => (k, [0, 0, 0, 0])))) s2)) ∧
    (∀ t s3, texOf bs = some t →
      checkSpans s2 (whoOf s.g 0) s.g.ctx needR ((activeLanes (effMask s)).flatMap (fun k =>
        (rd t k).map (fun r => ⟨k, texelAddr t r.1 r.2.1 r.2.2.1, texelBytes t⟩))) = .ok () s3 →
      Performs i s (onG (putRun o.d.toNat (sampleLanes (whoOf s.g 0) t (rd t) (activeLanes (effMask s)) s3).1)
        (sampleLanes (whoOf s.g 0) t (rd t) (activeLanes (effMask s)) s3).2))

/-- R291 to R293, R379, R397: RTST and RTLD with an active lane and a valid flat descriptor, on pixels that no earlier fragment still holds,
blend and store the covered pixels of each active lane, and load the named pixel of each into vD to vD+3; an invalid or multi-layer
descriptor makes RTST do nothing and RTLD give zeros. -/
def Obligations.RenderTargetsComplete : Prop :=
  ∀ (o : Opnd) (s s1 : State) (i : Instr) (bs : List Byte) (act : List Nat), i = .rtst o ∨ i = .rtld o → goes i s → effMask s ≠ 0 →
    act = activeLanes (effMask s) → ropDesc (entryOf i s) (begun i s) = .ok bs s1 →
    ((match targetOf bs with | some t => t.ml | none => true) = true →
      (i = .rtst o → Performs i s s1) ∧
      (i = .rtld o → Performs i s (onG (putRun o.d.toNat (act.map (fun k => (k, [0, 0, 0, 0])))) s1))) ∧
    (∀ t s2, targetOf bs = some t → t.ml = false →
      (∀ pix : Nat → List (Nat × Nat), (∀ k, pix k = coveredPixels t (laneOf (rdV s (o.d.toNat + 3)) k) (laneOf (rdV s o.a.toNat) k)) →
        i = .rtst o → checkSpans s1 (ropWho s1) s1.g.ctx needRW (act.flatMap (fun k => (pix k).flatMap (fun p =>
          (if t.dbase = 0 then [] else [⟨k, depthAddr t p.1 p.2, 4⟩]) ++ [⟨k, colourAddr t p.1 p.2, t.bpp⟩]))) = .ok () s2 →
        lowerHolds s2 t (act.flatMap pix) = false →
        Performs i s (onG (markMade t (act.flatMap pix)) (act.foldl (fun a k => (pix k).foldl (fun b p =>
          pixelStore t (laneOf (rdV s (o.d.toNat + 2)) k) (halfColour (laneOf (rdV s o.d.toNat) k) (laneOf (rdV s (o.d.toNat + 1)) k)) p b) a) s2))) ∧
      (∀ pix : Nat → List (Nat × Nat), (∀ k, pix k = (if (rtldPixel (laneOf (rdV s o.a.toNat) k)).1 < t.w ∧ (rtldPixel (laneOf (rdV s o.a.toNat) k)).2 < t.h
          then [rtldPixel (laneOf (rdV s o.a.toNat) k)] else [])) →
        i = .rtld o → checkSpans s1 (ropWho s1) s1.g.ctx needR (act.flatMap (fun k => (pix k).flatMap (fun p =>
          (if t.dbase = 0 then [] else [⟨k, depthAddr t p.1 p.2, 4⟩]) ++ [⟨k, colourAddr t p.1 p.2, t.bpp⟩]))) = .ok () s2 →
        lowerPlace s2 t (act.flatMap pix) = false →
        Performs i s (onG (putRun o.d.toNat (pixelLoads t (rdV s o.a.toNat) act s2).1) (pixelLoads t (rdV s o.a.toNat) act s2).2)))

/-- R296 to R300, R379, R380, R381: MLINS with an active lane inserts each fragment into its tile's list, in order, with the drawers that it
takes from the pool, where records, drawers, pool entries and new nodes may be read and written and the pool holds what is needed or the
target degrades; lanes of other groups' MLINS that are in flight may come between its lanes (R300), and where there is none it does nothing
else; on an invalid or flat descriptor it does nothing. MLRES and MLRES.CLR resolve each tile's pixels into the flat target, and the
second also empties the tiles; on descriptors that do not fit they do nothing. -/
def Obligations.LayersComplete : Prop :=
  ∀ (o : Opnd) (s : State),
    (∀ bs s1, goes (.mlins o) s → effMask s ≠ 0 → ropDesc (entryOf (.mlins o) s) (begun (.mlins o) s) = .ok bs s1 →
      ((match targetOf bs with | some t => !t.ml | none => true) = true → Performs (.mlins o) s s1) ∧
      (∀ t fs s3 s4 want take, targetOf bs = some t → t.ml = true → fs = mlFrags t (entryOf (.mlins o) s) →
        checkSpans s1 (ropWho s1) s1.g.ctx needRW (mlSpans t fs s1) = .ok () s3 →
        want = (served (planDrawers t fs s3)).length → take = min want (poolCount t s3) →
        (t.deg = true ∨ (want ≤ take ∧ ∀ x ∈ (planDrawers t fs s3).need, x.2.2 = true)) →
        s4 = (if take = 0 then s3 else storeVa (ropWho s3) 2 t.pool (bytesOf 8 (poolCount t s3 - take)) s3) →
        Performs (.mlins o) s (insertAll t fs (popped t take s3) s4) ∧
        (rivals s4 = [] → Performs (.mlins o) s (giveBack t (fs.foldl (fun a f => insertOne t f a) (popped t take s3, s4))))) ∧
      (∀ t fs, mlSpans t fs s1 = fs.flatMap (fun f => [⟨f.lane, recordAddr t f.tile, 320⟩, ⟨f.lane, t.pool, 64⟩] ++
          ledTo (ropWho s1) needR [⟨f.lane, recordAddr t f.tile, 320⟩, ⟨f.lane, t.pool, 64⟩] (drawerSpans t f.lane f.tile) s1) ++
        ledTo (ropWho s1) needR (tileSpans t fs s1) (fun a => popSpans t fs (served (planDrawers t fs a)) a) s1)) ∧
    (∀ i clr da s1 db s2, (i = .mlres o ∧ clr = false) ∨ (i = .mlresClr o ∧ clr = true) → ready i s = true →
      uniDesc (rdS s o.a.toNat) s = .ok da s1 → uniDesc (rdS s o.b.toNat) s1 = .ok db s2 → s2.g = s.g →
      (targetOf da = none ∨ targetOf db = none → Completes i s none s2) ∧
      (∀ t flat, targetOf da = some t → targetOf db = some flat → (t.ml = false ∨ flat.ml = true ∨ t.w ≠ flat.w ∨ t.h ≠ flat.h) →
        Completes i s none s2) ∧
      (∀ t flat s4 recs planes drawers, targetOf da = some t → targetOf db = some flat → t.ml = true → flat.ml = false → t.w = flat.w →
        t.h = flat.h → recs = [⟨0, t.cbase, 320 * tileCount t⟩, ⟨0, t.pool, 64⟩] →
        planes = planeSpans flat flat.cbase flat.bpp ++ (if flat.dbase = 0 then [] else planeSpans flat flat.dbase 4) →
        drawers = (List.range (tileCount t)).flatMap (fun k => ledTo (ropWho s2) needR
          [⟨0, recordAddr t k, 320⟩, ⟨0, t.pool, 64⟩] (drawerSpans t 0 k) s2) →
        checkBoth (recs ++ drawers) (planes ++ (if clr then recs ++ drawers ++ ledTo (ropWho s2) needR [⟨0, t.pool, 64⟩]
          (fun a => if clr && !drawers.isEmpty then [⟨0, t.pool + BitVec.ofNat 64 (64 + 4 * poolCount t a), 4 * drawers.length⟩] else []) s2
          else [])) (ropWho s2) s2 = .ok () s4 →
        ∀ s5, s5 = (List.range (tileCount t)).foldl (fun a k => (tilePixels t k).foldl (fun b p => resolvePixel t flat p b) a) s4 →
        ∀ s6, s6 = (if clr then (List.range (tileCount t)).foldl (fun a k => clearTile t k a) s5 else s5) → s6.g.live = true →
        Completes i s none s6))

/-! Scratchpad and sync. -/

/-- R371, R372, R413, R73, R235: LDS and STS of lanes whose offsets are aligned, inside the partition and free of tacks load and store each
active lane's element in the panel's scratchpad.

R372, R413, R73, R222: a scratchpad access with a misaligned active lane traps with cause 0x04, and else, with a lane outside the
partition, with cause 0x07; TMASK holds those lanes and TFAULT the lowest one's offset, and TPC its own address; nothing is loaded and
nothing stored. -/
def Obligations.Scratchpad : Prop :=
  (∀ (o : Opnd) (s : State) (n : Nat) (l : List (Nat × W64)) (st : Bool), n = sizeOf_ (parOf o) →
    l = (activeLanes (effMask s)).map (fun i => (i, rdS s o.a.toNat + w64 ((laneOf (rdV s o.b.toNat) i).toInt * scaleMul (parOf o)) + dispOf o)) →
    (∀ e ∈ l, e.2.toNat % n = 0 ∧ e.2.toNat + n ≤ scrBytes s.g.part ∧ tackHit s s.g.core true s.g.panel e.2.toNat n st = false) →
    (st = false → ready (.lds o) s = true → Completes (.lds o) s none
      (onG (putLoaded o.d.toNat n (parOf o).sx (l.map (fun e => (e.1, natOf (scrRead s s.g.panel e.2.toNat n))))) s)) ∧
    (st = true → ready (.sts o) s = true → Completes (.sts o) s none (bump (scrStoreLanes n
      (fun i => (laneOf (rdV s o.d.toNat) i).toNat + (if n = 8 then (laneOf (rdV s (o.d.toNat + 1)) i).toNat * 2 ^ 32 else 0)) l [] s)))) ∧
  (∀ (o : Opnd) (s : State) (n : Nat) (l bad : List (Nat × W64)), n = sizeOf_ (parOf o) →
    l = (activeLanes (effMask s)).map (fun i => (i, rdS s o.a.toNat + w64 ((laneOf (rdV s o.b.toNat) i).toInt * scaleMul (parOf o)) + dispOf o)) →
    ∀ i, i = .lds o ∨ i = .sts o → ready i s = true →
    (bad = l.filter (fun e => decide (e.2.toNat % n ≠ 0)) → bad ≠ [] →
      Ends i s (takeTrap { cause := 4, sub := 0, mask := maskOf (bad.map (·.1)), fault := (bad.head?.map (·.2)).getD 0 } false s)) ∧
    ((∀ e ∈ l, e.2.toNat % n = 0) → bad = l.filter (fun e => decide (scrBytes s.g.part < e.2.toNat + n)) → bad ≠ [] →
      Ends i s (takeTrap { cause := 7, sub := 0, mask := maskOf (bad.map (·.1)), fault := (bad.head?.map (·.2)).getD 0 } false s)) ∧
    (∀ t : TrapInfo, s.g.priv = false → bit s.g.tvec 63 = true → partSR s.g.part = 3 → t.cause = 4 ∨ t.cause = 7 → t.first = none →
      ∀ a, a = takeTrap t false s →
      a.g.tmask = t.mask ∧ a.g.tfault = t.fault ∧ a.g.tpc = s.g.pc ∧ a.g.tfirst = s.g.pc ∧ a.g.v = (completeAll s.g).v ∧
      (∀ k, k ≠ 63 → cget zero a.g.s k = cget zero (completeAll s.g).s k) ∧ a.scratch = s.scratch ∧ StoresNothing s a))

/-- R216, R412, R218, R358, R389, R386: STREL to a slot that may be written deposits the swatch of its scope, alone for .NEW, stores sB as the
VALUE and clears the pending swatches of the scope; FENCE releases, acquires or both by ORDER; PFETCH changes no register; MWAIT goes on
when the word differs and is else a blocking point of kind 5. -/
def Obligations.SyncComplete : Prop :=
  ∀ (o : Opnd) (s : State),
    (∀ p s1 s2 x, ready (.strel o) s = true → slotPlace (rdS s o.a.toNat + dispOf o) (whoOf s.g 0) needW 1 s = .ok p s1 →
      releasePart (parOf o).scope.toNat s1 = (x, s2) → s2.g = s.g →
      ∀ s3, s3 = setSlotSwatch s2 (whoOf s.g 0) p (if (parOf o).sel = 1 then x else slotSwatch s2 p ||| x) →
      Completes (.strel o) s none (onG (clearPending (parOf o).scope.toNat)
        (slotWrite s3 (whoOf s.g 0) p 0 (bytesOf 8 (rdS s o.b.toNat).toNat)))) ∧
    (ready (.fence o) s = true →
      ∀ s1, s1 = (if (parOf o).order = 2 ∨ (parOf o).order = 3 then (releasePart (parOf o).scope.toNat s).2 else s) →
      Completes (.fence o) s none
        (if (parOf o).order = 1 ∨ (parOf o).order = 3 then acquirePart (parOf o).scope.toNat fullSwatch s1 else s1)) ∧
    (∀ s1, ready (.pfetch o) s = true → prefetchAll (whoOf s.g (parOf o).ccls) (scrAddrs o s) s = .ok () s1 →
      Completes (.pfetch o) s none s1 ∧ s1.g = s.g) ∧
    (∀ n a ws s1 ps s2 v s3 e, ready (.mwait o) s = true → n = sizeOf_ (parOf o) → a = rdS s o.a.toNat + dispOf o →
      checkPerm s (whoOf s.g 2) n needR [(0, a)] = .ok ws s1 → places (whoOf s.g 2) n needR ws s1 = .ok ps s2 →
      watched (whoOf s.g 2) n a (gatherAll (whoOf s.g 2) needR [(0, a)] s2) = (v, s3) → s3.g = s.g →
      e = (rdS s o.b.toNat).toNat % 2 ^ (8 * n) →
      (v ≠ e → Completes (.mwait o) s none s3) ∧
      (v = e → Ends (.mwait o) s (onG (fun g => { g with block := some ⟨5, a, BitVec.ofNat 64 e, n⟩ }) s3)))

/-! Barriers. -/

/-- R222, R225, R343: on a panel barrier object that is aligned and in the partition, BARINIT.PNL with 1 to 16 opens it; BARARV.PNL on an
initialised object enters the group into the lowest open phase that lacks it, adds the expected bytes, closes what is complete and
gives the phase; BARWAIT.PNL goes on once the phase is past. Where they have to wait they stand at kinds 4, 3 and 1.

R225 in numbers: when EXPECT groups have arrived in the current phase and its bytes are all delivered the phase number goes up by one and
its slot is empty again; else complete() changes nothing. The phases before the current one are done, the current one is not. -/
def Obligations.PanelBarriers : Prop :=
  (∀ (o : Opnd) (s : State) (a : W64) (b : Pbar), (parOf o).sel ≠ 1 → a = rdS s o.a.toNat + dispOf o → a.toNat % 32 = 0 →
    a.toNat + 32 ≤ scrBytes s.g.part → b = readPbar s s.g.panel a.toNat →
    (∀ x, ready (.barinit o) s = true → x = (rdS s o.b.toNat).toNat → 1 ≤ x → x ≤ 16 →
      Completes (.barinit o) s none (writePbar (if b.expect = 0 then completePbar 4 { b with expect := x }
        else { b with phase := 0, expect := x, arr := [0, 0, 0, 0], bytes := [0, 0, 0, 0] }) s.g.panel a.toNat s)) ∧
    (∀ x, ready (.bararv o) s = true → x = (rdS s o.d.toNat).toNat → x < 2 ^ 31 →
      (b.expect = 0 → Ends (.bararv o) s (onG (fun g => { g with block := some ⟨4, a, 0, 32⟩ }) s)) ∧
      (b.expect ≠ 0 → nextPhase b (fld s.g.gid 0 4) = none →
        Ends (.bararv o) s (onG (fun g => { g with block := some ⟨3, a, BitVec.ofNat 64 b.phase, 32⟩ }) s)) ∧
      (∀ q, b.expect ≠ 0 → nextPhase b (fld s.g.gid 0 4) = some q →
        Completes (.bararv o) s none (onG (put (.sca o.d.toNat (BitVec.ofNat 64 q)))
          (writePbar (completePbar 4 { b with
            arr := putNth b.arr (q % 4) (b.arr.getD (q % 4) 0 ||| 2 ^ fld s.g.gid 0 4)
            bytes := putNth b.bytes (q % 4) ((b.bytes.getD (q % 4) 0 + x) % 2 ^ 32) }) s.g.panel a.toNat s)))) ∧
    (ready (.barwait o) s = true →
      (b.expect = 0 → Ends (.barwait o) s (onG (fun g => { g with block := some ⟨4, a, 0, 32⟩ }) s)) ∧
      (b.expect ≠ 0 → phaseDone b ((rdS s o.b.toNat).toNat % 2 ^ 32) = true → Completes (.barwait o) s none s) ∧
      (b.expect ≠ 0 → phaseDone b ((rdS s o.b.toNat).toNat % 2 ^ 32) = false →
        Ends (.barwait o) s (onG (fun g => { g with block := some ⟨1, a, BitVec.ofNat 64 ((rdS s o.b.toNat).toNat % 2 ^ 32), 32⟩ }) s)))) ∧
  (∀ (b : Pbar), b.phase < 2 ^ 32 → b.arr.length = 4 → b.bytes.length = 4 →
    (∀ n, b.expect = 0 ∨ popNat 16 (b.arr.getD (b.phase % 4) 0) < b.expect ∨ b.bytes.getD (b.phase % 4) 0 ≠ 0 → completePbar n b = b) ∧
    (0 < b.expect → b.expect ≤ popNat 16 (b.arr.getD (b.phase % 4) 0) → b.bytes.getD (b.phase % 4) 0 = 0 →
      (completePbar 1 b).phase = (b.phase + 1) % 2 ^ 32 ∧ (completePbar 1 b).arr.getD (b.phase % 4) 1 = 0 ∧
      (∀ k, k < 4 → k ≠ b.phase % 4 → (completePbar 1 b).arr.getD k 0 = b.arr.getD k 0)) ∧
    phaseDone b b.phase = false ∧ (∀ k, 1 ≤ k → k ≤ 2 ^ 31 → phaseDone b ((b.phase + 2 ^ 32 - k) % 2 ^ 32) = true) ∧
    (∀ k, k < 2 ^ 31 → phaseDone b ((b.phase + k) % 2 ^ 32) = false))

/-- R228, R343: on a device barrier object in a slot that may be accessed, BARINIT.DEV writes its fields and clears the swatch; BARARV.DEV on a
valid object with no waiter left to see the last phase releases at the object's scope, counts the arrival, deposits the swatch (alone for the
first arrival) and gives the phase, where the last arrival of the phase starts the next one with its waiters to be seen; it is refused with
bit 63 where a waiter is left; BARWAIT.DEV of a completed phase acquires and goes on, counting a waiter of the last phase as seen, of another
stands at kind 2. -/
def Obligations.DeviceBarriers : Prop :=
  ∀ (o : Opnd) (s s1 : State) (a v : W64) (p : Phys), (parOf o).sel = 1 → a = rdS s o.a.toNat + dispOf o → s1.g = s.g → v = dbRead s1 p →
    (∀ x, ready (.barinit o) s = true → slotPlace a (whoOf s.g 0) needW 0 s = .ok p s1 → x = rdS s o.b.toNat → fld x 0 11 ≠ 0 →
      3 ≤ fld x 24 3 → fld x 24 3 ≤ 5 → fld x 22 2 = 0 → fld x 27 37 = 0 →
      Completes (.barinit o) s none (setSlotSwatch (slotWrite s1 (whoOf s.g 0) p 0
        (bytesOf 8 (fld x 0 11 * 2 ^ 16 + fld x 11 11 * 2 ^ 38 + fld x 24 3 * 2 ^ 60))) (whoOf s.g 0) p 0)) ∧
    (ready (.bararv o) s = true → slotPlace a (whoOf s.g 0) needRW 0 s = .ok p s1 → rdS s o.d.toNat = 0 → dbExpect v ≠ 0 → dbValid v = true →
      (0 < dbUnseen v → Completes (.bararv o) s none
        (onG (fun g => { put (.sca o.d.toNat 0x8000_0000_0000_0000) g with refused := some a }) s1)) ∧
      (dbUnseen v = 0 → ∀ x s2 v1, releasePart (dbScope v) s1 = (x, s2) →
        v1 = (if (dbArrived v + 1) % 2 ^ 11 = dbExpect v then
            setFld (setFld (setFld v 0 16 (dbPhase v + 1)) 27 11 0) 49 11 (dbWaiters v) else setFld v 27 11 (dbArrived v + 1)) →
        Completes (.bararv o) s none
          (onG (fun g => { clearPending (dbScope v) (put (.sca o.d.toNat (BitVec.ofNat 64 (dbPhase v))) g) with refused := none })
            (setSlotSwatch (slotWrite s2 (whoOf s.g 0) p 0 (bytesOf 8 v1.toNat)) (whoOf s.g 0) p
              (if dbArrived v = 0 then x else slotSwatch s2 p ||| x))))) ∧
    (ready (.barwait o) s = true → slotPlace a (whoOf s.g 0) needRW 0 s = .ok p s1 → dbExpect v ≠ 0 → dbValid v = true →
      (dbDone v ((rdS s o.b.toNat).toNat % 2 ^ 16) = false →
        Ends (.barwait o) s (onG (fun g => { g with block := some ⟨2, a, BitVec.ofNat 64 ((rdS s o.b.toNat).toNat % 2 ^ 32), 64⟩ }) s1)) ∧
      (dbDone v ((rdS s o.b.toNat).toNat % 2 ^ 16) = true →
        ((rdS s o.b.toNat).toNat % 2 ^ 16 + 1) % 2 ^ 16 ≠ dbPhase v ∨ dbUnseen v = 0 →
        Completes (.barwait o) s none (acquirePart (dbScope v) fullSwatch s1)) ∧
      (dbDone v ((rdS s o.b.toNat).toNat % 2 ^ 16) = true →
        ((rdS s o.b.toNat).toNat % 2 ^ 16 + 1) % 2 ^ 16 = dbPhase v → 0 < dbUnseen v →
        ∀ s2, s2 = slotWrite s1 (whoOf s.g 0) p 0 (bytesOf 8 (setFld v 49 11 (dbUnseen v - 1)).toNat) →
        Completes (.barwait o) s none (acquirePart (dbScope v) (slotSwatch s2 p) s2)))

/-! Engines, spawning, matrices and graphics. -/

/-- R230, R231, R233, R350: CPY with a descriptor that breaks no rule, ranges inside the partition, room in its channel and no tack in the way is
accepted as a command with nothing delivered yet, which counts into the group's next phase of the barrier unless the descriptor names none; a
descriptor that breaks a rule traps with cause 0x0A, sub-code 1. CPYWP gives the bytes that the channel has delivered for the panel.

R135, R137, R138, R390: QNT with a descriptor that breaks no rule, ranges and barrier inside the partition, an open phase, room in its queue
and no tack in the way is accepted as a command that counts into the group's next phase; a descriptor that breaks a rule traps with cause
0x0A, sub-code 2. -/
def Obligations.EnginesAccept : Prop :=
  (∀ (o : Opnd) (s : State) (c : CopyDesc) (ch : Nat) (bar : Option (Nat × Nat)), ch = (parOf o).sel.toNat →
    c = copyDesc (rdS s o.a.toNat) (rdS s (o.a.toNat + 1)) (rdS s (o.a.toNat + 2)) (rdS s (o.a.toNat + 3)) →
    (ready (.cpy o) s = true → copyBad (rdS s o.a.toNat) (rdS s (o.a.toNat + 1)) (rdS s (o.a.toNat + 2)) c = false →
      (c.nobar = true → bar = none) → (c.nobar = false → c.bar + 32 ≤ scrBytes s.g.part ∧
        ∃ q, nextPhase (readPbar s s.g.panel c.bar) (fld s.g.gid 0 4) = some q ∧ bar = some (c.bar, q)) →
      (c.ssp = true → c.src + (c.nrows - 1) * c.sstr + c.rowlen ≤ scrBytes s.g.part) →
      (c.dsp = true → c.dst + (c.nrows - 1) * c.dstr + c.rowlen ≤ scrBytes s.g.part) →
      (s.cmds.filter (fun x => x.core == s.g.core && (match x.kind with | .copy k .. => k == ch | _ => false))).length < 4 →
      ∀ k, k = .copy ch c.ssp c.dsp c.src c.dst c.rowlen c.nrows c.sstr c.dstr →
      tacksWait s s.g.core ((acceptCmd k bar s).cmds.getLast?.elim [] (cmdTacks (acceptCmd k bar s))) = false →
      Completes (.cpy o) s none (acceptCmd k bar s)) ∧
    (ready (.cpy o) s = true → copyBad (rdS s o.a.toNat) (rdS s (o.a.toNat + 1)) (rdS s (o.a.toNat + 2)) c = true →
      Ends (.cpy o) s (takeTrap { cause := 0x0A, sub := 1 } false s)) ∧
    (ready (.cpywp o) s = true → Puts (.cpywp o) s (.sca o.d.toNat (cget zero s.wptr (wptrKey s.g.panel ch))))) ∧
  (∀ (o : Opnd) (s : State) (d0 d1 d2 d3 : W64) (fmt q : Nat), d0 = rdS s o.a.toNat → d1 = rdS s (o.a.toNat + 1) → d2 = rdS s (o.a.toNat + 2) →
    d3 = rdS s (o.a.toNat + 3) → fmt = (parOf o).sel.toNat → ready (.qnt o) s = true →
    (qntBad fmt d0 d1 d2 d3 = true → Ends (.qnt o) s (takeTrap { cause := 0x0A, sub := 2 } false s)) ∧
    (qntBad fmt d0 d1 d2 d3 = false →
    (bit d0 63 = true → descAddr d0 + ((fld d3 0 12 - 1) * fld d3 24 20 + fld d3 12 12 * (if fld d3 44 2 = 0 then 4 else 2)) ≤ scrBytes s.g.part) →
    (bit d1 63 = true → descAddr d1 + fld d3 0 12 * fld d3 12 12 * qntBits fmt / 8 ≤ scrBytes s.g.part ∧
      fld d2 0 57 + qntScaleBytes fmt (fld d3 0 12) (fld d3 12 12) ≤ scrBytes s.g.part) →
    32 * fld d3 48 16 + 32 ≤ scrBytes s.g.part → nextPhase (readPbar s s.g.panel (32 * fld d3 48 16)) (fld s.g.gid 0 4) = some q →
    (s.cmds.filter (fun x => x.core == s.g.core && (match x.kind with | .qnt .. => true | _ => false))).length < 8 →
    ∀ t, t = acceptCmd (.qnt fmt d0 d1 d2 d3) (some (32 * fld d3 48 16, q)) s →
    tacksWait s s.g.core (t.cmds.getLast?.elim [] (cmdTacks t)) = false → Completes (.qnt o) s none t)) ∧
  (∀ (k : CmdKind) (bar : Option (Nat × Nat)) (s : State), ∃ c, (acceptCmd k bar s).cmds = s.cmds ++ [c] ∧ c.kind = k ∧ c.bar = bar ∧
    c.grp = s.g.id ∧ c.panel = s.g.panel ∧ c.core = s.g.core ∧ c.priv = s.g.priv ∧ c.done = 0 ∧ c.lines = 0 ∧ c.paused = none ∧
    (acceptCmd k bar s).g = s.g ∧ StoresNothing s (acceptCmd k bar s) ∧ (acceptCmd k bar s).scratch = s.scratch)

/-- R40, R407 to R409: SPRES and SPRES.W with an active lane, an aligned entry address and room give each active lane an offset of its own among
the free slots and the flag 0, and reserve them; without room SPRES gives the flag 1 and SPRES.W waits at kind 7, and of a die without a pool
SPRES gives the flag 1 and SPRES.W traps with cause 0x0C, sub-code 2. SPCOM of offsets that the group has reserved, each once, releases,
commits them in lane order and reserves them no more; lanes whose offset is not reserved or repeats one trap with cause 0x0C, sub-code 1
(TFAULT of both is a free value, log 41). With no active lane the three do nothing but clear the flag that SPRES and SPRES.W write. That SPCOM
of an offset on another die of the module releases at .MOD and takes the pending .MOD swatch into the bin is the model's own choice (log 40: R221
names the .DIE swatch alone).

R40, R408: the offsets that a reservation gives are as many as asked, differ from each other, are multiples of 32 inside the pool and lie
among no reserved, committed or launching slot of the die.

R41, R43: a commit adds the record to its bin with the swatch and runs the bin's timer; the commit that makes 64 forms a group of them and
leaves the bin with none. -/
def Obligations.SpawnsComplete : Prop :=
  (∀ (o : Opnd) (s : State) (e : W64) (die : Nat), e = rdS s o.a.toNat → die = s.g.core / 48 →
    (∀ i wait, (i = .spres o ∧ wait = false) ∨ (i = .spresW o ∧ wait = true) → ready i s = true →
      (effMask s = 0 → Puts i s (.sca o.b.toNat 0)) ∧
      (effMask s ≠ 0 → e.toNat % 4 ≠ 0 → Ends i s (takeTrap { cause := 4, sub := 0, mask := 1, fault := e } false s)) ∧
      (effMask s ≠ 0 → e.toNat % 4 = 0 → poolSlots s die = 0 → (wait = false → Puts i s (.sca o.b.toNat 1)) ∧
        (wait = true → Ends i s (takeTrap { cause := 0x0C, sub := 2, mask := 0, fault := Config.freeW64 s.free 0 } false (bump s)))) ∧
      (effMask s ≠ 0 → e.toNat % 4 = 0 → poolSlots s die ≠ 0 →
        (∀ s1, reserve (activeLanes (effMask s)).length [e] s = .lacking s1 → s1.g = s.g →
          (wait = false → Completes i s none (onG (put (.sca o.b.toNat 1)) s1)) ∧
          (wait = true → Ends i s (onG (fun g => { g with block := some ⟨7, 0, e, (activeLanes (effMask s)).length⟩ }) s1))) ∧
        (∀ offs s1, reserve (activeLanes (effMask s)).length [e] s = .slots offs s1 →
          ∃ s', Completes i s none s' ∧ s'.g.reserved = s.g.reserved ++ offs.map (fun x => ⟨die, s.g.ctx, e, x⟩) ∧
            cget zero s'.g.s o.b.toNat = 0 ∧ StoresNothing s s' ∧
            (∀ (j x : Nat), offs[j]? = some x → ∀ i, (activeLanes (effMask s))[j]? = some i → laneOf (rdV s' o.d.toNat) i = BitVec.ofNat 32 x)))) ∧
    (ready (.spcom o) s = true → effMask s = 0 → Completes (.spcom o) s none s) ∧
    (∀ (bad : Nat → Bool), ready (.spcom o) s = true → (∃ k ∈ activeLanes (effMask s), bad k = true) →
      (∀ k, bad k = true ↔ (∀ r ∈ s.g.reserved, r.off ≠ (laneOf (rdV s o.a.toNat) k).toNat) ∨
        ∃ j ∈ activeLanes (effMask s), j < k ∧ laneOf (rdV s o.a.toNat) j = laneOf (rdV s o.a.toNat) k) →
      Ends (.spcom o) s (takeTrap { cause := 0x0C, sub := 1, mask := maskOf ((activeLanes (effMask s)).filter bad),
                                    fault := Config.freeW64 s.free 0 } false (bump s))) ∧
    (∀ (rs : List Reservation) (w : Swatch) (s1 : State) (scope : Nat), ready (.spcom o) s = true → effMask s ≠ 0 →
      rs = (activeLanes (effMask s)).filterMap (fun i => s.g.reserved.find? (fun r => r.off == (laneOf (rdV s o.a.toNat) i).toNat)) →
      rs.length = (activeLanes (effMask s)).length → (rs.map (·.off)).Nodup →
      scope = (if rs.all (fun r => r.die == die) then 3 else 4) → releasePart scope s = (w, s1) →
      ∀ s2, s2 = onG (fun g => { clearPending scope g with reserved := g.reserved.filter (fun r => !rs.contains r) }) s1 →
      ∃ s', Completes (.spcom o) s none s' ∧ s' = cleanBins (rs.foldl (fun a r =>
          commitRec r.die r.ctx r.entry r.off s.g.prio s.g.ccls w a) s2) ∧
        s'.g.reserved = s.g.reserved.filter (fun r => !rs.contains r) ∧ s'.g.swDie = 0 ∧ s'.g.v = s.g.v ∧ s'.g.s = s.g.s)) ∧
  (∀ (n : Nat) (es : List W64) (s t : State) (offs : List Nat), reserve n es s = .slots offs t →
    offs.length = n ∧ offs.Nodup ∧ ∀ x ∈ offs, x % 32 = 0 ∧ x < 32 * poolSlots s (s.g.core / 48) ∧ x ∉ usedOffs s (s.g.core / 48)) ∧
  (∀ (die ctx : Nat) (entry : W64) (off : Nat) (prio ccls : BitVec 2) (w : Swatch) (s t : State) (b : Bin),
    s.bins.find? (isBin die ctx entry) = some b → t = commitRec die ctx entry off prio ccls w s →
    (b.recs.length < 63 → t.formed = s.formed ∧ t.bins.find? (isBin die ctx entry) =
      some { b with recs := b.recs ++ [⟨off, prio, ccls⟩], timer := true, swatch := b.swatch ||| w }) ∧
    (b.recs.length = 63 → ∃ f, t.formed = s.formed ++ [f] ∧ f.die = b.die ∧ f.ctx = b.ctx ∧ f.entry = b.entry ∧
      f.offs = b.recs.map (·.off) ++ [off] ∧ f.swatch = b.swatch ||| w ∧
      (t.bins.find? (isBin die ctx entry)).map (fun x => (x.recs, x.timer)) = some ([], false)))

/-! Matrices and graphics. -/

/-- R148, R149, R153, R154, R374, R382, R406, R429, R430: a matrix operation whose operands meet Table 5-6, whose scratchpad ranges lie in the
partition, and for which there is room is accepted into the open set with what it captured; MMA of operands that Table 5-2 does not list traps
with cause 0x09, sub-code 1, WRND of a misaligned offset with sub-code 5. MBATCH closes the open set under the next number. MBWAIT
goes on when no closed batch at or before its number is left, else stands at kind 6. -/
def Obligations.MatrixOperations : Prop :=
  ∀ (o : Opnd) (s : State) (ta tb : W64), ta = rdTctl s o.a.toNat → tb = rdTctl s o.b.toNat →
    (∀ i kind sel sc, (i = .mma o ∧ kind = .mma) ∨ (i = .mmax o ∧ kind = .mmax) ∨ (i = .mmaz o ∧ kind = .mmaz) → ready i s = true →
      sel = (parOf o).sel.toNat → sc = (if sel = 0 then 0 else rdS s ((parOf o).val.toNat % 64)) →
      (comboOk (tcTT ta) (tcTT tb) sel = false → Ends i s (takeTrap { cause := 9, sub := 1 } false s)) ∧
      (comboOk (tcTT ta) (tcTT tb) sel = true → tcCols ta = (if kind = .mmax then tcRows tb else tcCols tb) →
        (kind = .mmax → tcCols tb ≤ 64) → (sel ≠ 0 → fld sc 21 11 = 0 ∧ fld sc 53 11 = 0) →
        Accepts i s { opOf kind o s with tctlA := ta, tctlB := tb, sel := sel, scale := sc })) ∧
    (∀ d0 d1 d2 d3 esz, ready (.xscan o) s = true → d0 = rdS s o.a.toNat → d1 = rdS s (o.a.toNat + 1) → d2 = rdS s (o.a.toNat + 2) →
      d3 = rdS s (o.a.toNat + 3) → esz = (if bit d2 37 then 4 else 8) → fld d0 57 6 = 0 → fld d1 21 43 = 0 → fld d2 38 26 = 0 →
      fld d3 40 24 = 0 → fld d2 0 12 ≠ 0 → fld d2 12 25 ≠ 0 → fld d2 12 25 ≤ 2 ^ 24 → fld d0 0 57 % esz = 0 → fld d1 0 21 % 2 = 0 →
      fld d3 0 40 % esz = 0 →
      Accepts (.xscan o) s { opOf (if (parOf o).sel = 0 then .xscanRow else .xscanCol) o s with desc := [d0, d1, d2, d3] }) ∧
    (∀ v se, ready (.slmm o) s = true → v = (parOf o).val.toNat → se = rdS s (v / 16 % 64) → 8 ≤ tcTT ta → 8 ≤ tcTT tb → tcCols tb = tcCols ta →
      tcRows ta ≤ 32 → tcRows tb ≤ 32 → fld se 21 11 = 0 → fld se 53 11 = 0 →
      Accepts (.slmm o) s { opOf .slmm o s with tctlA := ta, tctlB := tb, scale := se, k := v % 16 }) ∧
    (∀ i kind off, (i = .wrnd o ∧ kind = .wrndF64) ∨ (i = .wrndF32 o ∧ kind = .wrndF32) → ready i s = true →
      off = (rdS s o.a.toNat + dispOf o).toNat →
      (off % (if kind = .wrndF64 then 8 else 4) ≠ 0 → Ends i s (takeTrap { cause := 9, sub := 5 } false s)) ∧
      (off % (if kind = .wrndF64 then 8 else 4) = 0 →
        Accepts i s { opOf kind o s with off := off, rm := BitVec.ofNat 3 (fld s.g.gmode 10 3) })) ∧
    (ready (.mbatch o) s = true → ∃ s', Completes (.mbatch o) s none s' ∧ s'.g.nb = s.g.nb + 1 ∧
      cget zero s'.g.s o.d.toNat = BitVec.ofNat 64 ((s.g.nb.toNat + 1) % 2 ^ 32) ∧ s'.g.openSet = [] ∧
      ((∀ b ∈ s.g.batches, b.ops ≠ []) → s.g.openSet ≠ [] → s'.g.batches = s.g.batches ++ [⟨s.g.nb + 1, s.g.openSet⟩]) ∧
      (s.g.openSet = [] → s.g.batches = [] → s'.g.batches = []) ∧ s'.g.v = s.g.v ∧ StoresNothing s s' ∧ s'.frames = s.frames) ∧
    (ready (.mbwait o) s = true →
      ((∀ b ∈ s.g.batches, 2 ^ 31 ≤ (((rdS s o.a.toNat).setWidth 32 : W32) - b.num).toNat) → Completes (.mbwait o) s none s) ∧
      ((∃ b ∈ s.g.batches, (((rdS s o.a.toNat).setWidth 32 : W32) - b.num).toNat < 2 ^ 31) →
        Ends (.mbwait o) s (onG (fun g => { g with block := some ⟨6, 0, BitVec.ofNat 64 ((rdS s o.a.toNat).toNat % 2 ^ 32), 0⟩ }) s)))

/-- R145, R69, Table 5-2 in numbers: when the arrays perform an MMA or MMAZ of signed 8-bit elements without scales for the elements that a
test selects, element (i, j) of the frame among them, for i below the rows of A and j below the rows of B, becomes its old value (or 0 for
MMAZ) plus the sum of the products of row i of A and row j of B, modulo 2^32; the frame's other elements and every other frame stay. -/
def Obligations.IntegerMatrix : Prop :=
  ∀ (g : Group) (m : MatOp) (p : Nat → Bool) (s : State) (el : Nat → Nat → Nat → Int),
    (∀ t r k, el t r k = (tileByte g t (64 * r + k)).toInt) →
    m.kind = .mma ∨ m.kind = .mmaz → m.sel = 0 → tcTT m.tctlA = 0 → tcTT m.tctlB = 0 → tcRows m.tctlA ≤ 64 → tcRows m.tctlB ≤ 64 →
    tcCols m.tctlA ≤ 64 → m.d < 64 →
    (∀ i j, i < tcRows m.tctlA → j < tcRows m.tctlB → p (64 * i + j) = true →
      frameGet (performMma g m p s).2 g.panel m.d (64 * i + j) =
        (if m.kind = .mmaz then 0 else frameGet s g.panel m.d (64 * i + j)) +
        BitVec.ofInt 32 (((List.range (tcCols m.tctlA)).map (fun k => el m.a i k * el m.b j k)).sum)) ∧
    (∀ i j, i < 64 → j < 64 → tcRows m.tctlA ≤ i ∨ tcRows m.tctlB ≤ j ∨ p (64 * i + j) = false →
      frameGet (performMma g m p s).2 g.panel m.d (64 * i + j) = frameGet s g.panel m.d (64 * i + j)) ∧
    (∀ d i, d < 64 → d ≠ m.d → i < 4096 → frameGet (performMma g m p s).2 g.panel d i = frameGet s g.panel d i) ∧
    StoresNothing s (performMma g m p s).2 ∧ (performMma g m p s).2.scratch = s.scratch

/-- R279, R428, R280, R388, R301, R304, R305, R306, R402: VEMIT of lanes at aligned offsets in the partition stores their vertex records. PEMIT with
no active lane does nothing, of a group of no bolt gives every active lane 0xFFFFFFFE, and with a readable descriptor gives the refusal of
Table 9-3 or numbers the lanes' primitives and hands them to the pass. RAYQ and RAYQ.BOB with a readable, well-formed descriptor and room
are accepted with their lanes' rays (and the slots reserved for them), and do nothing with no active lane; a descriptor that breaks a rule traps
with cause 0x0A, sub-code 3; SEAM with readable descriptors is accepted after its release. -/
def Obligations.GraphicsCompletes : Prop :=
  ∀ (o : Opnd) (s : State) (act : List Nat), act = activeLanes (effMask s) →
    (∀ l, ready (.vemit o) s = true → l = act.map (fun i => (i, BitVec.ofNat 64 (laneOf (rdV s o.a.toNat) i).toNat)) →
      (∀ e ∈ l, e.2.toNat % 32 = 0 ∧ e.2.toNat + 32 ≤ scrBytes s.g.part ∧ tackHit s s.g.core true s.g.panel e.2.toNat 32 true = false) →
      Completes (.vemit o) s none (bump (scrStoreLanes 32
        (fun i => wordsNat ((List.range ((parOf o).val.toNat % 8 + 1)).map (fun w => laneOf (rdV s (o.d.toNat + w)) i))) l [] s))) ∧
    (ready (.pemit o) s = true → act = [] → Completes (.pemit o) s none s) ∧
    (ready (.pemit o) s = true → act ≠ [] → s.g.kind ≠ .bolt →
      Puts (.pemit o) s (.vec o.d.toNat (masked (effMask s) (fun _ => 0xFFFF_FFFE)))) ∧
    (∀ p ps s1 bs s2 part s3 buf s4 home, ready (.pemit o) s = true → act ≠ [] → s.g.kind = .bolt →
      checkLanes s (whoOf s.g 2) s.g.ctx 128 128 needR [(0, s.g.args)] = .ok (p :: ps) s1 → loadBytes s1 (whoOf s.g 2) p.2 128 = (bs, s2) →
      entryPart s2.g.ctx (coreDie s2.g.core) ((descWords bs 16).getD 3 0) s2 = (part, s3) → pbufOk (descWords bs 16) s3 = (buf, s4) → s4.g = s.g →
      home = (if p.2.region = 0 ∧ p.2.sy then some (homeDie p.2) else none) →
      (∀ st, pemitRefusal (descWords bs 16) home part buf act.length s4 = some st →
        Completes (.pemit o) s none (onG (put (.vec o.d.toNat (masked (effMask s) (fun _ => st)))) s4)) ∧
      (∀ l, pemitRefusal (descWords bs 16) home part buf act.length s4 = none →
        l = act.map (fun i => (i, primRecords (descWords bs 16) (fld s.g.gid 0 4) (laneOf (rdV s o.a.toNat) i))) →
        (∀ e ∈ l, ∀ a ∈ e.2, a + 32 ≤ scrBytes s.g.part ∧ tackHit s4 s.g.core true s.g.panel a 32 false = false) →
        ∃ s', Completes (.pemit o) s none s' ∧
          (∀ k, k < 64 → (effMask s).getLsbD k = true → laneOf (rdV s' o.d.toNat) k = BitVec.ofNat 32
            (((s4.passes.find? (isPass (coreDie s.g.core) s.g.ctx s.g.args)).map (·.next)).getD 0 + (act.filter (fun j => decide (j < k))).length)) ∧
          s'.passes = (takePrims (descWords bs 16) (l.map (fun e => e.2.flatMap (vertexRecord s4 s.g.panel))) s4).passes)) ∧
    (∀ i bob, (i = .rayq o ∧ bob = false) ∨ (i = .rayqBob o ∧ bob = true) → ready i s = true →
      (act = [] → Completes i s none s) ∧
      (∀ bs s1 d, act ≠ [] → uniDesc (rdS s o.b.toNat) s = .ok bs s1 → s1.g = s.g → d = descWords bs 8 →
        (rayDescOk bob d = false → Ends i s (takeTrap { cause := 0x0A, sub := 3 } false s1)) ∧
        (∀ bar t, rayDescOk bob d = true → bob = false → fld (d.getD 3 0) 0 21 + 2048 ≤ scrBytes s.g.part → rayQueue s1 < 16 →
          (bit (d.getD 3 0) 21 = true → bar = none) →
          (bit (d.getD 3 0) 21 = false → 32 * fld (d.getD 3 0) 22 16 + 32 ≤ scrBytes s.g.part ∧
            ∃ q, nextPhase (readPbar s1 s.g.panel (32 * fld (d.getD 3 0) 22 16)) (fld s.g.gid 0 4) = some q ∧
              bar = some (32 * fld (d.getD 3 0) 22 16, q)) →
          t = acceptCmd (.ray false d (raysOf o act [] s1)) bar s1 →
          tacksWait s1 s.g.core (t.cmds.getLast?.elim [] (cmdTacks t)) = false → Completes i s none t) ∧
        (∀ offs s2, rayDescOk bob d = true → bob = true → (d.getD 1 0).toNat % 4 = 0 → (d.getD 2 0).toNat % 4 = 0 →
          poolSlots s1 (coreDie s.g.core) ≠ 0 → rayQueue s1 < 16 →
          reserve act.length (d.getD 1 0 :: (if d.getD 2 0 = 0 then [] else [d.getD 2 0])) s1 = .slots offs s2 → s2.g = s.g →
          ∃ s', Completes i s none s' ∧ s'.g = s.g ∧ StoresNothing s s' ∧
            s'.cmds = (acceptCmd (.ray true d (raysOf o act offs s2)) none s2).cmds))) ∧
    (∀ tgt s1 p s2 bs s3 d t, ready (.seam o) s = true → uniDesc (rdS s o.a.toNat) s = .ok tgt s1 → (rdS s o.b.toNat).toNat % 128 = 0 →
      slotAt (seamLeaf (parOf o).scope.toNat) (rdS s o.b.toNat) (whoOf s1.g 0) needR 1 s1 = .ok p s2 →
      loadBytes s2 (whoOf s2.g 0) p 128 = (bs, s3) → d = descWords bs 16 →
      seamDescOk (parOf o).scope.toNat d = true → targetOf tgt = some t → (t.ml = true ↔ (parOf o).sel = 1) →
      ∀ s4, s4 = (releasePart (parOf o).scope.toNat s3).2 → s4.g.live = true → seamQueue s4 < 4 →
      Completes (.seam o) s none (acceptCmd (.seam (seamInfo t (parOf o).scope.toNat tgt p.key d s4)) none s4) ∧
      ∀ x, x = seamInfo t (parOf o).scope.toNat tgt p.key d s4 → x.ml = t.ml ∧ x.scope = (parOf o).scope.toNat ∧ x.tgt = tgt ∧ x.key = p.key ∧
        x.gather = bit (d.getD 8 0) 5 ∧ x.rank = seamRank (parOf o).scope.toNat d s4 ∧ x.parts = seamParts (parOf o).scope.toNat d ∧
        x.started = false ∧ x.round = 0 ∧ x.gathered = false)

/-! Events. -/

/-- R263, R258, R252, R257, R386, R260, R261: what the events of one group do to it, whichever group that is. ENGINE_FAULT_DELIVERY outside
the privileged view takes the trap of the oldest held fault, with TFIRST 0 and TFAULT the fault's address; in the privileged view the fault
stays held. REGISTER_MISS_FETCH fetches one absent register of the next instruction. WAKE_BLOCKED_GROUP and PEER_WINDOW_REREAD end the wait of a
resident group at a point of kinds 1 to 7 whose condition is met, with a full waiting budget; at kinds 8 and 9 the group goes on, at kind 10
its record is posted, and a group whose condition is not met stays. LDTHR_EXPIRY marks the remote loads in flight. RUN_BUDGET_EXPIRY of a group whose RUNCNT has reached its
budget ends the context with cause 0x25 (ADDR the TFAULT register: log 65), WAIT_BUDGET_EXPIRY of a group that is charged for waiting and whose WBUDGET is 0 stops it; before
that neither does anything. -/
def Obligations.GroupEvents : Prop :=
  ∀ (id : Nat) (s s1 : State), focus (fun g => g.id == id) s = some s1 →
    (∀ h r, s1.g.held = h :: r → s1.g.priv = false → s1.g.resident = true → s1.g.exited = false → s1.g.halted = false → s1.g.inflight = [] →
      bit s1.g.tvec 63 = true → partSR s1.g.part = 3 →
      ∃ s2, HappensTo (.engineFaultDelivery id) s s2 ∧ s2.g.id = id ∧ s2.g.pc = sext57 (fld s1.g.tvec 0 57) ∧ s2.g.priv = true ∧
        s2.g.gmode = 63 ∧ s2.g.tpc = s1.g.pc ∧ s2.g.tfirst = 0 ∧ s2.g.tfault = h.addr ∧ s2.g.tmask = 0 ∧
        s2.g.tcause = BitVec.ofNat 64 (h.cause % 256 + h.sub % 256 * 256) ∧ s2.g.held = r ∧ s2.g.block = none ∧
        (∀ b, s1.g.block = some b → 1 ≤ b.kind → b.kind ≤ 7 → s2.g.runcnt = 0) ∧ s2.others = s1.others ∧ StoresNothing s1 s2) ∧
    (s1.g.held = [] ∨ s1.g.priv = true → HappensTo (.engineFaultDelivery id) s s1) ∧
    (∀ c l p s2, s1.g.block = none → s1.g.resident = true → s1.g.exited = false → nextMisses s1 = c :: l →
      recPlace s1 needR 8 (recordBase s1) = (.inl p, s2) → fetchPoison s2 = none →
      HappensTo (.registerMissFetch id) s (onG (fun g => { g with absent := g.absent.filter (fun x => x != c) }) (touchRegister s2))) ∧
    (∀ b, s1.g.block = some b → s1.g.resident = true → s1.g.halted = false → wakeMet s1 s1.g = true →
      (1 ≤ b.kind → b.kind ≤ 7 → HappensTo (.wakeBlockedGroup id) s
        (onG (fun g => { g with block := none, waited := 0, runcnt := 0, wbudget := waitBudget s1 s1.g }) s1)) ∧
      (b.kind = 8 → HappensTo (.wakeBlockedGroup id) s (onG (fun g => { g with
        block := none, waited := 0, inflight := g.inflight.map (fun e => { e with overdue := false, lost := false }) }) s1)) ∧
      (b.kind = 9 → HappensTo (.wakeBlockedGroup id) s (onG (fun g => { g with block := none, waited := 0 }) s1)) ∧
      (b.kind = 10 → halted s1 s1.g.ctx = false → ∃ s2 r, HappensTo (.wakeBlockedGroup id) s s2 ∧ s2.outbound = s1.outbound ++ [r] ∧
        r.type = 2 ∧ r.grp = some id ∧ s2.g.block = some ⟨11, 0, 0, if b.size = 1 then 1 else 0⟩)) ∧
    (wakeMet s1 s1.g = false → HappensTo (.wakeBlockedGroup id) s s1) ∧
    (∀ b p, s1.g.block = some b → s1.g.resident = true → s1.g.halted = false → b.kind = 5 → objectPlace s1 s1.g b.addr = some p →
      p.region = 2 →
      (homePoisoned s1 p b.size needR = false → natOf (objectBytes s1 s1.g b.addr b.size) ≠ b.val.toNat % 2 ^ (8 * b.size) →
        HappensTo (.peerWindowReread id) s
          (onG (fun g => { g with block := none, waited := 0, runcnt := 0, wbudget := waitBudget s1 s1.g }) s1)) ∧
      (homePoisoned s1 p b.size needR = true → halted s1 s1.g.ctx = false → bufferFull s1 (coreDie s1.g.core) = false →
        HappensTo (.peerWindowReread id) s
          (killCtx s1.g.ctx { s1 with outbound := s1.outbound ++ [groupRec s1.g 3 0x28 (homeSub s1 p.rkey) 0 b.addr false] }))) ∧
    HappensTo (.ldthrExpiry id) s (onG (fun g => { g with inflight := g.inflight.map (fun e =>
      if isRemote s1 s1.g e then { e with overdue := true } else e) }) s1) ∧
    (s1.g.resident = true → s1.g.exited = false → s1.g.halted = false → halted s1 s1.g.ctx = false →
      bufferFull s1 (coreDie s1.g.core) = false → runClocks (budOf s1 s1.g) ≤ s1.g.runcnt.toNat →
      Happens (.runBudgetExpiry id) s
        (killCtx s1.g.ctx { s1 with outbound := s1.outbound ++ [groupRec s1.g 3 0x25 0 0 s1.g.tfault false] })) ∧
    (s1.g.runcnt.toNat < runClocks (budOf s1 s1.g) → Happens (.runBudgetExpiry id) s s) ∧
    (s1.g.resident = true → s1.g.exited = false → s1.g.halted = false → charged s1.g = true → s1.g.wbudget = 0 →
      bit (rdWin s (ctxReg s1.g.ctx 0x28)) 32 = false →
      ∃ s2, Happens (.waitBudgetExpiry id) s s2 ∧ bit (rdWin s2 (ctxReg s1.g.ctx 0x28)) 32 = true ∧
        (∀ x, x ≠ ctxReg s1.g.ctx 0x28 → rdWin s2 x = rdWin s x) ∧ s2.g = s.g ∧ s2.others = s.others ∧ s2.panels = s.panels ∧
        StoresNothing s s2) ∧
    (s1.g.wbudget ≠ 0 → Happens (.waitBudgetExpiry id) s s)

/-- R246, R242, R28, R30, R32, R48, R49, R31, R34, R195, R221: DISPATCH_TAKE_RECORD takes the record at HEAD of an enabled queue of a valid
context, stores HEAD + 1, and the record becomes the queue's bolt or is refused with the code of R30; DEPENDENCE_RELEASE releases a bolt
whose dependence words have reached their values, and no other; PANEL_PLACE starts the next panel of the bolt that is served, with its groups,
on the core of R49; PANEL_COMPLETE frees a panel that has nothing left, counts it for its bolt, and with the bolt's last panel writes back the
TLBs' A and D and the lines of its clusters and then stores the completion word. -/
def Obligations.DispatcherEvents : Prop :=
  (∀ (n c : Nat) (q pair slot : W64) (l w : List W64) (s s1 s2 s3 : State), q = rdWin s (queueReg n 0x10) → c = fld q 2 4 → bit q 0 = true →
    bit (rdWin s (ctxReg c 0)) 63 = true → curBolt s n = none → queueHeld s n = false → pair = ctlPair s n → pair.toNat % 16 = 0 →
    devLoad8s s c 0 pair 2 = (.inl l, s1) → (l.getD 1 0).toNat < (l.getD 0 0).toNat →
    (l.getD 0 0).toNat ≤ (l.getD 1 0).toNat + 2 ^ ringLog s1 n → slot = ringSlot s1 n (l.getD 1 0).toNat → slot.toNat % 128 = 0 →
    devLoad8s s1 c 0 slot 16 = (.inl w, s2) → devStore s2 c 0 (pair + 8) (bytesOf 8 ((l.getD 1 0).toNat + 1)) = (none, s3) →
    (∀ code, recordCode w = some code → halted s3 c = false → ∃ s4 r, Happens (.dispatchTakeRecord n) s s4 ∧ s4.bolts = s3.bolts ∧
      s4.outbound = s3.outbound ++ [r] ∧ r.type = 1 ∧ r.cause = code ∧ r.queue = n ∧ r.addr = slot) ∧
    (∀ die s4, recordCode w = none → argsDie c (w.getD 1 0) s3 = (.inl die, s4) → ∃ s5 b, Happens (.dispatchTakeRecord n) s s5 ∧
      s5.bolts = s4.bolts ++ [b] ∧ b.queue = n ∧ b.seq = (l.getD 1 0).toNat % 2 ^ 32 ∧ b.ctx = c ∧ b.die = die ∧ b.entry = w.getD 0 0 ∧
      b.args = w.getD 1 0 ∧ b.grid = w.getD 2 0 ∧ b.part = w.getD 3 0 ∧ b.doneAddr = w.getD 4 0 ∧ b.doneVal = w.getD 5 0 ∧
      b.placed = 0 ∧ b.completed = 0 ∧ (b.released = true ↔ fld (w.getD 6 0) 0 3 = 0) ∧ b.deps.length = fld (w.getD 6 0) 0 3)) ∧
  (∀ (n : Nat) (b : Bolt) (s s1 : State), curBolt s n = some b → b.released = false →
    (depsMet b.ctx b.die b.deps s = (.inl true, s1) →
      ∃ s2, Happens (.dependenceRelease n) s s2 ∧ (∀ x ∈ s2.bolts, x.queue = b.queue → x.seq = b.seq → x.released = true) ∧
        s2.bolts.length = s1.bolts.length ∧ s2.g = s1.g ∧ s2.panels = s1.panels) ∧
    (depsMet b.ctx b.die b.deps s = (.inl false, s1) → Happens (.dependenceRelease n) s s1)) ∧
  (∀ (b : Bolt) (core r : Nat) (s : State), servedBolt s (fun b => (boltCore s b).isSome && (freeRecord s b.ctx).isSome) = some b →
    boltCore s b = some core → freeRecord s b.ctx = some r → ∃ s2 p, Happens .panelPlace s s2 ∧ p ∈ s2.panels ∧ p.core = core ∧
      p.record = r ∧ p.groups = gridGroups b.grid ∧ p.bolt = some (b.queue, b.seq) ∧ p.resident = true ∧
      (∀ j, j < gridGroups b.grid → ∃ g ∈ allGroups s2, g.live = true ∧ g.panel = p.id ∧ g.gid = BitVec.ofNat 64 j ∧ g.pc = b.entry ∧
        g.pidx = nextPidx b ∧ g.bid = boltBid b.queue b.seq ∧ cget zero g.s 2 = b.args)) ∧
  (∀ (id : Nat) (p : Panel) (s : State), panelOf s id = some p → panelDone s id = true →
    (∀ b ∈ s.bolts, p.bolt = some (b.queue, b.seq) → b.completed + 1 < boltPanels b) →
    (∀ b ∈ s.bolts, b.completed < boltPanels b) →
    ∃ s2, Happens (.panelComplete id) s s2 ∧ (∀ x ∈ s2.panels, x.id ≠ id) ∧ (∀ g ∈ allGroups s2, g.live = true → g.panel ≠ id) ∧
      s2.bolts = s.bolts.map (fun b => if p.bolt = some (b.queue, b.seq) then { b with completed := b.completed + 1 } else b) ∧
      StoresNothing s s2) ∧
  (∀ (id : Nat) (p : Panel) (b : Bolt) (s s1 s2 s3 s4 : State), panelOf s id = some p → panelDone s id = true →
    p.bolt = some (b.queue, b.seq) → s.bolts.filter (isBolt b.queue b.seq) = [b] → boltPanels b = b.completed + 1 →
    (∀ x ∈ s.bolts, isBolt b.queue b.seq x = false → x.completed < boltPanels x) → b.failed = false → b.doneAddr ≠ 0 →
    s1 = freePanelStore (removeGroups (fun g => g.panel == id) { s with
      panels := s.panels.filter (fun x => x.id != id), bolts := s.bolts.filter (fun x => !isBolt b.queue b.seq x) }) id →
    s2 = writeTlbAd (fun e => e.ctx == ctxTag s b.ctx) s1 → s3 = b.clusters.foldl (fun a c => writeBack a c allLines) s2 →
    devStore s3 b.ctx b.die b.doneAddr (bytesOf 8 b.doneVal.toNat) = (none, s4) → Happens (.panelComplete id) s s4)

/-- R254 to R256, R50, R243, R258, R261, R262: PREEMPT_REQUEST targets, for the first that waits and finds panels of a lower class, the panels
of the lowest class on the chosen core, and no other; PANEL_EVICT and IDLE_EVICT_TIMEOUT run a panel's work to its end and save it into its
record; PANEL_RESTORE brings it back to a core with its registers absent; SLICE_END with nothing waiting charges the slice; CONTEXT_SNAPSHOT
of a stopped, fully evicted context posts a record of type 4, and with SNAPKB 0 stores nothing.

R262: with SNAPKB above 0 it stores at SNAPBASE the header (entries written, entries dropped, context, zeros) and then an entry of 128 bytes
for each blocked group of the context, by save record and group number, as many as SNAPKB KiB hold: BID, PIDX with GID, kind (12 for a refused
arrival), address, phase or value, zeros, and the object: the panel barrier's 32 bytes, the device barrier's 64, or the watched word.
(Where an entry's point names none of these the words are free, log 19; a word whose store faults is not written, log 19.) -/
def Obligations.MovingEvents : Prop :=
  (∀ (die : Nat) (s : State), waiters s die = [] → Happens (.preemptRequest die) s s) ∧
  (∀ (die c : Nat) (w : Waiter) (s : State),
    (waiters s die).find? (fun w => (requestCore s die (fun x => decide (w.prio.toNat < (panelPrio s x.id).toNat))).isSome) = some w →
    requestCore s die (fun x => decide (w.prio.toNat < (panelPrio s x.id).toNat)) = some c →
    Happens (.preemptRequest die) s { s with panels := s.panels.map (fun p =>
      if (panelsOn s c (fun x => (panelPrio s x.id).toNat == lowestClass s (panelsOn s c (fun _ => true)))).any (fun x => x.id == p.id) &&
        p.request.isNone then { p with request := some w.what } else p) }) ∧
  (∀ (id : Nat) (p q : Panel) (l : List Nat) (s s0 s1 : State), panelOf s id = some p → p.resident = true → allBlocked s id = true →
    s1 = quiesce id s → panelOf s1 id = some q → allBlocked s1 id = true → panelQuiet s1 id = true → imageUnits needW p s1 = .inl (l, s0) →
    ∀ e, (e = Instr.panelEvict id ∧ (p.request.isSome = true ∨ bit (rdWin s (ctxReg p.ctx 0x28)) 32 = true)) ∨
      (e = Instr.idleEvictTimeout id ∧ waiters s p.die ≠ [] ∧
        ∀ g ∈ panelGroups s id, g.exited = true ∨ ∃ b, g.block = some b ∧ 1 ≤ b.kind ∧ b.kind ≤ 7) →
    ∃ s2, Happens e s s2 ∧ (∀ x ∈ s2.panels, x.id = id → x.resident = false ∧ x.request = none) ∧
      (∀ g ∈ allGroups s2, g.live = true → g.panel = id → g.resident = false) ∧
      (∀ u ∈ l, ∃ x ∈ s2.image, x.unit = u ∧ x.written = [])) ∧
  (∀ (id core : Nat) (p : Panel) (l : List Nat) (s s0 : State), panelOf s id = some p → p.resident = false → ctxRuns s p.ctx = true →
    panelReady s id = true → placeCore s p.die (panelPart s id) p.groups = some core → imageUnits needR p s = .inl (l, s0) →
    ∃ s2, Happens (.panelRestore id) s s2 ∧ (∀ x ∈ s2.panels, x.id = id → x.resident = true ∧ x.core = core) ∧
      (∀ g ∈ allGroups s2, g.live = true → g.panel = id → g.exited = false →
        g.resident = true ∧ g.core = core ∧ g.absent = allAbsent g.part)) ∧
  (∀ (ctx die : Nat) (s : State), waiters (chargeSlice ctx die s) die = [] → Happens (.sliceEnd ctx die) s (chargeSlice ctx die s)) ∧
  (∀ (c : Nat) (s : State), bit (rdWin s (ctxReg c 0x28)) 32 = true → halted s c = false → c ∉ s.snapped →
    (∀ p ∈ s.panels, p.ctx = c → p.resident = false) → fld (rdWin s (ctxReg c 0x28)) 0 16 = 0 →
    ∃ s2 r, Happens (.contextSnapshot c) s s2 ∧ s2.outbound = s.outbound ++ [r] ∧ r.type = 4 ∧ r.ctx = c ∧ s2.snapped = c :: s.snapped ∧
      StoresNothing s s2 ∧ s2.g = s.g ∧ s2.others = s.others) ∧
  (∀ (c kb : Nat) (kept : List Group) (words : List W64) (s t : State), bit (rdWin s (ctxReg c 0x28)) 32 = true → halted s c = false →
    c ∉ s.snapped → (∀ p ∈ s.panels, p.ctx = c → p.resident = false) → kb = fld (rdWin s (ctxReg c 0x28)) 0 16 → kb ≠ 0 →
    kept = (snapGroups s c).take ((1024 * kb - 64) / 128) →
    words = [BitVec.ofNat 64 kept.length, BitVec.ofNat 64 ((snapGroups s c).length - kept.length), BitVec.ofNat 64 c, 0, 0, 0, 0, 0] ++
      (indexed 0 kept).flatMap (fun e => snapEntry s e.1 e.2) →
    t = snapStore c words (sext57 (fld (rdWin s (ctxReg c 0x20)) 0 57)) (kept.foldl (fun a g => withGroup g.id touchNamed a) s) →
    halted t c = false →
    ∃ s2 r, Happens (.contextSnapshot c) s s2 ∧ s2.wr = t.wr ∧ s2.mem = t.mem ∧ s2.outbound = t.outbound ++ [r] ∧ r.type = 4 ∧ r.ctx = c) ∧
  (∀ (c : Nat) (s : State) (key : Group → Nat),
    (∀ g, key g = ((panelOf s g.panel).map (·.record)).getD 0 * 16 + fld g.gid 0 4) →
    (snapGroups s c).Pairwise (fun a b => key a ≤ key b) ∧
    ∀ g, g ∈ snapGroups s c ↔ g ∈ allGroups s ∧ g.live = true ∧ g.ctx = c ∧ g.exited = false ∧ g.block.isSome = true) ∧
  (∀ (i : Nat) (g : Group) (b : Block) (s : State) (e : List W64), g.block = some b → e = snapEntry s i g →
    e.length = 16 ∧ e.getD 0 0 = g.bid ∧ e.getD 1 0 = BitVec.ofNat 64 (fld g.pidx 0 48 + fld g.gid 0 4 * 2 ^ 48) ∧
    e.getD 2 0 = BitVec.ofNat 64 (if g.refused.isSome = true ∧ 8 ≤ b.kind ∧ b.kind ≤ 10 then 12 else b.kind) ∧
    (1 ≤ b.kind → b.kind ≤ 5 → e.getD 3 0 = b.addr) ∧ (b.kind = 1 ∨ b.kind = 2 ∨ b.kind = 3 ∨ b.kind = 5 ∨ b.kind = 6 ∨ b.kind = 7 →
      e.getD 4 0 = b.val) ∧ e.getD 5 1 = 0 ∧ e.getD 6 1 = 0 ∧ e.getD 7 1 = 0 ∧
    (∀ a, g.refused = some a → 8 ≤ b.kind → b.kind ≤ 10 → e.getD 3 0 = a ∧ (e.drop 8).flatMap (fun x => bytesOf 8 x.toNat) = objectBytes s g a 64) ∧
    (b.kind = 1 ∨ b.kind = 3 → (e.drop 8).flatMap (fun x => bytesOf 8 x.toNat) = scrRead s g.panel b.addr.toNat 32 ++ List.replicate 32 0) ∧
    (b.kind = 4 → (e.drop 8).flatMap (fun x => bytesOf 8 x.toNat) =
      if b.size = 32 then scrRead s g.panel b.addr.toNat 32 ++ List.replicate 32 0 else objectBytes s g b.addr 64) ∧
    (b.kind = 2 → (e.drop 8).flatMap (fun x => bytesOf 8 x.toNat) = objectBytes s g b.addr 64) ∧
    (b.kind = 5 → b.size ≤ 64 → (e.drop 8).flatMap (fun x => bytesOf 8 x.toNat) = objectBytes s g b.addr b.size ++ List.replicate (64 - b.size) 0))

/-- R272 to R274, R312, R254, R244, R261, R311: FAULT_RECORD_POST and EVENT_WRITE_RETRY move the oldest record of a die into the ring, raise
EQTAIL and fire vector 0, or drop a second fatal one and halt its context; FRESP_RESUME of a waiting group's record returns it from its trap, or
past its TRAP, and FRESP_KILL kills its context; CTX_PREEMPT, CTX_KILL and CTX_STOP_RESUME do what the bits of CTXMISC say; REGISTER_WRITE
by the owner sets the writable bits and clears the W1C ones of a register other than CTXMISC and FRESP, and any other is logged;
HOST_WINDOW_READ answers the register.

The model's own choice (log 27): a fatal record that finds all eight entries of its die's buffer taken is dropped like one that finds FATALPEND
set, and its context ends all the same. -/
def Obligations.HostAnswers : Prop :=
  (∀ (r : EvRec) (s : State) (e : Instr), s.outbound.find? (fun x => x.die == r.die) = some r →
    e = .faultRecordPost r.die ∨ (e = .eventWriteRetry ∧ s.outbound.head? = some r) →
    (∀ s1, (r.type = 3 → bit (rdWin s eqStat) 0 = false ∧ 1 ≤ eventRoom s) → (r.type ≠ 3 → 2 ≤ eventRoom s) →
      recordStore (recordWords s r (eventTail s)) (eventSlot s (eventTail s)) { s with outbound := dropOldest r.die s.outbound } = some s1 →
      ∃ s2, Happens e s s2 ∧ eventTail s2 = (eventTail s + 1) % 2 ^ 32 ∧ Output.msix 0 ∈ s2.outputs ∧ s2.wr = s1.wr ∧
        (∀ g, r.grp = some g → (eventTail s, g) ∈ s2.waiting) ∧ (r.type = 3 → bit (rdWin s2 eqStat) 0 = true)) ∧
    (r.type = 3 → bit (rdWin s eqStat) 0 = true → ∃ s2, Happens e s s2 ∧ s2.outbound = dropOldest r.die s.outbound ∧ StoresNothing s s2 ∧
      bit (rdWin s2 eqStat) 1 = true ∧ halted s2 r.ctx = true ∧ (∀ g ∈ allGroups s2, g.live = true → g.ctx = r.ctx → g.halted = true)) ∧
    (r.type ≠ 3 → eventRoom s < 2 → Happens e s s)) ∧
  (∀ (m id : Nat) (s s1 : State), m < 2 ^ 32 → mayWrite s frespOff .host = true → s.waiting.find? (fun w => w.1 == m) = some (m, id) →
    focus (fun g => g.id == id) s = some s1 →
    (∀ b, s1.g.block = some b → b.kind = 11 → b.size ≠ 0 → ∃ s2, HappensTo (.frespResume m) s s2 ∧ s2.g = { s1.g with block := none, waited := 0 } ∧
      s2.waiting = s.waiting.filter (fun x => !(x == (m, id))) ∧ StoresNothing s s2) ∧
    (∀ b, s1.g.block = some b → b.kind = 11 → b.size = 0 → (∀ r ∈ s1.g.rplq, r.valid = false) →
      ∃ s2, HappensTo (.frespResume m) s s2 ∧ s2.g.block = none ∧ s2.g.priv = false ∧ s2.g.pc = s1.g.tpc ∧ s2.g.gmode = s1.g.tgmode ∧
        s2.g.inflight = [] ∧ s2.waiting = s.waiting.filter (fun x => !(x == (m, id))) ∧ StoresNothing s s2) ∧
    (∃ s2, Happens (.frespKill m) s s2 ∧ (∀ g ∈ allGroups s2, g.live = true → g.ctx ≠ s1.g.ctx) ∧
      (∀ p ∈ s2.panels, p.ctx ≠ s1.g.ctx))) ∧
  (∀ (c : Nat) (s : State), c < 16 → mayWrite s (ctxReg c 0x28) .host = true →
    (∃ s2, Happens (.ctxPreempt c) s s2 ∧ (∀ p ∈ s2.panels, p.ctx = c → p.request = some .host) ∧ s2.g = s.g ∧ s2.others = s.others ∧
      StoresNothing s s2) ∧
    (∃ s2, Happens (.ctxKill c) s s2 ∧ (∀ g ∈ allGroups s2, g.live = true → g.ctx ≠ c) ∧ (∀ p ∈ s2.panels, p.ctx ≠ c) ∧
      StoresNothing s s2) ∧
    (∃ s2, Happens (.ctxStopResume c) s s2 ∧ bit (rdWin s2 (ctxReg c 0x28)) 32 = false ∧
      (∀ g ∈ allGroups s2, g.live = true → g.ctx = c → ∃ g0 ∈ allGroups s, g = { g0 with wbudget := waitBudget s2 g }) ∧ s2.panels = s.panels ∧
      StoresNothing s s2)) ∧
  (∀ (o n : Nat) (v : W64) (r : Reg) (s : State), regAt o = some r →
    (n = 8 → mayWrite s o .host = true → (∀ c, r ≠ .ctx c 0x28) → r ≠ .eq 0x28 → ∃ s2, Happens (.registerWrite o n v) s s2 ∧
      (∀ k, k < 64 → (rdWin s2 o).getLsbD k =
        (if (regRw r).getLsbD k then v.getLsbD k else (rdWin s o).getLsbD k && !(v.getLsbD k && (regW1c r).getLsbD k))) ∧
      (∀ x, x ≠ o → rdWin s2 x = rdWin s x) ∧ StoresNothing s s2 ∧ s2.g = s.g) ∧
    (n ≠ 8 ∨ mayWrite s o .host = false → Happens (.registerWrite o n v) s (logRefused s o .host)) ∧
    (n = 8 → Happens (.hostWindowRead o n) s { s with outputs := s.outputs ++ [.data (bytesOf 8 (rdWin s o).toNat) []] })) ∧
  (∀ (t : TrapInfo) (own : Bool) (s : State), 0x01 ≤ t.cause → t.cause ≤ 0x11 → s.g.priv = true → halted s s.g.ctx = false →
    bufferFull s (coreDie s.g.core) = true → takeTrap t own s = killCtx s.g.ctx (dropFatal s.g.ctx s))

/-- R232, R136, R138, R151, R152, R236, R303 to R305, R307 to R309: a copy within scratchpad that may deliver all its rows moves their bytes
and counts them into the channel's write pointer; any other copy moves word after word of its rows, each read at its source and written at its
destination; a QNT whose elements can be read and whose outputs can be written writes those that R136 gives and ends with its flags in the
group; BATCH_COMPLETE performs a batch's one operation that is left and gives the group its flags; an engine that meets a page that is not
mapped pauses, and one that meets none makes no event; a composite starts once each rank has come with a target of one shape, and is refused
with ABORT + 1 where the shapes differ; a round or a gather that is carried counts, and a composite whose participants are done counts DONE
and gathers their lines into SWATCH. (At .SYS, where this module does not see the other modules' participants, the event stands for their
arrival, what they hold is free, and a descriptor homed elsewhere is counted there: log 56.)

R303: a ray that cannot hit delivers +∞; of the hits of the leaves that it comes to another delivers the nearest, of equal ones that of the
smallest word 3, or with ANYHIT one of them; a triangle is hit exactly where the ray meets its plane inside it and within its limits, unless
it is culled (one that lies along the ray is not met).

R145, R155, R159, R162, what the arrays leave: a float MMA, MMAX or MMAZ without scales of finite elements adds the exact sum of each chunk's
products to the frame element in turn, each rounded once; XSCAN of a scratchpad source writes the block exponents of R155; SLMM accumulates
into its wide elements as R159 says, and WRND rounds each once into its place and leaves it empty. -/
def Obligations.EngineEvents : Prop :=
  (∀ (id bytes ch src dst n rows sstr dstr : Nat) (c : Cmd) (s : State), cmdOf s id = some c →
    c.kind = .copy ch true true src dst n rows sstr dstr →
    c.paused = none → c.lost = false → c.done = 0 → c.bar = none → atHead s c = true → awaitsEarlier s c = false →
    0 < n → n % 4 = 0 → 0 < rows → n * rows ≤ bytes →
    (rows = 1 ∨ n ≤ dstr) → src + (rows - 1) * sstr + n ≤ 2 ^ 21 → dst + (rows - 1) * dstr + n ≤ 2 ^ 21 →
    src + (rows - 1) * sstr + n ≤ dst ∨ dst + (rows - 1) * dstr + n ≤ src →
    ∃ s2, Happens (.copyCommandComplete id bytes) s s2 ∧
      (∀ r k, r < rows → k < n → cget zero s2.scratch (scrKey c.panel (dst + r * dstr + k)) =
        cget zero s.scratch (scrKey c.panel (src + r * sstr + k))) ∧
      (∀ p j, j < 2 ^ 21 → p ≠ c.panel ∨ (∀ r, r < rows → j < dst + r * dstr ∨ dst + r * dstr + n ≤ j) →
        cget zero s2.scratch (scrKey p j) = cget zero s.scratch (scrKey p j)) ∧
      cget zero s2.wptr (wptrKey c.panel ch) = cget zero s.wptr (wptrKey c.panel ch) + BitVec.ofNat 64 (n * rows) ∧
      (∀ x ∈ s2.cmds, x.id ≠ id) ∧ StoresNothing s s2) ∧
  (∀ (id bytes ch src dst n rows sstr dstr p : Nat) (ssp dsp : Bool) (x : Swatch) (c : Cmd) (s s1 s2 : State), cmdOf s id = some c →
    c.kind = .copy ch ssp dsp src dst n rows sstr dstr → c.paused = none → c.lost = false → atHead s c = true →
    awaitsEarlier s c = false → (ssp = true ∨ dsp = true ∨ sharesStorage (cmdWho s c) s src dst n rows sstr dstr = false) →
    copyWords (cmdWho s c) c.panel ssp dsp src dst n sstr dstr (n * rows) (bytes / 4) c.done c.lines s = ((p, x), .ok () s1) →
    s2 = addWptr c.panel ch (p - c.done) (onCmd c.id (fun y => { y with done := p, lines := x, before := c.before }) s1) →
    (n * rows ≤ p → Happens (.copyCommandComplete id bytes) s (countCmd c (p - c.done) (finishCmd c x s2))) ∧
    (p < n * rows → Happens (.copyCommandComplete id bytes) s (countCmd c (p - c.done) s2))) ∧
  (∀ (w : Who) (panel src dst n sstr dstr total k pos : Nat) (ssp dsp : Bool) (sw x : Swatch) (bs : List Byte) (s s1 s2 : State), pos < total →
    engRead w panel ssp 4 ((src + pos / n * sstr + pos % n) % 2 ^ 64) s = .ok bs s1 →
    engWrite w panel dsp ((dst + pos / n * dstr + pos % n) % 2 ^ 64) bs s1 = .ok x s2 →
    copyWords w panel ssp dsp src dst n sstr dstr total (k + 1) pos sw s =
      copyWords w panel ssp dsp src dst n sstr dstr total k (pos + 4) (sw ||| x) s2) ∧
  (∀ (id fmt rows cols esz pos : Nat) (d0 d1 d2 d3 : W64) (f : Fmt) (c : Cmd) (l : List Nat)
      (out : List Byte × List Byte × List Nat × Fl) (scl : Nat) (sw : Swatch) (s s1 s2 : State), cmdOf s id = some c →
    c.kind = .qnt fmt d0 d1 d2 d3 → c.paused = none → c.lost = false → c.read = 0 → c.srcs = [] → atHead s c = true →
    awaitsEarlier s c = false →
    rows = fld d3 0 12 → cols = fld d3 12 12 → f = (if fld d3 44 2 = 0 then f32 else if fld d3 44 2 = 1 then f16 else bf16) →
    esz = (if fld d3 44 2 = 0 then 4 else 2) → rows ≠ 0 → cols ≠ 0 →
    qntElems (cmdWho s c) c.panel (bit d0 63) esz cols (descAddr d0) (fld d3 24 20) (rows * cols) 0 s = (l, .ok () s1) →
    out = qntOutput fmt cols (chunksOf cols rows (l.map (decodeF f))) → scl = (if bit d1 63 then fld d2 0 57 else (sext57 (fld d2 0 57)).toNat) →
    qntStore (cmdWho s c) c.panel (bit d1 63) [(descAddr d1, out.1), (scl, out.2.1),
      (scl + (rows * cols / 8 + 1) / 2 * 2, out.2.2.1.flatMap (fun b => bytesOf 2 b))] c.done c.done c.lines s1 = ((pos, sw), .ok () s2) →
    Happens (.qntCommandComplete id) s (countCmd c (pos - c.done)
      (onGroup c.grp (fun g => { g with fpstat := g.fpstat ||| out.2.2.2 }) (finishCmd c sw s2)))) ∧
  (∀ (id fmt pos : Nat) (d0 d1 d2 d3 : W64) (c : Cmd) (sw : Swatch) (s s2 : State), cmdOf s id = some c → c.kind = .qnt fmt d0 d1 d2 d3 →
    c.paused = none → c.lost = false → c.read = fld d3 0 12 * fld d3 12 12 * (if fld d3 44 2 = 0 then 4 else 2) → atHead s c = true → awaitsEarlier s c = false →
    qntStore (cmdWho s c) c.panel (bit d1 63) c.outs c.done c.done c.lines s = ((pos, sw), .ok () s2) →
    Happens (.qntCommandComplete id) s (countCmd c (pos - c.done)
      (onGroup c.grp (fun g => { g with fpstat := g.fpstat ||| c.flags }) (finishCmd c sw s2)))) ∧
  (∀ (b : Batch) (r : List Batch) (s : State), s.g.live = true → (∀ g ∈ s.others, g.live = true → g.id ≠ s.g.id) → s.g.batches = b :: r →
    (∀ x ∈ r, x.ops ≠ []) →
    ((∀ m ∈ allOps s.g, m.done = true) →
      ∃ s2, Happens (.batchComplete s.g.id) s s2 ∧ s2.g.batches = r ∧ s2.g.mstat = b.ops.foldl (fun a m => a ||| m.mstat) s.g.mstat ∧
        s2.g.slstat = b.ops.foldl (fun a m => a ||| m.slst) s.g.slstat ∧ s2.g.openSet = s.g.openSet ∧ s2.others = s.others ∧
        StoresNothing s s2) ∧
    (∀ m m1 s1, b.ops = [m] → m.done = false → m.paused = none → awaitsEngine s s.g m = false →
      (∀ x ∈ s.others, x.live = true → x.panel ≠ s.g.panel) →
      performOp (cmdWho s (opCmd s.g m)) s.g m (elementLeft m) s = (m1, .ok () s1) → s1.g = s.g → s1.others = s.others →
      ∃ s2, Happens (.batchComplete s.g.id) s s2 ∧ s2.g.batches = r ∧ s2.g.mstat = s.g.mstat ||| m1.mstat ∧
        s2.g.slstat = s.g.slstat ||| m1.slst ∧ s2.g.openSet = s.g.openSet ∧ s2.frames = s1.frames ∧ s2.scratch = s1.scratch ∧
        s2.others = s.others ∧ s2.wr = s1.wr)) ∧
  (∀ (id : Nat) (c : Cmd) (d : List W64) (r : RayLane) (s : State), cmdOf s id = some c → c.kind = .ray false d [r] → c.paused = none →
    c.lost = false → atHead s c = true → awaitsEarlier s c = false → c.bar = none → rayOf r.ray = none →
    ∃ s2, Happens (.rayqCommandComplete id) s s2 ∧ (∀ x ∈ s2.cmds, x.id ≠ id) ∧ StoresNothing s s2 ∧
      scrRead s2 c.panel (fld (d.getD 3 0) 0 21 + 32 * r.lane) 32 =
        ([0x7F80_0000, 0, 0, 0, r.user.getD 0 0, r.user.getD 1 0, r.user.getD 2 0, r.user.getD 3 0] : List W32).flatMap
          (fun x => bytesOf 4 x.toNat)) ∧
  (∀ (id : Nat) (c : Cmd) (d : List W64) (r : RayLane) (ray : Ray) (hits : List RayHit) (s s1 : State), cmdOf s id = some c →
    c.kind = .ray false d [r] → c.paused = none → c.lost = false → atHead s c = true → awaitsEarlier s c = false → c.bar = none →
    rayOf r.ray = some ray →
    visitTree (cmdWho (bump s) c) c.panel ray (bit (d.getD 3 0) 39) (2 ^ 57) [((d.getD 0 0).toNat, true)] [] [] (bump s) = .ok hits s1 →
    ∃ s2 h, Happens (.rayqCommandComplete id) s s2 ∧ (∀ x ∈ s2.cmds, x.id ≠ id) ∧
      scrRead s2 c.panel (fld (d.getD 3 0) 0 21 + 32 * r.lane) 32 = rayRecord h r.user ∧ (hits = [] → h = none) ∧
      (hits ≠ [] → ∃ k ∈ hits, h = some k ∧ (bit (d.getD 3 0) 38 = false → ∀ m ∈ hits, k.t < m.t ∨ (k.t = m.t ∧ k.w ≤ m.w)))) ∧
  (∀ (k : RayHit) (user : List W32), rayRecord (some k) user =
    ([ratF32 k.t, ratF32 k.u, ratF32 k.v, BitVec.ofNat 32 k.w, user.getD 0 0, user.getD 1 0, user.getD 2 0, user.getD 3 0] : List W32).flatMap
      (fun x => bytesOf 4 x.toNat)) ∧
  (∀ (r : Ray) (cull : Bool) (a b c : Vec3) (w : Nat) (dn : Rat) (meets : Rat → Rat → Rat → Prop),
    dn = dot3 r.d (cross3 (vsub3 b a) (vsub3 c a)) →
    (∀ t u v, meets t u v ↔ r.o.x + t * r.d.x = a.x + u * (b.x - a.x) + v * (c.x - a.x) ∧
      r.o.y + t * r.d.y = a.y + u * (b.y - a.y) + v * (c.y - a.y) ∧ r.o.z + t * r.d.z = a.z + u * (b.z - a.z) + v * (c.z - a.z)) →
    ∀ h : RayHit, triHit r cull a b c w = some h ↔
      h.w = w ∧ dn ≠ 0 ∧ (cull = true → dn ≤ 0) ∧ meets h.t h.u h.v ∧ 0 ≤ h.u ∧ 0 ≤ h.v ∧ h.u + h.v ≤ 1 ∧ r.lo ≤ h.t ∧
      ∀ x, r.hi = some x → h.t ≤ x) ∧
  (∀ (g : Group) (m : MatOp) (p : Nat → Bool) (s : State) (fa fb : Fmt) (rows cols kk len : Nat) (a b : Nat → Nat → Rat) (code : Nat → Nat → Nat),
    m.kind = .mma ∨ m.kind = .mmax ∨ m.kind = .mmaz → m.sel = 0 → ttFmt (tcTT m.tctlA) = some fa → ttFmt (tcTT m.tctlB) = some fb →
    len = chunkLen (tcTT m.tctlA) → chunkLen (tcTT m.tctlB) = len → kk = tcCols m.tctlA → rows = tcRows m.tctlA →
    cols = (if m.kind = .mmax then tcCols m.tctlB else tcRows m.tctlB) → rows ≤ 64 → cols ≤ 64 → m.d < 64 →
    (∀ j k, code j k = (if m.kind = .mmax then tileElem g m.b (tcTT m.tctlB) k j else tileElem g m.b (tcTT m.tctlB) j k)) →
    (∀ i k, i < rows → k < kk → ∃ n x, decodeF fa (tileElem g m.a (tcTT m.tctlA) i k) = .fin n x ∧ a i k = if n then -x else x) →
    (∀ j k, j < cols → k < kk → ∃ n x, decodeF fb (code j k) = .fin n x ∧ b j k = if n then -x else x) →
    ∀ i j, i < rows → j < cols → p (64 * i + j) = true → frameGet (performMma g m p s).2 g.panel m.d (64 * i + j) =
      BitVec.ofNat 32 ((List.range ((kk + len - 1) / len)).foldl (fun c q => if (decodeF f32 c).isNaN then c else
        (sumF f32 .ne (decodeF f32 c) (xrat (((List.range len).filter (fun k => decide (q * len + k < kk))).map
          (fun k => a i (q * len + k) * b j (q * len + k))).sum)).bits)
        (if m.kind = .mmaz then 0 else (frameGet s g.panel m.d (64 * i + j)).toNat))) ∧
  (∀ (w : Who) (g : Group) (m : MatOp) (s : State) (esz count klen dst : Nat) (at_ : Nat → Nat → Nat) (x : Nat → Nat → FVal),
    m.kind = .xscanRow ∨ m.kind = .xscanCol → bit (m.desc.getD 0 0) 63 = true → m.vecs = 0 → m.elems = 0 → m.big = none → m.bad = false →
    esz = (if bit (m.desc.getD 2 0) 37 then 4 else 8) → count = fld (m.desc.getD 2 0) 0 12 → klen = fld (m.desc.getD 2 0) 12 25 →
    dst = fld (m.desc.getD 1 0) 0 21 → dst + 2 * count ≤ 2 ^ 21 →
    (∀ v k, at_ v k = descAddr (m.desc.getD 0 0) + (if m.kind = .xscanRow then v * fld (m.desc.getD 3 0) 0 40 + k * esz
      else k * fld (m.desc.getD 3 0) 0 40 + v * esz)) →
    (∀ v k, v < count → k < klen → at_ v k + esz ≤ 2 ^ 21 ∧ (at_ v k + esz ≤ dst ∨ dst + 2 * count ≤ at_ v k)) →
    (∀ v k, x v k = decodeF (if esz = 4 then f32 else f64) (natOf (scrRead s g.panel (at_ v k) esz))) →
    ∃ m1 s1, performScan w g m s = (m1, .ok () s1) ∧ ∀ v, v < count → ∃ e, e < 65536 ∧ scrRead s1 g.panel (dst + 2 * v) 2 = bytesOf 2 e ∧
      ((∃ k, k < klen ∧ ((x v k).isNaN = true ∨ (x v k).isInf = true)) → e = 0x7FFF) ∧
      ((∀ k, k < klen → ∃ n, x v k = .fin n 0) → e = 0xFBCE) ∧
      ((∀ k, k < klen → ∃ n y, x v k = .fin n y) → ∀ k n y, k < klen → x v k = .fin n y → y ≠ 0 →
        y < pow2 (sextNat 16 e + 1) ∧ ∃ j n1 y1, j < klen ∧ x v j = .fin n1 y1 ∧ pow2 (sextNat 16 e) ≤ y1)) ∧
  (∀ (g : Group) (m : MatOp) (p : Nat → Bool) (s : State) (i j : Nat) (a b : SliceRow) (e : Wide), m.kind = .slmm → m.d < 63 → i < 32 → j < 32 →
    p (32 * i + j) = true → tcRows m.tctlA ≤ 32 → tcRows m.tctlB ≤ 32 →
    (sliceRows g s m.a m.tctlA (tcCols m.tctlA) (fld m.scale 0 21) m.k)[i]? = some a →
    (sliceRows g s m.b m.tctlB (tcCols m.tctlA) (fld m.scale 32 21) m.k)[j]? = some b →
    e = slmmElem m.k (tcCols m.tctlA) a b (wideGet s g.panel m.d (32 * i + j)) →
    wideGet (performSlmm g m p s).2 g.panel m.d (32 * i + j) =
      { e with w := sextNat 192 (e.w % 2 ^ 192).toNat, anch := e.anch % 65536, bnd := bndRead (e.bnd % 2 ^ 32) }) ∧
  (∀ (k cols : Nat) (a b : SliceRow) (e x : Wide) (sum : Int), x = slmmElem k cols a b e → sum = sextNat 16 a.e + sextNat 16 b.e →
    (a.nf = true ∨ b.nf = true → x = { e with nf := true, live := true }) ∧
    (a.nf = false → b.nf = false → x.live = true ∧ x.nf = e.nf ∧ x.w = (if e.live then e.w else 0) + slicedDot k a.xs b.xs ∧
      x.anch = (if e.live then e.anch else (sum % 65536).toNat) ∧ x.am = (e.am || (e.live && e.anch != (sum % 65536).toNat)) ∧
      x.ev = (e.ev || a.xs.any (·.ev) || b.xs.any (·.ev)))) ∧
  (∀ (g : Group) (m : MatOp) (p : Nat → Bool) (s : State) (i sz : Nat) (f : Fmt) (e : Wide),
    (m.kind = .wrndF64 ∧ f = f64 ∧ sz = 8) ∨ (m.kind = .wrndF32 ∧ f = f32 ∧ sz = 4) → m.d < 63 → m.off + 1024 * sz ≤ 2 ^ 21 → i < 1024 →
    p i = true → e = wideGet s g.panel m.d i →
    scrRead (performWrnd g m p s).2 g.panel (m.off + i * sz) sz = bytesOf sz (if e.live = false then 0 else if e.nf then genNaN f 6
      else (roundSigned f (rmOf m.rm.toNat) false ((e.w : Rat) * pow2 (sextNat 16 e.anch - 128))).bits) ∧
    wideGet (performWrnd g m p s).2 g.panel m.d i = wideEmpty) ∧
  (∀ (id : Nat) (c d : Cmd) (s s1 : State), cmdOf s id = some c →
    (c.paused = none → c.lost = false → runCmd (cmdBytes c) c s = s1 → cmdOf s1 id = some d →
      (d.paused.isSome = true → Happens (.engineTranslationFault id) s s1) ∧ (d.paused = none → Happens (.engineTranslationFault id) s s)) ∧
    (c.paused.isSome = true ∨ c.lost = true → Happens (.engineTranslationFault id) s s)) ∧
  (∀ (key : Nat) (c : Cmd) (x : SeamInfo) (l ps : List (Cmd × SeamInfo)) (s : State), seamsOn key s = (c, x) :: l →
    (∀ e ∈ (c, x) :: l, e.2.started = false) → x.scope ≠ 5 →
    gatherRanks (((c, x) :: l).filter (fun e => e.2.scope == x.scope && e.2.parts == x.parts)) (List.range x.parts) = some ps →
    ((∀ e ∈ ps, sameShape x.tgt e.2.tgt = true) →
      ∃ s2, Happens (.seamComposite key) s s2 ∧ s2.g = s.g ∧ s2.others = s.others ∧ StoresNothing s s2 ∧
        s2.cmds = s.cmds.map (fun y => if ps.any (fun e => e.1.id == y.id) then onSeam (fun z => { z with started := true }) y else y)) ∧
    ((∃ e ∈ ps, sameShape x.tgt e.2.tgt = false) →
      ∃ s2, Happens (.seamComposite key) s s2 ∧ s2.g = s.g ∧ s2.others = s.others ∧
        (isHbm key = true → rw4 s2 (key + 4) = rw4 s (key + 4) + 1 ∧ rw4 s2 key = rw4 s key) ∧
        s2.cmds = s.cmds.filter (fun y => !ps.any (fun e => e.1.id == y.id)))) ∧
  (∀ (key : Nat) (c : Cmd) (x : SeamInfo) (l ps : List (Cmd × SeamInfo)) (s : State), seamsOn key s = (c, x) :: l →
    (∀ e ∈ (c, x) :: l, e.2.started = false) → x.scope = 5 →
    gatherDies (((c, x) :: l).filter (fun e => e.2.scope == x.scope && e.2.parts == x.parts)) (List.range 8) = some ps →
    ∃ s2, Happens (.seamComposite key) s s2 ∧ s2.g = s.g ∧ s2.others = s.others ∧
      ((StoresNothing s s2 ∧ (∀ e ∈ ps, sameShape x.tgt e.2.tgt = true) ∧ routesListed x.mods s = true ∧
        s2.cmds = s.cmds.map (fun y => if ps.any (fun e => e.1.id == y.id) then onSeam (fun z => { z with started := true }) y else y)) ∨
       ((isHbm key = true → rw4 s2 (key + 4) = rw4 s (key + 4) + 1 ∧ rw4 s2 key = rw4 s key) ∧
        s2.cmds = s.cmds.filter (fun y => !ps.any (fun e => e.1.id == y.id))))) ∧
  (∀ (id : Nat) (c m : Cmd) (x y : SeamInfo) (t u : Target) (s s1 : State), cmdOf s id = some c → seamOf c = some x → x.started = true →
    c.paused = none → c.lost = false → atHead s c = true → awaitsEarlier s c = false → targetOf x.tgt = some t →
    (x.round < seamRounds x → foreign x (x.rank ^^^ 2 ^ x.round) = false →
      ((seamsOn x.key s).filter (fun e => e.2.started)).find? (fun e => e.2.rank == x.rank ^^^ 2 ^ x.round) = some (m, y) →
      x.round ≤ y.round → targetOf y.tgt = some u →
      carryPixels c.id m c u t false (!x.rank.testBit x.round) ((keptPixels t x.parts x.rank x.round).drop c.done) s = .ok .done s1 →
      Happens (.seamExchange id) s (onCmd c.id (fun z => { onSeam (fun i => { i with round := i.round + 1 }) z with done := 0 }) s1)) ∧
    (x.round < seamRounds x → foreign x (x.rank ^^^ 2 ^ x.round) = true → reaches s x (x.rank ^^^ 2 ^ x.round) = true →
      receivePixels c t false (!x.rank.testBit x.round) ((keptPixels t x.parts x.rank x.round).drop c.done) s = .ok .done s1 →
      Happens (.seamExchange id) s (onCmd c.id (fun z => { onSeam (fun i => { i with round := i.round + 1 }) z with done := 0 }) s1)) ∧
    (seamRounds x ≤ x.round → x.gather = true → x.gathered = false →
      (x.rank = 0 → receivePixels c t true true ((strangeStrips t x).drop c.done) s = .ok .done s1 →
        Happens (.seamExchange id) s (onCmd c.id (fun z => { onSeam (fun i => { i with gathered := true }) z with done := 0 }) s1)) ∧
      (x.rank = 0 → x.scope ≠ 5 → receivePixels c t true true ((strangeStrips t x).drop c.done) s = .ok .done s) ∧
      (x.rank ≠ 0 → foreign x 0 = false → ((seamsOn x.key s).filter (fun e => e.2.started)).find? (fun e => e.2.rank == 0) = some (m, y) →
        targetOf y.tgt = some u →
        carryPixels c.id c m t u true true ((stripPixels t x.parts x.rank).drop c.done) s = .ok .done s1 →
        Happens (.seamExchange id) s (onCmd c.id (fun z => { onSeam (fun i => { i with gathered := true }) z with done := 0 }) s1)))) ∧
  (∀ (key : Nat) (l : List (Cmd × SeamInfo)) (s : State), l = (seamsOn key s).filter (fun e => e.2.started) → l ≠ [] →
    (∀ e ∈ l, seamRounds e.2 ≤ e.2.round ∧ (e.2.gather = true → e.2.gathered = true)) → isHbm key = true → (∀ e ∈ l, e.2.scope ≠ 5) →
    ∃ s2, Happens (.seamComplete key) s s2 ∧ rw4 s2 key = rw4 s key + 1 ∧ rw4 s2 (key + 4) = rw4 s (key + 4) ∧
      (BitVec.ofNat 448 (natOf (rbs s2 (key + 8) 56)) : Swatch) =
        BitVec.ofNat 448 (natOf (rbs s (key + 8) 56)) ||| l.foldl (fun a e => a ||| e.1.lines) 0 ∧
      (∀ e ∈ l, ∀ y ∈ s2.cmds, y.id ≠ e.1.id))

/-- R43 to R45, R57, R221, R249, R278, R281, R282, R285: SPAWN_BIN_TIMEOUT forms a group of the 63 oldest of a bin's records and leaves the
rest; BOBBIN_GROUP_PLACE starts it with its payloads, its bin's swatch and its classes; PRIMITIVE_RASTERISE culls a primitive that covers
nothing or gives it its tiles; FRAGMENT_GROUP_LAUNCH starts a group for one of them; PASS_COMPLETE of a closed, empty pass stores COUNT, DONE
and DONEVAL. -/
def Obligations.SpawnAndPassEvents : Prop :=
  (∀ (die ctx : Nat) (e : W64) (b : Bin) (s : State), s.bins.find? (isBin die ctx e) = some b → b.timer = true → b.recs ≠ [] →
    ∃ s2 f, Happens (.spawnBinTimeout die ctx e) s s2 ∧ s2.formed = s.formed ++ [f] ∧ f.die = die ∧ f.ctx = ctx ∧ f.entry = e ∧
      f.offs = (b.recs.take 63).map (·.off) ∧ f.swatch = b.swatch ∧ StoresNothing s s2 ∧ s2.g = s.g ∧
      (63 < b.recs.length → (s2.bins.find? (isBin die ctx e)).map (·.recs) = some (b.recs.drop 63))) ∧
  (∀ (f : Formed) (r : List Formed) (w : W64) (core rec_ : Nat) (l : List (List W64)) (s s1 s3 : State), s.formed = f :: r →
    ctxRuns s f.ctx = true → entryPart f.ctx f.die f.entry s = (some w, s1) → partOk w 1 = true → placeCore s1 f.die w 1 = some core →
    freeRecord s1 f.ctx = some rec_ →
    loadPayloads f.die f.offs { s1 with formed := s1.formed.filter (fun x => !(x == f)) } = (.inl l, s3) →
    ∃ s4, Happens .bobbinGroupPlace s s4 ∧ ∃ g ∈ allGroups s4, g.live = true ∧ g.kind = .bobbin ∧ g.core = core ∧ g.ctx = f.ctx ∧
      g.pc = f.entry ∧ g.part = w ∧ g.exmask = BitVec.ofNat 64 (2 ^ f.offs.length - 1) ∧ g.v = payloadRegs l ∧ g.swDie = f.swatch ∧
      g.prio = f.prio ∧ g.ccls = f.ccls) ∧
  (∀ (die ctx : Nat) (args : W64) (p : Pass) (x : Prim) (s : State), s.passes.find? (isPass die ctx args) = some p →
    p.prims.find? (fun y => y.tiles.isNone) = some x →
    (onScreen (passView p) x.verts = none ∨ (∃ o, onScreen (passView p) x.verts = some o ∧ coveredTiles (passView p) o.pieces = []) →
      ∃ s2, Happens (.primitiveRasterise die ctx args) s s2 ∧ StoresNothing s s2 ∧ s2.g = s.g ∧
      ∃ q ∈ s2.passes, q.args = args ∧ q.culled = p.culled + 1 ∧ q.accepted = p.accepted ∧ ∀ y ∈ q.prims, y.seq ≠ x.seq) ∧
    (∀ o, onScreen (passView p) x.verts = some o → coveredTiles (passView p) o.pieces ≠ [] →
      ∃ s2, Happens (.primitiveRasterise die ctx args) s s2 ∧ StoresNothing s s2 ∧ s2.g = s.g ∧
      ∃ q ∈ s2.passes, q.args = args ∧ q.culled = p.culled ∧ ∃ y ∈ q.prims, y.seq = x.seq ∧ y.verts = x.verts ∧
        y.tiles = some (coveredTiles (passView p) o.pieces))) ∧
  (∀ (die ctx tile core rec_ : Nat) (args w : W64) (p : Pass) (x : Prim) (o : OnScreen) (s s1 : State),
    s.passes.find? (isPass die ctx args) = some p →
    (launchable p.prims [])[Config.choose s.free 0 % (launchable p.prims []).length]? = some (x, tile) →
    entryPart ctx die (p.desc.getD 3 0) (bump s) = (some w, s1) → partOk w 1 = true → onScreen (passView p) x.verts = some o →
    placeCore s1 die w 1 = some core → freeRecord s1 ctx = some rec_ → ctxRuns s1 ctx = true →
    ∃ s2, Happens (.fragmentGroupLaunch die ctx args) s s2 ∧ ∃ g ∈ allGroups s2, g.live = true ∧ g.kind = .fragment ∧ g.core = core ∧
      g.pc = p.desc.getD 3 0 ∧ g.part = w ∧ cget zero g.s 2 = p.desc.getD 4 0 ∧ cget zero g.s 1 = g.exmask ∧ g.prio = x.prio ∧
      g.ccls = x.ccls ∧ g.frag = some { die := p.die, args := p.args, tile := tile, seq := x.seq, made := [] }) ∧
  (∀ (die ctx : Nat) (args : W64) (p : Pass) (bs : List Byte) (s s1 s2 s3 s4 : State), s.passes.find? (isPass die ctx args) = some p →
    p.prims = [] → (∀ g ∈ allGroups s, ofPass p g = false) → devLoad s ctx die 8 args = (.inl bs, s1) → natOf bs % 2 = 1 →
    s2 = (l1Clusters s1).foldl (fun a c => writeBack a c allLines)
      { s1 with passes := s1.passes.filter (fun x => !isPass die ctx args x) } →
    devStore s2 ctx die (args + 0x50) (bytesOf 8 (p.accepted + p.culled * 2 ^ 32)) = (none, s3) →
    devStore s3 ctx die args (bytesOf 8 (natOf bs ||| 2)) = (none, s4) →
    (p.desc.getD 8 0 = 0 → Happens (.passComplete die ctx args) s s4) ∧
    (∀ s5, p.desc.getD 8 0 ≠ 0 → devStore s4 ctx die (p.desc.getD 8 0) (bytesOf 8 (p.desc.getD 9 0).toNat) = (none, s5) →
      Happens (.passComplete die ctx args) s s5))

/-- R174, R178, R181, R195, R200, R201, R239, R316, R318, R320, R321, R328: a written-back line is gone from its cluster and its dirty words
are at the home with their poison; HOME_ATOMIC and REPLICA_MULTICAST perform a held request and those issued before it; a dropped flit loses
a request until it is reissued, a reissue counts, of a group's request, of an engine's and of those that an asker has on its way (the I/O
port's for a context, a group's as it issues, the arrays', a line's: log 74), and the seventeenth ends the context with cause 0x23; A and D
reach the table once; a snooped line is in no L1. HOST_MEM_WRITE and PEER_WRITE store exactly their bytes; HOST_MEM_READ, PEER_READ and ACCESSIONED_READ answer the homes' bytes with their poison; PEER_WRITE and PEER_ATOMIC perform once for a requester's sequence
number, and PEER_ATOMIC answers the old value, and of a poisoned word the poison. (That the ADDR of the record of cause 0x23 is the group's TFAULT
register is log 65, and of an engine's request the address at which its command is paused, or 0, log 115: the model's own choices.) -/
def Obligations.HomeAndHostEvents : Prop :=
  (∀ (cl line i : Nat) (e : L1Word) (s : State), line < 2 ^ 48 → i < 32 → l1Get s cl line i = some e → e.dirty = true →
    (∀ j f, j < 32 → l1Get s cl line j = some f → f.store % 4 = 0 ∧ (j ≠ i → f.store ≠ e.store) ∧
      ∀ m ∈ s.leaves, ∀ k, storageIn m line = some k → k = f.store - f.store % 128) →
    ∃ s2, Happens (.homeWritebackMerge cl line) s s2 ∧ rw4 s2 e.store = e.val ∧ poisonAt s2 e.store = e.poison ∧
      (∀ j, j < 32 → l1Get s2 cl line j = none) ∧
      (∀ c l j, j < 32 → l < 2 ^ 48 → c ≠ cl ∨ l ≠ line → l1Get s2 c l j = l1Get s c l j) ∧ s2.g = s.g) ∧
  (∀ (id n : Nat) (g : Group) (x : Instr) (s s1 s2 : State), requestOf s id = some (g, n) → requestInstr s id = some x →
    focus (fun y => y.id == g.id) s = some s1 → drain (n + 1) s1 = .ok () s2 →
    (isRmw x = true → HappensTo (.homeAtomic id) s s2) ∧ (isUpdate x = true → HappensTo (.replicaMulticast id) s s2)) ∧
  (∀ (id n : Nat) (g : Group) (e : InFlight) (s s1 : State), requestOf s id = some (g, n) → g.inflight[n]? = some e →
    focus (fun y => y.id == g.id) s = some s1 →
    (e.tries < 16 → Happens (.requestReissueTimeout id) s (mapGroups (fun y => { y with inflight := y.inflight.map (fun f =>
      if f.id = id then { f with tries := f.tries + 1, lost := false } else f) }) s)) ∧
    (16 ≤ e.tries → halted s1 s1.g.ctx = false → bufferFull s1 (coreDie s1.g.core) = false → Happens (.requestReissueTimeout id) s
      (killCtx s1.g.ctx { s1 with outbound := s1.outbound ++ [groupRec s1.g 3 0x23 0 0 s1.g.tfault false] }))) ∧
  (∀ (id : Nat) (c : Cmd) (g : Group) (s : State), requestOf s id = none → cmdOf s id = some c →
    (c.tries < 16 → Happens (.requestReissueTimeout id) s (onCmd id (fun x => { x with tries := x.tries + 1, lost := false }) s)) ∧
    (16 ≤ c.tries → cmdGroup s c = some g → g.exited = false → halted s g.ctx = false → bufferFull s (coreDie g.core) = false →
      Happens (.requestReissueTimeout id) s
      (killCtx g.ctx { s with outbound := s.outbound ++ [groupRec g 3 0x23 0 0 (c.paused.getD 0) false] }))) ∧
  (∀ (a : Asker) (id n : Nat) (s : State), askerOf id = some a → (∀ g ∈ s.g :: s.others, ∀ e ∈ g.inflight, e.id ≠ id) → cmdOf s id = none →
    ((∀ e ∈ s.reqLost, e.1 ≠ a) → Happens (.requestReissueTimeout id) s s ∧
      (asking s a = true → Happens (.flitCrcDrop id) s { s with reqLost := s.reqLost ++ [(a, 0)] })) ∧
    (asking s a = false → Happens (.flitCrcDrop id) s s) ∧
    (s.reqLost = [(a, n)] → n < 16 → Happens (.requestReissueTimeout id) s { s with reqLost := [(a, n + 1)] }) ∧
    (∀ c, a = .ioPort c → s.reqLost = [(a, n)] → 16 ≤ n → halted s c = false → bufferFull s 8 = false →
      ∃ s2 r, Happens (.requestReissueTimeout id) s s2 ∧ s2.reqLost = [] ∧
        s2.outbound = s.outbound ++ [r] ∧ r.type = 3 ∧ r.cause = 0x23 ∧ r.ctx = c ∧ ∀ g ∈ allGroups s2, g.live = true → g.ctx ≠ c) ∧
    (∀ k s1, a = .issuer k ∨ a = .arrays k → s.reqLost = [(a, n)] → 16 ≤ n → focus (fun y => y.id == k) { s with reqLost := [] } = some s1 →
      halted s1 s1.g.ctx = false → bufferFull s1 (coreDie s1.g.core) = false → ∃ s2, Happens (.requestReissueTimeout id) s s2 ∧
        s2.outbound = s.outbound ++ [groupRec s1.g 3 0x23 0 0 s1.g.tfault false] ∧ (∀ g ∈ allGroups s2, g.live = true → g.ctx ≠ s1.g.ctx))) ∧
  (∀ (id : Nat) (s : State), id < 2 ^ 32 → Happens (.flitCrcDrop id) s (onCmd id (fun c => { c with lost := true })
    (mapGroups (fun y => { y with inflight := y.inflight.map (fun f => if f.id = id then { f with lost := true } else f) }) s))) ∧
  (∀ (core ctx page : Nat) (e : TlbEntry) (s : State),
    s.tlb.filter (fun x => x.core == core && x.ctx == ctx && x.base == page) = [e] → e.a = true ∨ e.d = true →
    fld (rw8 s e.at_) 24 40 = fld e.pte 24 40 → poisonAt s e.at_ = false → poisonAt s (e.at_ + 4) = false →
    ∃ s2, Happens (.adFlushTimeout core ctx page) s s2 ∧
      rw8 s2 e.at_ = rw8 s e.at_ ||| (if e.a then 0x40 else 0) ||| (if e.d then 0x80 else 0) ∧ s2.tlb.length = s.tlb.length ∧
      (∀ x ∈ s2.tlb, x.core = core → x.ctx = ctx → x.base = page → x.a = false ∧ x.d = false ∧ x.pte = e.pte ∧
        x.aDone = (e.aDone || e.a) ∧ x.dDone = (e.dDone || e.d)) ∧ s2.g = s.g) ∧
  (∀ (pa : Nat) (s : State), ∃ s2, Happens (.hostSnoop pa) s s2 ∧ s2.g = s.g ∧
    ∀ cl i, i < 32 → l1Get s2 cl ((2 ^ 48 + pa % 2 ^ 48) / 128) i = none) ∧
  (∀ (h : Nat) (bs : List Byte) (s : State),
    (h + bs.length ≤ hdmSize → ∃ s2, Happens (.hostMemWrite h bs) s s2 ∧ (∀ i, i < bs.length → rb s2 (hdmKey (h + i)) = bs.getD i 0) ∧
      (∀ k, (∀ i, i < bs.length → k ≠ hdmKey (h + i)) → rb s2 k = rb s k) ∧ s2.l1 = s.l1 ∧ s2.g = s.g ∧
      (h % 4 = 0 → ∀ i, 4 * i + 4 ≤ bs.length → poisonAt s2 (hdmKey (h + 4 * i)) = false)) ∧
    (hdmSize < h + bs.length → Happens (.hostMemWrite h bs) s { s with outputs := s.outputs ++ [.refused] })) ∧
  (∀ (h n : Nat) (e : Instr) (s : State), e = .hostMemRead h n ∨ e = .peerRead h n → h + n ≤ hdmSize →
    ∃ s2 bs ps, Happens e s s2 ∧ s2.outputs = s.outputs ++ [.data bs ps] ∧ bs.length = n ∧ (∀ i, i < n → bs.getD i 0 = rb s (hdmKey (h + i))) ∧
      (∀ i, i ∈ ps ↔ i < (h % 4 + n + 3) / 4 ∧ poisonAt s (hdmKey (h / 4 * 4 + 4 * i)) = true) ∧ StoresNothing s s2) ∧
  (∀ (h a : Nat) (s : State), h < hdmSize → a = h / 128 * 128 → ∃ s2 bs ps, Happens (.accessionedRead h) s s2 ∧
    s2.outputs = s.outputs ++ [.accession (accessionOf s (hdmKey a)) bs ps] ∧ bs.length = 128 ∧
    (∀ i, i < 128 → bs.getD i 0 = rb s (hdmKey (a + i))) ∧
    (∀ i, i ∈ ps ↔ i < 32 ∧ poisonAt s (hdmKey (a + 4 * i)) = true) ∧ StoresNothing s s2) ∧
  (∀ (src : PeerId) (seq h : Nat) (ws : List W32) (mask : List Bool) (s : State), h % 4 = 0 → mask.length = ws.length →
    (recorded s src seq h = none → peerMay s h (4 * ws.length) true = true → ∃ s2, Happens (.peerWrite ⟨src, seq, h⟩ ws mask) s s2 ∧
      (∀ i, i < ws.length → rw4 s2 (hdmKey (h + 4 * i)) = (if mask.getD i false then ws.getD i 0 else rw4 s (hdmKey (h + 4 * i)))) ∧
      (Output.data [] []) ∈ s2.outputs ∧ (recorded s2 src seq h).isSome = true ∧ s2.g = s.g ∧ s2.l1 = s.l1) ∧
    (∀ v, recorded s src seq h = some v → Happens (.peerWrite ⟨src, seq, h⟩ ws mask) s { s with outputs := s.outputs ++ [.data [] []] })) ∧
  (∀ (src : PeerId) (seq h n : Nat) (op : PeerRmw) (s : State), n = rmwSize op →
    (recorded s src seq h = none → peerMay s h n true = true → h % n = 0 → hdmPoison s h n = [] →
      ∃ s2, Happens (.peerAtomic src seq h op) s s2 ∧ (Output.data (rbs s (hdmKey h) n) []) ∈ s2.outputs ∧
        natOf (rbs s2 (hdmKey h) n) = (match rmwNew op (natOf (rbs s (hdmKey h) n)) with
          | some x => x % 2 ^ (8 * n) | none => natOf (rbs s (hdmKey h) n)) ∧
        recorded s2 src seq h = some (BitVec.ofNat 64 (natOf (rbs s (hdmKey h) n)))) ∧
    (recorded s src seq h = none → peerMay s h n true = true → h % n = 0 → hdmPoison s h n ≠ [] → ∃ s2, Happens (.peerAtomic src seq h op) s s2 ∧
      s2.outputs = s.outputs ++ [.data (rbs s (hdmKey h) n) (hdmPoison s h n)] ∧ StoresNothing s s2) ∧
    (∀ v, recorded s src seq h = some v →
      Happens (.peerAtomic src seq h op) s { s with outputs := s.outputs ++ [.data (bytesOf n v.toNat) []] }))

/-- R312, R313, R315, R325, R326, R329 to R333: the commands of the management port answer with a completion code and do what Table 10-6
says; a reset die's contexts are killed and its caches, L1 and instruction caches and home caches, are empty; a forced sparing action fences
the core, copies the row, loses the frame or degrades the port and is logged, and one that is not the unit's is a bad argument; a window of corrections ends with COUNT 0; a row copy ends;
a power window leaves the power and temperature that were measured, latches and resets a die at 115 °C, lowers by 100 MHz the clock of a
die that is over its cap or at 95 °C, down to its lowest, while the module is within its limit, and above it lowers the compute dies by
their shares of the power; POWER_ON_RESET leaves the reset state and host and peer memory; a fabric port trains to its lanes and the host
link to the best common width and rate. (The numbers of the sparing actions, the words of an entry in their log and the place of a forced action are
the model's: log 70. That a reset die keeps none of its passes is the model's own choice: log 112. The factor of the shares is left open: log 21.) -/
def Obligations.ManagementEvents : Prop :=
  (∀ (o : Nat) (v : W64) (r : Reg) (s : State), regAt o = some r →
    Happens (.read o) s { s with outputs := s.outputs ++ [.code 0 (rdWin s o)] } ∧
    (mayWrite s o .mgmt = false → ∃ s2, Happens (.write o v) s s2 ∧ s2.outputs = s.outputs ++ [.code 2 0] ∧
      (∀ x, x ≠ ownlogOff → rdWin s2 x = rdWin s x)) ∧
    (mayWrite s o .mgmt = true → (∀ c, r ≠ .ctx c 0x28) → r ≠ .eq 0x28 → ∃ s2, Happens (.write o v) s s2 ∧
      s2.outputs = s.outputs ++ [.code 0 0] ∧ (∀ k, k < 64 → (rdWin s2 o).getLsbD k =
        (if (regRw r).getLsbD k then v.getLsbD k else (rdWin s o).getLsbD k && !(v.getLsbD k && (regW1c r).getLsbD k))) ∧
      (∀ x, x ≠ o → rdWin s2 x = rdWin s x) ∧ StoresNothing s s2)) ∧
  (∀ (o : Nat) (s : State), regAt o = none → ∃ s2, Happens (.read o) s s2 ∧ s2.outputs = s.outputs ++ [.code 1 0]) ∧
  (∀ (o : Nat) (s : State),
    (isBlockBase o = true → (∃ s2, Happens (.take o) s s2 ∧ ownerOf s2 o = .mgmt ∧ s2.outputs = s.outputs ++ [.code 0 0]) ∧
      (∃ s2, Happens (.give o) s s2 ∧ ownerOf s2 o = .host ∧ s2.outputs = s.outputs ++ [.code 0 0])) ∧
    (isBlockBase o = false → o ≠ 0 → Happens (.take o) s { s with outputs := s.outputs ++ [.code 1 0] } ∧
      Happens (.give o) s { s with outputs := s.outputs ++ [.code 1 0] })) ∧
  (∀ s : State, Happens (.take 0) s { s with outputs := s.outputs ++ [.code 2 0] } ∧
    Happens (.give 0) s { s with outputs := s.outputs ++ [.code 2 0] } ∧
    (∃ l, Happens .telem s { s with outputs := s.outputs ++ [.telem l, .code 0 0] } ∧ l.length = 127 ∧
      (∀ d, d < 42 → l.getD d 0 = BitVec.ofNat 64 (fld (rdWin s (pstateReg d)) 24 8) ∧
        l.getD (42 + d) 0 = BitVec.ofNat 64 (fld (rdWin s (pstateReg d)) 32 32) ∧
        l.getD (84 + d) 0 = BitVec.ofNat 64 (fld (rdWin s (pstateReg d)) 0 16)) ∧ l.getD 126 0 = rdWin s eqStat) ∧
    (∃ s2, Happens .clrfovf s s2 ∧ bit (rdWin s2 eqStat) 1 = false ∧ bit (rdWin s2 eqStat) 0 = bit (rdWin s eqStat) 0 ∧
      s2.outputs = s.outputs ++ [.code 0 0])) ∧
  (∀ (mask : BitVec 41) (s : State), ∃ s2, Happens (.reset mask) s s2 ∧ s2.outputs.getLast? = some (.code 0 0) ∧
    (∀ d, d < 8 → mask.getLsbD d = true → (∀ e ∈ s2.tlb, e.core / 48 ≠ d) ∧ (∀ p ∈ s2.passes, p.die ≠ d) ∧ (∀ b ∈ s2.bins, b.die ≠ d) ∧
      (∀ c, c / 48 = d → cget zero s2.cyc c = 0) ∧ (∀ cl line i, cl / 12 = d → line < 2 ^ 48 → i < 32 → l1Get s2 cl line i = none) ∧
      (∀ core k, core / 48 = d → k < 2 ^ 64 → cget (fun _ => none) s2.icache (icKey core k) = none)) ∧
    (∀ n, n < 32 → mask.getLsbD (8 + n) = true → ∀ h ∈ s2.lines, h.md ≠ n) ∧
    (∀ d c, d < 8 → c < 16 → mask = 1#41 <<< d → worksOn s c d = true → ∀ g ∈ allGroups s2, g.live = true → g.ctx ≠ c)) ∧
  (∀ (u place n : Nat) (s : State), place = cget (fun _ => 0) s.lastFix u → n = (rdWin s spheadOff).toNat % 256 →
    (u < 384 → ∃ s2, Happens (.spare u 0) s s2 ∧ fenced s2 u = true ∧ bit (rdWin s2 (cecReg u)) 48 = true ∧
      rdWin s2 spheadOff = rdWin s spheadOff + 1 ∧ rdWin s2 (splogReg (2 * n)) = BitVec.ofNat 64 u ∧
      rdWin s2 (splogReg (2 * n + 1)) = BitVec.ofNat 64 place) ∧
    (384 ≤ u → u < 416 → cget (fun _ => 0) s.spareRows ((u - 384) * 2 ^ 20 + place / 2 ^ 20) < 8 → ∃ s2, Happens (.spare u 1) s s2 ∧
      s2.rowCopies = s.rowCopies ++ [(u - 384, place)]) ∧
    (416 ≤ u → u < 448 → ∃ s2, Happens (.spare u 2) s s2 ∧ s2.lostWays = s.lostWays ++ [(u - 416, place % 32768)]) ∧
    (448 ≤ u → u < 576 → ∃ s2, Happens (.spare u 3) s s2 ∧ fld (rdWin s2 (pstatReg (u - 448))) 0 2 =
      (if fld (rdWin s (pstatReg (u - 448))) 0 2 = 2 then 1 else 0)) ∧
    (∀ a, 576 ≤ u ∨ a ≠ actionOf u → Happens (.spare u a) s { s with outputs := s.outputs ++ [.code 1 0] }) ∧
    (∃ s2, Happens (.cecWindowBoundary u) s s2 ∧ fld (rdWin s2 (cecReg u)) 0 32 = 0 ∧
      fld (rdWin s2 (cecReg u)) 32 32 = fld (rdWin s (cecReg u)) 32 32 ∧ ∀ x, x ≠ cecReg u → rdWin s2 x = rdWin s x)) ∧
  (∀ (md : Nat) (e : Nat × Nat) (s : State), s.rowCopies.find? (fun x => x.1 == md) = some e →
    Happens (.hbmRowCopyDone md) s { s with rowCopies := s.rowCopies.erase e }) ∧
  (∀ (mw tj : List Nat) (s : State), ∃ s2, Happens (.powerWindowEnd mw tj) s s2 ∧
    (∀ d, d < 42 → 115 ≤ tj.getD d 0 → bit (rdWin s2 tlatchOff) d = true) ∧
    (∀ d, d < 42 → fld (rdWin s2 (pstateReg d)) 24 8 = min (tj.getD d 0) 255 ∧ fld (rdWin s2 (pstateReg d)) 32 32 = mw.getD d 0 % 2 ^ 32) ∧
    (∀ d, d < 40 → mw.foldl (· + ·) 0 ≤ 1000 * moduleCap s → 1000 * dieCap s d < mw.getD d 0 ∨ 95 ≤ tj.getD d 0 →
      fld (rdWin s2 (pstateReg d)) 0 16 = max (lowestMhz d) (fld (rdWin s (pstateReg d)) 0 16 - 100)) ∧
    (∃ k, 0 < k ∧ ∀ d, d < 8 → 1000 * moduleCap s < mw.foldl (· + ·) 0 → mw.getD d 0 ≤ 1000 * dieCap s d → tj.getD d 0 < 95 →
      mw.getD d 0 ≠ 0 → fld (rdWin s2 (pstateReg d)) 0 16 = max (lowestMhz d) (fld (rdWin s (pstateReg d)) 0 16 -
        100 * ((mw.getD d 0 * k + (mw.take 8).foldl (· + ·) 0 - 1) / (mw.take 8).foldl (· + ·) 0))) ∧
    (∀ d, 40 ≤ d → d < 42 → fld (rdWin s2 (pstateReg d)) 0 16 = fld (rdWin s (pstateReg d)) 0 16)) ∧
  (∀ s : State, ∃ t, exec .powerOnReset s = .next t ∧ t.g.live = false ∧ t.others = [] ∧ t.panels = [] ∧ t.win = [] ∧ t.l1 = [] ∧ t.cmds = [] ∧
    (∀ k, k < 2 ^ 48 → cget zero t.mem k = 0) ∧ (∀ k, 2 ^ 48 ≤ k → cget zero t.mem k = cget zero s.mem k)) ∧
  (∀ (p lanes : Nat) (s : State), ∃ s2, Happens (.svetfenLinkTrain p lanes) s s2 ∧ fld (rdWin s2 (pstatReg p)) 0 2 = min lanes 2 ∧
      ∀ x, x ≠ pstatReg p → rdWin s2 x = rdWin s x) ∧
  (∀ (w r : Nat) (s : State), ∃ a b, Happens (.hostLinkTrain w r) s { s with hostLink := (a, b) } ∧
    (4 ≤ w → 32 ≤ r → a ∈ [4, 8, 16] ∧ a ≤ w ∧ (∀ x ∈ [4, 8, 16], x ≤ w → x ≤ a) ∧
      b ∈ [32, 64, 128] ∧ b ≤ r ∧ (∀ x ∈ [32, 64, 128], x ≤ r → x ≤ b)) ∧
    (w < 4 ∨ r < 32 → a = 0 ∧ b = 0))

/-! What stays. -/

/-- R97, R98, R78: an instruction of opcodes 0x10 to 0x50 (scalar, vector, floating point, cross-lane) that executes changes no vector or
scalar register but its destinations, now or by a result that is still in flight, no tile, control, mode, trap or special register (flags of
FPSTAT may be raised, none cleared, and none by a scalar instruction), no byte of memory, of any L1, scratchpad or frame, and no other group
but by the clocks that pass. -/
def Obligations.RegisterFrame : Prop :=
  ∀ (i : Instr) (s : State), isWord i = true → 0x10 ≤ opcode i → opcode i ≤ 0x50 → ready i s = true → s.g.pend = [] →
    ∃ t v sc fp pend, exec i s = .next t ∧
      Follows (onG (fun g => { g with v := v, s := sc, fpstat := g.fpstat ||| fp, pend := pend
                                      pc := g.pc + BitVec.ofNat 64 (instrLen i) }) s) t ∧
      (∀ n, (File.v, n) ∉ writesOf (etOf s) i → cget (fun _ => zeroLanes) v n = cget (fun _ => zeroLanes) s.g.v n) ∧
      (∀ n, (File.s, n) ∉ writesOf (etOf s) i → cget zero sc n = cget zero s.g.s n) ∧
      (∀ p ∈ pend, (∃ n x, p.eff = .sca n x ∧ (File.s, n) ∈ writesOf (etOf s) i) ∨ (∃ n x, p.eff = .vec n x ∧ (File.v, n) ∈ writesOf (etOf s) i) ∨
        (0x24 ≤ opcode i ∧ ∃ f, p.eff = .fp f)) ∧ (opcode i < 0x24 → fp = 0)

/-- R173, R410, R405: ST and SST to ordinary memory leave every byte as it was but the bytes stored to: `ps` are the places of the lanes'
addresses as the instruction computes and translates them, and what the group's cluster reads at a place outside them is what it read before,
where the tables let no other storage or line key share the lines stored to (R171). What SST stored is what is read at its place. -/
def Obligations.StoreFrame : Prop :=
  ∀ (i : Instr) (o : Opnd) (s s1 : State) (ps : List (Nat × Phys)) (n cl : Nat) (w : Who) (l : List (Nat × W64)), goes i s →
    n = sizeOf_ (parOf o) → cl = s.g.core / 4 → w = whoOf s.g (parOf o).ccls →
    (i = .st o ∧ l = (activeLanes (effMask s)).map (fun k =>
        (k, rdS s o.a.toNat + w64 ((laneOf (rdV s o.b.toNat) k).toInt * scaleMul (parOf o)) + dispOf o))) ∨
      (i = .sst o ∧ l = [(0, rdS s o.a.toNat + w64 ((rdS s o.b.toNat).toInt * scaleMul (parOf o)) + dispOf o)]) →
    checkLanes (begun i s) w s.g.ctx n n needW l = .ok ps s1 →
    (∀ x ∈ ps, plain s1 w x.2 ∧ x.2.key % n = 0 ∧ clashOf s1 x.2 = ([], [])) →
    ∃ t, exec i s = .next t ∧
      (∀ q, plain s1 w q → (∀ x ∈ ps, (q.line = x.2.line ↔ q.key / 128 = x.2.key / 128)) →
        (∀ x ∈ ps, q.key < x.2.key ∨ x.2.key + n ≤ q.key) → peek t cl q = peek s1 cl q) ∧
      (i = .sst o → ∀ x ∈ ps, ∀ j, j < n →
        peek t cl { x.2 with key := x.2.key + j, rkey := x.2.rkey + j } = BitVec.ofNat 8 ((rdS s o.d.toNat).toNat / 2 ^ (8 * j)))

/-! Rules of the manual as it states them. -/

/-- R395 whole: the encoding of RFAL with D = sD, A = vA, B = 0 and no extension word; its value by the mask, whatever ET is, written
interlocked; and the manual's example. -/
def Obligations.ReadFirstActiveLane : Prop :=
  (∀ (st : BitVec 3) (d a : BitVec 7) (w1 : W32), decode (st ++ (0#1) ++ (0x4D#7) ++ d ++ a ++ (0#7) : BitVec 32) w1 = .instr (.rfal ⟨st, d, a, 0, .none⟩) 4) ∧
  (∀ (w0 w1 : W32) (o : Opnd) (n : Nat), decode w0 w1 = .instr (.rfal o) n → w0.extractLsb' 21 7 = 0x4D#7 ∧ w0.getLsbD 28 = false ∧ o.x = .none ∧ n = 4) ∧
  decode 0x09A1_C180 0 = .instr (.rfal ⟨0, 7, 3, 0, .none⟩) 4 ∧
  (∀ (o : Opnd) (s : State), o.b ≠ 0 → illegalSub s (.rfal o) ≠ none) ∧
  (∀ (o : Opnd) (s : State), ready (.rfal o) s = true →
    (effMask s = 0 → Puts (.rfal o) s (.sca o.d.toNat 0)) ∧
    (∀ i, i < 64 → (effMask s).getLsbD i = true → (∀ j, j < i → (effMask s).getLsbD j = false) →
      Puts (.rfal o) s (.sca o.d.toNat ((laneOf (rdV s o.a.toNat) i).setWidth 64)))) ∧
  (∀ s : State, ready (.rfal ⟨0, 7, 3, 0, .none⟩) s = true → effMask s = 0x0F00 → (∀ i, i < 64 → laneOf (rdV s 3) i = BitVec.ofNat 32 (5 * i)) →
    Puts (.rfal ⟨0, 7, 3, 0, .none⟩) s (.sca 7 40))

/-- R415 whole, with R67 and the limits of Table 2-4: the encoding of TCFG with D = tD, A = sA, B = 0 and no extension word; a value that
keeps to the layout is posted into TCTL[D] at distance 1, whatever operations still use the tile, and changes no tile byte; any other
raises sub-code 0x05 and leaves TCTL as it is. -/
def Obligations.TileControl : Prop :=
  (∀ (st : BitVec 3) (d a : BitVec 7) (w1 : W32), decode (st ++ (0#1) ++ (0x67#7) ++ d ++ a ++ (0#7) : BitVec 32) w1 = .instr (.tcfg ⟨st, d, a, 0, .none⟩) 4) ∧
  (∀ (w0 w1 : W32) (o : Opnd) (n : Nat), decode w0 w1 = .instr (.tcfg o) n → w0.extractLsb' 21 7 = 0x67#7 ∧ w0.getLsbD 28 = false ∧ o.x = .none ∧ n = 4) ∧
  decode 0x0CE0_8300 0 = .instr (.tcfg ⟨0, 2, 6, 0, .none⟩) 4 ∧
  (∀ (o : Opnd) (s : State) (x tt rows cols limit : Nat), x = (rdS s o.a.toNat).toNat → tt = x % 16 → rows = x / 16 % 128 → cols = x / 2048 % 256 →
    limit = (if tt ≤ 3 then 64 else if tt ≤ 5 then 128 else if tt ≤ 7 then 32 else if tt = 8 then 16 else 8) →
    (o.b ≠ 0 → illegalSub s (.tcfg o) ≠ none) ∧
    (ready (.tcfg o) s = true → Posts (.tcfg o) s 1 (.tctl o.d.toNat (rdS s o.a.toNat)) ∧
      (onG (post 1 (.tctl o.d.toNat (rdS s o.a.toNat))) s).g.t = s.g.t) ∧
    (ok05 (.tcfg o) = true → regExists s.g.part .s o.a.toNat = true →
      (illegalSub s (.tcfg o) = some 0x05 ↔ ¬ (tt ≤ 9 ∧ 1 ≤ rows ∧ rows ≤ 64 ∧ 1 ≤ cols ∧ cols ≤ limit ∧ x < 2 ^ 19))) ∧
    (illegalSub s (.tcfg o) = some 0x05 → s.g.live = true → s.g.inflight = [] → s.g.priv = false → bit s.g.tvec 63 = true →
      partSR s.g.part = 3 → ∃ s', Ends (.tcfg o) s s' ∧ s'.g.tcause = BitVec.ofNat 64 (1 + 5 * 256) ∧
        s'.g.tctl = (completeAll s.g).tctl ∧ s'.g.t = s.g.t))
end

