-- ==== Sys2Proof/Laws/Cells.lean ====
section
/-! SUPPORT. The laws of sparse maps: read after write, and that every operation keeps the canonical form. -/

namespace Sys2Proof.Laws

open Sys2Proof.Machine

variable {α : Type}

theorem cget_cdel_other (d : Nat → α) (m : Cells α) {j k : Nat} (h : k ≠ j) :
    cget d (cdel m k) j = cget d m j := by
  induction m with
  | nil => rfl
  | cons e r ih =>
    obtain ⟨a, x⟩ := e
    by_cases ha : a = k
    · subst ha; simp [cdel, cget, ih, h]
    · rw [cdel, if_neg ha, cget, cget, ih]

theorem cget_cdel_same (d : Nat → α) (m : Cells α) (k : Nat) : cget d (cdel m k) k = d k := by
  induction m with
  | nil => rfl
  | cons e r ih =>
    obtain ⟨a, x⟩ := e
    by_cases ha : a = k <;> simp [cdel, cget, ha, ih]

theorem cget_cput_other (d : Nat → α) (m : Cells α) {j k : Nat} (v : α) (h : k ≠ j) :
    cget d (cput m k v) j = cget d m j := by
  induction m with
  | nil => simp [cput, cget, h]
  | cons e r ih =>
    obtain ⟨a, x⟩ := e
    by_cases hk : k < a
    · simp [cput, cget, hk, h]
    · rw [cput, if_neg hk, cget, cget, ih]

theorem cget_cput_fresh (d : Nat → α) (m : Cells α) (k : Nat) (v : α)
    (h : ∀ e ∈ m, e.1 ≠ k) : cget d (cput m k v) k = v := by
  induction m with
  | nil => simp [cput, cget]
  | cons e r ih =>
    obtain ⟨a, x⟩ := e
    have ha : a ≠ k := h (a, x) (by simp)
    by_cases hk : k < a
    · simp [cput, cget, hk]
    · simp [cput, cget, hk, ha, ih (fun e he => h e (by simp [he]))]

theorem cdel_keys {m : Cells α} {k : Nat} : ∀ e ∈ cdel m k, e.1 ≠ k := by
  induction m with
  | nil => simp [cdel]
  | cons e r ih =>
    obtain ⟨a, x⟩ := e
    by_cases ha : a = k
    · simpa [cdel, ha] using ih
    · simp only [cdel, ha, if_false, List.mem_cons, forall_eq_or_imp]
      exact ⟨ha, ih⟩

theorem cdel_mem {m : Cells α} {k : Nat} : ∀ e ∈ cdel m k, e ∈ m := by
  induction m with
  | nil => simp [cdel]
  | cons e r ih =>
    obtain ⟨a, x⟩ := e
    by_cases ha : a = k
    · intro e he; simp only [cdel, ha, if_true] at he; exact List.mem_cons_of_mem _ (ih e he)
    · intro e he
      simp only [cdel, ha, if_false, List.mem_cons] at he
      rcases he with rfl | he
      · simp
      · exact List.mem_cons_of_mem _ (ih e he)

theorem cput_mem {m : Cells α} {k : Nat} {v : α} : ∀ e ∈ cput m k v, e = (k, v) ∨ e ∈ m := by
  induction m with
  | nil => simp [cput]
  | cons e r ih =>
    obtain ⟨a, x⟩ := e
    intro e he
    by_cases hk : k < a
    · simpa [cput, hk] using he
    · simp only [cput, hk, if_false, List.mem_cons] at he
      rcases he with rfl | he
      · simp
      · rcases ih e he with h | h
        · exact Or.inl h
        · exact Or.inr (List.mem_cons_of_mem _ h)

theorem crising_cdel {m : Cells α} {k : Nat} (h : crising m = true) : crising (cdel m k) = true := by
  induction m with
  | nil => rfl
  | cons e r ih =>
    obtain ⟨a, x⟩ := e
    simp only [crising, Bool.and_eq_true, List.all_eq_true, decide_eq_true_eq] at h
    by_cases ha : a = k
    · simpa [cdel, ha] using ih h.2
    · simp only [cdel, ha, if_false, crising, Bool.and_eq_true, List.all_eq_true, decide_eq_true_eq]
      exact ⟨fun e he => h.1 e (cdel_mem e he), ih h.2⟩

theorem crising_cput {m : Cells α} {k : Nat} {v : α} (h : crising m = true)
    (hk : ∀ e ∈ m, e.1 ≠ k) : crising (cput m k v) = true := by
  induction m with
  | nil => simp [cput, crising]
  | cons e r ih =>
    obtain ⟨a, x⟩ := e
    have h0 := h
    simp only [crising, Bool.and_eq_true, List.all_eq_true, decide_eq_true_eq] at h
    have hak : a ≠ k := hk (a, x) (by simp)
    by_cases hlt : k < a
    · simp only [cput, hlt, if_true]
      rw [crising, h0]
      simp only [Bool.and_true, List.all_eq_true, decide_eq_true_eq, List.mem_cons]
      rintro e (rfl | he)
      · exact hlt
      · exact lt_trans hlt (h.1 e he)
    · simp only [cput, hlt, if_false, crising, Bool.and_eq_true, List.all_eq_true, decide_eq_true_eq]
      refine ⟨fun e he => ?_, ih h.2 (fun e he => hk e (by simp [he]))⟩
      rcases cput_mem e he with rfl | he
      · simp only; omega
      · exact h.1 e he

theorem ckeep_mem {m : Cells α} {p : Nat → Bool} : ∀ e ∈ ckeep p m, e ∈ m := by
  induction m with
  | nil => simp [ckeep]
  | cons e r ih =>
    obtain ⟨a, x⟩ := e
    intro e he
    by_cases hp : p a = true
    · simp only [ckeep, hp, if_true, List.mem_cons] at he
      rcases he with rfl | he
      · simp
      · exact List.mem_cons_of_mem _ (ih e he)
    · simp only [ckeep, hp] at he; exact List.mem_cons_of_mem _ (ih e he)

theorem crising_ckeep {m : Cells α} {p : Nat → Bool} (h : crising m = true) : crising (ckeep p m) = true := by
  induction m with
  | nil => rfl
  | cons e r ih =>
    obtain ⟨a, x⟩ := e
    simp only [crising, Bool.and_eq_true, List.all_eq_true, decide_eq_true_eq] at h
    by_cases hp : p a = true
    · simp only [ckeep, hp, if_true, crising, Bool.and_eq_true, List.all_eq_true, decide_eq_true_eq]
      exact ⟨fun e he => h.1 e (ckeep_mem e he), ih h.2⟩
    · simpa [ckeep, hp] using ih h.2

variable [DecidableEq α]

/-- A read after a write to the same key gives the value written. -/
@[simp] theorem cget_cset_same (d : Nat → α) (m : Cells α) (k : Nat) (v : α) :
    cget d (cset d m k v) k = v := by
  unfold cset
  split
  · rename_i h; rw [cget_cdel_same, h]
  · exact cget_cput_fresh d _ k v cdel_keys

/-- A write leaves every other key alone. -/
theorem cget_cset_other (d : Nat → α) (m : Cells α) {j k : Nat} (v : α) (h : k ≠ j) :
    cget d (cset d m k v) j = cget d m j := by
  unfold cset
  split
  · exact cget_cdel_other d m h
  · rw [cget_cput_other d _ v h, cget_cdel_other d m h]

theorem cget_cset (d : Nat → α) (m : Cells α) (j k : Nat) (v : α) :
    cget d (cset d m k v) j = if k = j then v else cget d m j := by
  by_cases h : k = j
  · subst h; simp
  · simp [h, cget_cset_other d m v h]

theorem cnondefault_iff (d : Nat → α) (m : Cells α) :
    cnondefault d m = true ↔ ∀ e ∈ m, e.2 ≠ d e.1 := by
  induction m with
  | nil => simp [cnondefault]
  | cons e r ih => obtain ⟨a, x⟩ := e; simp [cnondefault, ih]

/-- A write keeps the canonical form. -/
theorem cwf_cset (d : Nat → α) {m : Cells α} (k : Nat) (v : α) (h : cwf d m = true) :
    cwf d (cset d m k v) = true := by
  simp only [cwf, Bool.and_eq_true, cnondefault_iff] at h ⊢
  unfold cset
  split
  · exact ⟨crising_cdel h.1, fun e he => h.2 e (cdel_mem e he)⟩
  · rename_i hv
    refine ⟨crising_cput (crising_cdel h.1) cdel_keys, fun e he => ?_⟩
    rcases cput_mem e he with rfl | he
    · exact hv
    · exact h.2 e (cdel_mem e he)

/-- A run of writes keeps the canonical form. -/
theorem cwf_csetAll (d : Nat → α) (l : List (Nat × α)) :
    ∀ {m : Cells α}, cwf d m = true → cwf d (csetAll d m l) = true := by
  induction l with
  | nil => intro m h; exact h
  | cons e r ih => obtain ⟨k, v⟩ := e; intro m h; exact ih (cwf_cset d k v h)

/-- A run of writes leaves every key it does not name alone. -/
theorem cget_csetAll_other (d : Nat → α) (l : List (Nat × α)) {j : Nat} :
    ∀ {m : Cells α}, (∀ e ∈ l, e.1 ≠ j) → cget d (csetAll d m l) j = cget d m j := by
  induction l with
  | nil => intro m _; rfl
  | cons e r ih =>
    obtain ⟨k, v⟩ := e
    intro m h
    rw [csetAll, ih (fun e he => h e (by simp [he])), cget_cset_other d m v (h (k, v) (by simp))]

/-- Dropping entries keeps the canonical form. -/
theorem cwf_ckeep (d : Nat → α) {m : Cells α} (p : Nat → Bool) (h : cwf d m = true) :
    cwf d (ckeep p m) = true := by
  simp only [cwf, Bool.and_eq_true, cnondefault_iff] at h ⊢
  exact ⟨crising_ckeep h.1, fun e he => h.2 e (ckeep_mem e he)⟩

end Sys2Proof.Laws
end

