-- ==== Sys2Proof/Laws/Encode.lean ====
section
/-! SUPPORT. Decoding what the encoder wrote: the fields of joined vectors, the extension words, and the reduction of the round trip to
the choice of the constructor. -/

namespace Sys2Proof.Laws

open Sys2Proof.Machine

/-- The low part of two joined vectors. -/
theorem extract_low {w v : Nat} (x : BitVec w) (y : BitVec v) : (x ++ y).extractLsb' 0 v = y := by
  apply BitVec.eq_of_getLsbD_eq; intro i hi
  simp [BitVec.getLsbD_append, hi]

/-- A field of the high part of two joined vectors. -/
theorem extract_high {w v : Nat} (x : BitVec w) (y : BitVec v) (k n : Nat) :
    (x ++ y).extractLsb' (v + k) n = x.extractLsb' k n := by
  apply BitVec.eq_of_getLsbD_eq; intro i hi
  have h : ¬ (v + k + i < v) := by omega
  have h2 : v + k + i - v = k + i := by omega
  simp [BitVec.getLsbD_append, hi, h, h2]

/-- A bit of the high part of two joined vectors. -/
theorem bit_high {w v : Nat} (x : BitVec w) (y : BitVec v) (k : Nat) : (x ++ y).getLsbD (v + k) = x.getLsbD k := by
  have h : ¬ (v + k < v) := by omega
  have h2 : v + k - v = k := by omega
  simp [BitVec.getLsbD_append, h, h2]

theorem bit_zero {w : Nat} (x : BitVec w) (e : Bool) : (x ++ BitVec.ofBool e).getLsbD 0 = e := by
  rw [BitVec.getLsbD_append]; cases e <;> rfl

/-- The fields of a first word (Table 3-1). -/
theorem first_fields (st : BitVec 3) (e : Bool) (op d a b : BitVec 7) :
    let w : W32 := st ++ BitVec.ofBool e ++ op ++ d ++ a ++ b
    w.extractLsb' 0 7 = b ∧ w.extractLsb' 7 7 = a ∧ w.extractLsb' 14 7 = d ∧ w.extractLsb' 21 7 = op ∧
      w.getLsbD 28 = e ∧ w.extractLsb' 29 3 = st := by
  refine ⟨extract_low _ _, (extract_high _ _ 0 7).trans (extract_low _ _),
    (extract_high _ _ 7 7).trans ((extract_high _ _ 0 7).trans (extract_low _ _)),
    (extract_high _ _ 14 7).trans ((extract_high _ _ 7 7).trans ((extract_high _ _ 0 7).trans (extract_low _ _))),
    (bit_high _ _ 21).trans ((bit_high _ _ 14).trans ((bit_high _ _ 7).trans ((bit_high _ _ 0).trans (bit_zero _ _)))),
    (extract_high _ _ 22 3).trans ((extract_high _ _ 15 3).trans ((extract_high _ _ 8 3).trans
      ((extract_high _ _ 1 3).trans ((extract_high _ _ 0 3).trans ?_))))⟩
  apply BitVec.eq_of_getLsbD_eq; intro i hi
  simp [hi]

theorem whole {w : Nat} (x : BitVec w) : x.extractLsb' 0 w = x := by
  apply BitVec.eq_of_getLsbD_eq; intro i hi
  simp [hi]

theorem decodeExt_imm (v : BitVec 30) : decodeExt (encodeExt (.imm v)) = some (.imm v) := by
  have h0 : extKind (encodeExt (.imm v)) = 0 :=
    congrArg BitVec.toNat ((extract_high (0 : BitVec 2) v 0 2).trans (whole _))
  have h1 : (encodeExt (.imm v)).extractLsb' 0 30 = v := extract_low (0 : BitVec 2) v
  simp only [decodeExt, h0, h1, if_true]

theorem bro_fields (c : BitVec 7) (bsc bhi : Bool) (z1 : BitVec 3) (sel : BitVec 4) (na aa nb ab nc ac : Bool) (z2 : BitVec 8) :
    let w := encodeExt (.bro ⟨c, bsc, bhi, z1, sel, na, aa, nb, ab, nc, ac, z2⟩)
    w.extractLsb' 0 8 = z2 ∧ w.getLsbD 8 = ac ∧ w.getLsbD 9 = nc ∧ w.getLsbD 10 = ab ∧ w.getLsbD 11 = nb ∧ w.getLsbD 12 = aa ∧
      w.getLsbD 13 = na ∧ w.extractLsb' 14 4 = sel ∧ w.extractLsb' 18 3 = z1 ∧ w.getLsbD 21 = bhi ∧ w.getLsbD 22 = bsc ∧
      w.extractLsb' 23 7 = c ∧ extKind w = 1 := by
  refine ⟨extract_low _ _, (bit_high _ _ 0).trans (bit_zero _ _), (bit_high _ _ 1).trans ((bit_high _ _ 0).trans (bit_zero _ _)), ?_, ?_, ?_, ?_, ?_, ?_, ?_, ?_, ?_, ?_⟩
  · exact (bit_high _ _ 2).trans ((bit_high _ _ 1).trans ((bit_high _ _ 0).trans (bit_zero _ _)))
  · exact (bit_high _ _ 3).trans ((bit_high _ _ 2).trans ((bit_high _ _ 1).trans ((bit_high _ _ 0).trans (bit_zero _ _))))
  · exact (bit_high _ _ 4).trans ((bit_high _ _ 3).trans ((bit_high _ _ 2).trans ((bit_high _ _ 1).trans ((bit_high _ _ 0).trans (bit_zero _ _)))))
  · exact (bit_high _ _ 5).trans ((bit_high _ _ 4).trans ((bit_high _ _ 3).trans ((bit_high _ _ 2).trans ((bit_high _ _ 1).trans
      ((bit_high _ _ 0).trans (bit_zero _ _))))))
  · exact (extract_high _ _ 6 4).trans ((extract_high _ _ 5 4).trans ((extract_high _ _ 4 4).trans ((extract_high _ _ 3 4).trans
      ((extract_high _ _ 2 4).trans ((extract_high _ _ 1 4).trans ((extract_high _ _ 0 4).trans (extract_low _ _)))))))
  · exact (extract_high _ _ 10 3).trans ((extract_high _ _ 9 3).trans ((extract_high _ _ 8 3).trans ((extract_high _ _ 7 3).trans
      ((extract_high _ _ 6 3).trans ((extract_high _ _ 5 3).trans ((extract_high _ _ 4 3).trans ((extract_high _ _ 0 3).trans (extract_low _ _))))))))
  · exact (bit_high _ _ 13).trans ((bit_high _ _ 12).trans ((bit_high _ _ 11).trans ((bit_high _ _ 10).trans ((bit_high _ _ 9).trans
      ((bit_high _ _ 8).trans ((bit_high _ _ 7).trans ((bit_high _ _ 3).trans ((bit_high _ _ 0).trans (bit_zero _ _)))))))))
  · exact (bit_high _ _ 14).trans ((bit_high _ _ 13).trans ((bit_high _ _ 12).trans ((bit_high _ _ 11).trans ((bit_high _ _ 10).trans
      ((bit_high _ _ 9).trans ((bit_high _ _ 8).trans ((bit_high _ _ 4).trans ((bit_high _ _ 1).trans ((bit_high _ _ 0).trans (bit_zero _ _))))))))))
  · exact (extract_high _ _ 15 7).trans ((extract_high _ _ 14 7).trans ((extract_high _ _ 13 7).trans ((extract_high _ _ 12 7).trans
      ((extract_high _ _ 11 7).trans ((extract_high _ _ 10 7).trans ((extract_high _ _ 9 7).trans ((extract_high _ _ 5 7).trans
      ((extract_high _ _ 2 7).trans ((extract_high _ _ 1 7).trans ((extract_high _ _ 0 7).trans (extract_low _ _)))))))))))
  · exact congrArg BitVec.toNat ((extract_high _ _ 22 2).trans ((extract_high _ _ 21 2).trans ((extract_high _ _ 20 2).trans ((extract_high _ _ 19 2).trans
      ((extract_high _ _ 18 2).trans ((extract_high _ _ 17 2).trans ((extract_high _ _ 16 2).trans ((extract_high _ _ 12 2).trans
      ((extract_high _ _ 9 2).trans ((extract_high _ _ 8 2).trans ((extract_high _ _ 7 2).trans ((extract_high _ _ 0 2).trans (whole _)))))))))))))

theorem decodeExt_bro (k : K01) : decodeExt (encodeExt (.bro k)) = some (.bro k) := by
  obtain ⟨c, bsc, bhi, z1, sel, na, aa, nb, ab, nc, ac, z2⟩ := k
  obtain ⟨h1, h2, h3, h4, h5, h6, h7, h8, h9, h10, h11, h12, h13⟩ := bro_fields c bsc bhi z1 sel na aa nb ab nc ac z2
  simp only [decodeExt, h1, h2, h3, h4, h5, h6, h7, h8, h9, h10, h11, h12, h13]
  rfl

theorem par_fields (scope : BitVec 3) (order scale size : BitVec 2) (sx : Bool) (ccls : BitVec 2) (sel : BitVec 4) (val : BitVec 14) :
    let w := encodeExt (.par ⟨scope, order, scale, size, sx, ccls, sel, val⟩)
    w.extractLsb' 0 14 = val ∧ w.extractLsb' 14 4 = sel ∧ w.extractLsb' 18 2 = ccls ∧ w.getLsbD 20 = sx ∧
      w.extractLsb' 21 2 = size ∧ w.extractLsb' 23 2 = scale ∧ w.extractLsb' 25 2 = order ∧ w.extractLsb' 27 3 = scope ∧
      extKind w = 2 := by
  refine ⟨extract_low _ _, (extract_high _ _ 0 4).trans (extract_low _ _),
    (extract_high _ _ 4 2).trans ((extract_high _ _ 0 2).trans (extract_low _ _)),
    (bit_high _ _ 6).trans ((bit_high _ _ 2).trans ((bit_high _ _ 0).trans (bit_zero _ _))), ?_, ?_, ?_, ?_, ?_⟩
  · exact (extract_high _ _ 7 2).trans ((extract_high _ _ 3 2).trans ((extract_high _ _ 1 2).trans ((extract_high _ _ 0 2).trans (extract_low _ _))))
  · exact (extract_high _ _ 9 2).trans ((extract_high _ _ 5 2).trans ((extract_high _ _ 3 2).trans ((extract_high _ _ 2 2).trans
      ((extract_high _ _ 0 2).trans (extract_low _ _)))))
  · exact (extract_high _ _ 11 2).trans ((extract_high _ _ 7 2).trans ((extract_high _ _ 5 2).trans ((extract_high _ _ 4 2).trans
      ((extract_high _ _ 2 2).trans ((extract_high _ _ 0 2).trans (extract_low _ _))))))
  · exact (extract_high _ _ 13 3).trans ((extract_high _ _ 9 3).trans ((extract_high _ _ 7 3).trans ((extract_high _ _ 6 3).trans
      ((extract_high _ _ 4 3).trans ((extract_high _ _ 2 3).trans ((extract_high _ _ 0 3).trans (extract_low _ _)))))))
  · exact congrArg BitVec.toNat ((extract_high _ _ 16 2).trans ((extract_high _ _ 12 2).trans ((extract_high _ _ 10 2).trans ((extract_high _ _ 9 2).trans
      ((extract_high _ _ 7 2).trans ((extract_high _ _ 5 2).trans ((extract_high _ _ 3 2).trans ((extract_high _ _ 0 2).trans (whole _)))))))))

theorem decodeExt_par (k : K10) : decodeExt (encodeExt (.par k)) = some (.par k) := by
  obtain ⟨scope, order, scale, size, sx, ccls, sel, val⟩ := k
  obtain ⟨h1, h2, h3, h4, h5, h6, h7, h8, h9⟩ := par_fields scope order scale size sx ccls sel val
  simp only [decodeExt, h1, h2, h3, h4, h5, h6, h7, h8, h9]
  rfl

/-- The extension word that an instruction carries is read back. -/
theorem decodeExt_encodeExt (x : Ext) : (if extPresent x then decodeExt (encodeExt x) else some Ext.none) = some x := by
  cases x with
  | none => rfl
  | imm v => simpa [extPresent] using decodeExt_imm v
  | bro k => simpa [extPresent] using decodeExt_bro k
  | par k => simpa [extPresent] using decodeExt_par k

/-- Decoding the words of an instruction comes down to choosing its constructor by the opcode and the operand word. -/
theorem decode_encode {i : Instr} (hop : opcode i < 128) (ha : opAssigned (opcode i) = true)
    (hx : extAccepted (opForm (opcode i)) (opnd i).x = true) (hd : decodeOp (opcode i) (opnd i) = some i) :
    decode (encode i).1 (encode i).2 = .instr i (instrLen i) := by
  obtain ⟨hb, hA, hD, ho, he, hs⟩ := first_fields (opnd i).st (extPresent (opnd i).x) (BitVec.ofNat 7 (opcode i)) (opnd i).d (opnd i).a (opnd i).b
  have hop2 : (BitVec.ofNat 7 (opcode i)).toNat = opcode i := by
    rw [BitVec.toNat_ofNat]; exact Nat.mod_eq_of_lt hop
  have h0 : ¬ (encodeFirst i = 0) := by
    intro h
    have h1 : (BitVec.ofNat 7 (opcode i)).toNat = 0 := by
      rw [← ho]
      have := congrArg (fun w : W32 => (w.extractLsb' 21 7).toNat) h
      simpa [encodeFirst] using this
    rw [hop2] at h1
    rw [h1] at ha
    exact absurd ha (by decide)
  have hext := decodeExt_encodeExt (opnd i).x
  simp only [encode, decode, h0, if_false]
  simp only [encodeFirst, hb, hA, hD, ho, hs, hasExt, he, hop2, ha, hext, hx, hd, instrLen]
  simp

end Sys2Proof.Laws
end

