-- ==== Sys2Proof/Laws/State.lean ====
section
/-! SUPPORT. One lemma for each field and each update of the state that the other operations are made of, true by definition. -/

namespace Sys2Proof.Laws

open Sys2Proof.Machine

@[simp] theorem onG_g (f : Group → Group) (s : State) : (onG f s).g = f s.g := rfl
@[simp] theorem onG_others (f : Group → Group) (s : State) : (onG f s).others = s.others := rfl
@[simp] theorem onG_panels (f : Group → Group) (s : State) : (onG f s).panels = s.panels := rfl
@[simp] theorem onG_scratch (f : Group → Group) (s : State) : (onG f s).scratch = s.scratch := rfl
@[simp] theorem onG_frames (f : Group → Group) (s : State) : (onG f s).frames = s.frames := rfl
@[simp] theorem onG_wptr (f : Group → Group) (s : State) : (onG f s).wptr = s.wptr := rfl
@[simp] theorem onG_cyc (f : Group → Group) (s : State) : (onG f s).cyc = s.cyc := rfl
@[simp] theorem onG_tlb (f : Group → Group) (s : State) : (onG f s).tlb = s.tlb := rfl
@[simp] theorem onG_icache (f : Group → Group) (s : State) : (onG f s).icache = s.icache := rfl
@[simp] theorem onG_leaves (f : Group → Group) (s : State) : (onG f s).leaves = s.leaves := rfl
@[simp] theorem onG_l1 (f : Group → Group) (s : State) : (onG f s).l1 = s.l1 := rfl
@[simp] theorem onG_cmds (f : Group → Group) (s : State) : (onG f s).cmds = s.cmds := rfl
@[simp] theorem onG_slotHeld (f : Group → Group) (s : State) : (onG f s).slotHeld = s.slotHeld := rfl
@[simp] theorem onG_spnbase (f : Group → Group) (s : State) : (onG f s).spnbase = s.spnbase := rfl
@[simp] theorem onG_spnsize (f : Group → Group) (s : State) : (onG f s).spnsize = s.spnsize := rfl
@[simp] theorem onG_spntmo (f : Group → Group) (s : State) : (onG f s).spntmo = s.spntmo := rfl
@[simp] theorem onG_bins (f : Group → Group) (s : State) : (onG f s).bins = s.bins := rfl
@[simp] theorem onG_formed (f : Group → Group) (s : State) : (onG f s).formed = s.formed := rfl
@[simp] theorem onG_passes (f : Group → Group) (s : State) : (onG f s).passes = s.passes := rfl
@[simp] theorem onG_mem (f : Group → Group) (s : State) : (onG f s).mem = s.mem := rfl
@[simp] theorem onG_poison (f : Group → Group) (s : State) : (onG f s).poison = s.poison := rfl
@[simp] theorem onG_image (f : Group → Group) (s : State) : (onG f s).image = s.image := rfl
@[simp] theorem onG_lines (f : Group → Group) (s : State) : (onG f s).lines = s.lines := rfl
@[simp] theorem onG_lostWays (f : Group → Group) (s : State) : (onG f s).lostWays = s.lostWays := rfl
@[simp] theorem onG_tags (f : Group → Group) (s : State) : (onG f s).tags = s.tags := rfl
@[simp] theorem onG_accs (f : Group → Group) (s : State) : (onG f s).accs = s.accs := rfl
@[simp] theorem onG_accCount (f : Group → Group) (s : State) : (onG f s).accCount = s.accCount := rfl
@[simp] theorem onG_peerAccs (f : Group → Group) (s : State) : (onG f s).peerAccs = s.peerAccs := rfl
@[simp] theorem onG_performed (f : Group → Group) (s : State) : (onG f s).performed = s.performed := rfl
@[simp] theorem onG_hostLines (f : Group → Group) (s : State) : (onG f s).hostLines = s.hostLines := rfl
@[simp] theorem onG_win (f : Group → Group) (s : State) : (onG f s).win = s.win := rfl
@[simp] theorem onG_lastQueue (f : Group → Group) (s : State) : (onG f s).lastQueue = s.lastQueue := rfl
@[simp] theorem onG_bolts (f : Group → Group) (s : State) : (onG f s).bolts = s.bolts := rfl
@[simp] theorem onG_snapped (f : Group → Group) (s : State) : (onG f s).snapped = s.snapped := rfl
@[simp] theorem onG_outbound (f : Group → Group) (s : State) : (onG f s).outbound = s.outbound := rfl
@[simp] theorem onG_waiting (f : Group → Group) (s : State) : (onG f s).waiting = s.waiting := rfl
@[simp] theorem onG_hostLink (f : Group → Group) (s : State) : (onG f s).hostLink = s.hostLink := rfl
@[simp] theorem onG_capStart (f : Group → Group) (s : State) : (onG f s).capStart = s.capStart := rfl
@[simp] theorem onG_lastFix (f : Group → Group) (s : State) : (onG f s).lastFix = s.lastFix := rfl
@[simp] theorem onG_lasting (f : Group → Group) (s : State) : (onG f s).lasting = s.lasting := rfl
@[simp] theorem onG_spareRows (f : Group → Group) (s : State) : (onG f s).spareRows = s.spareRows := rfl
@[simp] theorem onG_rowCopies (f : Group → Group) (s : State) : (onG f s).rowCopies = s.rowCopies := rfl
@[simp] theorem onG_lateWrites (f : Group → Group) (s : State) : (onG f s).lateWrites = s.lateWrites := rfl
@[simp] theorem onG_reqLost (f : Group → Group) (s : State) : (onG f s).reqLost = s.reqLost := rfl
@[simp] theorem onG_wr (f : Group → Group) (s : State) : (onG f s).wr = s.wr := rfl
@[simp] theorem onG_nextId (f : Group → Group) (s : State) : (onG f s).nextId = s.nextId := rfl
@[simp] theorem onG_free (f : Group → Group) (s : State) : (onG f s).free = s.free := rfl
@[simp] theorem onG_holds (f : Group → Group) (s : State) : (onG f s).holds = s.holds := rfl
@[simp] theorem onG_parts (f : Group → Group) (s : State) : (onG f s).parts = s.parts := rfl
@[simp] theorem onG_refetch (f : Group → Group) (s : State) : (onG f s).refetch = s.refetch := rfl
@[simp] theorem onG_fills (f : Group → Group) (s : State) : (onG f s).fills = s.fills := rfl
@[simp] theorem onG_turns (f : Group → Group) (s : State) : (onG f s).turns = s.turns := rfl
@[simp] theorem onG_errors (f : Group → Group) (s : State) : (onG f s).errors = s.errors := rfl
@[simp] theorem onG_inputs (f : Group → Group) (s : State) : (onG f s).inputs = s.inputs := rfl
@[simp] theorem onG_outputs (f : Group → Group) (s : State) : (onG f s).outputs = s.outputs := rfl

@[simp] theorem mapGroups_g (f : Group → Group) (s : State) : (mapGroups f s).g = f s.g := rfl
@[simp] theorem mapGroups_others (f : Group → Group) (s : State) : (mapGroups f s).others = s.others.map f := rfl
@[simp] theorem mapGroups_panels (f : Group → Group) (s : State) : (mapGroups f s).panels = s.panels := rfl
@[simp] theorem mapGroups_scratch (f : Group → Group) (s : State) : (mapGroups f s).scratch = s.scratch := rfl
@[simp] theorem mapGroups_frames (f : Group → Group) (s : State) : (mapGroups f s).frames = s.frames := rfl
@[simp] theorem mapGroups_wptr (f : Group → Group) (s : State) : (mapGroups f s).wptr = s.wptr := rfl
@[simp] theorem mapGroups_cyc (f : Group → Group) (s : State) : (mapGroups f s).cyc = s.cyc := rfl
@[simp] theorem mapGroups_tlb (f : Group → Group) (s : State) : (mapGroups f s).tlb = s.tlb := rfl
@[simp] theorem mapGroups_icache (f : Group → Group) (s : State) : (mapGroups f s).icache = s.icache := rfl
@[simp] theorem mapGroups_leaves (f : Group → Group) (s : State) : (mapGroups f s).leaves = s.leaves := rfl
@[simp] theorem mapGroups_l1 (f : Group → Group) (s : State) : (mapGroups f s).l1 = s.l1 := rfl
@[simp] theorem mapGroups_cmds (f : Group → Group) (s : State) : (mapGroups f s).cmds = s.cmds := rfl
@[simp] theorem mapGroups_slotHeld (f : Group → Group) (s : State) : (mapGroups f s).slotHeld = s.slotHeld := rfl
@[simp] theorem mapGroups_spnbase (f : Group → Group) (s : State) : (mapGroups f s).spnbase = s.spnbase := rfl
@[simp] theorem mapGroups_spnsize (f : Group → Group) (s : State) : (mapGroups f s).spnsize = s.spnsize := rfl
@[simp] theorem mapGroups_spntmo (f : Group → Group) (s : State) : (mapGroups f s).spntmo = s.spntmo := rfl
@[simp] theorem mapGroups_bins (f : Group → Group) (s : State) : (mapGroups f s).bins = s.bins := rfl
@[simp] theorem mapGroups_formed (f : Group → Group) (s : State) : (mapGroups f s).formed = s.formed := rfl
@[simp] theorem mapGroups_passes (f : Group → Group) (s : State) : (mapGroups f s).passes = s.passes := rfl
@[simp] theorem mapGroups_mem (f : Group → Group) (s : State) : (mapGroups f s).mem = s.mem := rfl
@[simp] theorem mapGroups_poison (f : Group → Group) (s : State) : (mapGroups f s).poison = s.poison := rfl
@[simp] theorem mapGroups_image (f : Group → Group) (s : State) : (mapGroups f s).image = s.image := rfl
@[simp] theorem mapGroups_lines (f : Group → Group) (s : State) : (mapGroups f s).lines = s.lines := rfl
@[simp] theorem mapGroups_lostWays (f : Group → Group) (s : State) : (mapGroups f s).lostWays = s.lostWays := rfl
@[simp] theorem mapGroups_tags (f : Group → Group) (s : State) : (mapGroups f s).tags = s.tags := rfl
@[simp] theorem mapGroups_accs (f : Group → Group) (s : State) : (mapGroups f s).accs = s.accs := rfl
@[simp] theorem mapGroups_accCount (f : Group → Group) (s : State) : (mapGroups f s).accCount = s.accCount := rfl
@[simp] theorem mapGroups_peerAccs (f : Group → Group) (s : State) : (mapGroups f s).peerAccs = s.peerAccs := rfl
@[simp] theorem mapGroups_performed (f : Group → Group) (s : State) : (mapGroups f s).performed = s.performed := rfl
@[simp] theorem mapGroups_hostLines (f : Group → Group) (s : State) : (mapGroups f s).hostLines = s.hostLines := rfl
@[simp] theorem mapGroups_win (f : Group → Group) (s : State) : (mapGroups f s).win = s.win := rfl
@[simp] theorem mapGroups_lastQueue (f : Group → Group) (s : State) : (mapGroups f s).lastQueue = s.lastQueue := rfl
@[simp] theorem mapGroups_bolts (f : Group → Group) (s : State) : (mapGroups f s).bolts = s.bolts := rfl
@[simp] theorem mapGroups_snapped (f : Group → Group) (s : State) : (mapGroups f s).snapped = s.snapped := rfl
@[simp] theorem mapGroups_outbound (f : Group → Group) (s : State) : (mapGroups f s).outbound = s.outbound := rfl
@[simp] theorem mapGroups_waiting (f : Group → Group) (s : State) : (mapGroups f s).waiting = s.waiting := rfl
@[simp] theorem mapGroups_hostLink (f : Group → Group) (s : State) : (mapGroups f s).hostLink = s.hostLink := rfl
@[simp] theorem mapGroups_capStart (f : Group → Group) (s : State) : (mapGroups f s).capStart = s.capStart := rfl
@[simp] theorem mapGroups_lastFix (f : Group → Group) (s : State) : (mapGroups f s).lastFix = s.lastFix := rfl
@[simp] theorem mapGroups_lasting (f : Group → Group) (s : State) : (mapGroups f s).lasting = s.lasting := rfl
@[simp] theorem mapGroups_spareRows (f : Group → Group) (s : State) : (mapGroups f s).spareRows = s.spareRows := rfl
@[simp] theorem mapGroups_rowCopies (f : Group → Group) (s : State) : (mapGroups f s).rowCopies = s.rowCopies := rfl
@[simp] theorem mapGroups_lateWrites (f : Group → Group) (s : State) : (mapGroups f s).lateWrites = s.lateWrites := rfl
@[simp] theorem mapGroups_reqLost (f : Group → Group) (s : State) : (mapGroups f s).reqLost = s.reqLost := rfl
@[simp] theorem mapGroups_wr (f : Group → Group) (s : State) : (mapGroups f s).wr = s.wr := rfl
@[simp] theorem mapGroups_nextId (f : Group → Group) (s : State) : (mapGroups f s).nextId = s.nextId := rfl
@[simp] theorem mapGroups_free (f : Group → Group) (s : State) : (mapGroups f s).free = s.free := rfl
@[simp] theorem mapGroups_holds (f : Group → Group) (s : State) : (mapGroups f s).holds = s.holds := rfl
@[simp] theorem mapGroups_parts (f : Group → Group) (s : State) : (mapGroups f s).parts = s.parts := rfl
@[simp] theorem mapGroups_refetch (f : Group → Group) (s : State) : (mapGroups f s).refetch = s.refetch := rfl
@[simp] theorem mapGroups_fills (f : Group → Group) (s : State) : (mapGroups f s).fills = s.fills := rfl
@[simp] theorem mapGroups_turns (f : Group → Group) (s : State) : (mapGroups f s).turns = s.turns := rfl
@[simp] theorem mapGroups_errors (f : Group → Group) (s : State) : (mapGroups f s).errors = s.errors := rfl
@[simp] theorem mapGroups_inputs (f : Group → Group) (s : State) : (mapGroups f s).inputs = s.inputs := rfl
@[simp] theorem mapGroups_outputs (f : Group → Group) (s : State) : (mapGroups f s).outputs = s.outputs := rfl

@[simp] theorem bump_g (s : State) : (bump s).g = s.g := rfl
@[simp] theorem bump_others (s : State) : (bump s).others = s.others := rfl
@[simp] theorem bump_panels (s : State) : (bump s).panels = s.panels := rfl
@[simp] theorem bump_scratch (s : State) : (bump s).scratch = s.scratch := rfl
@[simp] theorem bump_frames (s : State) : (bump s).frames = s.frames := rfl
@[simp] theorem bump_wptr (s : State) : (bump s).wptr = s.wptr := rfl
@[simp] theorem bump_cyc (s : State) : (bump s).cyc = s.cyc := rfl
@[simp] theorem bump_tlb (s : State) : (bump s).tlb = s.tlb := rfl
@[simp] theorem bump_icache (s : State) : (bump s).icache = s.icache := rfl
@[simp] theorem bump_leaves (s : State) : (bump s).leaves = s.leaves := rfl
@[simp] theorem bump_l1 (s : State) : (bump s).l1 = s.l1 := rfl
@[simp] theorem bump_cmds (s : State) : (bump s).cmds = s.cmds := rfl
@[simp] theorem bump_slotHeld (s : State) : (bump s).slotHeld = s.slotHeld := rfl
@[simp] theorem bump_spnbase (s : State) : (bump s).spnbase = s.spnbase := rfl
@[simp] theorem bump_spnsize (s : State) : (bump s).spnsize = s.spnsize := rfl
@[simp] theorem bump_spntmo (s : State) : (bump s).spntmo = s.spntmo := rfl
@[simp] theorem bump_bins (s : State) : (bump s).bins = s.bins := rfl
@[simp] theorem bump_formed (s : State) : (bump s).formed = s.formed := rfl
@[simp] theorem bump_passes (s : State) : (bump s).passes = s.passes := rfl
@[simp] theorem bump_mem (s : State) : (bump s).mem = s.mem := rfl
@[simp] theorem bump_poison (s : State) : (bump s).poison = s.poison := rfl
@[simp] theorem bump_image (s : State) : (bump s).image = s.image := rfl
@[simp] theorem bump_lines (s : State) : (bump s).lines = s.lines := rfl
@[simp] theorem bump_lostWays (s : State) : (bump s).lostWays = s.lostWays := rfl
@[simp] theorem bump_tags (s : State) : (bump s).tags = s.tags := rfl
@[simp] theorem bump_accs (s : State) : (bump s).accs = s.accs := rfl
@[simp] theorem bump_accCount (s : State) : (bump s).accCount = s.accCount := rfl
@[simp] theorem bump_peerAccs (s : State) : (bump s).peerAccs = s.peerAccs := rfl
@[simp] theorem bump_performed (s : State) : (bump s).performed = s.performed := rfl
@[simp] theorem bump_hostLines (s : State) : (bump s).hostLines = s.hostLines := rfl
@[simp] theorem bump_win (s : State) : (bump s).win = s.win := rfl
@[simp] theorem bump_lastQueue (s : State) : (bump s).lastQueue = s.lastQueue := rfl
@[simp] theorem bump_bolts (s : State) : (bump s).bolts = s.bolts := rfl
@[simp] theorem bump_snapped (s : State) : (bump s).snapped = s.snapped := rfl
@[simp] theorem bump_outbound (s : State) : (bump s).outbound = s.outbound := rfl
@[simp] theorem bump_waiting (s : State) : (bump s).waiting = s.waiting := rfl
@[simp] theorem bump_hostLink (s : State) : (bump s).hostLink = s.hostLink := rfl
@[simp] theorem bump_capStart (s : State) : (bump s).capStart = s.capStart := rfl
@[simp] theorem bump_lastFix (s : State) : (bump s).lastFix = s.lastFix := rfl
@[simp] theorem bump_lasting (s : State) : (bump s).lasting = s.lasting := rfl
@[simp] theorem bump_spareRows (s : State) : (bump s).spareRows = s.spareRows := rfl
@[simp] theorem bump_rowCopies (s : State) : (bump s).rowCopies = s.rowCopies := rfl
@[simp] theorem bump_lateWrites (s : State) : (bump s).lateWrites = s.lateWrites := rfl
@[simp] theorem bump_reqLost (s : State) : (bump s).reqLost = s.reqLost := rfl
@[simp] theorem bump_wr (s : State) : (bump s).wr = s.wr := rfl
@[simp] theorem bump_nextId (s : State) : (bump s).nextId = s.nextId := rfl
@[simp] theorem bump_free (s : State) : (bump s).free = s.free + 1 := rfl
@[simp] theorem bump_holds (s : State) : (bump s).holds = s.holds := rfl
@[simp] theorem bump_parts (s : State) : (bump s).parts = s.parts := rfl
@[simp] theorem bump_refetch (s : State) : (bump s).refetch = s.refetch := rfl
@[simp] theorem bump_fills (s : State) : (bump s).fills = s.fills := rfl
@[simp] theorem bump_turns (s : State) : (bump s).turns = s.turns := rfl
@[simp] theorem bump_errors (s : State) : (bump s).errors = s.errors := rfl
@[simp] theorem bump_inputs (s : State) : (bump s).inputs = s.inputs := rfl
@[simp] theorem bump_outputs (s : State) : (bump s).outputs = s.outputs := rfl

@[simp] theorem wb_g (s : State) (k : Nat) (b : Byte) : (wb s k b).g = s.g := rfl
@[simp] theorem wb_others (s : State) (k : Nat) (b : Byte) : (wb s k b).others = s.others := rfl
@[simp] theorem wb_panels (s : State) (k : Nat) (b : Byte) : (wb s k b).panels = s.panels := rfl
@[simp] theorem wb_scratch (s : State) (k : Nat) (b : Byte) : (wb s k b).scratch = s.scratch := rfl
@[simp] theorem wb_frames (s : State) (k : Nat) (b : Byte) : (wb s k b).frames = s.frames := rfl
@[simp] theorem wb_wptr (s : State) (k : Nat) (b : Byte) : (wb s k b).wptr = s.wptr := rfl
@[simp] theorem wb_cyc (s : State) (k : Nat) (b : Byte) : (wb s k b).cyc = s.cyc := rfl
@[simp] theorem wb_tlb (s : State) (k : Nat) (b : Byte) : (wb s k b).tlb = s.tlb := rfl
@[simp] theorem wb_icache (s : State) (k : Nat) (b : Byte) : (wb s k b).icache = s.icache := rfl
@[simp] theorem wb_leaves (s : State) (k : Nat) (b : Byte) : (wb s k b).leaves = s.leaves := rfl
@[simp] theorem wb_l1 (s : State) (k : Nat) (b : Byte) : (wb s k b).l1 = s.l1 := rfl
@[simp] theorem wb_cmds (s : State) (k : Nat) (b : Byte) : (wb s k b).cmds = s.cmds := rfl
@[simp] theorem wb_slotHeld (s : State) (k : Nat) (b : Byte) : (wb s k b).slotHeld = s.slotHeld := rfl
@[simp] theorem wb_spnbase (s : State) (k : Nat) (b : Byte) : (wb s k b).spnbase = s.spnbase := rfl
@[simp] theorem wb_spnsize (s : State) (k : Nat) (b : Byte) : (wb s k b).spnsize = s.spnsize := rfl
@[simp] theorem wb_spntmo (s : State) (k : Nat) (b : Byte) : (wb s k b).spntmo = s.spntmo := rfl
@[simp] theorem wb_bins (s : State) (k : Nat) (b : Byte) : (wb s k b).bins = s.bins := rfl
@[simp] theorem wb_formed (s : State) (k : Nat) (b : Byte) : (wb s k b).formed = s.formed := rfl
@[simp] theorem wb_passes (s : State) (k : Nat) (b : Byte) : (wb s k b).passes = s.passes := rfl
@[simp] theorem wb_mem (s : State) (k : Nat) (b : Byte) : (wb s k b).mem = s.mem := rfl
@[simp] theorem wb_poison (s : State) (k : Nat) (b : Byte) : (wb s k b).poison = s.poison := rfl
@[simp] theorem wb_image (s : State) (k : Nat) (b : Byte) : (wb s k b).image = s.image := rfl
@[simp] theorem wb_lines (s : State) (k : Nat) (b : Byte) : (wb s k b).lines = s.lines := rfl
@[simp] theorem wb_lostWays (s : State) (k : Nat) (b : Byte) : (wb s k b).lostWays = s.lostWays := rfl
@[simp] theorem wb_tags (s : State) (k : Nat) (b : Byte) : (wb s k b).tags = s.tags := rfl
@[simp] theorem wb_accs (s : State) (k : Nat) (b : Byte) : (wb s k b).accs = s.accs := rfl
@[simp] theorem wb_accCount (s : State) (k : Nat) (b : Byte) : (wb s k b).accCount = s.accCount := rfl
@[simp] theorem wb_peerAccs (s : State) (k : Nat) (b : Byte) : (wb s k b).peerAccs = s.peerAccs := rfl
@[simp] theorem wb_performed (s : State) (k : Nat) (b : Byte) : (wb s k b).performed = s.performed := rfl
@[simp] theorem wb_hostLines (s : State) (k : Nat) (b : Byte) : (wb s k b).hostLines = s.hostLines := rfl
@[simp] theorem wb_win (s : State) (k : Nat) (b : Byte) : (wb s k b).win = s.win := rfl
@[simp] theorem wb_lastQueue (s : State) (k : Nat) (b : Byte) : (wb s k b).lastQueue = s.lastQueue := rfl
@[simp] theorem wb_bolts (s : State) (k : Nat) (b : Byte) : (wb s k b).bolts = s.bolts := rfl
@[simp] theorem wb_snapped (s : State) (k : Nat) (b : Byte) : (wb s k b).snapped = s.snapped := rfl
@[simp] theorem wb_outbound (s : State) (k : Nat) (b : Byte) : (wb s k b).outbound = s.outbound := rfl
@[simp] theorem wb_waiting (s : State) (k : Nat) (b : Byte) : (wb s k b).waiting = s.waiting := rfl
@[simp] theorem wb_hostLink (s : State) (k : Nat) (b : Byte) : (wb s k b).hostLink = s.hostLink := rfl
@[simp] theorem wb_capStart (s : State) (k : Nat) (b : Byte) : (wb s k b).capStart = s.capStart := rfl
@[simp] theorem wb_lastFix (s : State) (k : Nat) (b : Byte) : (wb s k b).lastFix = s.lastFix := rfl
@[simp] theorem wb_lasting (s : State) (k : Nat) (b : Byte) : (wb s k b).lasting = s.lasting := rfl
@[simp] theorem wb_spareRows (s : State) (k : Nat) (b : Byte) : (wb s k b).spareRows = s.spareRows := rfl
@[simp] theorem wb_rowCopies (s : State) (k : Nat) (b : Byte) : (wb s k b).rowCopies = s.rowCopies := rfl
@[simp] theorem wb_lateWrites (s : State) (k : Nat) (b : Byte) : (wb s k b).lateWrites = s.lateWrites := rfl
@[simp] theorem wb_reqLost (s : State) (k : Nat) (b : Byte) : (wb s k b).reqLost = s.reqLost := rfl
@[simp] theorem wb_wr (s : State) (k : Nat) (b : Byte) : (wb s k b).wr = (k, b) :: s.wr := rfl
@[simp] theorem wb_nextId (s : State) (k : Nat) (b : Byte) : (wb s k b).nextId = s.nextId := rfl
@[simp] theorem wb_free (s : State) (k : Nat) (b : Byte) : (wb s k b).free = s.free := rfl
@[simp] theorem wb_holds (s : State) (k : Nat) (b : Byte) : (wb s k b).holds = s.holds := rfl
@[simp] theorem wb_parts (s : State) (k : Nat) (b : Byte) : (wb s k b).parts = s.parts := rfl
@[simp] theorem wb_refetch (s : State) (k : Nat) (b : Byte) : (wb s k b).refetch = s.refetch := rfl
@[simp] theorem wb_fills (s : State) (k : Nat) (b : Byte) : (wb s k b).fills = s.fills := rfl
@[simp] theorem wb_turns (s : State) (k : Nat) (b : Byte) : (wb s k b).turns = s.turns := rfl
@[simp] theorem wb_errors (s : State) (k : Nat) (b : Byte) : (wb s k b).errors = s.errors := rfl
@[simp] theorem wb_inputs (s : State) (k : Nat) (b : Byte) : (wb s k b).inputs = s.inputs := rfl
@[simp] theorem wb_outputs (s : State) (k : Nat) (b : Byte) : (wb s k b).outputs = s.outputs := rfl

@[simp] theorem wrWin_g (s : State) (o : Nat) (v : W64) : (wrWin s o v).g = s.g := rfl
@[simp] theorem wrWin_others (s : State) (o : Nat) (v : W64) : (wrWin s o v).others = s.others := rfl
@[simp] theorem wrWin_panels (s : State) (o : Nat) (v : W64) : (wrWin s o v).panels = s.panels := rfl
@[simp] theorem wrWin_scratch (s : State) (o : Nat) (v : W64) : (wrWin s o v).scratch = s.scratch := rfl
@[simp] theorem wrWin_frames (s : State) (o : Nat) (v : W64) : (wrWin s o v).frames = s.frames := rfl
@[simp] theorem wrWin_wptr (s : State) (o : Nat) (v : W64) : (wrWin s o v).wptr = s.wptr := rfl
@[simp] theorem wrWin_cyc (s : State) (o : Nat) (v : W64) : (wrWin s o v).cyc = s.cyc := rfl
@[simp] theorem wrWin_tlb (s : State) (o : Nat) (v : W64) : (wrWin s o v).tlb = s.tlb := rfl
@[simp] theorem wrWin_icache (s : State) (o : Nat) (v : W64) : (wrWin s o v).icache = s.icache := rfl
@[simp] theorem wrWin_leaves (s : State) (o : Nat) (v : W64) : (wrWin s o v).leaves = s.leaves := rfl
@[simp] theorem wrWin_l1 (s : State) (o : Nat) (v : W64) : (wrWin s o v).l1 = s.l1 := rfl
@[simp] theorem wrWin_cmds (s : State) (o : Nat) (v : W64) : (wrWin s o v).cmds = s.cmds := rfl
@[simp] theorem wrWin_slotHeld (s : State) (o : Nat) (v : W64) : (wrWin s o v).slotHeld = s.slotHeld := rfl
@[simp] theorem wrWin_spnbase (s : State) (o : Nat) (v : W64) : (wrWin s o v).spnbase = s.spnbase := rfl
@[simp] theorem wrWin_spnsize (s : State) (o : Nat) (v : W64) : (wrWin s o v).spnsize = s.spnsize := rfl
@[simp] theorem wrWin_spntmo (s : State) (o : Nat) (v : W64) : (wrWin s o v).spntmo = s.spntmo := rfl
@[simp] theorem wrWin_bins (s : State) (o : Nat) (v : W64) : (wrWin s o v).bins = s.bins := rfl
@[simp] theorem wrWin_formed (s : State) (o : Nat) (v : W64) : (wrWin s o v).formed = s.formed := rfl
@[simp] theorem wrWin_passes (s : State) (o : Nat) (v : W64) : (wrWin s o v).passes = s.passes := rfl
@[simp] theorem wrWin_mem (s : State) (o : Nat) (v : W64) : (wrWin s o v).mem = s.mem := rfl
@[simp] theorem wrWin_poison (s : State) (o : Nat) (v : W64) : (wrWin s o v).poison = s.poison := rfl
@[simp] theorem wrWin_image (s : State) (o : Nat) (v : W64) : (wrWin s o v).image = s.image := rfl
@[simp] theorem wrWin_lines (s : State) (o : Nat) (v : W64) : (wrWin s o v).lines = s.lines := rfl
@[simp] theorem wrWin_lostWays (s : State) (o : Nat) (v : W64) : (wrWin s o v).lostWays = s.lostWays := rfl
@[simp] theorem wrWin_tags (s : State) (o : Nat) (v : W64) : (wrWin s o v).tags = s.tags := rfl
@[simp] theorem wrWin_accs (s : State) (o : Nat) (v : W64) : (wrWin s o v).accs = s.accs := rfl
@[simp] theorem wrWin_accCount (s : State) (o : Nat) (v : W64) : (wrWin s o v).accCount = s.accCount := rfl
@[simp] theorem wrWin_peerAccs (s : State) (o : Nat) (v : W64) : (wrWin s o v).peerAccs = s.peerAccs := rfl
@[simp] theorem wrWin_performed (s : State) (o : Nat) (v : W64) : (wrWin s o v).performed = s.performed := rfl
@[simp] theorem wrWin_hostLines (s : State) (o : Nat) (v : W64) : (wrWin s o v).hostLines = s.hostLines := rfl
@[simp] theorem wrWin_win (s : State) (o : Nat) (v : W64) : (wrWin s o v).win = cset winReset s.win o v := rfl
@[simp] theorem wrWin_lastQueue (s : State) (o : Nat) (v : W64) : (wrWin s o v).lastQueue = s.lastQueue := rfl
@[simp] theorem wrWin_bolts (s : State) (o : Nat) (v : W64) : (wrWin s o v).bolts = s.bolts := rfl
@[simp] theorem wrWin_snapped (s : State) (o : Nat) (v : W64) : (wrWin s o v).snapped = s.snapped := rfl
@[simp] theorem wrWin_outbound (s : State) (o : Nat) (v : W64) : (wrWin s o v).outbound = s.outbound := rfl
@[simp] theorem wrWin_waiting (s : State) (o : Nat) (v : W64) : (wrWin s o v).waiting = s.waiting := rfl
@[simp] theorem wrWin_hostLink (s : State) (o : Nat) (v : W64) : (wrWin s o v).hostLink = s.hostLink := rfl
@[simp] theorem wrWin_capStart (s : State) (o : Nat) (v : W64) : (wrWin s o v).capStart = s.capStart := rfl
@[simp] theorem wrWin_lastFix (s : State) (o : Nat) (v : W64) : (wrWin s o v).lastFix = s.lastFix := rfl
@[simp] theorem wrWin_lasting (s : State) (o : Nat) (v : W64) : (wrWin s o v).lasting = s.lasting := rfl
@[simp] theorem wrWin_spareRows (s : State) (o : Nat) (v : W64) : (wrWin s o v).spareRows = s.spareRows := rfl
@[simp] theorem wrWin_rowCopies (s : State) (o : Nat) (v : W64) : (wrWin s o v).rowCopies = s.rowCopies := rfl
@[simp] theorem wrWin_lateWrites (s : State) (o : Nat) (v : W64) : (wrWin s o v).lateWrites = s.lateWrites := rfl
@[simp] theorem wrWin_reqLost (s : State) (o : Nat) (v : W64) : (wrWin s o v).reqLost = s.reqLost := rfl
@[simp] theorem wrWin_wr (s : State) (o : Nat) (v : W64) : (wrWin s o v).wr = s.wr := rfl
@[simp] theorem wrWin_nextId (s : State) (o : Nat) (v : W64) : (wrWin s o v).nextId = s.nextId := rfl
@[simp] theorem wrWin_free (s : State) (o : Nat) (v : W64) : (wrWin s o v).free = s.free := rfl
@[simp] theorem wrWin_holds (s : State) (o : Nat) (v : W64) : (wrWin s o v).holds = s.holds := rfl
@[simp] theorem wrWin_parts (s : State) (o : Nat) (v : W64) : (wrWin s o v).parts = s.parts := rfl
@[simp] theorem wrWin_refetch (s : State) (o : Nat) (v : W64) : (wrWin s o v).refetch = s.refetch := rfl
@[simp] theorem wrWin_fills (s : State) (o : Nat) (v : W64) : (wrWin s o v).fills = s.fills := rfl
@[simp] theorem wrWin_turns (s : State) (o : Nat) (v : W64) : (wrWin s o v).turns = s.turns := rfl
@[simp] theorem wrWin_errors (s : State) (o : Nat) (v : W64) : (wrWin s o v).errors = s.errors := rfl
@[simp] theorem wrWin_inputs (s : State) (o : Nat) (v : W64) : (wrWin s o v).inputs = s.inputs := rfl
@[simp] theorem wrWin_outputs (s : State) (o : Nat) (v : W64) : (wrWin s o v).outputs = s.outputs := rfl

@[simp] theorem commit_g (o s : State) : (commit o s).g = s.g := rfl
@[simp] theorem commit_others (o s : State) : (commit o s).others = s.others := rfl
@[simp] theorem commit_panels (o s : State) : (commit o s).panels = s.panels := rfl
@[simp] theorem commit_scratch (o s : State) : (commit o s).scratch = s.scratch := rfl
@[simp] theorem commit_frames (o s : State) : (commit o s).frames = s.frames := rfl
@[simp] theorem commit_wptr (o s : State) : (commit o s).wptr = s.wptr := rfl
@[simp] theorem commit_cyc (o s : State) : (commit o s).cyc = s.cyc := rfl
@[simp] theorem commit_tlb (o s : State) : (commit o s).tlb = s.tlb := rfl
@[simp] theorem commit_icache (o s : State) : (commit o s).icache = s.icache := rfl
@[simp] theorem commit_leaves (o s : State) : (commit o s).leaves = s.leaves := rfl
@[simp] theorem commit_l1 (o s : State) : (commit o s).l1 = s.l1 := rfl
@[simp] theorem commit_cmds (o s : State) : (commit o s).cmds = s.cmds := rfl
@[simp] theorem commit_slotHeld (o s : State) : (commit o s).slotHeld = s.slotHeld := rfl
@[simp] theorem commit_spnbase (o s : State) : (commit o s).spnbase = s.spnbase := rfl
@[simp] theorem commit_spnsize (o s : State) : (commit o s).spnsize = s.spnsize := rfl
@[simp] theorem commit_spntmo (o s : State) : (commit o s).spntmo = s.spntmo := rfl
@[simp] theorem commit_bins (o s : State) : (commit o s).bins = s.bins := rfl
@[simp] theorem commit_formed (o s : State) : (commit o s).formed = s.formed := rfl
@[simp] theorem commit_passes (o s : State) : (commit o s).passes = s.passes := rfl
@[simp] theorem commit_mem (o s : State) : (commit o s).mem = csetAll zero o.mem s.wr.reverse := rfl
@[simp] theorem commit_poison (o s : State) : (commit o s).poison = s.poison := rfl
@[simp] theorem commit_image (o s : State) : (commit o s).image = s.image.map (imageAfter s.wr) := rfl
@[simp] theorem commit_lines (o s : State) : (commit o s).lines = s.lines := rfl
@[simp] theorem commit_lostWays (o s : State) : (commit o s).lostWays = s.lostWays := rfl
@[simp] theorem commit_tags (o s : State) : (commit o s).tags = s.tags := rfl
@[simp] theorem commit_accs (o s : State) : (commit o s).accs = s.accs := rfl
@[simp] theorem commit_accCount (o s : State) : (commit o s).accCount = s.accCount := rfl
@[simp] theorem commit_peerAccs (o s : State) : (commit o s).peerAccs = s.peerAccs := rfl
@[simp] theorem commit_performed (o s : State) : (commit o s).performed = s.performed := rfl
@[simp] theorem commit_hostLines (o s : State) : (commit o s).hostLines = s.hostLines := rfl
@[simp] theorem commit_win (o s : State) : (commit o s).win = s.win := rfl
@[simp] theorem commit_lastQueue (o s : State) : (commit o s).lastQueue = s.lastQueue := rfl
@[simp] theorem commit_bolts (o s : State) : (commit o s).bolts = s.bolts := rfl
@[simp] theorem commit_snapped (o s : State) : (commit o s).snapped = s.snapped := rfl
@[simp] theorem commit_outbound (o s : State) : (commit o s).outbound = s.outbound := rfl
@[simp] theorem commit_waiting (o s : State) : (commit o s).waiting = s.waiting := rfl
@[simp] theorem commit_hostLink (o s : State) : (commit o s).hostLink = s.hostLink := rfl
@[simp] theorem commit_capStart (o s : State) : (commit o s).capStart = s.capStart := rfl
@[simp] theorem commit_lastFix (o s : State) : (commit o s).lastFix = s.lastFix := rfl
@[simp] theorem commit_lasting (o s : State) : (commit o s).lasting = s.lasting := rfl
@[simp] theorem commit_spareRows (o s : State) : (commit o s).spareRows = s.spareRows := rfl
@[simp] theorem commit_rowCopies (o s : State) : (commit o s).rowCopies = s.rowCopies := rfl
@[simp] theorem commit_lateWrites (o s : State) : (commit o s).lateWrites = s.lateWrites := rfl
@[simp] theorem commit_reqLost (o s : State) : (commit o s).reqLost = s.reqLost := rfl
@[simp] theorem commit_wr (o s : State) : (commit o s).wr = [] := rfl
@[simp] theorem commit_nextId (o s : State) : (commit o s).nextId = s.nextId := rfl
@[simp] theorem commit_free (o s : State) : (commit o s).free = s.free := rfl
@[simp] theorem commit_holds (o s : State) : (commit o s).holds = s.holds := rfl
@[simp] theorem commit_parts (o s : State) : (commit o s).parts = s.parts := rfl
@[simp] theorem commit_refetch (o s : State) : (commit o s).refetch = s.refetch := rfl
@[simp] theorem commit_fills (o s : State) : (commit o s).fills = s.fills := rfl
@[simp] theorem commit_turns (o s : State) : (commit o s).turns = s.turns := rfl
@[simp] theorem commit_errors (o s : State) : (commit o s).errors = s.errors := rfl
@[simp] theorem commit_inputs (o s : State) : (commit o s).inputs = s.inputs := rfl
@[simp] theorem commit_outputs (o s : State) : (commit o s).outputs = s.outputs := rfl

end Sys2Proof.Laws
end

