-- ==== Sys2Proof/Laws/Memory.lean ====
section
/-! SUPPORT. Memory itself changes at the end of a step only: every store of a step goes into the journal. So every access, fill,
write-back, translation and fetch leaves the field `mem` as it was. -/

namespace Sys2Proof.Laws

open Sys2Proof.Machine

theorem foldl_mem {α : Type} {f : State → α → State} (h : ∀ a x, (f a x).mem = a.mem) (l : List α) (s : State) :
    (l.foldl f s).mem = s.mem := by
  induction l generalizing s with
  | nil => rfl
  | cons x r ih => rw [List.foldl_cons, ih, h]

@[simp] theorem wbs_mem (s : State) (k : Nat) (bs : List Byte) : (wbs s k bs).mem = s.mem := by
  induction bs generalizing s k with
  | nil => rfl
  | cons b r ih => rw [wbs, ih, wb_mem]

@[simp] theorem putMarks_mem (s : State) (md off : Nat) (l : List Nat) : (putMarks s md off l).mem = s.mem := by
  unfold putMarks
  split <;> rfl

@[simp] theorem evictLine_mem (s : State) (h : HomeLine) : (evictLine s h).mem = s.mem := by
  simp only [evictLine, dropTags]
  split
  · exact putMarks_mem s _ _ _
  · rfl

@[simp] theorem touch_mem (s : State) (k : Nat) (q a : BitVec 2) (w : Bool) : (touch s k q a w).mem = s.mem := by
  unfold touch
  split
  · exact Eq.refl s.mem
  · dsimp only
    split
    · exact Eq.refl s.mem
    · split
      · exact Eq.refl s.mem
      · dsimp only
        split
        · exact evictLine_mem s _
        · exact Eq.refl s.mem

@[simp] theorem backInvalidate_mem (s : State) (k : Nat) : (backInvalidate s k).mem = s.mem := by
  unfold backInvalidate
  split <;> exact Eq.refl s.mem

@[simp] theorem countRace_mem (s : State) (k : Nat) : (countRace s k).mem = s.mem := by
  unfold countRace
  exact wrWin_mem s _ _

@[simp] theorem tagWrite_mem (s : State) (k : Nat) (c : Option Nat) : (tagWrite s k c).mem = s.mem := by
  unfold tagWrite
  split
  · exact Eq.refl s.mem
  · dsimp only
    split
    · exact Eq.refl s.mem
    · dsimp only
      split
      · split
        · exact countRace_mem s k
        · exact Eq.refl s.mem
      · exact Eq.refl s.mem

theorem clearPoison_mem (ws : List Nat) (s : State) :
    (ws.foldl (fun a w => { a with poison := cset (fun _ => false) a.poison (w / 4) false }) s).mem = s.mem := by
  induction ws generalizing s with
  | nil => exact Eq.refl s.mem
  | cons w r ih => rw [List.foldl_cons, ih]

@[simp] theorem homeWrite_mem (s : State) (k : Nat) (bs : List Byte) (q a : BitVec 2) (c : Option Nat) :
    (homeWrite s k bs q a c).mem = s.mem := by
  unfold homeWrite
  dsimp only
  rw [wbs_mem]
  split
  · rw [clearPoison_mem, foldl_mem (fun a x => tagWrite_mem a x c), backInvalidate_mem, touch_mem]
  · rw [foldl_mem (fun a x => tagWrite_mem a x c), backInvalidate_mem, touch_mem]

@[simp] theorem replicaWrite_mem (s : State) (k : Nat) (bs : List Byte) (q a : BitVec 2) :
    (replicaWrite s k bs q a).mem = s.mem := foldl_mem (fun _ _ => homeWrite_mem _ _ _ _ _ _) _ _

@[simp] theorem l1Set_mem (s : State) (c l i : Nat) (w : Option L1Word) : (l1Set s c l i w).mem = s.mem := by
  simp only [l1Set]

@[simp] theorem seeLine_mem (s : State) (k c l : Nat) : (seeLine s k c l).mem = s.mem := by
  simp only [seeLine]

@[simp] theorem fillLine_mem (s : State) (w : Who) (p : Phys) : (fillLine s w p).mem = s.mem := by
  unfold fillLine
  dsimp only
  rw [foldl_mem]
  · rw [seeLine_mem, touch_mem]
  · intro a x; split <;> rfl

@[simp] theorem answered_mem (a : Asker) (s : State) : (answered a s).mem = s.mem := rfl

@[simp] theorem writeBackWord_mem (s : State) (c l i : Nat) : (writeBackWord s c l i).mem = s.mem := by
  unfold writeBackWord
  split
  · split <;> simp
  · rfl

@[simp] theorem dropWord_mem (s : State) (c l i : Nat) : (dropWord s c l i).mem = s.mem := by simp [dropWord]

@[simp] theorem writeBack_mem (s : State) (c : Nat) (p : Nat → Bool) : (writeBack s c p).mem = s.mem :=
  foldl_mem (fun _ _ => writeBackWord_mem _ _ _ _) _ _

@[simp] theorem discard_mem (s : State) (c : Nat) (p : Nat → Bool) : (Machine.discard s c p).mem = s.mem := by
  unfold Machine.discard
  exact Eq.refl s.mem

@[simp] theorem flush_mem (s : State) (c : Nat) (p : Nat → Bool) : (flush s c p).mem = s.mem :=
  (discard_mem _ c p).trans (writeBack_mem s c p)

@[simp] theorem hostReady_mem (s : State) (c : Nat) (p : Phys) (w : Bool) : (hostReady s c p w).mem = s.mem := by
  unfold hostReady
  split
  · exact foldl_mem (fun a x => by
      split
      · exact flush_mem a _ _
      · exact writeBack_mem a _ _) _ _
  · exact Eq.refl s.mem

@[simp] theorem logRefused_mem (s : State) (o : Nat) (m : Master) : (logRefused s o m).mem = s.mem := by
  unfold logRefused
  exact wrWin_mem s _ _

@[simp] theorem loadHome_mem (s : State) (w : Who) (p : Phys) (n : Nat) : (loadHome s w p n).2.mem = s.mem :=
  (touch_mem _ _ _ _ _).trans ((foldl_mem (fun a x => dropWord_mem a _ _ x) _ _).trans (hostReady_mem s _ _ _))

@[simp] theorem loadPeer_mem (s : State) (w : Who) (p : Phys) (n : Nat) : (loadPeer s w p n).2.mem = s.mem := by
  unfold loadPeer
  dsimp only
  split
  · rfl
  · split
    · rfl
    · split
      · rw [fillLine_mem, discard_mem]
      · rfl

@[simp] theorem loadBytes_mem (s : State) (w : Who) (p : Phys) (n : Nat) : (loadBytes s w p n).2.mem = s.mem := by
  unfold loadBytes
  dsimp only
  split
  · split
    · exact Eq.refl s.mem
    · exact logRefused_mem s p.key .host
  · split
    · exact loadPeer_mem s w p n
    · split
      · exact loadHome_mem s w p n
      · dsimp only
        split
        · exact hostReady_mem s _ _ _
        · rw [fillLine_mem, hostReady_mem]

/-! Translation. -/

@[simp] theorem walkFrom_mem (va : Nat) (q : BitVec 2) (l : List (Nat × Nat × Nat)) (pa : Nat) (s : State) :
    (walkFrom va q l pa s).2.mem = s.mem := by
  induction l generalizing pa s with
  | nil => rfl
  | cons e r ih =>
    obtain ⟨sh, n, al⟩ := e
    simp only [walkFrom]
    repeat' split
    all_goals simp [ih]

@[simp] theorem walk_mem (s : State) (root : Nat) (q : BitVec 2) (va : W64) : (walk s root q va).2.mem = s.mem :=
  walkFrom_mem _ _ _ _ _

@[simp] theorem writeAd_mem (s : State) (e : TlbEntry) : (writeAd s e).mem = s.mem := by
  unfold writeAd
  split
  · rfl
  · dsimp only
    split
    · exact touch_mem s _ _ _ _
    · split <;> simp

@[simp] theorem dropTlb_mem (s : State) (p : TlbEntry → Bool) : (dropTlb s p).mem = s.mem :=
  foldl_mem (fun _ _ => writeAd_mem _ _) _ _

@[simp] theorem xlate_mem (s : State) (w : Who) (va : W64) : (xlate s w va).2.mem = s.mem := by
  unfold xlate
  simp only
  split
  · rfl
  · have h := walk_mem s w.root w.quota va
    split
    · rename_i hw; rw [hw] at h; exact h
    · exact h

@[simp] theorem gather_mem (s : State) (c t va : Nat) (st : Bool) : (gather s c t va st).mem = s.mem := rfl

/-! Fetching. -/

@[simp] theorem cachedWord_mem (c k : Nat) (s : State) : (cachedWord c k s).2.mem = s.mem := by
  unfold cachedWord
  split
  · rfl
  · simp only; split <;> rfl

@[simp] theorem wordAt_mem (w : Who) (p : Phys) (s : State) : (wordAt w p s).2.mem = s.mem := by
  have h := cachedWord_mem w.core p.rkey s
  unfold wordAt
  split
  · rename_i hc; rw [hc] at h; exact h
  · rename_i s1 hc
    rw [hc] at h
    have hl := loadBytes_mem s1 w p 4
    simp only
    split <;> exact hl.trans h

/-- A fetch that succeeds leaves memory as it was. -/
theorem fetchWord_mem {va : W64} {s s1 : State} {x : W32} (h : fetchWord va s = .ok x s1) : s1.mem = s.mem := by
  unfold fetchWord fetchFault at h
  simp only at h
  split at h
  · cases h
  split at h
  · cases h
  have hx := xlate_mem s (whoOf s.g 0) va
  split at h
  · cases h
  · cases h
  · cases h
  · rename_i hw
    rw [hw] at hx
    split at h
    · cases h
    split at h
    · cases h
    · cases h
    split at h
    · cases h
    cases h
    simpa using hx

/-- The fetch of an instruction leaves memory as it was. -/
theorem fetchInstr_mem {s s1 : State} {x : W32 × W32} (h : fetchInstr s = .ok x s1) : s1.mem = s.mem := by
  unfold fetchInstr at h
  cases hw : fetchWord s.g.pc s with
  | ok w0 s2 =>
    rw [hw] at h
    simp only [Res.bind] at h
    split at h
    · cases hv : fetchWord (s.g.pc + 4) s2 with
      | ok w1 s3 => rw [hv] at h; cases h; exact (fetchWord_mem hv).trans (fetchWord_mem hw)
      | _ => rw [hv] at h; cases h
    · cases h; exact fetchWord_mem hw
  | _ => rw [hw] at h; cases h

end Sys2Proof.Laws
end

