-- ==== Sys2Proof/Laws/PerInstr.lean ====
section
/-! SUPPORT. What holds of every instruction as syntax, one lemma for each constructor. -/

namespace Sys2Proof.Laws

open Sys2Proof.Machine

set_option linter.unusedSimpArgs false
set_option linter.unnecessarySeqFocus false
set_option linter.unreachableTactic false
set_option linter.unusedTactic false

/-- The words that the encoder writes for a well-formed instruction decode to it, with its length (Tables 3-1 to 3-7). -/
def Encoding.Statement (i : Instr) : Prop :=
  isWord i = true → WellFormed i = true → decode (encode i).1 (encode i).2 = .instr i (instrLen i)

/-- What a well-formed word says of its extension word and its fields. -/
theorem wellFormed_word {i : Instr} (hw : isWord i = true) (h : WellFormed i = true) :
    extAccepted (form i) (opnd i).x = true ∧ ok05 i = true := by
  simp only [WellFormed, hw, if_true, Bool.and_eq_true] at h
  refine ⟨h.1, ?_⟩
  by_contra hn
  simp [staticFault, Bool.eq_false_iff.mpr hn] at h

theorem assigned_lt {n : Nat} (h : opAssigned n = true) : n < 128 := by
  simp only [opAssigned, Bool.or_eq_true, decide_eq_true_eq] at h
  omega

/-- An instruction whose constructor its opcode alone chooses. -/
theorem encoding_simple {i : Instr} (hf : form i = opForm (opcode i)) (ha : opAssigned (opcode i) = true)
    (hd : decodeOp (opcode i) (opnd i) = some i) : Encoding.Statement i := fun hw hwf =>
  decode_encode (assigned_lt ha) ha (hf ▸ (wellFormed_word hw hwf).1) hd

/-- An instruction whose constructor its operand word chooses. -/
theorem encoding_chosen {i : Instr} (ha : opAssigned (opcode i) = true)
    (hx : extAccepted (form i) (opnd i).x = true → ok05 i = true → extAccepted (opForm (opcode i)) (opnd i).x = true ∧
      decodeOp (opcode i) (opnd i) = some i) : Encoding.Statement i := fun hw hwf =>
  decode_encode (assigned_lt ha) ha (hx (wellFormed_word hw hwf).1 (wellFormed_word hw hwf).2).1
    (hx (wellFormed_word hw hwf).1 (wellFormed_word hw hwf).2).2

/-- An event has no words. -/
theorem encoding_event {i : Instr} (h : isWord i = false) : Encoding.Statement i := fun hw => by simp [h] at hw

theorem Encoding.nop (o : Opnd) : Encoding.Statement (.nop o) := by
  refine encoding_chosen rfl (fun hx h => ⟨hx, ?_⟩)
  have hd : o.d.toNat = 0 := by
    simp only [ok05, fixedD, Bool.and_eq_true, decide_eq_true_eq] at h
    exact h.1.1.2
  simp [opcode, opnd, decodeOp, decodeOp01, hd]
theorem Encoding.yieldpt (o : Opnd) : Encoding.Statement (.yieldpt o) := by
  refine encoding_chosen rfl (fun hx h => ⟨hx, ?_⟩)
  have hd : o.d.toNat = 1 := by
    simp only [ok05, fixedD, Bool.and_eq_true, decide_eq_true_eq] at h
    exact h.1.1.2
  simp [opcode, opnd, decodeOp, decodeOp01, hd]
theorem Encoding.exit (o : Opnd) : Encoding.Statement (.exit o) := by
  refine encoding_chosen rfl (fun hx h => ⟨hx, ?_⟩)
  have hd : o.d.toNat = 2 := by
    simp only [ok05, fixedD, Bool.and_eq_true, decide_eq_true_eq] at h
    exact h.1.1.2
  simp [opcode, opnd, decodeOp, decodeOp01, hd]
theorem Encoding.ret (o : Opnd) : Encoding.Statement (.ret o) := by
  refine encoding_chosen rfl (fun hx h => ⟨hx, ?_⟩)
  have hd : o.d.toNat = 3 := by
    simp only [ok05, fixedD, Bool.and_eq_true, decide_eq_true_eq] at h
    exact h.1.1.2
  simp [opcode, opnd, decodeOp, decodeOp01, hd]
theorem Encoding.rfe (o : Opnd) : Encoding.Statement (.rfe o) := by
  refine encoding_chosen rfl (fun hx h => ⟨hx, ?_⟩)
  have hd : o.d.toNat = 4 := by
    simp only [ok05, fixedD, Bool.and_eq_true, decide_eq_true_eq] at h
    exact h.1.1.2
  simp [opcode, opnd, decodeOp, decodeOp01, hd]
theorem Encoding.svc (o : Opnd) : Encoding.Statement (.svc o) := by
  refine encoding_chosen rfl (fun hx h => ⟨hx, ?_⟩)
  have hd : o.d.toNat = 5 := by
    simp only [ok05, fixedD, Bool.and_eq_true, decide_eq_true_eq] at h
    exact h.1.1.2
  simp [opcode, opnd, decodeOp, decodeOp01, hd]
theorem Encoding.trap (o : Opnd) : Encoding.Statement (.trap o) := by
  refine encoding_chosen rfl (fun hx h => ⟨hx, ?_⟩)
  have hd : o.d.toNat = 6 := by
    simp only [ok05, fixedD, Bool.and_eq_true, decide_eq_true_eq] at h
    exact h.1.1.2
  simp [opcode, opnd, decodeOp, decodeOp01, hd]
theorem Encoding.bra (o : Opnd) : Encoding.Statement (.bra o) :=
  encoding_simple rfl rfl rfl
theorem Encoding.brc (o : Opnd) : Encoding.Statement (.brc o) :=
  encoding_simple rfl rfl rfl
theorem Encoding.bzm (o : Opnd) : Encoding.Statement (.bzm o) :=
  encoding_simple rfl rfl rfl
theorem Encoding.call (o : Opnd) : Encoding.Statement (.call o) :=
  encoding_simple rfl rfl rfl
theorem Encoding.mode (o : Opnd) : Encoding.Statement (.mode o) :=
  encoding_simple rfl rfl rfl
theorem Encoding.mfsr (o : Opnd) : Encoding.Statement (.mfsr o) :=
  encoding_simple rfl rfl rfl
theorem Encoding.mtsr (o : Opnd) : Encoding.Statement (.mtsr o) :=
  encoding_simple rfl rfl rfl
theorem Encoding.migrate (o : Opnd) : Encoding.Statement (.migrate o) :=
  encoding_simple rfl rfl rfl
theorem Encoding.launch (o : Opnd) : Encoding.Statement (.launch o) :=
  encoding_simple rfl rfl rfl
theorem Encoding.tlbinv (o : Opnd) : Encoding.Statement (.tlbinv o) := by
  refine encoding_chosen rfl (fun hx h => ?_)
  obtain ⟨st, d, a, b, x⟩ := o
  cases x <;> simp_all [extAccepted, form, ok05, opnd, parOk, decodeOp, opcode, broOk, decodeOp0B, parSel, parOf] <;> rfl
theorem Encoding.harvest (o : Opnd) : Encoding.Statement (.harvest o) := by
  refine encoding_chosen rfl (fun hx h => ?_)
  obtain ⟨st, d, a, b, x⟩ := o
  cases x <;> simp_all [extAccepted, form, ok05, opnd, parOk, decodeOp, opcode, broOk, decodeOp0B, parSel, parOf] <;> rfl
theorem Encoding.mappg (o : Opnd) : Encoding.Statement (.mappg o) := by
  refine encoding_chosen rfl (fun hx h => ?_)
  obtain ⟨st, d, a, b, x⟩ := o
  cases x <;> simp_all [extAccepted, form, ok05, opnd, parOk, decodeOp, opcode, broOk, decodeOp0B, parSel, parOf] <;> rfl
theorem Encoding.accsn (o : Opnd) : Encoding.Statement (.accsn o) := by
  refine encoding_chosen rfl (fun hx h => ?_)
  obtain ⟨st, d, a, b, x⟩ := o
  cases x <;> simp_all [extAccepted, form, ok05, opnd, parOk, decodeOp, opcode, broOk, decodeOp0B, parSel, parOf] <;> rfl
theorem Encoding.cmaint (o : Opnd) : Encoding.Statement (.cmaint o) := by
  refine encoding_chosen rfl (fun hx h => ?_)
  obtain ⟨st, d, a, b, x⟩ := o
  cases x <;> simp_all [extAccepted, form, ok05, opnd, parOk, decodeOp, opcode, broOk, decodeOp0B, parSel, parOf] <;> rfl
theorem Encoding.sadd (o : Opnd) : Encoding.Statement (.sadd o) :=
  encoding_simple rfl rfl rfl
theorem Encoding.ssub (o : Opnd) : Encoding.Statement (.ssub o) :=
  encoding_simple rfl rfl rfl
theorem Encoding.smul (o : Opnd) : Encoding.Statement (.smul o) :=
  encoding_simple rfl rfl rfl
theorem Encoding.smulh (o : Opnd) : Encoding.Statement (.smulh o) :=
  encoding_simple rfl rfl rfl
theorem Encoding.smad (o : Opnd) : Encoding.Statement (.smad o) :=
  encoding_simple rfl rfl rfl
theorem Encoding.sand (o : Opnd) : Encoding.Statement (.sand o) :=
  encoding_simple rfl rfl rfl
theorem Encoding.sor (o : Opnd) : Encoding.Statement (.sor o) :=
  encoding_simple rfl rfl rfl
theorem Encoding.sxor (o : Opnd) : Encoding.Statement (.sxor o) :=
  encoding_simple rfl rfl rfl
theorem Encoding.sshl (o : Opnd) : Encoding.Statement (.sshl o) :=
  encoding_simple rfl rfl rfl
theorem Encoding.sshr (o : Opnd) : Encoding.Statement (.sshr o) :=
  encoding_simple rfl rfl rfl
theorem Encoding.ssra (o : Opnd) : Encoding.Statement (.ssra o) :=
  encoding_simple rfl rfl rfl
theorem Encoding.smin (o : Opnd) : Encoding.Statement (.smin o) :=
  encoding_simple rfl rfl rfl
theorem Encoding.smax (o : Opnd) : Encoding.Statement (.smax o) :=
  encoding_simple rfl rfl rfl
theorem Encoding.scmp (o : Opnd) : Encoding.Statement (.scmp o) :=
  encoding_simple rfl rfl rfl
theorem Encoding.ssel (o : Opnd) : Encoding.Statement (.ssel o) :=
  encoding_simple rfl rfl rfl
theorem Encoding.smov (o : Opnd) : Encoding.Statement (.smov o) :=
  encoding_simple rfl rfl rfl
theorem Encoding.sli (o : Opnd) : Encoding.Statement (.sli o) :=
  encoding_simple rfl rfl rfl
theorem Encoding.spopc (o : Opnd) : Encoding.Statement (.spopc o) :=
  encoding_simple rfl rfl rfl
theorem Encoding.sclz (o : Opnd) : Encoding.Statement (.sclz o) :=
  encoding_simple rfl rfl rfl
theorem Encoding.sffs (o : Opnd) : Encoding.Statement (.sffs o) :=
  encoding_simple rfl rfl rfl
theorem Encoding.vadd (o : Opnd) : Encoding.Statement (.vadd o) :=
  encoding_simple rfl rfl rfl
theorem Encoding.vsub (o : Opnd) : Encoding.Statement (.vsub o) :=
  encoding_simple rfl rfl rfl
theorem Encoding.vmul (o : Opnd) : Encoding.Statement (.vmul o) :=
  encoding_simple rfl rfl rfl
theorem Encoding.vmulh (o : Opnd) : Encoding.Statement (.vmulh o) :=
  encoding_simple rfl rfl rfl
theorem Encoding.vmad (o : Opnd) : Encoding.Statement (.vmad o) :=
  encoding_simple rfl rfl rfl
theorem Encoding.vand (o : Opnd) : Encoding.Statement (.vand o) :=
  encoding_simple rfl rfl rfl
theorem Encoding.vor (o : Opnd) : Encoding.Statement (.vor o) :=
  encoding_simple rfl rfl rfl
theorem Encoding.vxor (o : Opnd) : Encoding.Statement (.vxor o) :=
  encoding_simple rfl rfl rfl
theorem Encoding.vshl (o : Opnd) : Encoding.Statement (.vshl o) :=
  encoding_simple rfl rfl rfl
theorem Encoding.vshr (o : Opnd) : Encoding.Statement (.vshr o) :=
  encoding_simple rfl rfl rfl
theorem Encoding.vsra (o : Opnd) : Encoding.Statement (.vsra o) :=
  encoding_simple rfl rfl rfl
theorem Encoding.vmin (o : Opnd) : Encoding.Statement (.vmin o) :=
  encoding_simple rfl rfl rfl
theorem Encoding.vmax (o : Opnd) : Encoding.Statement (.vmax o) :=
  encoding_simple rfl rfl rfl
theorem Encoding.vabs (o : Opnd) : Encoding.Statement (.vabs o) :=
  encoding_simple rfl rfl rfl
theorem Encoding.vcmp (o : Opnd) : Encoding.Statement (.vcmp o) :=
  encoding_simple rfl rfl rfl
theorem Encoding.vsel (o : Opnd) : Encoding.Statement (.vsel o) :=
  encoding_simple rfl rfl rfl
theorem Encoding.vmov (o : Opnd) : Encoding.Statement (.vmov o) := by
  refine encoding_chosen rfl (fun hx h => ?_)
  obtain ⟨st, d, a, b, x⟩ := o
  cases x <;> simp_all [extAccepted, form, ok05, opnd, parOk, decodeOp, opcode, broOk, decodeOp0B, parSel, parOf] <;> rfl
theorem Encoding.vmovImm (o : Opnd) : Encoding.Statement (.vmovImm o) := by
  refine encoding_chosen rfl (fun hx h => ?_)
  obtain ⟨st, d, a, b, x⟩ := o
  cases x <;> simp_all [extAccepted, form, ok05, opnd, parOk, decodeOp, opcode, broOk, decodeOp0B, parSel, parOf] <;> rfl
theorem Encoding.vmovScalar (o : Opnd) : Encoding.Statement (.vmovScalar o) := by
  refine encoding_chosen rfl (fun hx h => ?_)
  obtain ⟨st, d, a, b, x⟩ := o
  cases x <;> simp_all [extAccepted, form, ok05, opnd, parOk, decodeOp, opcode, broOk, decodeOp0B, parSel, parOf] <;> rfl
theorem Encoding.vpopc (o : Opnd) : Encoding.Statement (.vpopc o) :=
  encoding_simple rfl rfl rfl
theorem Encoding.vclz (o : Opnd) : Encoding.Statement (.vclz o) :=
  encoding_simple rfl rfl rfl
theorem Encoding.vbfe (o : Opnd) : Encoding.Statement (.vbfe o) :=
  encoding_simple rfl rfl rfl
theorem Encoding.vbfi (o : Opnd) : Encoding.Statement (.vbfi o) :=
  encoding_simple rfl rfl rfl
theorem Encoding.fadd (o : Opnd) : Encoding.Statement (.fadd o) :=
  encoding_simple rfl rfl rfl
theorem Encoding.fsub (o : Opnd) : Encoding.Statement (.fsub o) :=
  encoding_simple rfl rfl rfl
theorem Encoding.fmul (o : Opnd) : Encoding.Statement (.fmul o) :=
  encoding_simple rfl rfl rfl
theorem Encoding.fma (o : Opnd) : Encoding.Statement (.fma o) :=
  encoding_simple rfl rfl rfl
theorem Encoding.fmin (o : Opnd) : Encoding.Statement (.fmin o) :=
  encoding_simple rfl rfl rfl
theorem Encoding.fmax (o : Opnd) : Encoding.Statement (.fmax o) :=
  encoding_simple rfl rfl rfl
theorem Encoding.fcmp (o : Opnd) : Encoding.Statement (.fcmp o) :=
  encoding_simple rfl rfl rfl
theorem Encoding.frcp (o : Opnd) : Encoding.Statement (.frcp o) :=
  encoding_simple rfl rfl rfl
theorem Encoding.frsq (o : Opnd) : Encoding.Statement (.frsq o) :=
  encoding_simple rfl rfl rfl
theorem Encoding.fsqrt (o : Opnd) : Encoding.Statement (.fsqrt o) :=
  encoding_simple rfl rfl rfl
theorem Encoding.fex2 (o : Opnd) : Encoding.Statement (.fex2 o) :=
  encoding_simple rfl rfl rfl
theorem Encoding.flg2 (o : Opnd) : Encoding.Statement (.flg2 o) :=
  encoding_simple rfl rfl rfl
theorem Encoding.ftrig (o : Opnd) : Encoding.Statement (.ftrig o) :=
  encoding_simple rfl rfl rfl
theorem Encoding.frnd (o : Opnd) : Encoding.Statement (.frnd o) :=
  encoding_simple rfl rfl rfl
theorem Encoding.fcvt (o : Opnd) : Encoding.Statement (.fcvt o) :=
  encoding_simple rfl rfl rfl
theorem Encoding.fcls (o : Opnd) : Encoding.Statement (.fcls o) :=
  encoding_simple rfl rfl rfl
theorem Encoding.fscl (o : Opnd) : Encoding.Statement (.fscl o) :=
  encoding_simple rfl rfl rfl
theorem Encoding.shfl (o : Opnd) : Encoding.Statement (.shfl o) := by
  refine encoding_chosen rfl (fun hx h => ?_)
  obtain ⟨st, d, a, b, x⟩ := o
  cases x <;> simp_all [extAccepted, form, ok05, opnd, parOk, decodeOp, opcode, broOk, decodeOp0B, parSel, parOf] <;> rfl
theorem Encoding.shflScalar (o : Opnd) : Encoding.Statement (.shflScalar o) := by
  refine encoding_chosen rfl (fun hx h => ?_)
  obtain ⟨st, d, a, b, x⟩ := o
  cases x <;> simp_all [extAccepted, form, ok05, opnd, parOk, decodeOp, opcode, broOk, decodeOp0B, parSel, parOf] <;> rfl
theorem Encoding.shfx (o : Opnd) : Encoding.Statement (.shfx o) :=
  encoding_simple rfl rfl rfl
theorem Encoding.vote (o : Opnd) : Encoding.Statement (.vote o) :=
  encoding_simple rfl rfl rfl
theorem Encoding.rfal (o : Opnd) : Encoding.Statement (.rfal o) :=
  encoding_simple rfl rfl rfl
theorem Encoding.vred (o : Opnd) : Encoding.Statement (.vred o) :=
  encoding_simple rfl rfl rfl
theorem Encoding.vscan (o : Opnd) : Encoding.Statement (.vscan o) :=
  encoding_simple rfl rfl rfl
theorem Encoding.viota (o : Opnd) : Encoding.Statement (.viota o) :=
  encoding_simple rfl rfl rfl
theorem Encoding.ld (o : Opnd) : Encoding.Statement (.ld o) :=
  encoding_simple rfl rfl rfl
theorem Encoding.st (o : Opnd) : Encoding.Statement (.st o) :=
  encoding_simple rfl rfl rfl
theorem Encoding.lds (o : Opnd) : Encoding.Statement (.lds o) :=
  encoding_simple rfl rfl rfl
theorem Encoding.sts (o : Opnd) : Encoding.Statement (.sts o) :=
  encoding_simple rfl rfl rfl
theorem Encoding.sld (o : Opnd) : Encoding.Statement (.sld o) :=
  encoding_simple rfl rfl rfl
theorem Encoding.sst (o : Opnd) : Encoding.Statement (.sst o) :=
  encoding_simple rfl rfl rfl
theorem Encoding.ldacq (o : Opnd) : Encoding.Statement (.ldacq o) :=
  encoding_simple rfl rfl rfl
theorem Encoding.strel (o : Opnd) : Encoding.Statement (.strel o) :=
  encoding_simple rfl rfl rfl
theorem Encoding.fence (o : Opnd) : Encoding.Statement (.fence o) :=
  encoding_simple rfl rfl rfl
theorem Encoding.atom (o : Opnd) : Encoding.Statement (.atom o) :=
  encoding_simple rfl rfl rfl
theorem Encoding.cas (o : Opnd) : Encoding.Statement (.cas o) :=
  encoding_simple rfl rfl rfl
theorem Encoding.red (o : Opnd) : Encoding.Statement (.red o) :=
  encoding_simple rfl rfl rfl
theorem Encoding.pfetch (o : Opnd) : Encoding.Statement (.pfetch o) :=
  encoding_simple rfl rfl rfl
theorem Encoding.mwait (o : Opnd) : Encoding.Statement (.mwait o) :=
  encoding_simple rfl rfl rfl
theorem Encoding.barinit (o : Opnd) : Encoding.Statement (.barinit o) :=
  encoding_simple rfl rfl rfl
theorem Encoding.bararv (o : Opnd) : Encoding.Statement (.bararv o) :=
  encoding_simple rfl rfl rfl
theorem Encoding.barwait (o : Opnd) : Encoding.Statement (.barwait o) :=
  encoding_simple rfl rfl rfl
theorem Encoding.cpy (o : Opnd) : Encoding.Statement (.cpy o) :=
  encoding_simple rfl rfl rfl
theorem Encoding.cpywp (o : Opnd) : Encoding.Statement (.cpywp o) :=
  encoding_simple rfl rfl rfl
theorem Encoding.qnt (o : Opnd) : Encoding.Statement (.qnt o) :=
  encoding_simple rfl rfl rfl
theorem Encoding.spres (o : Opnd) : Encoding.Statement (.spres o) := by
  refine encoding_chosen rfl (fun hx h => ?_)
  obtain ⟨st, d, a, b, x⟩ := o
  cases x <;> simp_all [extAccepted, form, ok05, opnd, parOk, decodeOp, opcode, broOk, decodeOp0B, parSel, parOf] <;> rfl
theorem Encoding.spresW (o : Opnd) : Encoding.Statement (.spresW o) := by
  refine encoding_chosen rfl (fun hx h => ?_)
  obtain ⟨st, d, a, b, x⟩ := o
  cases x <;> simp_all [extAccepted, form, ok05, opnd, parOk, decodeOp, opcode, broOk, decodeOp0B, parSel, parOf] <;> rfl
theorem Encoding.spcom (o : Opnd) : Encoding.Statement (.spcom o) :=
  encoding_simple rfl rfl rfl
theorem Encoding.tcfg (o : Opnd) : Encoding.Statement (.tcfg o) :=
  encoding_simple rfl rfl rfl
theorem Encoding.tld (o : Opnd) : Encoding.Statement (.tld o) :=
  encoding_simple rfl rfl rfl
theorem Encoding.tst (o : Opnd) : Encoding.Statement (.tst o) :=
  encoding_simple rfl rfl rfl
theorem Encoding.mma (o : Opnd) : Encoding.Statement (.mma o) :=
  encoding_simple rfl rfl rfl
theorem Encoding.mmax (o : Opnd) : Encoding.Statement (.mmax o) :=
  encoding_simple rfl rfl rfl
theorem Encoding.mmaz (o : Opnd) : Encoding.Statement (.mmaz o) :=
  encoding_simple rfl rfl rfl
theorem Encoding.accld (o : Opnd) : Encoding.Statement (.accld o) :=
  encoding_simple rfl rfl rfl
theorem Encoding.accst (o : Opnd) : Encoding.Statement (.accst o) :=
  encoding_simple rfl rfl rfl
theorem Encoding.mbatch (o : Opnd) : Encoding.Statement (.mbatch o) :=
  encoding_simple rfl rfl rfl
theorem Encoding.mbwait (o : Opnd) : Encoding.Statement (.mbwait o) :=
  encoding_simple rfl rfl rfl
theorem Encoding.xscan (o : Opnd) : Encoding.Statement (.xscan o) :=
  encoding_simple rfl rfl rfl
theorem Encoding.slmm (o : Opnd) : Encoding.Statement (.slmm o) :=
  encoding_simple rfl rfl rfl
theorem Encoding.wrnd (o : Opnd) : Encoding.Statement (.wrnd o) := by
  refine encoding_chosen rfl (fun hx h => ?_)
  obtain ⟨st, d, a, b, x⟩ := o
  cases x <;> simp_all [extAccepted, form, ok05, opnd, parOk, decodeOp, opcode, broOk, decodeOp0B, parSel, parOf] <;> rfl
theorem Encoding.wrndF32 (o : Opnd) : Encoding.Statement (.wrndF32 o) := by
  refine encoding_chosen rfl (fun hx h => ?_)
  obtain ⟨st, d, a, b, x⟩ := o
  cases x <;> simp_all [extAccepted, form, ok05, opnd, parOk, decodeOp, opcode, broOk, decodeOp0B, parSel, parOf] <;> rfl
theorem Encoding.vemit (o : Opnd) : Encoding.Statement (.vemit o) :=
  encoding_simple rfl rfl rfl
theorem Encoding.pemit (o : Opnd) : Encoding.Statement (.pemit o) :=
  encoding_simple rfl rfl rfl
theorem Encoding.texs (o : Opnd) : Encoding.Statement (.texs o) := by
  refine encoding_chosen rfl (fun hx h => ?_)
  obtain ⟨st, d, a, b, x⟩ := o
  cases x <;> simp_all [extAccepted, form, ok05, opnd, parOk, decodeOp, opcode, broOk, decodeOp0B, parSel, parOf] <;> rfl
theorem Encoding.texsL (o : Opnd) : Encoding.Statement (.texsL o) := by
  refine encoding_chosen rfl (fun hx h => ?_)
  obtain ⟨st, d, a, b, x⟩ := o
  cases x <;> simp_all [extAccepted, form, ok05, opnd, parOk, decodeOp, opcode, broOk, decodeOp0B, parSel, parOf] <;> rfl
theorem Encoding.texsB (o : Opnd) : Encoding.Statement (.texsB o) := by
  refine encoding_chosen rfl (fun hx h => ?_)
  obtain ⟨st, d, a, b, x⟩ := o
  cases x <;> simp_all [extAccepted, form, ok05, opnd, parOk, decodeOp, opcode, broOk, decodeOp0B, parSel, parOf] <;> rfl
theorem Encoding.texf (o : Opnd) : Encoding.Statement (.texf o) := by
  refine encoding_chosen rfl (fun hx h => ?_)
  obtain ⟨st, d, a, b, x⟩ := o
  cases x <;> simp_all [extAccepted, form, ok05, opnd, parOk, decodeOp, opcode, broOk, decodeOp0B, parSel, parOf] <;> rfl
theorem Encoding.texfL (o : Opnd) : Encoding.Statement (.texfL o) := by
  refine encoding_chosen rfl (fun hx h => ?_)
  obtain ⟨st, d, a, b, x⟩ := o
  cases x <;> simp_all [extAccepted, form, ok05, opnd, parOk, decodeOp, opcode, broOk, decodeOp0B, parSel, parOf] <;> rfl
theorem Encoding.rtst (o : Opnd) : Encoding.Statement (.rtst o) :=
  encoding_simple rfl rfl rfl
theorem Encoding.rtld (o : Opnd) : Encoding.Statement (.rtld o) :=
  encoding_simple rfl rfl rfl
theorem Encoding.mlins (o : Opnd) : Encoding.Statement (.mlins o) :=
  encoding_simple rfl rfl rfl
theorem Encoding.mlres (o : Opnd) : Encoding.Statement (.mlres o) := by
  refine encoding_chosen rfl (fun hx h => ?_)
  obtain ⟨st, d, a, b, x⟩ := o
  cases x <;> simp_all [extAccepted, form, ok05, opnd, parOk, decodeOp, opcode, broOk, decodeOp0B, parSel, parOf] <;> rfl
theorem Encoding.mlresClr (o : Opnd) : Encoding.Statement (.mlresClr o) := by
  refine encoding_chosen rfl (fun hx h => ?_)
  obtain ⟨st, d, a, b, x⟩ := o
  cases x <;> simp_all [extAccepted, form, ok05, opnd, parOk, decodeOp, opcode, broOk, decodeOp0B, parSel, parOf] <;> rfl
theorem Encoding.rayq (o : Opnd) : Encoding.Statement (.rayq o) := by
  refine encoding_chosen rfl (fun hx h => ?_)
  obtain ⟨st, d, a, b, x⟩ := o
  cases x <;> simp_all [extAccepted, form, ok05, opnd, parOk, decodeOp, opcode, broOk, decodeOp0B, parSel, parOf] <;> rfl
theorem Encoding.rayqBob (o : Opnd) : Encoding.Statement (.rayqBob o) := by
  refine encoding_chosen rfl (fun hx h => ?_)
  obtain ⟨st, d, a, b, x⟩ := o
  cases x <;> simp_all [extAccepted, form, ok05, opnd, parOk, decodeOp, opcode, broOk, decodeOp0B, parSel, parOf] <;> rfl
theorem Encoding.seam (o : Opnd) : Encoding.Statement (.seam o) :=
  encoding_simple rfl rfl rfl
theorem Encoding.engineFaultDelivery (grp : Nat) : Encoding.Statement (.engineFaultDelivery grp) := encoding_event rfl
theorem Encoding.engineTranslationFault (cmd : Nat) : Encoding.Statement (.engineTranslationFault cmd) := encoding_event rfl
theorem Encoding.registerMissFetch (grp : Nat) : Encoding.Statement (.registerMissFetch grp) := encoding_event rfl
theorem Encoding.wakeBlockedGroup (grp : Nat) : Encoding.Statement (.wakeBlockedGroup grp) := encoding_event rfl
theorem Encoding.ldthrExpiry (grp : Nat) : Encoding.Statement (.ldthrExpiry grp) := encoding_event rfl
theorem Encoding.dispatchTakeRecord (queue : Nat) : Encoding.Statement (.dispatchTakeRecord queue) := encoding_event rfl
theorem Encoding.dependenceRelease (queue : Nat) : Encoding.Statement (.dependenceRelease queue) := encoding_event rfl
theorem Encoding.panelPlace : Encoding.Statement .panelPlace := encoding_event rfl
theorem Encoding.panelComplete (panel : Nat) : Encoding.Statement (.panelComplete panel) := encoding_event rfl
theorem Encoding.preemptRequest (die : Nat) : Encoding.Statement (.preemptRequest die) := encoding_event rfl
theorem Encoding.panelEvict (panel : Nat) : Encoding.Statement (.panelEvict panel) := encoding_event rfl
theorem Encoding.idleEvictTimeout (panel : Nat) : Encoding.Statement (.idleEvictTimeout panel) := encoding_event rfl
theorem Encoding.panelRestore (panel : Nat) : Encoding.Statement (.panelRestore panel) := encoding_event rfl
theorem Encoding.sliceEnd (ctx die : Nat) : Encoding.Statement (.sliceEnd ctx die) := encoding_event rfl
theorem Encoding.runBudgetExpiry (grp : Nat) : Encoding.Statement (.runBudgetExpiry grp) := encoding_event rfl
theorem Encoding.waitBudgetExpiry (grp : Nat) : Encoding.Statement (.waitBudgetExpiry grp) := encoding_event rfl
theorem Encoding.contextSnapshot (ctx : Nat) : Encoding.Statement (.contextSnapshot ctx) := encoding_event rfl
theorem Encoding.faultRecordPost (die : Nat) : Encoding.Statement (.faultRecordPost die) := encoding_event rfl
theorem Encoding.eventWriteRetry : Encoding.Statement .eventWriteRetry := encoding_event rfl
theorem Encoding.frespResume (index : Nat) : Encoding.Statement (.frespResume index) := encoding_event rfl
theorem Encoding.frespKill (index : Nat) : Encoding.Statement (.frespKill index) := encoding_event rfl
theorem Encoding.ctxPreempt (ctx : Nat) : Encoding.Statement (.ctxPreempt ctx) := encoding_event rfl
theorem Encoding.ctxKill (ctx : Nat) : Encoding.Statement (.ctxKill ctx) := encoding_event rfl
theorem Encoding.ctxStopResume (ctx : Nat) : Encoding.Statement (.ctxStopResume ctx) := encoding_event rfl
theorem Encoding.registerWrite (off : Nat) (size : Nat) (value : W64) : Encoding.Statement (.registerWrite off size value) := encoding_event rfl
theorem Encoding.spawnBinTimeout (die ctx : Nat) (entry : W64) : Encoding.Statement (.spawnBinTimeout die ctx entry) := encoding_event rfl
theorem Encoding.bobbinGroupPlace : Encoding.Statement .bobbinGroupPlace := encoding_event rfl
theorem Encoding.copyCommandComplete (cmd : Nat) (bytes : Nat) : Encoding.Statement (.copyCommandComplete cmd bytes) := encoding_event rfl
theorem Encoding.qntCommandComplete (cmd : Nat) : Encoding.Statement (.qntCommandComplete cmd) := encoding_event rfl
theorem Encoding.batchComplete (grp : Nat) : Encoding.Statement (.batchComplete grp) := encoding_event rfl
theorem Encoding.rayqCommandComplete (cmd : Nat) : Encoding.Statement (.rayqCommandComplete cmd) := encoding_event rfl
theorem Encoding.seamComposite (key : Nat) : Encoding.Statement (.seamComposite key) := encoding_event rfl
theorem Encoding.seamExchange (cmd : Nat) : Encoding.Statement (.seamExchange cmd) := encoding_event rfl
theorem Encoding.seamComplete (key : Nat) : Encoding.Statement (.seamComplete key) := encoding_event rfl
theorem Encoding.primitiveRasterise (die ctx : Nat) (args : W64) : Encoding.Statement (.primitiveRasterise die ctx args) := encoding_event rfl
theorem Encoding.fragmentGroupLaunch (die ctx : Nat) (args : W64) : Encoding.Statement (.fragmentGroupLaunch die ctx args) := encoding_event rfl
theorem Encoding.passComplete (die ctx : Nat) (args : W64) : Encoding.Statement (.passComplete die ctx args) := encoding_event rfl
theorem Encoding.homeWritebackMerge (cluster : Nat) (line : Nat) : Encoding.Statement (.homeWritebackMerge cluster line) := encoding_event rfl
theorem Encoding.homeAtomic (req : Nat) : Encoding.Statement (.homeAtomic req) := encoding_event rfl
theorem Encoding.replicaMulticast (req : Nat) : Encoding.Statement (.replicaMulticast req) := encoding_event rfl
theorem Encoding.requestReissueTimeout (req : Nat) : Encoding.Statement (.requestReissueTimeout req) := encoding_event rfl
theorem Encoding.adFlushTimeout (core : Nat) (ctx : Nat) (page : Nat) : Encoding.Statement (.adFlushTimeout core ctx page) := encoding_event rfl
theorem Encoding.hostSnoop (pa : Nat) : Encoding.Statement (.hostSnoop pa) := encoding_event rfl
theorem Encoding.hostMemWrite (hdm : Nat) (bytes : List Byte) : Encoding.Statement (.hostMemWrite hdm bytes) := encoding_event rfl
theorem Encoding.hostMemRead (hdm : Nat) (size : Nat) : Encoding.Statement (.hostMemRead hdm size) := encoding_event rfl
theorem Encoding.peerRead (hdm : Nat) (size : Nat) : Encoding.Statement (.peerRead hdm size) := encoding_event rfl
theorem Encoding.accessionedRead (hdm : Nat) : Encoding.Statement (.accessionedRead hdm) := encoding_event rfl
theorem Encoding.peerWrite (dest : PeerReq) (words : List W32) (mask : List Bool) : Encoding.Statement (.peerWrite dest words mask) := encoding_event rfl
theorem Encoding.peerAtomic (src : PeerId) (seq : Nat) (hdm : Nat) (op : PeerRmw) : Encoding.Statement (.peerAtomic src seq hdm op) := encoding_event rfl
theorem Encoding.read (off : Nat) : Encoding.Statement (.read off) := encoding_event rfl
theorem Encoding.write (off : Nat) (value : W64) : Encoding.Statement (.write off value) := encoding_event rfl
theorem Encoding.take (off : Nat) : Encoding.Statement (.take off) := encoding_event rfl
theorem Encoding.give (off : Nat) : Encoding.Statement (.give off) := encoding_event rfl
theorem Encoding.telem : Encoding.Statement .telem := encoding_event rfl
theorem Encoding.reset (dies : BitVec 41) : Encoding.Statement (.reset dies) := encoding_event rfl
theorem Encoding.spare (unit : Nat) (action : Nat) : Encoding.Statement (.spare unit action) := encoding_event rfl
theorem Encoding.clrfovf : Encoding.Statement .clrfovf := encoding_event rfl
theorem Encoding.cecWindowBoundary (unit : Nat) : Encoding.Statement (.cecWindowBoundary unit) := encoding_event rfl
theorem Encoding.hbmRowCopyDone (md : Nat) : Encoding.Statement (.hbmRowCopyDone md) := encoding_event rfl
theorem Encoding.powerWindowEnd (milliwatts : List Nat) (celsius : List Nat) : Encoding.Statement (.powerWindowEnd milliwatts celsius) := encoding_event rfl
theorem Encoding.powerOnReset : Encoding.Statement .powerOnReset := encoding_event rfl
theorem Encoding.svetfenLinkTrain (port : Nat) (lanes : Nat) : Encoding.Statement (.svetfenLinkTrain port lanes) := encoding_event rfl
theorem Encoding.hostLinkTrain (width rate : Nat) : Encoding.Statement (.hostLinkTrain width rate) := encoding_event rfl
theorem Encoding.hostWindowRead (off : Nat) (size : Nat) : Encoding.Statement (.hostWindowRead off size) := encoding_event rfl
theorem Encoding.peerWindowReread (grp : Nat) : Encoding.Statement (.peerWindowReread grp) := encoding_event rfl
theorem Encoding.flitCrcDrop (req : Nat) : Encoding.Statement (.flitCrcDrop req) := encoding_event rfl

end Sys2Proof.Laws
end

