-- ==== Sys2Proof/Laws/Run.lean ====
section
/-! SUPPORT. What the frame around an instruction word does, once for all instructions: in a ready state the body runs as it stands,
and then the program counter moves, the stores reach memory and clocks pass. -/

namespace Sys2Proof.Laws

open Sys2Proof.Machine Sys2Proof.Safety

/-! Clocks. -/

theorem clocked_refl (a : Group) : Clocked a a := ⟨a.stall, a.runcnt, a.wbudget, rfl⟩

theorem clocked_trans {a b c : Group} (h : Clocked a b) (k : Clocked b c) : Clocked a c := by
  obtain ⟨_, _, _, rfl⟩ := h
  obtain ⟨p, q, r, rfl⟩ := k
  exact ⟨p, q, r, rfl⟩

theorem clocked_ite {g a b : Group} {p : Prop} [Decidable p] (ha : Clocked g a) (hb : Clocked g b) :
    Clocked g (if p then a else b) := by
  split <;> assumption

theorem clocked_clockGroup (n : Nat) (g : Group) : Clocked g (clockGroup n g) := ⟨_, _, _, rfl⟩

theorem clocked_stall (n : Nat) (g : Group) : Clocked g { g with stall := n } := ⟨_, g.runcnt, g.wbudget, rfl⟩

theorem clocked_map {f : Group → Group} (h : ∀ g, Clocked g (f g)) (l : List Group) :
    List.Forall₂ Clocked l (l.map f) := by
  induction l with
  | nil => exact .nil
  | cons a r ih => exact .cons (h a) ih

theorem follows_refl (s : State) : Follows s s :=
  ⟨clocked_refl _, by induction s.others with | nil => exact .nil | cons a r ih => exact .cons (clocked_refl a) ih,
    s.cyc, s.free, rfl⟩

/-- Clocks that pass on a core change the counters of groups and the core's cycle counter only. -/
theorem follows_passClocks (core n : Nat) (s : State) : Follows s (passClocks core n s) :=
  ⟨clocked_ite (clocked_clockGroup _ _) (clocked_refl _),
    clocked_map (fun _ => clocked_ite (clocked_clockGroup _ _) (clocked_refl _)) _, _, _, rfl⟩

/-- What an instruction spends changes counters only. -/
theorem follows_spend (g0 : Group) (n : Nat) (s : State) : Follows s (spend g0 n s) := by
  have step : ∀ (p : Group → Bool) (m : Nat) (g : Group), Clocked g
      ((fun g : Group => if g.live && g.resident && g.core == g0.core then clockGroup m g else g)
        (if p g then { g with stall := g.stall + m } else g)) := fun p m g =>
    clocked_trans (clocked_ite (p := p g = true) (clocked_stall _ _) (clocked_refl g))
      (clocked_ite (clocked_clockGroup _ _) (clocked_refl _))
  refine ⟨step (fun g => g.live && g.resident && g.core == g0.core && g.id == g0.id) _ s.g, ?_, _, _, rfl⟩
  simp only [spend, bump, passClocks, mapGroups, List.map_map]
  exact clocked_map (step (fun g => g.live && g.resident && g.core == g0.core && g.id == g0.id) _) _

/-- Committing on both sides keeps the relation. -/
theorem follows_commit (o : State) {s t : State} (h : Follows s t) : Follows (commit o s) (commit o t) := by
  obtain ⟨hg, ho, c, f, he⟩ := h
  refine ⟨hg, ho, c, f, ?_⟩
  have hw : t.wr = s.wr := by rw [he]
  unfold commit
  rw [hw]
  conv_lhs => rw [he]

/-! A word in a ready state. -/

theorem ready_live {i : Instr} {s : State} (h : ready i s = true) : s.g.live = true := by
  simp only [ready, Bool.and_eq_true] at h; exact h.1.1.1.1.1

theorem ready_legal {i : Instr} {s : State} (h : ready i s = true) : illegalSub s i = none := by
  simp only [ready, Bool.and_eq_true, Option.isNone_iff_eq_none] at h; exact h.1.1.1.1.2

theorem ready_idle {i : Instr} {s : State} (h : ready i s = true) : s.g.inflight = [] := by
  simp only [ready, Bool.and_eq_true, List.isEmpty_iff] at h; exact h.1.1.1.2

theorem ready_present {i : Instr} {s : State} (h : ready i s = true) : s.g.absent = [] := by
  simp only [ready, Bool.and_eq_true, List.isEmpty_iff] at h; exact h.1.1.2

theorem ready_scanned {i : Instr} {s : State} (h : ready i s = true) : scanned i s = true := by
  simp only [ready, Bool.and_eq_true] at h; exact h.1.2

theorem ready_journal {i : Instr} {s : State} (h : ready i s = true) : s.wr = [] := by
  simp only [ready, Bool.and_eq_true, List.isEmpty_iff] at h; exact h.2

/-- With no XSCAN that has yet to read memory, nothing has to come first. -/
theorem scansFirst_none {s : State} (h : needsOps scansMemory s.g.id s = false) : scansFirst s = .ok () s := by
  simp [scansFirst, h]

theorem scanned_writes {i : Instr} {s : State} (h : scanned i s = true) (hw : writesNow i = true) :
    needsOps scansMemory s.g.id s = false := by
  simp only [scanned, hw, Bool.true_or, Bool.not_true, Bool.false_or, Bool.and_eq_true, Bool.not_eq_true'] at h
  exact h.1

/-- With no XSCAN and no open engine write of the group, an access waits for nothing. -/
theorem ordered_none {a b : Bool} {us : List Tack} {s : State} (h : needsOps scansMemory s.g.id s = false) (ho : ownOpen s = []) :
    ordered a b us s = .ok () s := by
  simp [ordered, h, ho]

theorem scanned_reads {i : Instr} {s : State} (h : scanned i s = true) (hr : isReplay i = true) :
    needsOps scansMemory s.g.id s = false ∧ ownOpen s = [] := by
  simpa [scanned, hr] using h

theorem inOrder_ready {i : Instr} {s : State} (h : scanned i s = true) : inOrder i s = .ok () s := by
  unfold inOrder
  split
  · exact scansFirst_none (scanned_writes h ‹_›)
  · split
    · simp only [scanned, Bool.or_true, Bool.not_true, Bool.false_or, Bool.and_eq_true, Bool.not_eq_true', List.isEmpty_iff] at h
      exact ordered_none h.1 h.2
    · rfl

theorem sourceFirst_idle (i : Instr) {s : State} (h : s.g.inflight = []) : sourceFirst i s = .ok () s := by
  unfold sourceFirst
  split <;> simp [resultHazard, resultIn, h]

/-- A group without issued memory instructions waits for no source. -/
theorem sourceFirst_ready {i : Instr} {s : State} (h : ready i s = true) : sourceFirst i s = .ok () s := by
  exact sourceFirst_idle i (ready_idle h)

/-- Nothing comes before the instruction's own effect. -/
theorem prepare_ready {i : Instr} {s : State} (h : ready i s = true) : prepare i s = .ok () s := by
  have hm : missesOf s i = [] := by simp [missesOf, ready_present h]
  simp [prepare, hm, fetchRegs, Res.bind, interlock, ready_idle h, inOrder_ready (ready_scanned h)]

theorem mark_ready {i : Instr} {s : State} (h : ready i s = true) : onG (markPresent s i) s = s := by
  simp [onG, markPresent, ready_present h]

/-- In a ready state the body runs on the state as it stands. -/
theorem run_ready {i : Instr} {s : State} (body : State → Res (Option W64)) (h : ready i s = true) :
    runI i s body = .next (commit s (spend s.g (beats i s) (conclude i (body s)))) := by
  simp only [runI, runCore, sourceFirst_ready h, goOn, ready_legal h, prepare_ready h, mark_ready h]

theorem settle_plain {i : Instr} {s : State} (h : settles i = false) : settle i s = s := by
  simp [settle, h]

/-- An instruction whose body goes on completes. -/
theorem completes_of_body {i : Instr} {s s' : State} {body : State → Res (Option W64)} {j : Option W64}
    (hx : exec i s = runI i s body) (hr : ready i s = true) (hb : body s = .ok j s') (hl : s'.g.live = true)
    (hp : settles i = false) : Completes i s j s' := by
  refine ⟨_, hx.trans (run_ready body hr), ?_⟩
  rw [hb, conclude, if_pos hl, settle_plain hp]
  exact follows_commit _ (follows_spend _ _ _)

/-- An instruction whose body waits stands at its blocking point. -/
theorem ends_of_block {i : Instr} {s s' : State} {body : State → Res (Option W64)} {b : Block}
    (hx : exec i s = runI i s body) (hr : ready i s = true) (hb : body s = .block b s') :
    Ends i s (onG (fun g => { g with block := some b }) s') := by
  refine ⟨_, hx.trans (run_ready body hr), ?_⟩
  rw [hb, conclude]
  exact follows_commit _ (follows_spend _ _ _)

/-- An instruction whose body traps ends in the trap. -/
theorem ends_of_trap {i : Instr} {s s' : State} {body : State → Res (Option W64)} {t : TrapInfo}
    (hx : exec i s = runI i s body) (hr : ready i s = true) (hb : body s = .trap t s') :
    Ends i s (takeTrap t false s') := by
  refine ⟨_, hx.trans (run_ready body hr), ?_⟩
  rw [hb, conclude]
  exact follows_commit _ (follows_spend _ _ _)

/-- An event takes effect as one step. -/
theorem event_next (f : State → State) (s : State) : event f s = .next (commit s (f s)) := rfl

end Sys2Proof.Laws
end

