-- ==== Sys2Proof/Laws/Trap.lean ====
section
/-! SUPPORT. What taking an exception can do, the shape of every meaning, and how an illegal word and a global memory instruction
end. -/

namespace Sys2Proof.Laws

open Sys2Proof.Machine Sys2Proof.Safety

/-! Registers: what an effect leaves alone. -/

theorem applyEff_frame (g : Group) (e : Effect) :
    ∃ v s gm tc fp, applyEff g e = { g with v := v, s := s, gmode := gm, tctl := tc, fpstat := fp } := by
  cases e <;> exact ⟨_, _, _, _, _, rfl⟩

/-- Pending effects reach the vector, scalar, mode, tile control and FPSTAT registers only. -/
theorem foldEff_frame (l : List Pending) (g : Group) :
    ∃ v s gm tc fp, l.foldl (fun a p => applyEff a p.eff) g = { g with v := v, s := s, gmode := gm, tctl := tc, fpstat := fp } := by
  induction l generalizing g with
  | nil => exact ⟨g.v, g.s, g.gmode, g.tctl, g.fpstat, rfl⟩
  | cons a r ih =>
    obtain ⟨v, s, gm, tc, fp, h⟩ := applyEff_frame g a.eff
    rw [List.foldl_cons, h]
    obtain ⟨v', s', gm', tc', fp', h'⟩ := ih { g with v := v, s := s, gmode := gm, tctl := tc, fpstat := fp }
    exact ⟨v', s', gm', tc', fp', h'⟩

/-- Completing the pending writes (R102) reaches those registers and the list of pending writes only. -/
theorem completeAll_frame (g : Group) :
    ∃ v s gm tc fp, completeAll g = { g with v := v, s := s, gmode := gm, tctl := tc, fpstat := fp, pend := [] } := by
  obtain ⟨v, s, gm, tc, fp, h⟩ := foldEff_frame g.pend g
  exact ⟨v, s, gm, tc, fp, by rw [completeAll, h]⟩

theorem completeAll_quiet {g : Group} (h : g.pend = []) : completeAll g = g := by
  cases g; cases h; rfl

theorem flushTarget_quiet {g : Group} (e : Effect) (h : g.pend = []) : flushTarget g e = g := by
  cases g; cases h; rfl

/-- An interlocked result of a group without pending writes (R99). -/
theorem put_quiet {g : Group} (e : Effect) (h : g.pend = []) : put e g = applyEff g e := by
  rw [put, flushTarget_quiet e h]

/-- A posted result of a group without pending writes (R98). -/
theorem post_quiet {g : Group} (l : Nat) (e : Effect) (h : g.pend = []) : post l e g = { g with pend := [⟨l, e⟩] } := by
  simp [post, flushTarget_quiet e h, h]

theorem retire_inflight (d : Nat) (g : Group) : (retire d g).inflight = g.inflight := by
  obtain ⟨v, s, gm, tc, fp, h⟩ := foldEff_frame (g.pend.filter (fun p => decide (p.left ≤ d))) g
  simp [retire, h]

theorem advance_inflight (i : Instr) (j : Option W64) (g : Group) : (advance i j g).inflight = g.inflight := by
  simp [advance, retire_inflight]

/-! Instructions in flight. -/

theorem drainAll_idle {s : State} (h : s.g.inflight = []) : drainAll s = .ok () s := by
  simp [drainAll, h, drain]

/-! Taking an exception (R264, R265, R268). -/

/-- The group as the exception leaves it before it goes to its handler or to the host. -/
def trapped (t : TrapInfo) (s : State) : Group := enterTrap t (t.first.getD s.g.pc) [] (completeAll s.g)

/-- With nothing in flight, outside the privileged view and with the handler on, the group goes to its handler. -/
theorem takeTrap_handler (t : TrapInfo) (own : Bool) (s : State) (hi : s.g.inflight = []) (hp : s.g.priv = false)
    (hv : bit s.g.tvec 63 = true) (hr : partSR s.g.part = 3) :
    takeTrap t own s = onG (fun _ => toHandler (trapped t s)) (endSlotStall s) := by
  obtain ⟨v, sc, gm, tc, fp, h⟩ := completeAll_frame s.g
  simp [takeTrap, hp, onG, endSlotStall, trapped, h, hi, storeOperands, replaysOf, indexed, enterTrap, hv, hr]

/-- Without a handler, or without s60 to s63, it waits for the host. -/
theorem takeTrap_host (t : TrapInfo) (own : Bool) (s : State) (hi : s.g.inflight = []) (hp : s.g.priv = false)
    (hv : ¬ (bit s.g.tvec 63 = true ∧ partSR s.g.part = 3)) :
    takeTrap t own s = postAndWait t.code false (onG (fun _ => trapped t s) (endSlotStall s)) := by
  obtain ⟨v, sc, gm, tc, fp, h⟩ := completeAll_frame s.g
  simp [takeTrap, hp, onG, endSlotStall, trapped, h, hi, storeOperands, replaysOf, indexed, enterTrap]
  intro a b
  exact absurd ⟨a, b⟩ hv

/-- In the privileged view it is fatal to the context (R268). -/
theorem takeTrap_priv (t : TrapInfo) (own : Bool) (s : State) (hp : s.g.priv = true) :
    takeTrap t own s = fatalCtx 0x26 0 t.fault s := by
  simp [takeTrap, hp]

/-! The shape of every meaning. -/

/-- An instruction word runs its body in the one frame of `runI`. -/
theorem exec_word (i : Instr) (s : State) (hw : isWord i = true) : ∃ body, exec i s = runI i s body := by
  cases i <;> first | exact absurd hw Bool.false_ne_true | exact ⟨_, rfl⟩

/-- Every instruction and event but POWER_ON_RESET stores what its step has written, and answers a next state. -/
theorem exec_commits (i : Instr) (s : State) : (∃ x, exec i s = .next (commit s x)) ∨ exec i s = .next (powerOn s) := by
  cases i
  case powerOnReset => exact Or.inr rfl
  all_goals exact Or.inl ⟨_, rfl⟩

/-- An illegal word of a group with nothing in flight ends in the illegal-instruction trap (R93, R94). -/
theorem ends_of_illegal {i : Instr} {s : State} {n : Nat} (hw : isWord i = true) (h : illegalSub s i = some n)
    (hi : s.g.inflight = []) : Ends i s (takeTrap (illegalTrap n s) false s) := by
  obtain ⟨b, hx⟩ := exec_word i s hw
  refine ⟨_, hx, ?_⟩
  simp only [runCore, sourceFirst_idle i hi, goOn, h, drainAll_idle hi]
  exact follows_commit _ (follows_spend _ _ _)

/-! Global memory instructions. -/

theorem allGroups_needs {p : MatOp → Bool} {id : Nat} {s t : State} (ho : t.others = s.others)
    (hg : t.g.live = s.g.live ∧ t.g.id = s.g.id ∧ allOps t.g = allOps s.g) : needsOps p id t = needsOps p id s := by
  simp [needsOps, allGroups, ho, hg.1, hg.2.1, hg.2.2]

theorem retire_matrix (d : Nat) (g : Group) : (retire d g).live = g.live ∧ (retire d g).id = g.id ∧ allOps (retire d g) = allOps g := by
  obtain ⟨v, s, gm, tc, fp, h⟩ := foldEff_frame (g.pend.filter (fun p => decide (p.left ≤ d))) g
  simp [retire, h, allOps]

theorem advance_matrix (i : Instr) (j : Option W64) (g : Group) :
    (advance i j g).live = g.live ∧ (advance i j g).id = g.id ∧ allOps (advance i j g) = allOps g := by
  have h := retire_matrix (1 + (opnd i).st.toNat) { g with pc := j.getD (g.pc + BitVec.ofNat 64 (instrLen i)) }
  exact ⟨h.1, h.2.1, h.2.2⟩

/-- Issuing a memory instruction accepts no matrix operation. -/
theorem begun_needs (p : MatOp → Bool) (id : Nat) (i : Instr) (s : State) : needsOps p id (begun i s) = needsOps p id s := by
  have h := advance_matrix i none (enqueue i s).g
  exact allGroups_needs rfl ⟨h.1, h.2.1, h.2.2⟩

theorem begun_id (i : Instr) (s : State) : (begun i s).g.id = s.g.id := (advance_matrix i none (enqueue i s).g).2.1

theorem begun_open (i : Instr) (s : State) : ownOpen (begun i s) = ownOpen s := by
  have h : (begun i s).cmds = s.cmds := rfl
  simp only [ownOpen, h, begun_id]

/-- Nothing comes before a memory instruction that issues in a ready state. -/
theorem beforeEntry_ready {i : Instr} {s : State} (hs : scanned i s = true) (hr : isReplay i = true)
    (hd : ∃ n, decode (encode i).1 (encode i).2 = .instr i n) : beforeEntry (entryOf i s) (begun i s) = .ok () (begun i s) := by
  obtain ⟨n, hd⟩ := hd
  have h := scanned_reads hs hr
  simp only [beforeEntry, entryOf, hd]
  exact ordered_none (by rw [begun_id, begun_needs]; exact h.1) (by rw [begun_open]; exact h.2)

/-- A global memory instruction that may go at once is performed on the state that its issue leaves (R269). -/
theorem performs_of_entry {i : Instr} {s s' : State} (hx : exec i s = runMem i s) (hg : goes i s) (hr : isReplay i = true)
    (hd : ∃ n, decode (encode i).1 (encode i).2 = .instr i n) (hp : performEntry (entryOf i s) (begun i s) = .ok () s') : Performs i s s' := by
  obtain ⟨h, _, hh⟩ := hg
  have hq := beforeEntry_ready (ready_scanned h) hr hd
  refine ⟨_, hx.trans (run_ready _ h), ?_⟩
  have he : (onG (advance i none) (enqueue i s)).g.inflight = [entryOf i s] := by
    simp [onG, enqueue, advance_inflight, ready_idle h, entryOf]
  have hl : (enqueue i s).g.live = true := (ready_live h : s.g.live = true)
  have hs : settle i (onG (advance i none) (enqueue i s)) = onG (fun g => { g with inflight := g.inflight.drop 1 }) s' := by
    have hb : ({ onG (advance i none) (enqueue i s) with holds := (onG (advance i none) (enqueue i s)).holds.drop 1 } : State) =
      begun i s := rfl
    have h1 : (begun i s).g.inflight = [entryOf i s] := he
    have h2 : (onG (advance i none) (enqueue i s)).holds.headD false = false := hh
    simp only [settle, he, List.isEmpty_cons, settles, hr, Bool.true_or, Bool.not_true, Bool.or_self, takeHold, h2, hb, drainAll, h1,
      List.length_cons, List.length_nil, drain, hq, Res.bind, hp]
    simp [entryOf]
  simp only [conclude, if_pos hl, hs]
  exact follows_commit _ (follows_spend _ _ _)

end Sys2Proof.Laws
end

