-- ==== Sys2Proof/Laws/Turns.lean ====
section
/-! SUPPORT. Choosing whose turn it is, and a clock that passes, touch neither memory nor the journal of stores. -/

namespace Sys2Proof.Laws

open Sys2Proof.Machine

/-- Making another group the current one moves groups only. -/
theorem focus_frame {p : Group → Bool} {s t : State} (h : focus p s = some t) : t = { s with g := t.g, others := t.others } := by
  unfold focus at h
  split at h
  · cases h; exact Eq.refl _
  · split at h
    · cases h
    · cases h; exact Eq.refl _

theorem turnSlot_frame (s : State) : (turnSlot s).2.mem = s.mem ∧ (turnSlot s).2.wr = s.wr := by
  unfold turnSlot
  cases s.turns <;> exact ⟨rfl, rfl⟩

theorem foldl_keeps {α : Type} {f : State → α → State} (h : ∀ a x, (f a x).mem = a.mem ∧ (f a x).wr = a.wr) (l : List α) (s : State) :
    (l.foldl f s).mem = s.mem ∧ (l.foldl f s).wr = s.wr := by
  induction l generalizing s with
  | nil => exact ⟨rfl, rfl⟩
  | cons x r ih => exact ⟨(ih (f s x)).1.trans (h s x).1, (ih (f s x)).2.trans (h s x).2⟩

theorem evictLine_wr (s : State) (h : HomeLine) : (evictLine s h).wr = s.wr := by
  simp only [evictLine, dropTags, putMarks]
  repeat' split
  all_goals rfl

theorem touch_wr (s : State) (k : Nat) (q a : BitVec 2) (w : Bool) : (touch s k q a w).wr = s.wr := by
  unfold touch
  split
  · exact Eq.refl s.wr
  · dsimp only
    split
    · exact Eq.refl s.wr
    · split
      · exact Eq.refl s.wr
      · dsimp only
        split
        · exact evictLine_wr s _
        · exact Eq.refl s.wr

/-- A line that is fetched changes neither memory nor the journal. -/
theorem fillLine_keeps (s : State) (w : Who) (p : Phys) : (fillLine s w p).mem = s.mem ∧ (fillLine s w p).wr = s.wr := by
  refine ⟨fillLine_mem s w p, ?_⟩
  unfold fillLine
  refine (foldl_keeps (fun a x => ?_) _ _).2.trans (touch_wr s _ _ _ _)
  split <;> exact ⟨rfl, rfl⟩

theorem walkFrom_wr (va : Nat) (q : BitVec 2) (l : List (Nat × Nat × Nat)) (pa : Nat) (s : State) :
    (walkFrom va q l pa s).2.wr = s.wr := by
  induction l generalizing pa s with
  | nil => rfl
  | cons e r ih =>
    obtain ⟨sh, n, al⟩ := e
    simp only [walkFrom]
    repeat' split
    all_goals simp [ih, touch_wr]

theorem fillOwn_keeps (va : W64) (s : State) : (fillOwn va s).mem = s.mem ∧ (fillOwn va s).wr = s.wr := by
  unfold fillOwn
  split
  · exact ⟨rfl, rfl⟩
  · dsimp only
    have h : (walk s (fld s.g.vmctx 17 35 * 2 ^ 17) s.g.ccls va).2.mem = s.mem ∧
        (walk s (fld s.g.vmctx 17 35 * 2 ^ 17) s.g.ccls va).2.wr = s.wr := ⟨walk_mem _ _ _ _, walkFrom_wr _ _ _ _ _⟩
    split
    · rename_i hw
      rw [hw] at h
      split
      · split
        · exact ⟨(fillLine_keeps _ _ _).1.trans h.1, (fillLine_keeps _ _ _).2.trans h.2⟩
        · exact h
      · exact h
    · rename_i hw
      rw [hw] at h
      exact h

theorem fillTurn_keeps (s : State) : (fillTurn s).mem = s.mem ∧ (fillTurn s).wr = s.wr := by
  unfold fillTurn
  split
  · exact foldl_keeps (fun a x => fillOwn_keeps x a) _ _
  · exact ⟨rfl, rfl⟩

theorem onGroup_keeps (id : Nat) (f : Group → Group) (s : State) : (onGroup id f s).mem = s.mem ∧ (onGroup id f s).wr = s.wr :=
  ⟨rfl, rfl⟩

/-- Picking the group of a slot counts opportunities; a trial leaves nothing. -/
theorem slotPick_keeps (k : Nat) (s : State) : (slotPick k s).2.mem = s.mem ∧ (slotPick k s).2.wr = s.wr := by
  unfold slotPick
  dsimp only
  split
  · split <;> exact ⟨rfl, rfl⟩
  · split <;> exact ⟨rfl, rfl⟩

/-- A turn that ticks changes no memory. -/
theorem nextTurn_tick {s t : State} {c : Nat} (h : nextTurn s = .tick c t) : t.mem = s.mem ∧ t.wr = s.wr := by
  have k := turnSlot_frame s
  unfold nextTurn at h
  split at h
  · cases h
  · rename_i n s1 hx
    rw [hx] at k
    have m := slotPick_keeps n s1
    split at h
    · rename_i hp
      rw [hp] at m
      cases h
      exact ⟨m.1.trans k.1, m.2.trans k.2⟩
    · rename_i hp
      rw [hp] at m
      split at h
      · cases h
      · cases h
        exact ⟨m.1.trans k.1, m.2.trans k.2⟩

/-- The group whose turn it is becomes the current one. -/
theorem nextTurn_issue {s t : State} (h : nextTurn s = .issue t) : t.mem = s.mem ∧ t.wr = s.wr := by
  have k := turnSlot_frame s
  unfold nextTurn at h
  split at h
  · cases h
  · rename_i n s1 hx
    rw [hx] at k
    have m := slotPick_keeps n s1
    split at h
    · cases h
    · rename_i id _ hp
      rw [hp] at m
      split at h
      · rename_i s3 hf
        cases h
        have f := focus_frame hf
        have q := fillTurn_keeps (answered (.issuer id) s3)
        exact ⟨q.1.trans ((congrArg (fun x => x.mem) f).trans (m.1.trans k.1)),
          q.2.trans ((congrArg (fun x => x.wr) f).trans (m.2.trans k.2))⟩
      · cases h

theorem idleClock_mem (s : State) : (idleClock s).mem = s.mem ∧ (idleClock s).wr = s.wr := by
  unfold idleClock
  generalize busyCores s = l
  induction l generalizing s with
  | nil => exact ⟨rfl, rfl⟩
  | cons c r ih => exact ih (passClocks c 1 s)

end Sys2Proof.Laws
end

