-- ==== Sys2Proof/Tests/Slice0.lean ====
section
/-! SUPPORT. Small tests, each about one step or one word: well-formedness, the words that the manual writes out, results that the manual
or a hand calculation from it gives, and for every statement of the obligations states that meet its hypotheses. -/

namespace Sys2Proof.Tests

open Sys2Proof.Machine Sys2Proof.Safety

set_option Elab.async false

/-! Helpers. -/

/-- A kind 10 word with every field zero. -/
def par0 : K10 := ⟨0, 0, 0, 0, false, 0, 0, 0⟩
/-- A kind 01 word with a C operand and every other field zero. -/
def broC (c : BitVec 7) : Ext := .bro ⟨c, false, false, 0, 0, false, false, false, false, false, false, 0⟩
/-- A kind 01 word that broadcasts a scalar, with a selector. -/
def broS (sel : BitVec 4) : Ext := .bro ⟨0, true, false, 0, sel, false, false, false, false, false, false, 0⟩
/-- A kind 10 word with SEL and VAL. -/
def parS (sel : BitVec 4) (val : BitVec 14) : Ext := .par { par0 with sel := sel, val := val }
/-- A kind 10 word with SCOPE and SEL. -/
def parC (scope : BitVec 3) (sel : BitVec 4) : Ext := .par { par0 with scope := scope, sel := sel }

/-- A partition: 128 vector, 64 scalar and 8 tile registers, two granules of scratchpad and four frames. -/
def tPart : W64 := BitVec.ofNat 64 (16 + 3 * 32 + 8 * 128 + 2 * 2048 + 4 * 2 ^ 17)
/-- A live group in the unprivileged view, its mask in s1, sixteen lanes, the handler on. -/
def tGroup : Group := { Group.empty with
  live := true, resident := true, id := 7, panel := 3, part := tPart, gmode := 1, exmask := 0xFFFF, pc := 0x1000
  tvec := 0x8000_0000_0000_2000, s := [(1, 0xFFFF_FFFF_FFFF_FFFF), (4, 0x20400)] }
/-- The state after reset with that group. -/
def tState : State := { State.reset with g := tGroup }
/-- That state with scalars, vectors and a GMODE. -/
def tWith (gmode : W64) (s : List (Nat × W64)) (v : List (Nat × Lanes)) : State :=
  { tState with g := { tGroup with gmode := gmode, s := s, v := v } }
/-- That state in the privileged view. -/
def tPriv : State := { tState with g := { tGroup with priv := true } }
/-- A register with one value in every lane. -/
def every (x : W32) : Lanes := List.replicate 64 x

/-- The next state meets a test. -/
def after (i : Instr) (s : State) (p : State → Bool) : Bool := match exec i s with | .next t => p t | _ => false
/-- A check passes, with a test of what it answers. -/
def okWith {α : Type} (r : Res α) (p : α → State → Bool) : Bool := match r with | .ok a s => p a s | _ => false
/-- A check passes. -/
def okd {α : Type} (r : Res α) : Bool := okWith r (fun _ _ => true)

/-! Well-formedness: a term for each check, which it refuses. -/

/-- The extension word: required, of a kind the opcode takes (R82). -/
theorem test_illformed_extension :
    WellFormed (.brc ⟨0, 0, 4, 0, .none⟩) = false ∧ WellFormed (.nop ⟨0, 0, 0, 0, .imm 0⟩) = false ∧
    WellFormed (.shfl ⟨0, 2, 4, 6, .imm 0⟩) = false := by decide

/-- Zero fields, immediates and selectors in range (R93, sub-code 0x05). -/
theorem test_illformed_fields :
    WellFormed (.nop ⟨0, 1, 0, 0, .none⟩) = false ∧ WellFormed (.rfal ⟨0, 7, 3, 1, .none⟩) = false ∧
    WellFormed (.brc ⟨0, 6, 4, 0, .imm 0⟩) = false ∧ WellFormed (.shfx ⟨0, 2, 4, 64, .none⟩) = false ∧
    WellFormed (.vscan ⟨0, 2, 4, 6, .none⟩) = false ∧ WellFormed (.vscan ⟨0, 2, 4, 21, .none⟩) = true := by decide

/-- The kind 00 word: branch offsets, indexes and GMODE images (R89, R375, R384). -/
theorem test_illformed_immediate :
    WellFormed (.brc ⟨0, 0, 4, 0, .imm 2⟩) = false ∧ WellFormed (.mfsr ⟨0, 4, 0, 0, .imm 0x1000⟩) = false ∧
    WellFormed (.mode ⟨0, 1, 0, 0, .imm 0x8000⟩) = false ∧ WellFormed (.mode ⟨0, 1, 0, 0, .imm 0x7FFF⟩) = true := by decide

/-- The kind 01 word: no modifier where there is none, no broadcast that the opcode does not take, no C where there is none (R84, R85). -/
theorem test_illformed_broadcast :
    WellFormed (.vand ⟨0, 2, 4, 6, .bro ⟨0, false, false, 0, 0, true, false, false, false, false, false, 0⟩⟩) = false ∧
    WellFormed (.vadd ⟨0, 2, 4, 6, broC 5⟩) = false ∧ WellFormed (.vadd ⟨0, 2, 4, 6, .bro ⟨0, false, true, 0, 0, false, false, false, false, false, false, 0⟩⟩) = false ∧
    WellFormed (.vcmp ⟨0, 2, 4, 6, broS 10⟩) = false ∧ WellFormed (.shflScalar ⟨0, 2, 4, 6, broC 0⟩) = false := by decide

/-- The kind 10 word: fields that the opcode does not use, and reserved codes (R88). -/
theorem test_illformed_parameters :
    WellFormed (.fence ⟨0, 0, 0, 0, parC 3 0⟩) = false ∧ WellFormed (.fence ⟨0, 0, 0, 0, .par { par0 with scope := 6, order := 3 }⟩) = false ∧
    WellFormed (.cmaint ⟨0, 0, 8, 9, parC 2 4⟩) = false ∧ WellFormed (.tlbinv ⟨0, 0, 7, 0, .par { par0 with scope := 3, val := 1 }⟩) = false ∧
    WellFormed (.scmp ⟨0, 2, 4, 6, parS 10 0⟩) = false ∧ WellFormed (.fcvt ⟨0, 2, 4, 0, parS 0 1⟩) = false ∧
    WellFormed (.red ⟨0, 8, 4, 2, parS 6 0⟩) = false ∧ WellFormed (.sst ⟨0, 12, 4, 5, parS 1 0⟩) = false := by decide

/-- Register classes and runs (R81, R90, sub-codes 0x06 and 0x08). -/
theorem test_illformed_registers :
    WellFormed (.sadd ⟨0, 64, 4, 6, .none⟩) = false ∧ WellFormed (.mma ⟨0, 4, 8, 1, .none⟩) = false ∧
    WellFormed (.ld ⟨0, 3, 4, 6, .par { par0 with size := 3 }⟩) = false ∧ WellFormed (.ld ⟨0, 2, 4, 6, .par { par0 with size := 3 }⟩) = true := by
  decide

/-- Events name what the module has. -/
theorem test_illformed_events :
    WellFormed (.dispatchTakeRecord 16) = false ∧ WellFormed (.dispatchTakeRecord 15) = true ∧ WellFormed (.faultRecordPost 9) = false ∧
    WellFormed (.sliceEnd 16 0) = false ∧ WellFormed (.ctxKill 16) = false ∧ WellFormed (.spawnBinTimeout 8 0 0) = false ∧
    WellFormed (.passComplete 8 0 0) = false ∧ WellFormed (.homeWritebackMerge 96 0) = false ∧ WellFormed (.adFlushTimeout 386 0 0) = false ∧
    WellFormed (.hostMemWrite 2048000000000 [0]) = false ∧ WellFormed (.hostMemRead 2048000000000 1) = false ∧
    WellFormed (.peerRead 0 129) = false ∧ WellFormed (.accessionedRead 64) = false ∧ WellFormed (.peerWrite ⟨⟨0, 0⟩, 0, 2⟩ [0] [true]) = false ∧
    WellFormed (.peerAtomic ⟨65536, 0⟩ 0 0 (.rmw .add false 4 0)) = false ∧ WellFormed (.cecWindowBoundary 576) = false ∧ WellFormed (.hbmRowCopyDone 32) = false ∧
    WellFormed (.powerWindowEnd [] []) = false ∧ WellFormed (.svetfenLinkTrain 128 0) = false := by
  decide

/-! Words that the manual writes out beside the assembly text (chapters 05 to 13), read as that text says. -/

/-- R93, R253, R265, R266, R345, R346, R351, R352, R375, R384, R387, R394. -/
theorem test_decode_control :
    decode 0xE020_0000 0 = .instr (.nop ⟨7, 0, 0, 0, .none⟩) 4 ∧ decode 0x0020_4000 0 = .instr (.yieldpt ⟨0, 1, 0, 0, .none⟩) 4 ∧
    decode 0x0020_8000 0 = .instr (.exit ⟨0, 2, 0, 0, .none⟩) 4 ∧ decode 0x0020_CF00 0 = .instr (.ret ⟨0, 3, 30, 0, .none⟩) 4 ∧
    decode 0x0021_0000 0 = .instr (.rfe ⟨0, 4, 0, 0, .none⟩) 4 ∧ decode 0x0021_4003 0 = .instr (.svc ⟨0, 5, 0, 3, .none⟩) 4 ∧
    decode 0x0021_8003 0 = .instr (.trap ⟨0, 6, 0, 3, .none⟩) 4 ∧
    decode 0x1060_4480 0x3FFF_FFF0 = .instr (.brc ⟨0, 1, 9, 0, .imm (-16)⟩) 8 ∧
    decode 0x1080_0500 0x0000_0018 = .instr (.bzm ⟨0, 0, 10, 0, .imm 24⟩) 8 ∧
    decode 0x10A7_8000 0x0000_0040 = .instr (.call ⟨0, 30, 0, 0, .imm 64⟩) 8 ∧
    decode 0x10C0_4000 0x0000_000A = .instr (.mode ⟨0, 1, 0, 0, .imm 10⟩) 8 ∧
    decode 0x10E1_4000 0x0000_0008 = .instr (.mfsr ⟨0, 5, 0, 0, .imm 8⟩) 8 ∧
    decode 0x1100_1E00 0x0000_0100 = .instr (.mtsr ⟨0, 0, 60, 0, .imm 0x100⟩) 8 := by decide

/-- R345: BRA back 12 bytes, whose 21-bit offset counts words. -/
theorem test_decode_bra :
    (match decode 0x005F_FFFD 0 with | .instr (.bra o) 4 => (o.d ++ o.a ++ o.b : BitVec 21).toInt == -3 | _ => false) = true := by decide

/-- R193, R238, R348, R366, R373, R378, Table 6-9. -/
theorem test_decode_system :
    decode 0x0121_8380 0 = .instr (.migrate ⟨0, 6, 7, 0, .none⟩) 4 ∧ decode 0x0141_0280 0 = .instr (.launch ⟨0, 4, 5, 0, .none⟩) 4 ∧
    decode 0x1160_0380 0xA000_0000 = .instr (.tlbinv ⟨0, 0, 7, 0, parC 4 0⟩) 8 ∧
    decode 0x1160_0000 0xA800_0001 = .instr (.tlbinv ⟨0, 0, 0, 0, .par { par0 with scope := 5, val := 1 }⟩) 8 ∧
    decode 0x1160_0000 0x8000_4000 = .instr (.harvest ⟨0, 0, 0, 0, parS 1 0⟩) 8 ∧
    decode 0x1161_0A15 0x8000_8000 = .instr (.mappg ⟨0, 4, 20, 21, parS 2 0⟩) 8 ∧
    decode 0x1161_0A15 0x8000_C000 = .instr (.accsn ⟨0, 4, 20, 21, parS 3 0⟩) 8 ∧
    decode 0x1160_0409 0x9801_0002 = .instr (.cmaint ⟨0, 0, 8, 9, .par { par0 with scope := 3, sel := 4, val := 2 }⟩) 8 := by decide

/-- R398 to R401. -/
theorem test_decode_scalar :
    decode 0x1201_4300 0x3FFF_FFFF = .instr (.sadd ⟨0, 5, 6, 0, .imm (-1)⟩) 8 ∧
    decode 0x1361_4307 0x8000_4000 = .instr (.smin ⟨0, 5, 6, 7, parS 1 0⟩) 8 ∧
    decode 0x1281_4307 0x4400_0000 = .instr (.smad ⟨0, 5, 6, 7, broC 8⟩) 8 ∧
    decode 0x13C1_4307 0x4400_0000 = .instr (.ssel ⟨0, 5, 6, 7, broC 8⟩) 8 ∧
    decode 0x13A1_4307 0x8000_8000 = .instr (.scmp ⟨0, 5, 6, 7, parS 2 0⟩) 8 ∧
    decode 0x1401_4000 0x0000_0064 = .instr (.sli ⟨0, 5, 0, 0, .imm 100⟩) 8 ∧
    decode 0x1401_4100 0x0000_0001 = .instr (.sli ⟨0, 5, 2, 0, .imm 1⟩) 8 := by decide

/-- R353, R355, R356, R357, R359, R361, R362. -/
theorem test_decode_float :
    decode 0x0721_4103 0 = .instr (.fadd ⟨0, 5, 2, 3, .none⟩) 4 ∧ decode 0x0741_4103 0 = .instr (.fsub ⟨0, 5, 2, 3, .none⟩) 4 ∧
    decode 0x0761_0082 0 = .instr (.fmul ⟨0, 4, 1, 2, .none⟩) 4 ∧ decode 0x07A1_4103 0 = .instr (.fmin ⟨0, 5, 2, 3, .none⟩) 4 ∧
    decode 0x07C1_4103 0 = .instr (.fmax ⟨0, 5, 2, 3, .none⟩) 4 ∧ decode 0x0901_8100 0 = .instr (.fcls ⟨0, 6, 2, 0, .none⟩) 4 ∧
    decode 0x17E2_8103 0x8000_8000 = .instr (.fcmp ⟨0, 10, 2, 3, parS 2 0⟩) 8 ∧
    decode 0x18E1_8200 0x8001_0003 = .instr (.fcvt ⟨0, 6, 4, 0, parS 4 3⟩) 8 ∧
    decode 0x0801_C300 0 = .instr (.frcp ⟨0, 7, 6, 0, .none⟩) 4 ∧ decode 0x0821_C300 0 = .instr (.frsq ⟨0, 7, 6, 0, .none⟩) 4 ∧
    decode 0x0841_C300 0 = .instr (.fsqrt ⟨0, 7, 6, 0, .none⟩) 4 ∧ decode 0x0861_C300 0 = .instr (.fex2 ⟨0, 7, 6, 0, .none⟩) 4 ∧
    decode 0x0881_C300 0 = .instr (.flg2 ⟨0, 7, 6, 0, .none⟩) 4 ∧ decode 0x08A1_C301 0 = .instr (.ftrig ⟨0, 7, 6, 1, .none⟩) 4 ∧
    decode 0x08C1_C300 0 = .instr (.frnd ⟨0, 7, 6, 0, .none⟩) 4 ∧ decode 0x0921_0103 0 = .instr (.fscl ⟨0, 4, 2, 3, .none⟩) 4 := by decide

/-- R403, R420 to R427. -/
theorem test_decode_vector :
    decode 0x1642_8103 0x8000_8000 = .instr (.vcmp ⟨0, 10, 2, 3, parS 2 0⟩) 8 ∧
    decode 0x1661_4103 0x4400_0000 = .instr (.vsel ⟨0, 5, 2, 3, broC 8⟩) 8 ∧
    decode 0x0681_4100 0 = .instr (.vmov ⟨0, 5, 2, 0, .none⟩) 4 ∧ decode 0x1681_4000 0x0000_0007 = .instr (.vmovImm ⟨0, 5, 0, 0, .imm 7⟩) 8 ∧
    decode 0x1681_4007 0x4040_0000 = .instr (.vmovScalar ⟨0, 5, 0, 7, broS 0⟩) 8 ∧
    decode 0x0941_4103 0 = .instr (.shfl ⟨0, 5, 2, 3, .none⟩) 4 ∧ decode 0x1941_4103 0x4000_0000 = .instr (.shfl ⟨0, 5, 2, 3, broC 0⟩) 8 ∧
    decode 0x1941_4107 0x4040_0000 = .instr (.shflScalar ⟨0, 5, 2, 7, broS 0⟩) 8 ∧ decode 0x0961_4101 0 = .instr (.shfx ⟨0, 5, 2, 1, .none⟩) 4 ∧
    decode 0x0982_8102 0 = .instr (.vote ⟨0, 10, 2, 2, .none⟩) 4 ∧ decode 0x09A1_C180 0 = .instr (.rfal ⟨0, 7, 3, 0, .none⟩) 4 ∧
    decode 0x09C2_8100 0 = .instr (.vred ⟨0, 10, 2, 0, .none⟩) 4 ∧ decode 0x09E1_4110 0 = .instr (.vscan ⟨0, 5, 2, 16, .none⟩) 4 ∧
    decode 0x0A01_4001 0 = .instr (.viota ⟨0, 5, 0, 1, .none⟩) 4 := by decide

/-- R339, R347, R367, R371, R389, R392, R404, R410, R413. -/
theorem test_decode_memory :
    decode 0x0A22_8202 0 = .instr (.ld ⟨0, 10, 4, 2, .none⟩) 4 ∧
    decode 0x1A22_8209 0x8140_0006 = .instr (.ld ⟨0, 10, 4, 9, .par { par0 with scale := 2, size := 2, val := 6 }⟩) 8 ∧
    decode 0x1A22_8202 0x81E0_0000 = .instr (.ld ⟨0, 10, 4, 2, .par { par0 with scale := 3, size := 3 }⟩) 8 ∧
    decode 0x0A42_8202 0 = .instr (.st ⟨0, 10, 4, 2, .none⟩) 4 ∧ decode 0x0A61_8202 0 = .instr (.lds ⟨0, 6, 4, 2, .none⟩) 4 ∧
    decode 0x1A61_8202 0x8150_0008 = .instr (.lds ⟨0, 6, 4, 2, .par { par0 with scale := 2, size := 2, sx := true, val := 8 }⟩) 8 ∧
    decode 0x0A81_8202 0 = .instr (.sts ⟨0, 6, 4, 2, .none⟩) 4 ∧
    decode 0x1AA3_0205 0x81E0_0000 = .instr (.sld ⟨0, 12, 4, 5, .par { par0 with scale := 3, size := 3 }⟩) 8 ∧
    decode 0x0AC3_0205 0 = .instr (.sst ⟨0, 12, 4, 5, .none⟩) 4 ∧
    decode 0x1B42_0202 0xA7E0_0000 = .instr (.atom ⟨0, 8, 4, 2, .par { par0 with scope := 4, order := 3, scale := 3, size := 3 }⟩) 8 ∧
    decode 0x0B61_8202 0 = .instr (.cas ⟨0, 6, 4, 2, .none⟩) 4 ∧
    decode 0x1B82_0202 0x8001_C000 = .instr (.red ⟨0, 8, 4, 2, parS 7 0⟩) 8 ∧
    decode 0x1BA0_0202 0x8004_0000 = .instr (.pfetch ⟨0, 0, 4, 2, .par { par0 with ccls := 1 }⟩) 8 := by decide

/-- R216, R222, R228, R230, R343, R358, R370, R386, R390, R407, R412. -/
theorem test_decode_sync :
    decode 0x1AE3_0500 0xA000_0000 = .instr (.ldacq ⟨0, 12, 10, 0, parC 4 0⟩) 8 ∧
    decode 0x1B00_050B 0xA000_0000 = .instr (.strel ⟨0, 0, 10, 11, parC 4 0⟩) 8 ∧
    decode 0x1B20_0000 0xA600_0000 = .instr (.fence ⟨0, 0, 0, 0, .par { par0 with scope := 4, order := 3 }⟩) 8 ∧
    decode 0x1BC0_050B 0x8060_0000 = .instr (.mwait ⟨0, 0, 10, 11, .par { par0 with size := 3 }⟩) 8 ∧
    decode 0x1BE0_0811 0x8000_4000 = .instr (.barinit ⟨0, 0, 16, 17, parS 1 0⟩) 8 ∧
    decode 0x0C01_8200 0 = .instr (.bararv ⟨0, 6, 4, 0, .none⟩) 4 ∧ decode 0x0C20_0206 0 = .instr (.barwait ⟨0, 0, 4, 6, .none⟩) 4 ∧
    decode 0x1C40_0C00 0x8000_0000 = .instr (.cpy ⟨0, 0, 24, 0, parS 0 0⟩) 8 ∧ decode 0x1C61_4000 0x8000_8000 = .instr (.cpywp ⟨0, 5, 0, 0, parS 2 0⟩) 8 ∧
    decode 0x1C80_0400 0x8001_0000 = .instr (.qnt ⟨0, 0, 8, 0, parS 4 0⟩) 8 ∧
    decode 0x1CA2_0209 0x8000_4000 = .instr (.spresW ⟨0, 8, 4, 9, parS 1 0⟩) 8 ∧ decode 0x0CC0_0400 0 = .instr (.spcom ⟨0, 0, 8, 0, .none⟩) 4 := by
  decide

/-- R149, R155, R157, R162, R335, R374, R382, R415, R418, R419. -/
theorem test_decode_matrix :
    decode 0x0CE0_8300 0 = .instr (.tcfg ⟨0, 2, 6, 0, .none⟩) 4 ∧ decode 0x0D00_8205 0 = .instr (.tld ⟨0, 2, 4, 5, .none⟩) 4 ∧
    decode 0x0D20_8205 0 = .instr (.tst ⟨0, 2, 4, 5, .none⟩) 4 ∧ decode 0x1D41_0001 0x8000_400C = .instr (.mma ⟨0, 4, 0, 1, parS 1 12⟩) 8 ∧
    decode 0x0DA1_0480 0 = .instr (.accld ⟨0, 4, 9, 0, .none⟩) 4 ∧ decode 0x1DC1_0480 0x0000_0080 = .instr (.accst ⟨0, 4, 9, 0, .imm 128⟩) 8 ∧
    decode 0x0DE1_4000 0 = .instr (.mbatch ⟨0, 5, 0, 0, .none⟩) 4 ∧ decode 0x0E00_0280 0 = .instr (.mbwait ⟨0, 0, 5, 0, .none⟩) 4 ∧
    decode 0x1E20_0400 0x8000_4000 = .instr (.xscan ⟨0, 0, 8, 0, parS 1 0⟩) 8 ∧ decode 0x1E40_0001 0x8000_0143 = .instr (.slmm ⟨0, 0, 0, 1, parS 0 0x143⟩) 8 ∧
    decode 0x0E60_0300 0 = .instr (.wrnd ⟨0, 0, 6, 0, .none⟩) 4 := by decide

/-- R279, R287, R291, R296, R299, R301, R306, R388. -/
theorem test_decode_graphics :
    decode 0x1E82_0100 0x8000_0003 = .instr (.vemit ⟨0, 8, 2, 0, parS 0 3⟩) 8 ∧ decode 0x0EA1_4300 0 = .instr (.pemit ⟨0, 5, 6, 0, .none⟩) 4 ∧
    decode 0x0EC3_0107 0 = .instr (.texs ⟨0, 12, 2, 7, .none⟩) 4 ∧ decode 0x1EC3_0107 0x8000_8018 = .instr (.texsB ⟨0, 12, 2, 7, parS 2 24⟩) 8 ∧
    decode 0x1EE3_0107 0x8000_4000 = .instr (.texfL ⟨0, 12, 2, 7, parS 1 0⟩) 8 ∧ decode 0x0F01_0409 0 = .instr (.rtst ⟨0, 4, 8, 9, .none⟩) 4 ∧
    decode 0x0F21_0409 0 = .instr (.rtld ⟨0, 4, 8, 9, .none⟩) 4 ∧ decode 0x0F41_048A 0 = .instr (.mlins ⟨0, 4, 9, 10, .none⟩) 4 ∧
    decode 0x0F60_0205 0 = .instr (.mlres ⟨0, 0, 4, 5, .none⟩) 4 ∧ decode 0x1F60_0205 0x8000_4000 = .instr (.mlresClr ⟨0, 0, 4, 5, parS 1 0⟩) 8 ∧
    decode 0x0F82_0809 0 = .instr (.rayq ⟨0, 8, 16, 9, .none⟩) 4 ∧ decode 0x1F82_0809 0x8000_4000 = .instr (.rayqBob ⟨0, 8, 16, 9, parS 1 0⟩) 8 ∧
    decode 0x1FA0_0205 0xA000_0000 = .instr (.seam ⟨0, 0, 4, 5, parC 4 0⟩) 8 := by decide

/-- Table 3-10, sub-codes 0x01 to 0x05 of the decoder. -/
theorem test_decode_refuses :
    decode 0 0 = .illegal 1 ∧ decode 0x0FC0_0000 0 = .illegal 2 ∧ decode 0x1200_0000 0xC000_0000 = .illegal 3 ∧
    decode 0x0060_0000 0 = .illegal 4 ∧ decode 0x1020_0000 0 = .illegal 4 ∧ decode 0x0021_C000 0 = .illegal 5 ∧
    decode 0x1160_0000 0x8001_4000 = .illegal 5 := by decide

/-! Results, each of one step. A fixed-latency result is read once the pending writes of the step are complete (R98, R102). -/

/-- A scalar register once the pending writes are complete. -/
def sOut (t : State) (n : Nat) : W64 := cget zero (completeAll t.g).s n
/-- A lane of a vector register once the pending writes are complete. -/
def vOut (t : State) (n i : Nat) : W32 := laneOf (cget (fun _ => zeroLanes) (completeAll t.g).v n) i
/-- FPSTAT once the pending writes are complete. -/
def fpOut (t : State) : BitVec 6 := (completeAll t.g).fpstat

/-- R345, R346: BRA back 12 bytes and CALL ahead 64 bytes at 0x1000; CALL's return address is the next instruction's. -/
theorem test_branch :
    after (.bra ⟨0, 127, 127, 125, .none⟩) tState (fun t => t.g.pc == 0xFF4) = true ∧
    after (.call ⟨0, 30, 0, 0, .imm 64⟩) tState (fun t => t.g.pc == 0x1040 && sOut t 30 == 0x1008) = true ∧
    after (.brc ⟨0, 0, 9, 0, .imm (-16)⟩) tState (fun t => t.g.pc == 0xFF0) = true ∧
    after (.brc ⟨0, 1, 9, 0, .imm (-16)⟩) tState (fun t => t.g.pc == 0x1008) = true := by decide

/-- R383, R384: MODE ET=FP32, RM=RUP of the image 0x900 leaves MS. -/
theorem test_mode : after (.mode ⟨0, 6, 0, 0, .imm 0x900⟩) tState (fun t => (completeAll t.g).gmode == 0x901) = true := by decide

/-- R265: SVC 3 at 0x1000 with the handler on. -/
theorem test_svc : after (.svc ⟨0, 5, 0, 3, .none⟩) tState (fun t => t.g.pc == 0x2000 && t.g.priv && t.g.gmode == 63 && t.g.tpc == 0x1004 &&
    t.g.tfirst == 0x1000 && t.g.tcause == 0x3_0000_0010 && t.g.tgmode == 1) = true := by decide

/-- R265: TRAP 3 of the handler posts a record of type 2 and waits at kind 11. -/
theorem test_trap_in_handler : after (.trap ⟨0, 6, 0, 3, .none⟩) tPriv (fun t =>
    (t.outbound.map (fun r => (r.type, r.cause, r.code))) == [(2, 0x11, 3)] && t.g.block == some ⟨11, 0, 0, 1⟩ && t.g.priv) = true := by decide

/-- R268: SVC in the handler ends the context with a record of type 3 and cause 0x26. -/
theorem test_svc_in_handler : after (.svc ⟨0, 5, 0, 3, .none⟩) tPriv (fun t =>
    (t.outbound.map (fun r => (r.type, r.cause))) == [(3, 0x26)] && !t.g.live) = true := by decide +kernel

/-- R93: RFE in the unprivileged view is illegal under sub-code 0x0A. -/
theorem test_illegal : after (.rfe ⟨0, 4, 0, 0, .none⟩) tState (fun t => t.g.tcause == 0x0A01 && t.g.tpc == 0x1000 && t.g.pc == 0x2000) = true := by
  decide

/-- R351: EXIT ends the group. -/
theorem test_exit : after (.exit ⟨0, 2, 0, 0, .none⟩) tState (fun t => t.g.exited && !t.g.resident && t.g.s.isEmpty) = true := by decide

/-- R376, R377: MTSR TVEC in the privileged view keeps the bits that the register has. -/
theorem test_mtsr : after (.mtsr ⟨0, 0, 60, 0, .imm 0x100⟩)
    { tPriv with g := { tPriv.g with s := [(60, 0xFFFF_FFFF_FFFF_FFFF)] } } (fun t => t.g.tvec == 0x81FF_FFFF_FFFF_FFFF) = true := by decide

/-- R399: wraps, signs and full-width products. -/
theorem test_scalar :
    after (.sadd ⟨0, 5, 6, 0, .imm (-1)⟩) tState (fun t => sOut t 5 == 0xFFFF_FFFF_FFFF_FFFF) = true ∧
    after (.smulh ⟨0, 5, 6, 7, parS 1 0⟩) (tWith 1 [(6, 0xFFFF_FFFF_FFFF_FFFF), (7, 2)] []) (fun t => sOut t 5 == 1) = true ∧
    after (.smulh ⟨0, 5, 6, 7, .none⟩) (tWith 1 [(6, 0xFFFF_FFFF_FFFF_FFFF), (7, 2)] []) (fun t => sOut t 5 == 0xFFFF_FFFF_FFFF_FFFF) = true ∧
    after (.ssra ⟨0, 5, 6, 0, .imm 1⟩) (tWith 1 [(6, 0xFFFF_FFFF_FFFF_FFFD)] []) (fun t => sOut t 5 == 0xFFFF_FFFF_FFFF_FFFE) = true ∧
    after (.sshl ⟨0, 5, 6, 7, .none⟩) (tWith 1 [(6, 1), (7, 65)] []) (fun t => sOut t 5 == 2) = true := by decide +kernel

/-- R400, R401: comparison, immediates and counts. -/
theorem test_scalar_select :
    after (.scmp ⟨0, 5, 6, 7, parS 2 0⟩) (tWith 1 [(6, 0xFFFF_FFFF_FFFF_FFFF), (7, 0)] []) (fun t => sOut t 5 == 1) = true ∧
    after (.sli ⟨0, 5, 2, 0, .imm 1⟩) (tWith 1 [(5, 0xAAAA_AAAA_5555_5555)] []) (fun t => sOut t 5 == 0x1_5555_5555) = true ∧
    after (.sli ⟨0, 5, 0, 0, .imm (-1)⟩) tState (fun t => sOut t 5 == 0xFFFF_FFFF_FFFF_FFFF) = true ∧
    after (.sclz ⟨0, 5, 6, 0, .none⟩) tState (fun t => sOut t 5 == 64) = true ∧
    after (.sffs ⟨0, 5, 4, 0, .none⟩) tState (fun t => sOut t 5 == 10) = true ∧
    after (.spopc ⟨0, 5, 1, 0, .none⟩) tState (fun t => sOut t 5 == 64) = true := by decide

/-- R98: a vector sum is not there after one instruction, and is once two have issued. -/
theorem test_latency :
    after (.vadd ⟨0, 5, 2, 3, .none⟩) (tWith 1 tGroup.s [(2, every 7), (3, every 8)]) (fun t =>
      laneOf (rdV t 5) 0 == 0 && laneOf (cget (fun _ => zeroLanes) (retire 1 t.g).v 5) 0 == 15) = true := by decide

/-- R422: wrapping, saturation with its flag, and a shift count modulo the width; a lane outside EXMASK keeps its value. -/
theorem test_vector_integer :
    after (.vadd ⟨0, 5, 2, 3, .none⟩) (tWith 1 tGroup.s [(2, every 0x7FFF_FFFF), (3, every 1), (5, every 9)]) (fun t =>
      vOut t 5 15 == 0x8000_0000 && vOut t 5 16 == 9 && fpOut t == 0) = true ∧
    after (.vadd ⟨0, 5, 2, 3, .none⟩) (tWith 0x2001 tGroup.s [(2, every 0x7FFF_FFFF), (3, every 1)]) (fun t =>
      vOut t 5 15 == 0x7FFF_FFFF && fpOut t == BitVec.ofNat 6 32) = true ∧
    after (.vshl ⟨0, 5, 2, 3, .none⟩) (tWith 1 tGroup.s [(2, every 1), (3, every 33)]) (fun t => vOut t 5 0 == 2) = true := by decide +kernel

/-- R423: VCMP.LT of signed elements over sixteen lanes. -/
theorem test_vcmp : after (.vcmp ⟨0, 10, 2, 3, parS 2 0⟩) (tWith 1 tGroup.s [(2, every 0xFFFF_FFFF), (3, every 0)]) (fun t =>
    sOut t 10 == 0xFFFF) = true := by decide

/-- R356: the manual's FCMP example, on sixteen lanes: a NaN in lane 3 meets no ordered predicate and raises NV. -/
theorem test_fcmp : after (.fcmp ⟨0, 10, 2, 3, parS 2 0⟩)
    (tWith 0x101 tGroup.s [(2, (every 0x3F80_0000).set 3 0x7FC0_0003), (3, every 0x4000_0000)]) (fun t =>
    sOut t 10 == 0xFFF7 && fpOut t == flNV) = true := by decide +kernel

/-- R353, R360, R357: 1 + 2 = 3; 1/0 is infinite with DZ; 1.0 in FP16 is 0x3C00 and takes the low half only. -/
theorem test_float :
    after (.fadd ⟨0, 5, 2, 3, .none⟩) (tWith 0x101 tGroup.s [(2, every 0x3F80_0000), (3, every 0x4000_0000)]) (fun t =>
      vOut t 5 0 == 0x4040_0000 && fpOut t == 0) = true ∧
    after (.frcp ⟨0, 7, 6, 0, .none⟩) (tWith 0x101 tGroup.s []) (fun t => vOut t 7 0 == 0x7F80_0000 && fpOut t == flDZ) = true ∧
    after (.fcvt ⟨0, 6, 4, 0, parS 4 3⟩) (tWith 0x101 tGroup.s [(4, every 0x3F80_0000), (6, every 0xFFFF_FFFF)]) (fun t =>
      vOut t 6 0 == 0xFFFF_3C00) = true := by decide +kernel

/-- R395: the manual's RFAL example. -/
theorem test_rfal : after (.rfal ⟨0, 7, 3, 0, .none⟩)
    (tWith 1 [(1, 0x0F00)] [(3, (List.range 64).map (fun i => BitVec.ofNat 32 (5 * i)))]) (fun t => sOut t 7 == 40) = true := by decide

/-- R403, R426, R427: a butterfly, a ballot, a sum, an exclusive scan and a rank, over sixteen lanes or lanes 8 to 11. -/
theorem test_cross_lane :
    after (.shfx ⟨0, 5, 2, 1, .none⟩) (tWith 1 tGroup.s [(2, (List.range 64).map (fun i => BitVec.ofNat 32 i))]) (fun t =>
      vOut t 5 0 == 1 && vOut t 5 15 == 14) = true ∧
    after (.vote ⟨0, 10, 2, 2, .none⟩) (tWith 1 [(1, 0x0F00)] [(2, every 1)]) (fun t => sOut t 10 == 0x0F00) = true ∧
    after (.vred ⟨0, 10, 2, 0, .none⟩) (tWith 1 tGroup.s [(2, every 0xFFFF_FFFF)]) (fun t => sOut t 10 == 0xFFFF_FFFF_FFFF_FFF0) = true ∧
    after (.vscan ⟨0, 5, 2, 16, .none⟩) (tWith 1 [(1, 0x0F00)] [(2, every 3)]) (fun t => vOut t 5 8 == 0 && vOut t 5 11 == 9) = true ∧
    after (.viota ⟨0, 5, 0, 1, .none⟩) (tWith 1 [(1, 0x0F00)] []) (fun t => vOut t 5 11 == 3) = true := by decide

/-! Memory, in a placed state: one page of 1 GiB at address 0, and a program's bytes at 0x100_0000. -/

/-- A placed program with scalars and vectors, the mask in s1. -/
def tMem (s : List (Nat × W64)) (v : List (Nat × Lanes)) : State :=
  let p := State.reset.withFetchWord 32 0x0020_0000
  { p with g := { p.g with s := (1, 3) :: s, v := v } }

/-- The first step after reset with an instruction placed runs it. -/
theorem test_first_step : (match step (State.reset.withFetchWord 32 0x0020_0000) with
    | .next t => t.g.pc == 0x100_0004 | _ => false) = true := by decide

/-- R404, R405: a word stored is the word that a load finds; SLD of the placed instruction. -/
theorem test_scalar_memory :
    after (.sld ⟨0, 12, 4, 5, .none⟩) (tMem [(4, 0x100_0000)] []) (fun t => sOut t 12 == 0x0020_0000) = true ∧
    after (.sst ⟨0, 12, 4, 5, .none⟩) (tMem [(4, 0x4000), (12, 0xAABB_CCDD)] []) (fun t =>
      (l1Get t 0 (0x4000 / 128) 0).map (fun e => (e.val, e.dirty)) == some (0xAABB_CCDD, true)) = true := by decide

/-- R347: the manual's CAS example: lanes 0 and 1 expect 0 at a word that holds 0, with 7 and 9. -/
theorem test_cas : after (.cas ⟨0, 6, 4, 2, .none⟩) (tMem [(4, 0x4000)] [(7, (every 9).set 0 7)]) (fun t =>
    vOut t 6 0 == 0 && vOut t 6 1 == 7 && rw4 t 0x4000 == 7) = true := by decide

/-- R189: a load at an odd address traps with cause 0x04 for its two lanes, with the handler off it waits for the host. -/
theorem test_misaligned : after (.ld ⟨0, 10, 4, 2, .none⟩) (tMem [(4, 0x4001)] []) (fun t =>
    fld t.g.tcause 0 8 == 4 && t.g.tmask == 3 && t.g.tfault == 0x4001 && t.g.block == some ⟨11, 0, 0, 0⟩) = true := by decide

/-- R371, R413, R372: scratchpad stores and loads, and the end of the partition. -/
theorem test_scratchpad :
    after (.sts ⟨0, 6, 4, 2, .none⟩) (tWith 1 [(1, 1), (4, 0x1FFFC)] [(6, every 0x1234_5678)]) (fun t =>
      scrRead t 3 0x1FFFC 4 == [0x78, 0x56, 0x34, 0x12]) = true ∧
    after (.lds ⟨0, 6, 4, 2, .none⟩) (tWith 1 [(1, 1), (4, 0x20000)] []) (fun t => fld t.g.tcause 0 8 == 7 && t.g.tmask == 1) = true := by decide

/-- R151, R374: MBATCH closes the open set under number 1. -/
theorem test_mbatch : after (.mbatch ⟨0, 5, 0, 0, .none⟩) tState (fun t => t.g.nb == 1 && sOut t 5 == 1) = true := by decide

/-- R415: TCFG of a value with COLS 0 is illegal under sub-code 0x05 (its boundary). -/
theorem test_tcfg :
    after (.tcfg ⟨0, 2, 4, 0, .none⟩) tState (fun t => cget (fun _ => tctlReset) (completeAll t.g).tctl 2 == 0x20400) = true ∧
    illegalSub (tWith 1 [(4, 0x400)] []) (.tcfg ⟨0, 2, 4, 0, .none⟩) = some 5 := by decide

/-! Events. -/

/-- R325: READ of an offset that no register has answers completion code 1. -/
theorem test_read : after (.read 0x7) tState (fun t => t.outputs == [.code 1 0]) = true := by decide

/-- HOST_MEM_WRITE stores its bytes. -/
theorem test_host_write : after (.hostMemWrite 0x4000 [1, 2]) tState (fun t => rb t (hdmKey 0x4000) == 1 && rb t (hdmKey 0x4001) == 2 &&
    rb t (hdmKey 0x4002) == 0) = true := by decide

/-- R244: CTX_KILL removes the context's group. -/
theorem test_kill : after (.ctxKill 0) tState (fun t => !t.g.live) = true := by decide

/-- R330: POWER_ON_RESET leaves no group. -/
theorem test_power_on : after .powerOnReset tState (fun t => !t.g.live && t.mem.isEmpty) = true := by decide


/-! Witnesses: states and operands that meet the hypotheses of the statements. -/

/-- The test state under FP32. -/
def tFloat : State := { tState with g := { tGroup with gmode := 0x101 } }

/-- Every word of a list is well-formed, executes normally in a state, and may be performed at once. -/
def allReady (s : State) (l : List Instr) : Bool := l.all (fun i => ready i s && WellFormed i && isWord i && !s.holds.headD false)

/-- Control, system and scalar words that are ready. -/
theorem witness_ready_control : allReady tState [
    .nop ⟨0, 0, 0, 0, .none⟩, .yieldpt ⟨0, 1, 0, 0, .none⟩, .exit ⟨0, 2, 0, 0, .none⟩, .ret ⟨0, 3, 4, 0, .none⟩,
    .svc ⟨0, 5, 0, 3, .none⟩, .trap ⟨0, 6, 0, 3, .none⟩, .bra ⟨0, 2, 4, 6, .none⟩, .brc ⟨0, 2, 4, 0, .imm 0⟩,
    .bzm ⟨0, 0, 4, 0, .imm 0⟩, .call ⟨0, 2, 0, 0, .imm 0⟩, .mode ⟨0, 2, 0, 0, .imm 0⟩, .mfsr ⟨0, 2, 0, 0, .imm 0⟩,
    .mtsr ⟨0, 0, 4, 0, .imm 0⟩, .migrate ⟨0, 2, 4, 0, .none⟩, .launch ⟨0, 2, 4, 0, .none⟩, .accsn ⟨0, 2, 4, 6, parS 3 0⟩,
    .cmaint ⟨0, 0, 4, 6, parC 3 4⟩, .sadd ⟨0, 2, 4, 6, .none⟩, .ssub ⟨0, 2, 4, 6, .none⟩, .smul ⟨0, 2, 4, 6, .none⟩,
    .smulh ⟨0, 2, 4, 6, .none⟩, .smad ⟨0, 2, 4, 6, broC 4⟩, .sand ⟨0, 2, 4, 6, .none⟩, .sor ⟨0, 2, 4, 6, .none⟩,
    .sxor ⟨0, 2, 4, 6, .none⟩, .sshl ⟨0, 2, 4, 6, .none⟩, .sshr ⟨0, 2, 4, 6, .none⟩, .ssra ⟨0, 2, 4, 6, .none⟩,
    .smin ⟨0, 2, 4, 6, .none⟩, .smax ⟨0, 2, 4, 6, .none⟩, .scmp ⟨0, 2, 4, 6, parS 0 0⟩, .ssel ⟨0, 2, 4, 6, broC 4⟩,
    .smov ⟨0, 2, 4, 0, .none⟩, .sli ⟨0, 2, 0, 0, .imm 0⟩, .spopc ⟨0, 2, 4, 0, .none⟩, .sclz ⟨0, 2, 4, 0, .none⟩,
    .sffs ⟨0, 2, 4, 0, .none⟩] = true := by decide +kernel

/-- Vector and cross-lane words that are ready. -/
theorem witness_ready_vector : allReady tState [
    .vadd ⟨0, 2, 4, 6, .none⟩, .vsub ⟨0, 2, 4, 6, .none⟩, .vmul ⟨0, 2, 4, 6, .none⟩, .vmulh ⟨0, 2, 4, 6, .none⟩,
    .vmad ⟨0, 2, 4, 6, broC 4⟩, .vand ⟨0, 2, 4, 6, .none⟩, .vor ⟨0, 2, 4, 6, .none⟩, .vxor ⟨0, 2, 4, 6, .none⟩,
    .vshl ⟨0, 2, 4, 6, .none⟩, .vshr ⟨0, 2, 4, 6, .none⟩, .vsra ⟨0, 2, 4, 6, .none⟩, .vmin ⟨0, 2, 4, 6, .none⟩,
    .vmax ⟨0, 2, 4, 6, .none⟩, .vabs ⟨0, 2, 4, 0, .none⟩, .vcmp ⟨0, 2, 4, 6, broS 0⟩, .vsel ⟨0, 2, 4, 6, broC 4⟩,
    .vmov ⟨0, 2, 4, 0, .none⟩, .vmovImm ⟨0, 2, 0, 0, .imm 0⟩, .vmovScalar ⟨0, 2, 0, 0, broS 0⟩, .vpopc ⟨0, 2, 4, 0, .none⟩,
    .vclz ⟨0, 2, 4, 0, .none⟩, .vbfe ⟨0, 2, 4, 6, .none⟩, .vbfi ⟨0, 2, 4, 6, broC 4⟩, .fcvt ⟨0, 2, 4, 0, parS 0 4⟩,
    .shfl ⟨0, 2, 4, 6, .none⟩, .shflScalar ⟨0, 2, 4, 6, broS 0⟩, .shfx ⟨0, 2, 4, 6, .none⟩, .vote ⟨0, 2, 4, 0, .none⟩,
    .rfal ⟨0, 2, 4, 0, .none⟩, .vred ⟨0, 2, 4, 0, .none⟩, .vscan ⟨0, 2, 4, 0, .none⟩, .viota ⟨0, 2, 0, 0, .none⟩,
    .ld ⟨0, 2, 4, 6, .none⟩] = true := by decide +kernel

/-- Memory to matrix words that are ready. -/
theorem witness_ready_memory : allReady tState [
    .st ⟨0, 2, 4, 6, .none⟩, .lds ⟨0, 2, 4, 6, .none⟩, .sts ⟨0, 2, 4, 6, .none⟩, .sld ⟨0, 2, 4, 6, .none⟩, .sst ⟨0, 2, 4, 6, .none⟩,
    .ldacq ⟨0, 2, 4, 0, .none⟩, .strel ⟨0, 0, 4, 6, .none⟩, .fence ⟨0, 0, 0, 0, .par { par0 with scope := 3, order := 2 }⟩,
    .atom ⟨0, 2, 4, 6, .none⟩, .cas ⟨0, 2, 4, 6, .none⟩, .red ⟨0, 2, 4, 6, .none⟩, .pfetch ⟨0, 0, 4, 6, .none⟩,
    .mwait ⟨0, 0, 4, 6, .none⟩, .barinit ⟨0, 0, 4, 6, .none⟩, .bararv ⟨0, 2, 4, 0, .none⟩, .barwait ⟨0, 0, 4, 6, .none⟩,
    .cpy ⟨0, 0, 4, 0, parS 0 0⟩, .cpywp ⟨0, 2, 0, 0, parS 0 0⟩, .qnt ⟨0, 0, 4, 0, parS 0 0⟩, .spres ⟨0, 2, 4, 6, .none⟩,
    .spresW ⟨0, 2, 4, 6, parS 1 0⟩, .spcom ⟨0, 0, 4, 0, .none⟩, .tcfg ⟨0, 2, 4, 0, .none⟩, .tld ⟨0, 2, 4, 6, .none⟩,
    .tst ⟨0, 2, 4, 6, .none⟩, .mma ⟨0, 2, 4, 6, .none⟩, .mmax ⟨0, 2, 4, 6, .none⟩, .mmaz ⟨0, 2, 4, 6, .none⟩,
    .accld ⟨0, 2, 4, 0, .none⟩, .accst ⟨0, 2, 4, 0, .none⟩, .mbatch ⟨0, 2, 0, 0, .none⟩, .mbwait ⟨0, 0, 4, 0, .none⟩,
    .xscan ⟨0, 0, 4, 0, parS 0 0⟩, .slmm ⟨0, 2, 4, 6, parS 0 4⟩, .wrnd ⟨0, 2, 4, 0, .none⟩, .wrndF32 ⟨0, 2, 4, 0, parS 1 0⟩,
    .vemit ⟨0, 2, 4, 0, parS 0 4⟩, .pemit ⟨0, 2, 4, 0, .none⟩, .texs ⟨0, 0, 4, 6, .none⟩, .texsL ⟨0, 0, 4, 6, parS 1 0⟩,
    .texsB ⟨0, 0, 4, 6, parS 2 0⟩, .texf ⟨0, 0, 4, 6, .none⟩, .texfL ⟨0, 0, 4, 6, parS 1 0⟩, .rtst ⟨0, 0, 4, 6, .none⟩,
    .rtld ⟨0, 0, 4, 6, .none⟩, .mlins ⟨0, 2, 4, 6, .none⟩, .mlres ⟨0, 0, 4, 6, .none⟩, .mlresClr ⟨0, 0, 4, 6, parS 1 0⟩,
    .rayq ⟨0, 0, 0, 6, .none⟩, .rayqBob ⟨0, 0, 0, 6, parS 1 0⟩, .seam ⟨0, 0, 4, 6, parC 3 0⟩] = true := by decide +kernel

/-- Floating-point words that are ready. -/
theorem witness_ready_float : allReady tFloat [
    .fadd ⟨0, 2, 4, 6, .none⟩, .fsub ⟨0, 2, 4, 6, .none⟩, .fmul ⟨0, 2, 4, 6, .none⟩, .fma ⟨0, 2, 4, 6, broC 4⟩,
    .fmin ⟨0, 2, 4, 6, .none⟩, .fmax ⟨0, 2, 4, 6, .none⟩, .fcmp ⟨0, 2, 4, 6, broS 0⟩, .frcp ⟨0, 2, 4, 0, .none⟩,
    .frsq ⟨0, 2, 4, 0, .none⟩, .fsqrt ⟨0, 2, 4, 0, .none⟩, .fex2 ⟨0, 2, 4, 0, .none⟩, .flg2 ⟨0, 2, 4, 0, .none⟩,
    .ftrig ⟨0, 2, 4, 0, .none⟩, .frnd ⟨0, 2, 4, 0, .none⟩, .fcls ⟨0, 2, 4, 0, .none⟩, .fscl ⟨0, 2, 4, 6, .none⟩] = true := by decide +kernel

/-- Privileged words that are ready. -/
theorem witness_ready_privileged : allReady tPriv [
    .rfe ⟨0, 4, 0, 0, .none⟩, .tlbinv ⟨0, 0, 4, 0, parC 3 0⟩, .harvest ⟨0, 0, 0, 0, parS 1 0⟩, .mappg ⟨0, 2, 4, 6, parS 2 0⟩] = true := by decide +kernel

/-- A placed word, in a view, with its scalars and vectors. -/
def tPlaced (i : Instr) (priv : Bool) (s : List (Nat × W64)) : State :=
  let p := State.reset.withFetchWord (8 * instrLen i) ((encode i).1.toNat + (encode i).2.toNat * 2 ^ 32)
  { p with g := { p.g with priv := priv, s := (1, 3) :: s } }
/-- The placed group in the privileged view. -/
def tRoot (s : List (Nat × W64)) : State := tPlaced (.nop ⟨0, 0, 0, 0, .none⟩) true s
/-- `tMem` with bytes in memory and registers of the window set. -/
def tSet (mem : List (Nat × Byte)) (win : List (Nat × W64)) (s : State) : State := { s with mem := csetAll zero s.mem mem, win := win }
/-- `tMem` with a sync page of 1 GiB at 0x4000_0000. -/
def tSync (s : List (Nat × W64)) : State :=
  { tMem s [] with tlb := [⟨0, 0, 0x4000_0000, 30, BitVec.ofNat 64 (0x12F + 0x80000 * 2 ^ 24), 0x2010_0008, true, true, true, true⟩] }
/-- The words of 8 bytes from a key up, as memory lists them. -/
def words8 (k : Nat) (l : List Nat) : List (Nat × Byte) := indexed k (l.flatMap (bytesOf 8))

/-- StepRunsDecoded: a placed word; TrapInHandlerIsFatal, its second clause: an absent register of the next instruction. -/
theorem witness_step : (let s := tPlaced (.sadd ⟨0, 2, 4, 6, .none⟩) false []
    s.inputs.isEmpty && (dueBudget s).isNone && s.errors.isEmpty && (faultAtPoint s).isNone && (match nextTurn s with
      | .issue t => t.g.held.isEmpty && okWith (fetchInstr t) (fun w _ => decode w.1 w.2 == .instr (.sadd ⟨0, 2, 4, 6, .none⟩) 4)
      | _ => false)) = true ∧
    (let p := tPlaced (.sadd ⟨0, 2, 4, 6, .none⟩) true []
     let s : State := { p with g := { p.g with absent := [132] } }
     let r := recPlace s needR 8 (recordBase s)
     s.g.live && s.g.block.isNone && s.g.resident && !s.g.exited && nextMisses s == [132] && r.1.isLeft && r.2.g == s.g) = true := by
  decide +kernel

/-- Scoreboard: s4 is pending and read. -/
theorem witness_scoreboard : (let s : State := { tState with g := { tGroup with gmode := 0x4001, pend := [⟨2, .sca 4 0⟩] } }
    let i : Instr := .sadd ⟨0, 2, 4, 6, .none⟩
    gmSCB s.g.gmode && (readsOf s i).any (pendingOn s.g) && illegalSub s i == some 0x0B) = true := by decide +kernel

/-- IllegalWords and TrapThenReturn, with the handler on and off; PrivilegedOnly; TrapInHandlerIsFatal. -/
theorem witness_illegal :
    (illegalSub tState (.rfe ⟨0, 4, 0, 0, .none⟩) = some 0x0A ∧ tState.g.live = true ∧ tState.g.inflight = [] ∧ tState.g.priv = false ∧
      bit tState.g.tvec 63 = true ∧ partSR tState.g.part = 3 ∧ needsPriv (.rfe ⟨0, 4, 0, 0, .none⟩) = true) ∧
    (let s : State := { tState with g := { tGroup with tvec := 0 } }
     illegalSub s (.rfe ⟨0, 4, 0, 0, .none⟩) = some 0x0A ∧ bit s.g.tvec 63 = false ∧ roomFor s (coreDie s.g.core) = true ∧ halted s s.g.ctx = false) ∧
    (tPriv.g.priv = true ∧ halted tPriv tPriv.g.ctx = false ∧ roomFor tPriv (coreDie tPriv.g.core) = true ∧
      ready (.trap ⟨0, 6, 0, 3, .none⟩) tPriv = true ∧ ready (.svc ⟨0, 5, 0, 3, .none⟩) tPriv = true) := by decide +kernel

/-- RfeReturns with and without replay entries that are not valid. -/
theorem witness_rfe : (let s : State := { tPriv with g := { tPriv.g with rplq := [⟨false, 0, 0, 0, 0, 0, 0, 0⟩] } }
    ready (.rfe ⟨0, 4, 0, 0, .none⟩) s && s.g.rplq.all (fun r => !r.valid) && partSR s.g.part == 3) = true := by decide +kernel

/-- YieldAndExit: the panel that holds the group is targeted, and is not. -/
theorem witness_yield : targeted tState = false ∧
    (let s : State := { tState with panels := [{ placedPanel with id := 3, request := some .host }] }
     targeted s = true ∧ ready (.yieldpt ⟨0, 1, 0, 0, .none⟩) s = true) := by decide +kernel

/-- SystemRegisters: each of its registers, in each view. -/
theorem witness_system_registers :
    ready (.mtsr ⟨0, 0, 6, 0, .imm 0x10⟩) tState = true ∧ ready (.mtsr ⟨0, 0, 6, 0, .imm 0x11⟩) tState = true ∧
    ready (.mtsr ⟨0, 0, 6, 0, .imm 0x12⟩) tState = true ∧ ready (.mtsr ⟨0, 0, 6, 0, .imm 0x104⟩) tPriv = true ∧
    ready (.mtsr ⟨0, 0, 6, 0, .imm 0x17F⟩) tState = true ∧ ready (.mfsr ⟨0, 6, 0, 0, .imm 0x31⟩) tState = true ∧
    ready (.mfsr ⟨0, 6, 0, 0, .imm 0x30⟩) tState = true ∧ ready (.mfsr ⟨0, 6, 0, 0, .imm 0x10F⟩) tPriv = true := by decide +kernel

/-- TranslationMaintenance: all entries, one address, an address that is not canonical; a range of one byte, and none. -/
theorem witness_translation :
    ready (.tlbinv ⟨0, 0, 0, 0, .par { par0 with scope := 5, val := 1 }⟩) tPriv = true ∧
    (ready (.tlbinv ⟨0, 0, 4, 0, parC 3 0⟩) tPriv = true ∧ canonical (rdS tPriv 4) = true) ∧
    (let s : State := tRoot [(4, 0x8000_0000_0000_0000)]
     ready (.tlbinv ⟨0, 0, 4, 0, parC 3 0⟩) s = true ∧ canonical (rdS s 4) = false) ∧
    (let s := tRoot [(4, 0), (6, 1)]
     ready (.cmaint ⟨0, 0, 4, 6, parC 3 4⟩) s = true ∧ rdS s 6 ≠ 0 ∧ rangeEnd (rdS s 4).toNat (rdS s 6).toNat = .inl 1 ∧
      okWith (pagesOf (whoOf s.g 0) 1 2 0 s) (fun l t => l.length == 1 && t.g.live) = true) ∧
    rdS (tRoot [(4, 0)]) 6 = 0 := by decide +kernel

/-- PageInstructions: a template with V, no pool, a pool of one 1 GiB entry for the free slot of 0x4000_0000; a sealed and an unsealed page. -/
theorem witness_pages :
    (ready (.mappg ⟨0, 2, 4, 6, parS 2 0⟩) (tRoot [(6, 1)]) = true ∧ rdS (tRoot [(6, 1)]) 6 &&& ~~~0x193C ≠ 0) ∧
    (rdS (tRoot [(6, 0x1C)]) 6 &&& ~~~0x193C = 0 ∧ fld (tRoot [(6, 0x1C)]).g.frpool 0 57 = 0) ∧
    (let p := tSet (words8 0x8000 [1, 4] ++ words8 0x8040 [3 + 2 * 2 ^ 21 + 0x40000 * 2 ^ 24]) [] (tRoot [(4, 0x4000_0000), (6, 0x1C)])
     let s : State := { p with g := { p.g with frpool := 0x8000 } }
     ready (.mappg ⟨0, 2, 4, 6, parS 2 0⟩) s && okWith (checkPerm s (whoOf s.g 0) 8 needRW [(0, 0x8000)]) (fun ws s1 =>
      okWith (places (whoOf s.g 0) 16 needRW ws s1) (fun ps s2 => match ps with
        | p :: _ => (match poolPop (whoOf s.g 0) p.2 s2 with
          | (some e, s3) => !poolBad e && (match mapWalk 0x4000_0000 (psBits e) s.g.ccls levels (fld s.g.vmctx 17 35 * 2 ^ 17) s3 with
            | (.slot k, s4) => k == 0x2010_0008 && s4.g.live
            | _ => false)
          | _ => false)
        | [] => false))) = true ∧
    (let s := tMem [(4, 0), (6, 0x4000_0000)] []
     ready (.accsn ⟨0, 2, 4, 6, parS 3 0⟩) s && rangeEnd 0 0x4000_0000 == .inl 0x4000_0000 &&
      okWith (accPages (whoOf s.g 0) 0x4000_0000 16385 0 s) (fun l t => l.length == 1 && t.g == s.g &&
        !(pieceHomes (l.flatMap pagePieces)).any (tableFull t) && (l1Clusters t).isEmpty)) = true ∧
    bit (rdS (tMem [(6, 0x8000_0000_4000_0000)] []) 6) 63 = true := by decide +kernel

/-- A queue 0 of context 0 with a ring of 16 slots at 0x1_0000 and its control pair at 0x8000, which its panels may launch to. -/
def tQueue : List (Nat × W64) :=
  [(ctxReg 0 0, 0x8000_0000_2000_0000), (ctxReg 0 0x18, 16), (queueReg 0 0, 0x10000), (queueReg 0 8, 0x8000), (queueReg 0 0x10, 0x1003)]

/-- LaunchRecords: no queue, a full ring, a free slot. -/
theorem witness_launch :
    (let s := tMem [(4, 0)] []
     ready (.launch ⟨0, 2, 4, 0, .none⟩) s && okWith (checkSpans (releasePart 5 s).2 (whoOf s.g 0) 0 needR [⟨0, 0, 128⟩]) (fun _ s1 =>
       let r := loadVas (whoOf s.g 0) 8 16 0 s1
       r.2.g.live && !launchOk r.2 (rdS s 2))) = true ∧
    ([15, 16].all (fun t => let s := tSet (words8 0x8000 [t, 0]) tQueue (tMem [(4, 0)] [])
     let dev : Who := { whoOf s.g 0 with alloc := 2 }
     okWith (checkSpans (releasePart 5 s).2 (whoOf s.g 0) 0 needR [⟨0, 0, 128⟩]) (fun _ s1 =>
       let s2 := (loadVas (whoOf s.g 0) 8 16 0 s1).2
       launchOk s2 0 && okWith (checkPerm s2 dev 16 needRW [(0, ctlPair s2 0)]) (fun _ s3 =>
         let a := loadVa dev 8 0x8000 s3
         let b := loadVa dev 8 0x8008 a.2
         natOf a.1 == t && natOf b.1 == 0 && 2 ^ ringLog b.2 0 == 16 && b.2.g.live && (t == 16 ||
           okWith (checkPerm b.2 dev 128 needW [(0, ringSlot b.2 0 t)]) (fun _ s6 =>
             okWith (checkSpans s6 dev s6.g.ctx needRW [⟨0, 0x8000, 16⟩, ⟨0, ringSlot b.2 0 t, 128⟩]) (fun _ s7 => s7.g.live)))))) = true) := by
  decide +kernel

/-- MigrateMoves: an address of the own die, of die 1 (MD4) with a core, and one without; the privileged view. -/
theorem witness_migrate :
    ([0, 4].all (fun home => let s : State := { tMem [(4, 0x4000_0000)] [] with
         tlb := [⟨0, 0, 0x4000_0000, 30, BitVec.ofNat 64 (0x2F + home * 2 ^ 13), 0, true, true, true, true⟩] }
     ready (.migrate ⟨0, 2, 4, 0, .none⟩) s && okWith (namedPlace (whoOf s.g 0) 0x4000_0000 s) (fun p s1 =>
       s1.g == s.g && !migrateWaits s1 && homeDie p == home / 4 && (placeCore s1 (homeDie p) s1.g.part 1).isSome &&
       (placeCore s1 1 (placedPart ||| 0xF800) 1).isNone)) = true) ∧
    ready (.migrate ⟨0, 2, 4, 0, .none⟩) (tRoot []) = true := by decide +kernel

/-- ScalarArithmetic to FloatConvert: the forms and element types that a clause names. -/
theorem witness_forms :
    allReady tState [.smulh ⟨0, 2, 4, 6, parS 1 0⟩, .smin ⟨0, 2, 4, 6, parS 1 0⟩, .scmp ⟨0, 2, 4, 6, parS 9 0⟩, .sli ⟨0, 2, 1, 0, .imm (-1)⟩,
      .sli ⟨0, 2, 2, 0, .imm 1⟩, .sadd ⟨0, 2, 4, 0, .imm (-1)⟩, .vcmp ⟨0, 2, 4, 6, parS 9 0⟩, .vote ⟨0, 2, 4, 1, .none⟩, .vote ⟨0, 2, 4, 2, .none⟩,
      .viota ⟨0, 2, 0, 1, .none⟩, .vred ⟨0, 2, 4, 1, .none⟩, .vscan ⟨0, 2, 4, 16, .none⟩, .shfx ⟨0, 2, 4, 63, .none⟩,
      .fcvt ⟨0, 2, 4, 0, parS 4 3⟩, .fcvt ⟨0, 2, 4, 0, parS 2 3⟩] = true ∧
    allReady (tWith 0x41 tGroup.s []) [.vadd ⟨0, 2, 4, 6, .none⟩, .vred ⟨0, 2, 4, 2, .none⟩] = true ∧
    allReady (tWith 0xC1 tGroup.s []) [.vadd ⟨0, 2, 4, 6, .none⟩] = true ∧
    allReady (tWith 0x2001 tGroup.s []) [.vadd ⟨0, 2, 4, 6, .none⟩] = true ∧
    allReady (tWith 0x141 tGroup.s []) [.fadd ⟨0, 2, 4, 6, .none⟩, .shfl ⟨0, 2, 4, 6, .none⟩, .frcp ⟨0, 2, 4, 0, .none⟩] = true := by
  decide +kernel

/-- The checks of a lane access pass, with a test of the places. -/
def lanesOk (i : Instr) (s : State) (w : Who) (n : Nat) (need : Need) (l : List (Nat × W64)) (p : List (Nat × Phys) → Bool) : Bool :=
  ready i s && WellFormed i && !s.holds.headD false && okWith (checkLanes (begun i s) w s.g.ctx n n need l) (fun ps _ => p ps)

/-- LoadsAndStores, AtomicsComplete and StoreFrame: two lanes at the top of the mapped page, each clause; LDACQ on a slot and beside one. -/
theorem witness_memory :
    (let s := tMem [(4, 0x3FFF_FFFC)] []
     lanesOk (.ld ⟨0, 2, 4, 6, .none⟩) s (whoOf s.g 0) 4 needR [(0, 0x3FFF_FFFC), (1, 0x3FFF_FFFC)] (fun l => l.length == 2) &&
     lanesOk (.st ⟨0, 2, 4, 6, .none⟩) s (whoOf s.g 0) 4 needW [(0, 0x3FFF_FFFC), (1, 0x3FFF_FFFC)] (fun l =>
       l.all (fun x => x.2.region == 0 && !x.2.sy && !x.2.rp && x.2.rkey == x.2.key && (effClass s (whoOf s.g 0) x.2).toNat < 2 && x.2.key % 4 == 0)) &&
     lanesOk (.sld ⟨0, 2, 4, 6, .none⟩) s (whoOf s.g 0) 4 needR [(0, 0x3FFF_FFFC)] (fun l => l.length == 1) &&
     lanesOk (.sst ⟨0, 2, 4, 6, .none⟩) s (whoOf s.g 0) 4 needW [(0, 0x3FFF_FFFC)] (fun l => l.length == 1) &&
     lanesOk (.atom ⟨0, 2, 4, 6, .none⟩) s (whoOf s.g 0) 4 needRW [(0, 0x3FFF_FFFC), (1, 0x3FFF_FFFC)] (fun l => l.length == 2) &&
     lanesOk (.cas ⟨0, 2, 4, 6, .none⟩) s (whoOf s.g 0) 4 needRW [(0, 0x3FFF_FFFC), (1, 0x3FFF_FFFC)] (fun l => l.length == 2) &&
     lanesOk (.red ⟨0, 2, 4, 6, .none⟩) s (whoOf s.g 0) 4 needRW [(0, 0x3FFF_FFFC), (1, 0x3FFF_FFFC)] (fun l => l.length == 2)) = true ∧
    (let s : State := tMem [(4, 0x4000)] []
     let z : State := { s with g := { s.g with exmask := 0 } }
     effMask z == 0 && lanesOk (.atom ⟨0, 2, 4, 6, .none⟩) z (whoOf z.g 0) 4 needRW [] (fun l => l.isEmpty)) = true ∧
    ([0x4000_0000, 0x4000_0008].all (fun a => let s := tSync [(4, a)]
     lanesOk (.ldacq ⟨0, 2, 4, 0, .none⟩) s (whoOf s.g 2) 8 needR [(0, a)] (fun l => l.length == 1)) = true) ∧
    (let s : State := { tMem [(4, 0x4000)] [] with holds := [true] }
     isReplay (.ld ⟨0, 2, 4, 6, .none⟩) && ready (.ld ⟨0, 2, 4, 6, .none⟩) s && s.holds.headD false) = true := by decide +kernel

/-- TilesAndFrames: a tile of 64 rows of 64 bytes at 0x4000, a frame at 0x8000. -/
theorem witness_tiles : (let s := tMem [(4, 0x4000), (5, 64), (9, 0x8000)] []
    let i : Instr := .tld ⟨0, 2, 4, 5, .none⟩
    let j : Instr := .tst ⟨0, 2, 4, 5, .none⟩
    let o : Opnd := ⟨0, 2, 4, 5, .none⟩
    ready i s && ready j s && !needsOps (readsTile 2) s.g.id s && okd (tileCheck o (entryOf i s) 0x20400 0 (whoOf s.g 0) needR (begun i s)) &&
    okd (tileCheck o (entryOf j s) 0x20400 0 (whoOf s.g 0) needW (begun j s)) && rdTctl (begun i s) 2 == 0x20400 &&
    ready (.accld ⟨0, 4, 9, 0, .none⟩) s && ready (.accst ⟨0, 4, 9, 0, .none⟩) s &&
    (panelIds s).all (fun id => !needsOps (fun m => (framesOf m).contains 4) id s) &&
    okd (frameCheck 0x8000 (whoOf s.g 0) needR (begun (.accld ⟨0, 4, 9, 0, .none⟩) s)) &&
    okd (frameCheck 0x8000 (whoOf s.g 0) needW (begun (.accst ⟨0, 4, 9, 0, .none⟩) s))) = true := by decide +kernel

/-- A texture descriptor of 4 by 4 texels at 0x6000. -/
def tTexture : List Nat := [0x6000, 4 + 4 * 2 ^ 15 + 2 ^ 30]
/-- A flat target of 8 by 8 pixels, colour at 0x8000, depth at 0x9000. -/
def tFlat : List Nat := [0x8000, 0x9000, 8 + 8 * 2 ^ 15]
/-- A multi-layer target of 8 by 8 pixels, its record at 0xA000, its pool at 0xC000, with or without DEG. -/
def tDeep (deg : Nat) : List Nat := [0xA000, 0, 8 + 8 * 2 ^ 15 + 2 ^ 30 + 2 ^ 38 + 2 * 2 ^ 39 + deg * 2 ^ 45, 0xC000]

/-- TexturesComplete: a descriptor of zeros, and one that is valid with readable texels, for a sampled and a fetched texture. -/
theorem witness_textures :
    (let s := tSet (words8 0x5000 tTexture) [] (tMem [(6, 0x5000)] [])
     let i : Instr := .texs ⟨0, 0, 4, 6, .none⟩
     ready i s && okWith (checkLanes (begun i s) (whoOf s.g 0) s.g.ctx 64 64 needR [(0, 0x5000), (1, 0x5000)]) (fun ps s1 => match ps with
       | p :: _ =>
         let r := loadBytes s1 (whoOf s.g 0) p.2 64
         (match texOf r.1 with
          | some t => okd (checkSpans r.2 (whoOf s.g 0) s.g.ctx needR (((texfReads t zeroLanes zeroLanes (fun _ => 0) 0)).map (fun x =>
              ⟨0, texelAddr t x.1 x.2.1 x.2.2.1, texelBytes t⟩))) &&
            okd (checkSpans r.2 (whoOf s.g 0) s.g.ctx needR (((texsReads t zeroLanes zeroLanes (quadLambda t zeroLanes zeroLanes 0) 0)).map (fun x =>
              ⟨0, texelAddr t x.1 x.2.1 x.2.2.1, texelBytes t⟩)))
          | none => false)
       | [] => false)) = true ∧
    texOf (List.replicate 64 0) = none := by decide +kernel

/-- RenderTargetsComplete: an invalid descriptor, and a flat one with a covered pixel of each lane. -/
theorem witness_targets :
    (let s := tSet (words8 0x5000 tFlat) [] (tMem [(6, 0x5000)] [(7, every 1), (8, every 1)])
     let i : Instr := .rtst ⟨0, 4, 8, 6, .none⟩
     let j : Instr := .rtld ⟨0, 4, 8, 6, .none⟩
     effMask s != 0 && ready i s && ready j s && okWith (ropDesc (entryOf i s) (begun i s)) (fun bs s1 => match targetOf bs with
       | some t => !t.ml && (coveredPixels t (laneOf (rdV s 7) 0) (laneOf (rdV s 8) 0)) == [(1, 0)] && !lowerHolds s1 t [(1, 0)] &&
           rtldPixel (laneOf (rdV s 8) 0) == (1, 0) &&
           okd (checkSpans s1 (ropWho s1) s1.g.ctx needRW [⟨0, depthAddr t 1 0, 4⟩, ⟨0, colourAddr t 1 0, t.bpp⟩])
       | none => false)) = true ∧
    targetOf (List.replicate 64 0) = none := by decide +kernel

/-- LayersComplete, MLINS: an empty tile with a drawer in the pool, and with none and DEG, each with every page that the lanes touch; MLRES and
MLRES.CLR: targets of one shape. -/
theorem witness_layers :
    (([(1, 0), (0, 1)] : List (Nat × Nat)).all (fun c => let s := tSet (words8 0x5000 (tDeep c.2) ++ words8 0xC000 [c.1, 0, 0x10000, 0]) [] (tMem [(6, 0x5000)] [])
     let i : Instr := .mlins ⟨0, 2, 8, 6, .none⟩
     effMask s != 0 && ready i s && okWith (ropDesc (entryOf i s) (begun i s)) (fun bs s1 => match targetOf bs with
       | some t =>
         let fs := mlFrags t (entryOf i s)
         t.ml && fs.length == 2 && okWith (checkSpans s1 (ropWho s1) s1.g.ctx needRW (mlSpans t fs s1)) (fun _ s3 =>
           let want := (served (planDrawers t fs s3)).length
           let take := min want (poolCount t s3)
           want == 1 && take == c.1 && (t.deg || (decide (want ≤ take) && (planDrawers t fs s3).need.all (fun x => x.2.2))) &&
             (rivals (if take = 0 then s3 else storeVa (ropWho s3) 2 t.pool (bytesOf 8 (poolCount t s3 - take)) s3)).isEmpty)
       | none => false)) = true) ∧
    ([false, true].all (fun clr =>
     let s := tSet (words8 0x5000 (tDeep 0) ++ words8 0x5040 tFlat ++ words8 0xC000 [0, 0, 0x10000, 0]) [] (tMem [(4, 0x5000), (5, 0x5040)] [])
     ready (if clr then .mlresClr ⟨0, 0, 4, 5, parS 1 0⟩ else .mlres ⟨0, 0, 4, 5, .none⟩) s &&
       okWith (uniDesc 0x5000 s) (fun da s1 => okWith (uniDesc 0x5040 s1) (fun db s2 =>
       match targetOf da, targetOf db with
       | some t, some f =>
         let recs : List Span := [⟨0, t.cbase, 320 * tileCount t⟩, ⟨0, t.pool, 64⟩]
         let drawers := (List.range (tileCount t)).flatMap (fun k => ledTo (ropWho s2) needR
           [⟨0, recordAddr t k, 320⟩, ⟨0, t.pool, 64⟩] (drawerSpans t 0 k) s2)
         s2.g == s.g && t.ml && !f.ml && t.w == f.w && t.h == f.h && drawers.isEmpty &&
           okd (checkBoth recs (planeSpans f f.cbase f.bpp ++ planeSpans f f.dbase 4 ++ (if clr then recs else [])) (ropWho s2) s2)
       | _, _ => false))) = true) := by decide +kernel

/-- Scratchpad: the last word of the partition, one past it, a misaligned one. -/
theorem witness_scratchpad : (let s := tWith 1 [(1, 1), (4, 0x1FFFC)] []
    ready (.lds ⟨0, 6, 4, 2, .none⟩) s && ready (.sts ⟨0, 6, 4, 2, .none⟩) s && scrBytes s.g.part == 0x20000 &&
    scrAddrs ⟨0, 6, 4, 2, .none⟩ s == [(0, 0x1FFFC)] && !tackHit s s.g.core true s.g.panel 0x1FFFC 4 true &&
    scrAddrs ⟨0, 6, 4, 2, .none⟩ (tWith 1 [(1, 1), (4, 0x20000)] []) == [(0, 0x20000)] &&
    scrAddrs ⟨0, 6, 4, 2, .none⟩ (tWith 1 [(1, 1), (4, 1)] []) == [(0, 1)]) = true := by decide +kernel

/-- SyncComplete: a slot, a fence of each order, a prefetch, a watched word equal and unequal to what is expected. -/
theorem witness_sync :
    (let s := tSync [(4, 0x4000_0000), (6, 5)]
     ready (.strel ⟨0, 0, 4, 6, parC 4 1⟩) s && ready (.strel ⟨0, 0, 4, 6, parC 3 0⟩) s &&
     okWith (slotPlace 0x4000_0000 (whoOf s.g 0) needW 1 s) (fun _ s1 => (releasePart 4 s1).2.g == s.g)) = true ∧
    allReady tState [.fence ⟨0, 0, 0, 0, .par { par0 with scope := 3, order := 1 }⟩, .fence ⟨0, 0, 0, 0, .par { par0 with scope := 5, order := 3 }⟩] =
      true ∧
    (let s := tMem [(4, 0x4000)] []
     ready (.pfetch ⟨0, 0, 4, 6, .none⟩) s && okd (prefetchAll (whoOf s.g 0) (scrAddrs ⟨0, 0, 4, 6, .none⟩ s) s)) = true ∧
    ([0, 5].all (fun e => let s := tMem [(4, 0x4000), (6, BitVec.ofNat 64 e)] []
     ready (.mwait ⟨0, 0, 4, 6, .none⟩) s && okWith (checkPerm s (whoOf s.g 2) 4 needR [(0, 0x4000)]) (fun ws s1 =>
       okWith (places (whoOf s.g 2) 4 needR ws s1) (fun _ s2 =>
         let r := watched (whoOf s.g 2) 4 0x4000 (gatherAll (whoOf s.g 2) needR [(0, 0x4000)] s2)
         r.1 == 0 && r.2.g == s.g)))) = true := by decide +kernel

/-- A panel barrier object at offset 0 of the test panel. -/
def tBar (phase expect : Nat) (arr : List Nat) (s : List (Nat × W64)) : State :=
  writePbar { phase := phase, expect := expect, rest := 0, arr := arr, bytes := [0, 0, 0, 0] } 3 0 (tWith 1 ((1, 1) :: s) [])

/-- PanelBarriers: EXPECT 1 and 16; no object, an open phase, none; a phase done, and not; a phase that is complete. -/
theorem witness_panel_barriers :
    allReady (tBar 0 0 [] [(6, 16)]) [.barinit ⟨0, 0, 4, 6, .none⟩, .bararv ⟨0, 2, 4, 0, .none⟩, .barwait ⟨0, 0, 4, 6, .none⟩] = true ∧
    ((readPbar (tBar 0 0 [] []) 3 0).expect = 0 ∧ (readPbar (tBar 7 2 [0, 0, 0, 0] []) 3 0).expect = 2 ∧
      nextPhase (readPbar (tBar 7 2 [0, 0, 0, 0] []) 3 0) 0 = some 7 ∧ nextPhase (readPbar (tBar 7 2 [1, 1, 1, 1] []) 3 0) 0 = none ∧
      phaseDone (readPbar (tBar 7 2 [0, 0, 0, 0] []) 3 0) 6 = true ∧ phaseDone (readPbar (tBar 7 2 [0, 0, 0, 0] []) 3 0) 7 = false) ∧
    (let b : Pbar := { phase := 0xFFFF_FFFF, expect := 1, rest := 0, arr := [0, 0, 0, 1], bytes := [0, 0, 0, 0] }
     b.expect ≤ popNat 16 (b.arr.getD (b.phase % 4) 0) ∧ b.bytes.getD (b.phase % 4) 0 = 0 ∧ (completePbar 1 b).phase = 0) := by decide +kernel

/-- A device barrier object with a VALUE on the sync page. -/
def tDev (v : Nat) (s : List (Nat × W64)) : State := tSet (words8 0x8000_0000 [v]) [] (tSync ((4, 0x4000_0000) :: s))

/-- DeviceBarriers: an initial value, an arrival with and without a waiter left, a phase done and not done. -/
theorem witness_device_barriers :
    (let s := tDev 0 [(6, BitVec.ofNat 64 (2 + 3 * 2 ^ 24))]
     ready (.barinit ⟨0, 0, 4, 6, parS 1 0⟩) s && okWith (slotPlace 0x4000_0000 (whoOf s.g 0) needW 0 s) (fun _ s1 => s1.g == s.g)) = true ∧
    (([0, 1] : List Nat).all (fun u => let s := tDev (1 + 2 * 2 ^ 16 + u * 2 ^ 49 + 3 * 2 ^ 60) [(6, 0), (5, 1)]
     ready (.bararv ⟨0, 2, 4, 0, parS 1 0⟩) s && ready (.barwait ⟨0, 0, 4, 6, parS 1 0⟩) s &&
     okWith (slotPlace 0x4000_0000 (whoOf s.g 0) needRW 0 s) (fun p s1 =>
       let v := dbRead s1 p
       s1.g == s.g && dbExpect v == 2 && dbValid v && dbUnseen v == u && dbDone v 0 && !dbDone v 1))) = true := by decide +kernel

/-- EnginesAccept: a copy inside the scratchpad, a descriptor of zeros, a quantisation of 32 FP32 values. -/
theorem witness_engines :
    (let s := tWith 1 [(8, 0x8000_0000_0000_0000), (9, 0x8000_0000_0000_1000), (10, BitVec.ofNat 64 (256 + 2 ^ 22 + 2 ^ 47))] []
     let c := copyDesc (rdS s 8) (rdS s 9) (rdS s 10) (rdS s 11)
     let k : CmdKind := .copy 7 c.ssp c.dsp c.src c.dst c.rowlen c.nrows c.sstr c.dstr
     ready (.cpy ⟨0, 0, 8, 0, parS 7 0⟩) s && !copyBad (rdS s 8) (rdS s 9) (rdS s 10) c && c.nobar &&
     decide (c.src + (c.nrows - 1) * c.sstr + c.rowlen ≤ scrBytes s.g.part) && decide (c.dst + (c.nrows - 1) * c.dstr + c.rowlen ≤ scrBytes s.g.part) &&
     !tacksWait s s.g.core ((acceptCmd k none s).cmds.getLast?.elim [] (cmdTacks (acceptCmd k none s)))) = true ∧
    copyBad 0 0 0 (copyDesc 0 0 0 0) = true ∧
    (let d0 : W64 := 0x8000_0000_0000_0000
     let d1 : W64 := 0x8000_0000_0000_2000
     let d2 : W64 := 0x3000
     let d3 : W64 := BitVec.ofNat 64 (1 + 32 * 2 ^ 12 + 512 * 2 ^ 48)
     let p := tWith 1 [(8, d0), (9, d1), (10, d2), (11, d3)] []
     let s := writePbar { phase := 0, expect := 1, rest := 0, arr := [0, 0, 0, 0], bytes := [0, 0, 0, 0] } 3 0x4000 p
     let t := acceptCmd (.qnt 0 d0 d1 d2 d3) (some (0x4000, 0)) s
     ready (.qnt ⟨0, 0, 8, 0, parS 0 0⟩) s && !qntBad 0 d0 d1 d2 d3 && nextPhase (readPbar s 3 0x4000) 0 == some 0 &&
     decide (qntScaleBytes 0 1 32 + 0x3000 ≤ scrBytes s.g.part) && !tacksWait s s.g.core (t.cmds.getLast?.elim [] (cmdTacks t))) = true := by
  decide +kernel

/-- The test group with lanes 0 and 1 and a spawn pool of `n` slots. -/
def tPool (n : Nat) (v : List (Nat × Lanes)) (r : List Reservation) : State :=
  { tWith 1 [(1, 3), (4, 0x2000)] v with spnsize := [(0, BitVec.ofNat 64 n)], g := { tGroup with s := [(1, 3), (4, 0x2000)], v := v, reserved := r } }

/-- SpawnsComplete: room for two lanes, room for one, no active lane, offsets 0 and 32 to commit. -/
theorem witness_spawns :
    allReady (tPool 2 [] []) [.spres ⟨0, 8, 4, 9, .none⟩, .spresW ⟨0, 8, 4, 9, parS 1 0⟩, .spcom ⟨0, 0, 8, 0, .none⟩] = true ∧
    (match reserve 2 [0x2000] (tPool 2 [] []) with | .slots l _ => l.length == 2 | .lacking _ => false) = true ∧
    (match reserve 2 [0x2000] (tPool 1 [] []) with | .slots _ _ => false | .lacking s1 => s1.g == (tPool 1 [] []).g) = true ∧
    effMask { tPool 2 [] [] with g := { tGroup with exmask := 0 } } = 0 ∧
    (let s := tPool 2 [(8, (every 32).set 0 0)] [⟨0, 0, 0x2000, 0⟩, ⟨0, 0, 0x2000, 32⟩]
     ((activeLanes (effMask s)).filterMap (fun i => s.g.reserved.find? (fun r => r.off == (laneOf (rdV s 8) i).toNat))).map (·.off) == [0, 32]) =
      true := by decide +kernel

/-- The test state with tile controls. -/
def tTiles (l : List (Nat × W64)) (s : List (Nat × W64)) : State := { tWith 1 s [] with g := { tGroup with s := s, tctl := l } }

/-- MatrixOperations: a listed and an unlisted combination, MMAX, a scaled MMA, a scan, a sliced product, a rounding, closed batches. -/
theorem witness_matrix :
    (allReady tState [.mma ⟨0, 3, 0, 1, .none⟩, .mmax ⟨0, 3, 0, 1, .none⟩, .mmaz ⟨0, 3, 0, 1, .none⟩, .mma ⟨0, 3, 0, 1, parS 1 12⟩] = true ∧
      comboOk 0 0 0 = true ∧ comboOk 0 0 1 = true ∧ comboOk 0 1 0 = false ∧ tcCols 0x20400 = tcRows 0x20400 ∧ rdTctl tState 0 = 0x20400 ∧
      frameInFlight tState [3] = false ∧ tacksOf tState 0 = [] ∧
      matRanges { opOf .mma ⟨0, 3, 0, 1, .none⟩ tState with tctlA := 0x20400, tctlB := 0x20400 } = []) ∧
    (let s := tWith 1 [(1, 1), (10, BitVec.ofNat 64 (1 + 2 ^ 12)), (11, 0x2000)] []
     ready (.xscan ⟨0, 0, 8, 0, parS 1 0⟩) s && fld (rdS s 10) 0 12 == 1 && fld (rdS s 10) 12 25 == 1 && fld (rdS s 11) 0 40 % 8 == 0) = true ∧
    (let s := tTiles [(0, BitVec.ofNat 64 (8 + 32 * 16 + 16 * 2048)), (1, BitVec.ofNat 64 (9 + 32 * 16 + 16 * 2048))] []
     ready (.slmm ⟨0, 0, 0, 1, parS 0 0x149⟩) s && tcTT (rdTctl s 0) == 8 && tcTT (rdTctl s 1) == 9 && tcCols (rdTctl s 0) == tcCols (rdTctl s 1) &&
      tcRows (rdTctl s 0) == 32) = true ∧
    allReady (tWith 1 [(1, 1), (6, 4)] []) [.wrnd ⟨0, 0, 6, 0, .none⟩, .wrndF32 ⟨0, 0, 6, 0, parS 1 0⟩] = true ∧
    (let m := opOf .mma ⟨0, 3, 0, 1, .none⟩ tState
     let s : State := { tState with g := { tGroup with openSet := [m], batches := [⟨0, [m]⟩] } }
     ready (.mbatch ⟨0, 5, 0, 0, .none⟩) s && ready (.mbwait ⟨0, 0, 5, 0, .none⟩) s && s.g.batches.all (fun b => !b.ops.isEmpty) &&
      s.g.batches.any (fun b => decide (((rdS s 5).setWidth 32 - b.num : W32).toNat < 2 ^ 31))) = true ∧
    (let s : State := { tState with g := { tGroup with batches := [⟨1, []⟩] } }
     s.g.batches.all (fun b => decide (2 ^ 31 ≤ ((rdS s 5).setWidth 32 - b.num : W32).toNat))) = true := by decide +kernel

/-- IntegerMatrix: an operation on tiles of 64 rows of 64 signed bytes. -/
theorem witness_integer_matrix : (let m := { opOf .mmaz ⟨0, 63, 0, 1, .none⟩ tState with tctlA := 0x20400, tctlB := 0x20400 }
    m.kind = .mma ∨ m.kind = .mmaz) ∧ tcTT 0x20400 = 0 ∧ tcRows 0x20400 = 64 ∧ tcCols 0x20400 = 64 := by decide +kernel

/-- A pass descriptor at 0x4000_0000 on the sync page with room for two primitives, an entry address, and a view of 8 by 8. -/
def tPassWords : List Nat := [0, 0x1000, 2, 0x5000, 0, 8 + 8 * 2 ^ 15]
/-- A state in which a bolt's group has that descriptor as its ARGS; the partition word stands before the entry address. -/
def tPass : State :=
  let p := tSet (words8 0x8000_0000 tPassWords ++ words8 0x4FF8 [16 + 3 * 32 + 8 * 128 + 2048]) tQueue (tSync [])
  { p with g := { p.g with args := 0x4000_0000 } }

/-- GraphicsCompletes: VEMIT of three registers; PEMIT accepted, refused for its fields, of no bolt; rays with the two descriptors, and one that is
not well-formed; a seam. -/
theorem witness_graphics :
    (let s := tWith 1 [(1, 1)] []
     ready (.vemit ⟨0, 8, 2, 0, parS 0 7⟩) s && !tackHit s s.g.core true s.g.panel 0 32 true) = true ∧
    (let s := tPass
     ready (.pemit ⟨0, 5, 6, 0, .none⟩) s && s.g.kind == .bolt && okWith (checkLanes s (whoOf s.g 2) 0 128 128 needR [(0, s.g.args)]) (fun ps s1 => match ps with
       | p :: _ =>
         let r := loadBytes s1 (whoOf s.g 2) p.2 128
         let e := entryPart r.2.g.ctx (coreDie r.2.g.core) ((descWords r.1 16).getD 3 0) r.2
         e.2.g == s.g && p.2.sy && homeDie p.2 == 0 && (pbufOk (descWords r.1 16) e.2).1 && pemitRefusal (descWords r.1 16) (some 0) e.1 true 2 e.2 == none &&
         pemitRefusal (descWords r.1 16) (some 0) e.1 true 3 e.2 == some 0xFFFF_FFFF &&
         (primRecords (descWords r.1 16) 0 0).all (fun a => a + 32 ≤ scrBytes s.g.part && !tackHit e.2 0 true 0 a 32 false)
       | [] => false)) = true ∧
    (let s := tSet (words8 0x5000 [0x6000, 0x2000, 0, 2 ^ 21]) [] { tMem [(9, 0x5000)] [] with spnsize := [(0, 4)] }
     ready (.rayq ⟨0, 8, 16, 9, .none⟩) s && ready (.rayqBob ⟨0, 8, 16, 9, parS 1 0⟩) s && okWith (uniDesc 0x5000 s) (fun bs s1 =>
       let d := descWords bs 8
       let r := raysOf ⟨0, 8, 16, 9, .none⟩ [0, 1] [] s1
       s1.g == s.g && rayDescOk false d && rayDescOk true d && bit (d.getD 3 0) 21 && decide (rayQueue s1 < 16) &&
       !tacksWait s1 s.g.core ((acceptCmd (.ray false d r) none s1).cmds.getLast?.elim [] (cmdTacks (acceptCmd (.ray false d r) none s1))) &&
       poolSlots s1 0 != 0 && (match reserve 2 [d.getD 1 0] s1 with | .slots _ s2 => s2.g == s.g | .lacking _ => false))) = true ∧
    rayDescOk false [1] = false ∧
    (let s := tSet (words8 0x5000 tFlat ++ words8 0x8000_0000 [0, 0, 0, 0, 0, 0, 0, 0, 1]) [] (tSync [(4, 0x5000), (5, 0x4000_0000)])
     ready (.seam ⟨0, 0, 4, 5, parC 3 0⟩) s && okWith (uniDesc 0x5000 s) (fun tgt s1 =>
       okWith (slotAt (seamLeaf 3) 0x4000_0000 (whoOf s1.g 0) needR 1 s1) (fun p s2 =>
         let r := loadBytes s2 (whoOf s2.g 0) p 128
         let s4 := (releasePart 3 r.2).2
         seamDescOk 3 (descWords r.1 16) && (match targetOf tgt with | some t => !t.ml | none => false) && s4.g.live &&
         decide (seamQueue s4 < 4)))) = true := by decide +kernel

/-- GroupEvents, the current group's: a held fault, an absent register, a met condition at a point of kind 6, a watched word of a peer
window that has changed, no point at all. -/
theorem witness_group_events :
    (let s : State := { tState with g := { tGroup with held := [⟨5, 1, 0x9000⟩] } }
     (focus (fun g => g.id == 7) s).isSome && !s.g.held.isEmpty && !s.g.priv && s.g.resident && !s.g.exited && !s.g.halted &&
      s.g.inflight.isEmpty && bit s.g.tvec 63 && partSR s.g.part == 3) = true ∧
    (let p := tPlaced (.sadd ⟨0, 2, 4, 6, .none⟩) false []
     let s : State := { p with g := { p.g with absent := [132] } }
     (focus (fun g => g.id == 0) s).isSome && nextMisses s == [132] && (match recPlace s needR 8 (recordBase s) with | (.inl _, s2) => (fetchPoison s2).isNone | _ => false)) = true ∧
    (let s : State := { tState with g := { tGroup with block := some ⟨6, 0, 0, 0⟩ } }
     (focus (fun g => g.id == 7) s).isSome && wakeMet s s.g && !bit (rdWin s (ctxReg s.g.ctx 0x28)) 32) = true ∧
    ([false, true].all (fun bad => let p := tSet (words8 0x2010_0008 [0x2F + 2 ^ 61]) [(pwReg 0 8, 33)] (tMem [] [])
     let q : State := { p with g := { p.g with block := some ⟨5, 0x4000_0000, 1, 4⟩ } }
     let s : State := match objectPlace q q.g 0x4000_0000 with | some x => { q with poison := if bad then [(x.key / 4, true)] else [] } | none => q
     (focus (fun g => g.id == 0) s).isSome && !halted s s.g.ctx && !bufferFull s (coreDie s.g.core) &&
      (match objectPlace s s.g 0x4000_0000 with | some x => x.region == 2 && homePoisoned s x 4 needR == bad | none => false) &&
      natOf (objectBytes s s.g 0x4000_0000 4) != 1)) = true ∧
    (let s := tMem [] []
     (focus (fun g => g.id == 0) s).isSome && s.g.resident && !s.g.exited && !s.g.halted && s.g.block.isNone && !halted s s.g.ctx) = true := by
  decide +kernel

/-- A dispatch record: entry, ARGS, a grid of one panel of one group with one lane, its partition, and no dependences. -/
def tRecord (args : Nat) : List Nat := [0x1000, args, 1 + 2 ^ 16 + 2 ^ 32 + 2 ^ 52, 16 + 3 * 32 + 8 * 128 + 2048, 0, 0, 0, 0, 0, 0, 0, 0, 0, 0, 0, 0]
/-- A bolt of queue 0 in context 0. -/
def tBolt (released : Bool) (part : W64) : Bolt :=
  { queue := 0, seq := 0, ctx := 0, die := 0, addr := 0x10000, prio := 0, ccls := 0, entry := 0x1000, args := 0x2000
    grid := BitVec.ofNat 64 (1 + 2 ^ 16 + 2 ^ 32 + 2 ^ 52), part := part, doneAddr := 0, doneVal := 0, deps := [(0x3000, 0)]
    released := released, placed := 0, completed := 0, starved := false, failed := false, clusters := [] }
/-- That bolt's partition word. -/
def tBoltPart : W64 := BitVec.ofNat 64 (16 + 3 * 32 + 8 * 128 + 2048)

/-- DispatcherEvents: a record that is refused and one that is taken, with HEAD 0 of a ring of 16; a dependence that is met; a served bolt;
a panel that has nothing left. -/
theorem witness_dispatcher :
    (([([], true), (tRecord 0x2000, false)] : List (List Nat × Bool)).all (fun c =>
      let s := tSet (words8 0x8000 [1, 0] ++ words8 0x10000 c.1) tQueue (tMem [] [])
      (curBolt s 0).isNone && !queueHeld s 0 && ctlPair s 0 == 0x8000 && (match devLoad8s s 0 0 0x8000 2 with
        | (.inl l, s1) => l == [1, 0] && ringLog s1 0 == 4 && ringSlot s1 0 0 == 0x10000 && (match devLoad8s s1 0 0 0x10000 16 with
          | (.inl w, s2) => (match devStore s2 0 0 0x8008 (bytesOf 8 1) with
            | (none, s3) => (recordCode w).isSome == c.2 && !halted s3 0 && (c.2 || (match argsDie 0 0x2000 s3 with | (.inl d, _) => d == 0 | _ => false))
            | _ => false)
          | _ => false)
        | _ => false))) = true ∧
    (let s : State := { tSet [] tQueue (tMem [] []) with bolts := [tBolt false tBoltPart] }
     curBolt s 0 == some (tBolt false tBoltPart) && (match depsMet 0 0 [(0x3000, 0)] s with | (.inl b, _) => b | _ => false)) = true ∧
    (let s : State := { tSet [] tQueue (tMem [] []) with bolts := [tBolt true tBoltPart] }
     servedBolt s (fun b => (boltCore s b).isSome && (freeRecord s b.ctx).isSome) == some (tBolt true tBoltPart) &&
      boltCore s (tBolt true tBoltPart) == some 1 && freeRecord s 0 == some 1) = true ∧
    (let p := tMem [] []
     let s : State := { p with g := { p.g with exited := true } }
     (panelOf s 0).isSome && panelDone s 0 && (panelOf s 0).bind (·.bolt) == none && s.bolts.isEmpty) = true := by decide +kernel

/-- A placed state in whose window the registers of `tQueue` and STOP stand as given, with a point and a request. -/
def tMoving (stop : Bool) (k : Nat) (q : Option Request) (resident : Bool) : State :=
  let p := tSet [] ((if stop then [(ctxReg 0 0x28, 0x1_0000_0000)] else []) ++ tQueue) (tMem [] [])
  { p with g := { p.g with block := some ⟨k, 0, 0, 0⟩, resident := resident }, panels := [{ placedPanel with request := q, resident := resident }] }

/-- MovingEvents: no waiter; a bolt of a higher class that no core takes, so that the panel of a class below it is asked to leave; a panel
at kinds 6 and 9 that is quiet, with a request and a stopped context; one with a waiter; an evicted one; a stopped context. -/
theorem witness_moving :
    waiters (tMoving false 6 none true) 0 = [] ∧
    (let p := tMoving false 6 none true
     let s : State := { p with g := { p.g with prio := 1 }, bolts := [tBolt true tBoltPart], win := (cfenceReg 0, 0xFFFF_FFFF_FFFE) :: p.win }
     let s1 := quiesce 0 s
     (match (waiters s 0).find? (fun w => (requestCore s 0 (fun x => decide (w.prio.toNat < (panelPrio s x.id).toNat))).isSome) with
        | some w => w.prio == 0 && requestCore s 0 (fun x => decide (w.prio.toNat < (panelPrio s x.id).toNat)) == some 0
        | none => false) &&
       allBlocked s 0 && panelQuiet s1 0 && (match panelOf s1 0 with | some p => (imageUnits needW p s1).isLeft | none => false)) = true ∧
    ([tMoving false 9 (some .host) true, tMoving true 6 none true].all (fun s =>
      let s1 := quiesce 0 s
      allBlocked s 0 && (panelOf s1 0).isSome && allBlocked s1 0 && panelQuiet s1 0 &&
        (match panelOf s 0 with | some p => (imageUnits needW p s1).isLeft && (p.request.isSome || bit (rdWin s (ctxReg p.ctx 0x28)) 32) | none => false))) =
      true ∧
    (let s := tMoving false 6 none false
     ctxRuns s 0 && panelReady s 0 && placeCore s 0 (panelPart s 0) 1 == some 0 && (imageUnits needR { placedPanel with resident := false } s).isLeft) = true ∧
    (let p := tMoving true 6 none false
     bit (rdWin p (ctxReg 0 0x28)) 32 && !halted p 0 && p.snapped.isEmpty && p.panels.all (fun x => !x.resident) &&
       fld (rdWin p (ctxReg 0 0x28)) 0 16 == 0) = true := by decide +kernel

/-- A record about the placed group with a type, and room in the event queue. -/
def tRec (type : Nat) (grp : Option Nat) : EvRec :=
  { type := type, cause := 0, sub := 0, queue := 0, die := 0, code := 0, bid := 0, addr := 0, where_ := 0, ctx := 0, grp := grp }
/-- A placed state that holds such a record, with the event ring at 0x1_8000 of context 0 and EQSTAT as given. -/
def tReport (type stat : Nat) : State :=
  { tSet [] ([(eqBase, 0x18000), (eqStat, BitVec.ofNat 64 stat)] ++ tQueue) (tMem [] []) with outbound := [tRec type (some 0)] }

/-- HostAnswers: an ordinary and a fatal record with room, a fatal one with FATALPEND set; a group that waits past its TRAP and one that
waits in its handler; a command word of the host; a writable register, one of the other owner. -/
theorem witness_host_answers :
    ([tReport 2 0, tReport 3 0].all (fun s => s.outbound.head? == s.outbound.find? (fun x => x.die == 0) && decide (2 ≤ eventRoom s) && !bit (rdWin s eqStat) 0 &&
      (match s.outbound with
        | r :: _ => (recordStore (recordWords s r (eventTail s)) (eventSlot s (eventTail s)) { s with outbound := dropOldest r.die s.outbound }).isSome
        | [] => false))) = true ∧ bit (rdWin (tReport 3 1) eqStat) 0 = true ∧
    ([1, 0].all (fun n => let p := tMem [] []
      let s : State := { p with waiting := [(5, 0)], g := { p.g with priv := true, block := some ⟨11, 0, 0, n⟩ } }
      mayWrite s frespOff .host && s.waiting.find? (fun w => w.1 == 5) == some (5, 0) && (focus (fun g => g.id == 0) s).isSome &&
        s.g.rplq.all (fun r => !r.valid))) = true ∧
    ([0, 15].all (fun c => mayWrite tState (ctxReg c 0x28) .host)) = true ∧
    regAt (queueReg 0 0x10) = some (.queue 0 0x10) ∧ mayWrite tState (queueReg 0 0x10) .host = true ∧
    regAt pmodOff = some .pmod ∧ mayWrite tState pmodOff .host = false ∧ mayWrite tState pmodOff .mgmt = true ∧
    mayWrite tState (queueReg 0 0x10) .mgmt = false ∧ regAt 0x18 = none ∧ isBlockBase relBase = true := by decide +kernel

/-- A command of the placed group. -/
def tCmd (id : Nat) (k : CmdKind) : Cmd :=
  { id := id, grp := 0, panel := 0, core := 0, priv := false, kind := k, bar := none, done := 0, read := 0, lines := 0, paused := none
    before := [], outs := [], srcs := [], flags := 0, lost := false, tries := 0 }
/-- The placed state with commands. -/
def tCmds (l : List Cmd) (s : State) : State := { s with cmds := l }
/-- What a seam command of scope .DIE holds: its flat target's descriptor, its rank of `n`, its round. -/
def tSeamOf (tgt : List Nat) (rank n round : Nat) (gather started : Bool) : SeamInfo :=
  { ml := false, scope := 3, tgt := tgt.flatMap (bytesOf 8) ++ List.replicate 40 0, key := 0x8000_0000, mods := [], gather := gather
    started := started, rank := rank, parts := n, round := round, gathered := false, held := [], seats := [] }
/-- A flat target of 2 by 2 pixels. -/
def tSmall : List Nat := [0x8000, 0x9000, 2 + 2 * 2 ^ 15]
/-- A seam command with a flat target, its rank of `n`, in a round. -/
def tSeam (id rank n round : Nat) (started : Bool) : Cmd := tCmd id (.seam (tSeamOf tSmall rank n round false started))

/-- EngineEvents: a copy within scratchpad, a quantisation of 32 zeros, a batch whose operation is performed, a ray without a direction, a copy
from a page that is not mapped and one that meets none, the last of two ranks, a round, a composite that is done. -/
theorem witness_engine_events :
    (let s := tCmds [tCmd 9 (.copy 0 true true 0 0x1000 64 1 0 0)] (tMem [] [])
     (cmdOf s 9).any (fun c => atHead s c && !awaitsEarlier s c && c.done == 0)) = true ∧
    (let d0 : W64 := 0x8000_0000_0000_0000
     let d1 : W64 := 0x8000_0000_0000_2000
     let d2 : W64 := 0x3000
     let d3 : W64 := BitVec.ofNat 64 (1 + 32 * 2 ^ 12 + 512 * 2 ^ 48)
     let c := tCmd 9 (.qnt 0 d0 d1 d2 d3)
     let s := tCmds [c] (tMem [] [])
     atHead s c && !awaitsEarlier s c && (match qntElems (cmdWho s c) 0 true 4 32 0 0 (1 * 32) 0 s with
       | (l, .ok _ s1) =>
         let out := qntOutput 0 32 (chunksOf 32 1 (l.map (decodeF f32)))
         (match qntStore (cmdWho s c) 0 true [(0x2000, out.1), (0x3000, out.2.1), (0x3002, out.2.2.1.flatMap (fun b => bytesOf 2 b))] 0 0 0 s1 with
           | (_, .ok _ s2) => s2.g.live
           | _ => false)
       | _ => false)) = true ∧
    (let m := { opOf .mma ⟨0, 3, 0, 1, .none⟩ tState with done := true }
     let s : State := { tState with g := { tGroup with batches := [⟨0, [m]⟩] } }
     s.g.live && s.others.isEmpty && (allOps s.g).all (·.done)) = true ∧
    (let c := tCmd 9 (.ray false [0x6000, 0x2000, 0, BitVec.ofNat 64 (2 ^ 21 + 0x4000)] [⟨3, List.replicate 8 0, [1, 2, 3, 4], 0⟩])
     let s := tCmds [c] (tMem [] [])
     rayOf (List.replicate 8 0) = none ∧ (cmdOf s 9).any (fun x => atHead s x && !awaitsEarlier s x && x.bar.isNone) = true) ∧
    ([(0x7000_0000_0000, true), (0x4000, false)].all (fun c =>
      let s := tCmds [tCmd 9 (.copy 0 false true c.1 0x1000 64 1 0 0)] (tMem [] [])
      match cmdOf s 9 with
      | some x => (match cmdOf (runCmd (cmdBytes x) x s) 9 with | some d => d.paused.isSome == c.2 | none => !c.2)
      | none => false)) = true ∧
    (let s := tCmds [tSeam 1 1 2 0 false, tSeam 2 0 2 0 false] (tMem [] [])
     (match seamsOn 0x8000_0000 s with
       | (_, x) :: l => x.rank < x.parts && (match gatherRanks (seamsOn 0x8000_0000 s) (List.range 2) with
         | some ps => ps.all (fun e => sameShape x.tgt e.2.tgt) && l.length == 1
         | none => false)
       | [] => false)) = true ∧
    (let c := tSeam 1 0 2 0 true
     let m := tSeam 2 1 2 0 true
     let s := tCmds [c, m] (tMem [] [])
     (match seamOf c with
       | some x => (((seamsOn x.key s).filter (fun e => e.2.started)).find? (fun e => e.2.rank == x.rank ^^^ 2 ^ x.round)).map (·.1.id) == some 2 &&
         (match targetOf x.tgt with
           | some t => (match carryPixels 1 m c t t false true (keptPixels t 2 0 0) s with | .ok .done _ => true | _ => false)
           | none => false)
       | none => false)) = true ∧
    (let s := tCmds [tSeam 1 0 2 1 true, tSeam 2 1 2 1 true] (tMem [] [])
     ((seamsOn 0x8000_0000 s).all (fun e => e.2.started && decide (seamRounds e.2 ≤ e.2.round)))) = true := by decide +kernel

/-- A primitive of three positions with W 1 and Z 0 that covers part of the first tile, and one of no area. -/
def tPrim (area : Bool) (tiles : Option (List Nat)) : Prim :=
  let v (x y : W32) : List W32 := [x, y, 0, 0x3F80_0000, 0, 0, 0, 0]
  { seq := 0, prio := 0, ccls := 0, tiles := tiles
    verts := v 0xBF80_0000 0x3F80_0000 ++ v (if area then 0x3F80_0000 else 0xBF80_0000) 0x3F80_0000 ++ v 0xBF80_0000 0xBF80_0000 }
/-- The pass of `tPass` with primitives, its descriptor's CTL as given. -/
def tOpen (ctl : Nat) (l : List Prim) : State :=
  let p := tSet (words8 0x8000_0000 (ctl :: tPassWords.drop 1)) tQueue (tMem [] [])
  { tSet (words8 0x2010_0008 [0x12F + 0x80000 * 2 ^ 24] ++ words8 0x4FF8 [16 + 3 * 32 + 8 * 128 + 2048] ++ words8 0x8000_0000 (ctl :: tPassWords.drop 1)) tQueue p with
    passes := [{ die := 0, args := 0x4000_0000, ctx := 0, bolt := 0, prio := 0, ccls := 0, desc := (ctl :: tPassWords.drop 1).map (BitVec.ofNat 64),
                 next := 1, prims := l, accepted := 0, culled := 0 }] }

/-- SpawnAndPassEvents: a bin with a timer and a record; a formed group with its partition before the entry address; a primitive that is
culled and one that covers tile 0; a pass that is closed and empty. -/
theorem witness_spawn_pass_events :
    (let b : Bin := { die := 0, ctx := 0, entry := 0x5000, owner := 0, recs := [⟨0, 0, 0⟩], timer := true, swatch := 0 }
     [b].find? (isBin 0 0 0x5000) = some b) ∧
    (let f : Formed := { die := 0, ctx := 0, entry := 0x5000, offs := [0], swatch := 0, prio := 0, ccls := 0, reported := false }
     let s : State := { tOpen 0 [] with formed := [f] }
     ctxRuns s 0 && (match entryPart 0 0 0x5000 s with
       | (some w, s1) => partOk w 1 && placeCore s1 0 w 1 == some 1 && freeRecord s1 0 == some 1 &&
         (match loadPayloads 0 [0] { s1 with formed := [] } with | (.inl l, _) => l.length == 1 | _ => false)
       | _ => false)) = true ∧
    ([true, false].all (fun a => let s := tOpen 0 [tPrim a none]
      match s.passes.find? (isPass 0 0 0x4000_0000) with
      | some p => (match p.prims.find? (fun y => y.tiles.isNone) with
        | some x => (match onScreen (passView p) x.verts with | some o => a && coveredTiles (passView p) o.pieces == [0] | none => !a)
        | none => false)
      | none => false)) = true ∧
    (let s := tOpen 0 [tPrim true (some [0])]
     (match s.passes.find? (isPass 0 0 0x4000_0000) with
      | some p => launchable p.prims [] == [(tPrim true (some [0]), 0)] && (match entryPart 0 0 0x5000 (bump s) with
        | (some w, s1) => partOk w 1 && (onScreen (passView p) (tPrim true none).verts).isSome && (placeCore s1 0 w 1).isSome &&
            (freeRecord s1 0).isSome && ctxRuns s1 0
        | _ => false)
      | none => false)) = true ∧
    (let s := tOpen 1 []
     (s.passes.find? (isPass 0 0 0x4000_0000)).isSome && (allGroups s).all (fun g => s.passes.all (fun p => !ofPass p g)) &&
      (match devLoad s 0 0 8 0x4000_0000 with
        | (.inl bs, s1) => natOf bs % 2 == 1 && (match devStore s1 0 0 0x4000_0050 (bytesOf 8 0) with
          | (none, s3) => (match devStore s3 0 0 0x4000_0000 (bytesOf 8 3) with | (none, _) => true | _ => false)
          | _ => false)
        | _ => false)) = true := by decide +kernel

/-- HomeAndHostEvents: a dirty word; an atomic held in flight; an entry to reissue, and one reissued sixteen times; an entry with A to
write; peers' spans at the ends of memory; a request performed before. -/
theorem witness_home_host_events :
    (match exec (.sst ⟨0, 12, 4, 5, .none⟩) (tMem [(4, 0x4000), (12, 0xAABB_CCDD)] []) with
      | .next s => (match l1Get s 0 (0x4000 / 128) 0 with
        | some e => e.dirty && e.store % 4 == 0 && s.leaves.all (fun m => (storageIn m (0x4000 / 128)).all (fun k => k == e.store - e.store % 128)) && (List.range 32).all (fun j => j == 0 || (l1Get s 0 (0x4000 / 128) j).isNone)
        | none => false)
      | _ => false) = true ∧
    (let p := tMem [(4, 0x4000)] []
     let s := enqueue (.atom ⟨0, 2, 4, 6, .none⟩) p
     requestInstr s p.nextId == some (.atom ⟨0, 2, 4, 6, .none⟩) && isRmw (.atom ⟨0, 2, 4, 6, .none⟩) && isUpdate (.atom ⟨0, 2, 4, 6, .none⟩) &&
      (match requestOf s p.nextId, focus (fun y => y.id == 0) s with
        | some (g, n), some s1 => g.id == 0 && n == 0 && okd (drain 1 s1) && ([0, 15, 16].all (fun t =>
            let u := onG (fun g => { g with inflight := g.inflight.map (fun e => { e with tries := t }) }) s
            (match requestOf u p.nextId with | some (h, k) => (h.inflight[k]?).map (·.tries) == some t | none => false) && !halted u 0))
        | _, _ => false)) = true ∧
    (let e : TlbEntry := ⟨0, 0, 0, 30, 0x3F, 0x2010_0000, true, false, false, false⟩
     let s : State := { tMem [] [] with tlb := [e] }
     s.tlb.filter (fun x => x.core == 0 && x.ctx == 0 && x.base == 0) = [e] ∧ fld (rw8 s e.at_) 24 40 = fld e.pte 24 40) ∧
    (peerMay tState (hdmSize - 4) 4 true = true ∧ (hdmSize - 4) % 4 = 0 ∧ rmwSize (.cas 8 0 0) = 8 ∧ peerMay tState (hdmSize - 8) 8 true = true) ∧
    (let s : State := { tState with performed := [⟨⟨1, 2⟩, hdmKey 0 / 2 ^ 36, 4, 9⟩] }
     recorded s ⟨1, 2⟩ 4 0 = some 9 ∧
      recorded s ⟨1, 2⟩ 5 0 = none ∧ recorded s ⟨1, 3⟩ 4 0 = none) := by decide +kernel

/-- ManagementEvents: units at the ends of their ranges are counted, and a row copy in progress. -/
theorem witness_management_events :
    (cget (fun _ => 0) tState.spareRows ((384 - 384) * 2 ^ 20 + 0) < 8 ∧ cget (fun _ => 0) tState.spareRows ((415 - 384) * 2 ^ 20 + 0) < 8) ∧
    (let s : State := { tState with rowCopies := [(3, 9)] }
     s.rowCopies.find? (fun x => x.1 == 3) = some (3, 9)) ∧
    ((0 : Nat) ≤ 1000 * moduleCap tState ∧ 1000 * dieCap tState 0 < 481_000) := by decide +kernel

/-- RegisterFrame, ResultAtDistance, StepKeepsSteady, RfeReturns: nothing pending; a steady state that has a next state. -/
theorem witness_frames : isWord (.vmov ⟨0, 2, 4, 0, .none⟩) = true ∧ 0x10 ≤ opcode (.vmov ⟨0, 2, 4, 0, .none⟩) ∧ opcode (.vmov ⟨0, 2, 4, 0, .none⟩) ≤ 0x50 ∧
    ready (.vmov ⟨0, 2, 4, 0, .none⟩) tState = true ∧ tState.g.pend = [] ∧ (tMem [] []).mem.wf = true ∧ (tMem [] []).wr = [] := by decide +kernel

/-- StepRunsDecoded: nothing is due in a placed state, nor in one where an event is delivered. -/
theorem witness_step_due :
    (dueNow (tPlaced (.sadd ⟨0, 2, 4, 6, .none⟩) false [])).isNone = true ∧
    (let s : State := { tMem [] [] with inputs := [.ctxKill 0] }
     (dueNow s).isNone && !isWord (.ctxKill 0)) = true := by decide +kernel

/-- YieldAndExit, EXIT: nothing of the group is paused, and a copy of it is paused at a fault. -/
theorem witness_exit :
    (ready (.exit ⟨0, 2, 0, 0, .none⟩) tState && (pausedAt tState).isNone) = true ∧
    (let s := tCmds [{ tCmd 9 (.copy 0 false true 0x4000 0x1000 64 1 0 0) with paused := some 0x4000 }] (tMem [] [])
     ready (.exit ⟨0, 2, 0, 0, .none⟩) s && pausedAt s == some 0x4000) = true := by decide +kernel

/-- SystemRegisters: every index of a clause, in the privileged view, and one in the other. -/
theorem witness_special_writes :
    allReady tPriv ([0, 8, 0x13, 0x27, 0x30, 0x31, 0x32, 0x100, 0x101, 0x102, 0x103, 0x104, 0x105, 0x106, 0x107, 0x108, 0x109, 0x10A, 0x10B, 0x10C, 0x10F,
      0x140, 0x142, 0x17F].map (fun n => .mtsr ⟨0, 0, 6, 0, .imm (BitVec.ofNat 30 n)⟩)) = true ∧
    allReady tState [.mtsr ⟨0, 0, 6, 0, .imm 0x100⟩, .mtsr ⟨0, 0, 6, 0, .imm 0⟩] = true := by decide +kernel

/-- CMAINT of one byte at address 0 with an operation, in a state whose page there has the leaf given. -/
def tMaint (val : BitVec 14) (leaf : Nat) : State × Instr :=
  (tSet (words8 0x2010_0000 [leaf]) [] (tMem [(4, 0), (6, 1)] []), .cmaint ⟨0, 0, 4, 6, .par { par0 with scope := 3, sel := 4, val := val }⟩)

/-- TranslationMaintenance: every operation of CMAINT in the unprivileged view over a page that its group may write, and .INV and .FL over one that
it may not; HARVEST with an entry that has gathered A. -/
theorem witness_maintenance :
    ([0, 1, 2, 3].all (fun v => let c := tMaint v 0x3F
      ready c.2 c.1 && okWith (pagesOf (whoOf c.1.g 0) 1 2 0 c.1) (fun l t => t.g == c.1.g && l.length == 1 && l.all (fun p =>
        bit p.pte 3 && bit p.pte 5 && pteAddr p.pte / 2 ^ 48 != 3)))) = true ∧
    ([1, 2].all (fun v => let c := tMaint v 0x37
      ready c.2 c.1 && okWith (pagesOf (whoOf c.1.g 0) 1 2 0 c.1) (fun l t => t.g == c.1.g && l.any (fun p => !bit p.pte 3)))) = true ∧
    (let s : State := { tRoot [] with tlb := [⟨0, 0, 0, 30, 0x3F, 0x2010_0000, true, true, false, false⟩] }
     ready (.harvest ⟨0, 0, 0, 0, parS 1 0⟩) s) = true := by decide +kernel

/-- MAPPG of an address by a group whose pool of one 1 GiB entry lies at 0x8000, with `n` entries left. -/
def tMap (va : W64) (n : Nat) : State :=
  let p := tSet (words8 0x8000 [n, 4] ++ words8 0x8040 [3 + 2 * 2 ^ 21 + 0x40000 * 2 ^ 24]) [] (tRoot [(4, va), (6, 0x1C)])
  { p with g := { p.g with frpool := 0x8000 } }

/-- PageInstructions, MAPPG: an empty pool, an address that is mapped, one that has no table. -/
theorem witness_mappg :
    ([(0x4000_0000, 0), (0, 1), (0x800_0000_0000, 1)].all (fun c => let s := tMap c.1 c.2
      ready (.mappg ⟨0, 2, 4, 6, parS 2 0⟩) s && canonical c.1 && okWith (checkPerm s (whoOf s.g 0) 8 needRW [(0, 0x8000)]) (fun ws s1 =>
      okWith (places (whoOf s.g 0) 16 needRW ws s1) (fun ps s2 => match ps with
        | p :: _ => (match poolPop (whoOf s.g 0) p.2 s2 with
          | (some e, s3) => !poolBad e && c.2 == 1 && (match mapWalk c.1.toNat (psBits e) s.g.ccls levels (fld s.g.vmctx 17 35 * 2 ^ 17) s3 with
            | (.mapped, s4) => c.1 == 0 && s4.g.live
            | (.noSlot, s4) => c.1 != 0 && s4.g.live
            | _ => false)
          | (none, s3) => c.2 == 0 && s3.g.live)
        | [] => false)))) = true := by decide +kernel

/-- The state of an ACCSN of the page of 1 GiB at address 0, with accessions. -/
def tAcc (recorded : Bool) (l : List Accession) : State :=
  { tMem [(4, 0), (6, if recorded then 0x4000_0000 else 0x8000_0000_4000_0000)] [] with accs := l }

/-- PageInstructions, ACCSN: a home with 1,024 accessions; an unseal of a range that has one, and of one that has none. -/
theorem witness_accsn :
    (([(true, List.replicate 1024 ⟨5, 0, 0x1_0000_0000, 65536, [(0, 65536)]⟩), (false, [⟨5, 0, 0, 0x4000_0000, [(0, 2 ^ 30)]⟩]), (false, [])] : List (Bool × List Accession)).all (fun c =>
      let s := tAcc c.1 c.2
      ready (.accsn ⟨0, 2, 4, 6, parS 3 0⟩) s && fld (rdS s 6) 0 63 == 0x4000_0000 && bit (rdS s 6) 63 != c.1 && rangeEnd 0 0x4000_0000 == .inl 0x4000_0000 &&
        okWith (accPages (whoOf s.g 0) 0x4000_0000 16385 0 s) (fun l t => t.g == s.g && l.all (fun x => x.base == 0) && (l1Clusters t).isEmpty &&
          (!c.1 || (pieceHomes (l.flatMap pagePieces)).any (tableFull t))))) = true := by decide +kernel

/-- MigrateMoves: nothing of the group is left, no core of the other die is free; a panel of two groups. -/
theorem witness_migrate_more :
    (let s : State := { tSet [] [(cfenceReg 1, 0xFFFF_FFFF_FFFF)] (tMem [(4, 0x4000_0000)] []) with
         tlb := [⟨0, 0, 0x4000_0000, 30, BitVec.ofNat 64 (0x2F + 4 * 2 ^ 13), 0, true, true, true, true⟩] }
     ready (.migrate ⟨0, 2, 4, 0, .none⟩) s && okWith (namedPlace (whoOf s.g 0) 0x4000_0000 s) (fun p s1 =>
       s1.g == s.g && !migrateWaits s1 && !needsOps (fun _ => true) s.g.id s1 && homeDie p == 1 &&
       (placeCore (onG completeAll (releasePart 4 s1).2) 1 s.g.part 1).isNone)) = true ∧
    (let s : State := { tMem [] [] with panels := [{ placedPanel with groups := 2 }] }
     ready (.migrate ⟨0, 2, 4, 0, .none⟩) s && !s.g.priv && !((panelOf s s.g.panel).map (fun p => decide (p.groups ≤ 1))).getD true) = true := by
  decide +kernel

/-- FloatRounded and FloatExact: a positive finite value, an infinity, a zero, NaNs that are quiet and that signal; a count below -5000 and one
above 5000 leave no state out; the predicates are those of an order. -/
theorem witness_float_values :
    (match decodeF f32 0x3FC0_0000 with | .fin m a => !m && decide (0 < a) | _ => false) = true ∧
    (decodeF f32 0x7F80_0000).isInf = true ∧ decodeF f32 0x8000_0000 = .fin true 0 ∧
    (match decodeF f32 0x7FC0_0001 with | .nan m q _ => !m && q | _ => false) = true ∧
    (match decodeF f32 0x7F80_0001 with | .nan _ q _ => !q | _ => false) = true ∧
    (∃ P : Bool → Bool → Bool → Nat → Bool, ∀ lt eq gt k, P lt eq gt k = (if k = 0 then eq else if k = 1 then !eq else if k = 2 then lt
      else if k = 3 then lt || eq else if k = 4 then gt else if k = 5 then gt || eq else decide (k = 7))) :=
  ⟨by decide +kernel, by decide +kernel, by decide +kernel, by decide +kernel, by decide +kernel, ⟨_, fun _ _ _ _ => rfl⟩⟩

/-- PanelBarriers: an object with an open phase, one with none, a phase done and one not done, each with words that are ready. -/
theorem witness_panel_barrier_words :
    ([tBar 7 2 [0, 0, 0, 0] [(6, 6)], tBar 7 2 [1, 1, 1, 1] [(6, 7)], tBar 0 0 [] [(6, 1)]].all (fun s =>
      ready (.bararv ⟨0, 2, 4, 0, .none⟩) s && ready (.barwait ⟨0, 0, 4, 6, .none⟩) s && ready (.barinit ⟨0, 0, 4, 6, .none⟩) s &&
        decide ((rdS s 2).toNat < 2 ^ 31) && (rdS s 4).toNat % 32 == 0)) = true := by decide +kernel

/-- DeviceBarriers: BARWAIT of a phase that is not done, of the last one with and without a waiter left, and of an earlier one. -/
theorem witness_device_wait :
    (([(2, 0, 1), (2, 1, 1), (2, 0, 2), (2, 1, 0)] : List (Nat × Nat × Nat)).all (fun c =>
      let s := tDev (c.1 + 2 * 2 ^ 16 + c.2.1 * 2 ^ 49 + 3 * 2 ^ 60) [(6, BitVec.ofNat 64 c.2.2)]
      ready (.barwait ⟨0, 0, 4, 6, parS 1 0⟩) s && okWith (slotPlace 0x4000_0000 (whoOf s.g 0) needRW 0 s) (fun p s1 =>
       let v := dbRead s1 p
       s1.g == s.g && dbExpect v == 2 && dbValid v && dbUnseen v == c.2.1 && dbDone v c.2.2 == (c.2.2 != 2)))) = true := by decide +kernel

/-- A panel barrier object of one group at offset 0x4000 of the test panel. -/
def tOpenBar (s : State) : State := writePbar { phase := 0, expect := 1, rest := 0, arr := [0, 0, 0, 0], bytes := [0, 0, 0, 0] } s.g.panel 0x4000 s

/-- EnginesAccept: a copy that counts into a phase, and the words with descriptors of zeros. -/
theorem witness_copy_barrier :
    (let s := tOpenBar (tWith 1 [(8, 0x8000_0000_0000_0000), (9, 0x8000_0000_0000_1000), (10, BitVec.ofNat 64 (256 + 2 ^ 22 + 512 * 2 ^ 48))] [])
     let c := copyDesc (rdS s 8) (rdS s 9) (rdS s 10) (rdS s 11)
     let k : CmdKind := .copy 7 c.ssp c.dsp c.src c.dst c.rowlen c.nrows c.sstr c.dstr
     ready (.cpy ⟨0, 0, 8, 0, parS 7 0⟩) s && !copyBad (rdS s 8) (rdS s 9) (rdS s 10) c && !c.nobar && c.bar == 0x4000 &&
     nextPhase (readPbar s s.g.panel c.bar) (fld s.g.gid 0 4) == some 0 &&
     !tacksWait s s.g.core ((acceptCmd k (some (c.bar, 0)) s).cmds.getLast?.elim [] (cmdTacks (acceptCmd k (some (c.bar, 0)) s)))) = true ∧
    (let s := tWith 1 [] []
     ready (.cpy ⟨0, 0, 8, 0, parS 7 0⟩) s && copyBad 0 0 0 (copyDesc 0 0 0 0) && ready (.qnt ⟨0, 0, 8, 0, parS 0 0⟩) s && qntBad 0 0 0 0 0) = true := by
  decide +kernel

/-- SpawnsComplete: an entry address that is misaligned, a die without a pool, SPCOM of an offset that is not reserved and of one twice, no active lane. -/
theorem witness_spawn_stops :
    (let s := tPool 2 [] []
     let m : State := { s with g := { s.g with s := [(1, 3), (4, 0x2002)] } }
     allReady m [.spres ⟨0, 8, 4, 9, .none⟩, .spresW ⟨0, 8, 4, 9, parS 1 0⟩] && (rdS m 4).toNat % 4 != 0 && effMask m != 0) = true ∧
    (let s := tPool 0 [] []
     allReady s [.spres ⟨0, 8, 4, 9, .none⟩, .spresW ⟨0, 8, 4, 9, parS 1 0⟩] && poolSlots s 0 == 0 && effMask s != 0) = true ∧
    ([32, 0].all (fun x => let s := tPool 2 [(8, (every x).set 0 0)] [⟨0, 0, 0x2000, 0⟩]
      ready (.spcom ⟨0, 0, 8, 0, .none⟩) s && activeLanes (effMask s) == [0, 1] && laneOf (rdV s 8) 1 == x)) = true ∧
    (let s : State := { tPool 2 [] [] with g := { tGroup with exmask := 0 } }
     effMask s == 0 && allReady s [.spcom ⟨0, 0, 8, 0, .none⟩, .spres ⟨0, 8, 4, 9, .none⟩]) = true ∧
    ([62, 63].all (fun n =>
      let b : Bin := { die := 0, ctx := 0, entry := 0x2000, owner := 0, recs := List.replicate n ⟨0, 0, 0⟩, timer := true, swatch := 0 }
      ({ tState with bins := [b] } : State).bins.find? (isBin 0 0 0x2000) == some b)) = true := by decide +kernel

/-- GraphicsCompletes: words that are ready with no active lane, and PEMIT in a group of no bolt; a ray command that counts into a phase. -/
theorem witness_graphics_more :
    (let s : State := { tState with g := { tGroup with exmask := 0 } }
     (activeLanes (effMask s)).isEmpty && allReady s [.pemit ⟨0, 5, 6, 0, .none⟩, .rayq ⟨0, 8, 16, 9, .none⟩, .rayqBob ⟨0, 8, 16, 9, parS 1 0⟩]) = true ∧
    (let s : State := { tState with g := { tGroup with kind := .bobbin } }
     ready (.pemit ⟨0, 5, 6, 0, .none⟩) s && s.g.kind != .bolt && !(activeLanes (effMask s)).isEmpty) = true ∧
    (let s := tOpenBar (tSet (words8 0x5000 [0x6000, 0x2000, 0, 512 * 2 ^ 22]) [] (tMem [(9, 0x5000)] []))
     ready (.rayq ⟨0, 8, 16, 9, .none⟩) s && okWith (uniDesc 0x5000 s) (fun bs s1 =>
       let d := descWords bs 8
       let t := acceptCmd (.ray false d (raysOf ⟨0, 8, 16, 9, .none⟩ [0, 1] [] s1)) (some (0x4000, 0)) s1
       s1.g == s.g && rayDescOk false d && !bit (d.getD 3 0) 21 && 32 * fld (d.getD 3 0) 22 16 == 0x4000 && decide (rayQueue s1 < 16) &&
       nextPhase (readPbar s1 s.g.panel 0x4000) (fld s.g.gid 0 4) == some 0 && !tacksWait s1 s.g.core (t.cmds.getLast?.elim [] (cmdTacks t)))) = true := by
  decide +kernel

/-- A group at a blocking point of a kind. -/
def tAt (k n : Nat) : State := { tState with g := { tGroup with block := some ⟨k, 0, 0, n⟩ } }

/-- GroupEvents: points of kinds 8, 9 and 10 that are met, one that is not; a held fault in the privileged view; budgets that are and are not
used up; a group that is charged. -/
theorem witness_group_points :
    ([8, 9, 10].all (fun k => let s := tAt k 0
      (focus (fun g => g.id == 7) s).isSome && wakeMet s s.g && s.g.resident && !s.g.halted && !halted s s.g.ctx)) = true ∧
    wakeMet (tAt 1 0) (tAt 1 0).g = false ∧
    (tPriv.g.priv = true ∧ (focus (fun g => g.id == 7) tPriv).isSome = true) ∧
    ([0xFFFF_FFFF_FFFF, 0].all (fun n => let s : State := { tState with g := { tGroup with runcnt := n } }
      !halted s s.g.ctx && s.g.resident && decide (runClocks (budOf s s.g) ≤ s.g.runcnt.toNat) == (n != 0))) = true ∧
    (charged (tAt 1 0).g = true ∧ bit (rdWin (tAt 1 0) (ctxReg 0 0x28)) 32 = false) := by decide +kernel

/-- DispatcherEvents: a dependence that is not met, a panel of a bolt that has more to do, and the last panel of one with a completion word. -/
theorem witness_dispatcher_more :
    (let s : State := { tSet [] tQueue (tMem [] []) with bolts := [{ tBolt false tBoltPart with deps := [(0x3000, 1)] }] }
     (curBolt s 0).isSome && (match depsMet 0 0 [(0x3000, 1)] s with | (.inl b, _) => !b | _ => false)) = true ∧
    ([2, 1].all (fun n =>
      let p := tSet [] tQueue (tMem [] [])
      let b : Bolt := { tBolt true tBoltPart with grid := BitVec.ofNat 64 (n + 2 ^ 16 + 2 ^ 32 + 2 ^ 52), placed := 1, doneAddr := 0x6000, doneVal := 9, clusters := [0] }
      let s : State := { p with g := { p.g with exited := true, bid := boltBid 0 0 }, panels := [{ placedPanel with bolt := some (0, 0) }], bolts := [b] }
      (panelOf s 0).isSome && panelDone s 0 && (s.bolts.all (fun x => decide (x.completed < boltPanels x))) && boltPanels b == n && (n == 2 ||
        (s.bolts.filter (isBolt 0 0) == [b] &&
         (let s1 := freePanelStore (removeGroups (fun g => g.panel == 0) { s with
            panels := s.panels.filter (fun x => x.id != 0), bolts := s.bolts.filter (fun x => !isBolt 0 0 x) }) 0
          let s3 := b.clusters.foldl (fun a c => writeBack a c allLines) (writeTlbAd (fun e => e.ctx == ctxTag s b.ctx) s1)
          (match devStore s3 b.ctx b.die b.doneAddr (bytesOf 8 b.doneVal.toNat) with | (none, _) => true | _ => false)))))) = true := by decide +kernel

/-- MovingEvents: a waiter, and a panel whose group waits at kind 6 and is neither asked for nor stopped. -/
theorem witness_idle :
    (let p := tMoving false 6 none true
     let s : State := { p with bolts := [tBolt true tBoltPart], win := (cfenceReg 0, 0xFFFF_FFFF_FFFE) :: p.win }
     let s1 := quiesce 0 s
     !(waiters s 0).isEmpty && allBlocked s 0 && allBlocked s1 0 && panelQuiet s1 0 && (panelOf s1 0).isSome && (imageUnits needW placedPanel s1).isLeft &&
      (panelGroups s 0).all (fun g => g.exited || (match g.block with | some b => chargedKind b | none => false))) = true := by decide +kernel

/-- HostAnswers: a record for which there is no room; registers of the host that are neither CTXMISC nor FRESP. -/
theorem witness_no_room :
    (let p := tReport 2 0
     let s : State := { p with win := (eqTail, 63) :: p.win }
     decide (eventRoom s < 2) && s.outbound.head? == s.outbound.find? (fun x => x.die == 0)) = true ∧
    (regAt (ctxReg 0 8) = some (.ctx 0 8) ∧ mayWrite tState (ctxReg 0 8) .host = true) := by decide +kernel

/-- EngineEvents: a quantisation that has read its source, a batch with one operation to perform, a command that is paused. -/
theorem witness_engine_more :
    (let c : Cmd := { tCmd 9 (.qnt 0 0x8000_0000_0000_0000 0x8000_0000_0000_2000 0x3000 (BitVec.ofNat 64 (1 + 32 * 2 ^ 12))) with
        read := 128, outs := [(0x2000, [1, 2]), (0x3000, [3])], done := 1 }
     let s := tCmds [c] (tMem [] [])
     atHead s c && !awaitsEarlier s c && c.read == 1 * 32 * 4 && (match qntStore (cmdWho s c) c.panel true c.outs c.done c.done c.lines s with | (_, .ok _ _) => true | _ => false)) =
      true ∧
    (let m := { opOf .mma ⟨0, 3, 0, 1, .none⟩ tState with tctlA := 2064, tctlB := 2064 }
     let s : State := { tState with g := { tGroup with batches := [⟨0, [m]⟩] } }
     s.g.live && s.others.isEmpty && !m.done && m.paused.isNone && !awaitsEngine s s.g m &&
       (match performOp (cmdWho s (opCmd s.g m)) s.g m (elementLeft m) s with
        | (_, .ok _ s1) => s1.g == s.g && s1.others.isEmpty
        | _ => false)) = true ∧
    (let s := tCmds [{ tCmd 9 (.copy 0 false true 0x4000 0x1000 64 1 0 0) with paused := some 0x4000 }] (tMem [] [])
     (cmdOf s 9).any (fun c => c.paused.isSome)) = true := by decide +kernel

/-- A started seam command that gathers, its rounds done, with the flat target at a place. -/
def tGather (id rank base : Nat) : Cmd :=
  tCmd id (.seam (tSeamOf (base :: tSmall.drop 1) rank 2 1 true true))

/-- EngineEvents: two ranks whose targets differ in shape; a gather of rank 0 and one of rank 1 into the target of rank 0. -/
theorem witness_seam_more :
    (let s := tCmds [tSeam 1 1 2 0 false, tCmd 2 (.seam (tSeamOf [0x8000, 0x9000, 16 + 8 * 2 ^ 15] 0 2 0 false false))] (tMem [] [])
     (match seamsOn 0x8000_0000 s with
       | (_, x) :: _ => (match gatherRanks (seamsOn 0x8000_0000 s) (List.range 2) with
         | some ps => ps.any (fun e => !sameShape x.tgt e.2.tgt)
         | none => false)
       | [] => false)) = true ∧
    (let c := tGather 1 1 0x8000
     let m := tGather 2 0 0xA000
     let s := tCmds [c, m] (tMem [] [])
     (match seamOf c, seamOf m with
       | some x, some y => seamRounds x == x.round && x.gather && !x.gathered && y.rank == 0 && x.rank == 1 &&
         (((seamsOn x.key s).filter (fun e => e.2.started)).find? (fun e => e.2.rank == 0)).map (·.1.id) == some 2 &&
         (match targetOf x.tgt, targetOf y.tgt with
           | some t, some u => (match carryPixels 1 c m t u true true (stripPixels t 2 1) s with | .ok .done _ => true | _ => false)
           | _, _ => false)
       | _, _ => false)) = true := by decide +kernel

/-- SpawnAndPassEvents: a bin of 70 records whose timer runs. -/
theorem witness_long_bin :
    (let b : Bin := { die := 0, ctx := 0, entry := 0x5000, owner := 0, recs := (List.range 70).map (fun i => ⟨32 * i, 0, 0⟩), timer := true, swatch := 0 }
     ({ tState with bins := [b] } : State).bins.find? (isBin 0 0 0x5000) == some b && decide (63 < b.recs.length)) = true := by decide +kernel

/-- HomeAndHostEvents: commands reissued fifteen and sixteen times, a poisoned word of an atomic, a write performed before. -/
theorem witness_home_more :
    (([(15, false), (16, true)] : List (Nat × Bool)).all (fun n => let s := tCmds [{ tCmd 9 (.copy 0 false true 0x4000 0x1000 64 1 0 0) with tries := n.1 }] (tMem [] [])
      (requestOf s 9).isNone && (match cmdOf s 9 with
        | some c => decide (16 ≤ c.tries) == n.2 && (cmdGroup s c).any (fun g => !g.exited && !halted s g.ctx)
        | none => false))) = true ∧
    (let s : State := { tState with poison := [(hdmKey 0 / 4, true)] }
     peerMay s 0 4 true && (hdmPoison s 0 4) != [] && (recorded s ⟨1, 2⟩ 5 0).isNone) = true ∧
    (let s : State := { tState with performed := [⟨⟨1, 2⟩, hdmKey 0 / 2 ^ 36, 4, 0⟩] }
     recorded s ⟨1, 2⟩ 4 0 == some 0 && peerMay s 0 (4 * 1) true) = true := by decide +kernel

/-- ManagementEvents: an offset that is no block's base; the action of a unit and others; a context that has work on the die that is reset; a module
over its cap. -/
theorem witness_management_more :
    isBlockBase 8 = false ∧ (actionOf 0 = 0 ∧ actionOf 384 = 1 ∧ actionOf 416 = 2 ∧ actionOf 575 = 3) ∧
    (let s := tMem [] []
     worksOn s 0 0 && (1#41 <<< 0).getLsbD 0) = true ∧ 1000 * moduleCap tState < 100_000_000 ∧ (95 / 12 = 7 ∧ 96 / 12 = 8 ∧ 383 / 48 = 7) := by
  decide +kernel

/-- StoreFrame: the tables let no other storage or line key share the line that the lanes store to. -/
theorem witness_store_keys :
    (let s := tMem [(4, 0x3FFF_FFFC)] []
     lanesOk (.st ⟨0, 2, 4, 6, .none⟩) s (whoOf s.g 0) 4 needW [(0, 0x3FFF_FFFC), (1, 0x3FFF_FFFC)] (fun l => l.all (fun x => clashOf s x.2 == ([], [])))) = true := by decide +kernel

/-- A state whose die's buffer of records is full. -/
def tFull (s : State) : State := { s with outbound := List.replicate 8 (groupRec s.g 2 0x11 0 0 0 false) }

/-- TrapInHandlerIsFatal, HostAnswers, SystemCalls: a buffer with room and a full one; SVC and TRAP without a handler and without s60 to s63. -/
theorem witness_no_handler :
    (bufferFull tPriv (coreDie tPriv.g.core) = false ∧ bufferFull (tFull tPriv) (coreDie tPriv.g.core) = true) ∧
    ([{ tGroup with tvec := 0 }, { tGroup with part := tPart - 32 }].all (fun g => [false, true].all (fun f =>
      let s : State := if f then tFull { tState with g := g } else { tState with g := g }
      ready (.svc ⟨0, 5, 0, 3, .none⟩) s && ready (.trap ⟨0, 6, 0, 3, .none⟩) s && !s.g.priv && (!bit s.g.tvec 63 || partSR s.g.part != 3) &&
        !halted s s.g.ctx && roomFor s (coreDie s.g.core) != f))) = true := by decide +kernel

/-- KillEndsContext: a panel of the killed context and one of another, with a group, a command and a held bin of each. -/
theorem witness_kill :
    (let s : State := { tCmds [tCmd 1 (.copy 0 true true 0 0x1000 64 1 0 0), { tCmd 2 (.copy 0 true true 0 0x1000 64 1 0 0) with panel := 4 }] (tMem [] []) with
       panels := [placedPanel, { placedPanel with id := 4, ctx := 1 }], others := [{ tGroup with id := 21, panel := 4, ctx := 1 }]
       bins := [{ die := 0, ctx := 1, entry := 0x5000, owner := 0, recs := [⟨32, 0, 0⟩], timer := true, swatch := 0 }] }
     let lost (id : Nat) : Bool := s.panels.any (fun p => p.ctx == 0 && p.id == id)
     s.g.live && s.g.ctx == 0 && lost 0 && !lost 4 && s.others.all (fun g => g.live && g.ctx == 1 && !lost g.panel) &&
       s.bins.all (binHeld (killCtx 0 s)) && (killCtx 0 s).cmds.map (·.id) == [2] && (killCtx 0 s).others.map (·.id) == [21]) = true := by decide +kernel

/-- A replay entry of an instruction. -/
def tReplay (i : Instr) (valid : Bool) : Replay :=
  { valid := valid, pc := 0x1230, word := (encode i).1, ext := (encode i).2, mask := 5, cause := 5, sub := 1, tctl := 0x20400 }

/-- RfeReturns: an entry of a scalar load, which is held at the RFE; one of a vector load, whose operands are read from its record. -/
theorem witness_replay :
    (let p := tSet (words8 0x9000 [7, 8]) [] (tRoot [(4, 0)])
     let s : State := { p with holds := [true], g := { p.g with
       rplop := 0x9000, rplq := [tReplay (.sld ⟨0, 10, 4, 0, .par { par0 with size := 3 }⟩) true], tpc := 0x2220 } }
     ready (.rfe ⟨0, 4, 0, 0, .none⟩) s && s.holds.headD false && (match reload (indexed 0 s.g.rplq) s with
       | (.inl x, s1) => x.length == 1 && s1.holds == s.holds && s1.g == s.g
       | _ => false) && (recPlace s needR 8 0x9000).1.isLeft) = true ∧
    (let s := tSet (words8 0x9000 [7, 8]) [] (tRoot [(4, 0)])
     let r := capturedBy (encode (.ld ⟨0, 10, 4, 2, .none⟩)).1 (encode (.ld ⟨0, 10, 4, 2, .none⟩)).2
     match recLoads 8 r.1 0x9000 s with
     | (.inl l, s1) => l.headD 0 == 7 && (loadVecs r.2 0x9040 s1).1.isLeft
     | _ => false) = true := by decide +kernel

/-- RenderTargetsComplete, RTLD: no earlier fragment group can still write the pixels. -/
theorem witness_lower_place :
    (let s := tSet (words8 0x5000 tFlat) [] (tMem [(6, 0x5000)] [(8, every 1)])
     okWith (ropDesc (entryOf (.rtld ⟨0, 4, 8, 6, .none⟩) s) (begun (.rtld ⟨0, 4, 8, 6, .none⟩) s)) (fun bs s1 => match targetOf bs with
       | some t => okWith (checkSpans s1 (ropWho s1) s1.g.ctx needR [⟨0, depthAddr t 1 0, 4⟩, ⟨0, colourAddr t 1 0, t.bpp⟩]) (fun _ s2 =>
           !lowerPlace s2 t [(1, 0)] && !lowerHolds s2 t [(1, 0)])
       | none => false)) = true := by decide +kernel

/-- Scratchpad: lanes that are misaligned, and lanes past the partition, for both words; a trap in the unprivileged view with the handler on. -/
theorem witness_scratchpad_traps :
    (([(1, 0, 3), (0x20000, 3, 0)] : List (Nat × Nat × Nat)).all (fun c => let s := tWith 1 [(1, 3), (4, BitVec.ofNat 64 c.1)] []
      let l := (activeLanes (effMask s)).map (fun i => (i, rdS s 4 + w64 ((laneOf (rdV s 2) i).toInt * scaleMul par0) + dispOf ⟨0, 6, 4, 2, .none⟩))
      ready (.lds ⟨0, 6, 4, 2, .none⟩) s && ready (.sts ⟨0, 6, 4, 2, .none⟩) s &&
      maskOf ((l.filter (fun e => decide (e.2.toNat % 4 ≠ 0))).map (·.1)) == BitVec.ofNat 64 c.2.2 &&
      maskOf ((l.filter (fun e => decide (scrBytes s.g.part < e.2.toNat + 4))).map (·.1)) == BitVec.ofNat 64 c.2.1)) = true ∧
    (tState.g.priv = false ∧ bit tState.g.tvec 63 = true ∧ partSR tState.g.part = 3) := by decide +kernel

/-- FloatFunctions: in each format a negative number, infinities, zeros, 1 and NaNs of both kinds. -/
theorem witness_float_functions :
    ([f64, f32, f16, bf16].all (fun f =>
      (match decodeF f (2 ^ (f.eb + f.fb) + 1) with | .fin m a => m && decide (0 < a) | _ => false) &&
      [true, false].all (fun m => decodeF f (infBits f m) == .inf m && decodeF f (signBits f m) == .fin m 0) &&
      decodeF f (roundF f .ne false 1).bits == .fin false 1 &&
      (match decodeF f (infBits f true + 1) with | .nan m q _ => m && !q | _ => false) &&
      (match decodeF f (infBits f false + 2 ^ (f.fb - 1)) with | .nan m q _ => !m && q | _ => false))) = true ∧
    allReady tFloat [.frcp ⟨0, 2, 4, 0, .none⟩, .frsq ⟨0, 2, 4, 0, .none⟩, .fsqrt ⟨0, 2, 4, 0, .none⟩, .fex2 ⟨0, 2, 4, 0, .none⟩,
      .flg2 ⟨0, 2, 4, 0, .none⟩, .ftrig ⟨0, 2, 4, 0, .none⟩, .ftrig ⟨0, 2, 4, 1, .none⟩] = true := by decide +kernel

/-- Reductions: every operation of each type is ready, with .EX and without, over lanes and over none; a fold of the operation's steps exists. -/
theorem witness_reductions :
    (([(1, [0, 1, 2, 3, 4, 5]), (0x41, [0, 1, 2, 3, 4, 5]), (0x101, [0, 1, 2])] : List (Nat × List Nat)).all (fun c => [3, 0].all (fun m =>
      allReady (tWith (BitVec.ofNat 64 c.1) [(1, BitVec.ofNat 64 m)] []) (c.2.flatMap (fun op => [.vred ⟨0, 2, 4, BitVec.ofNat 7 op, .none⟩,
        .vscan ⟨0, 2, 4, BitVec.ofNat 7 op, .none⟩, .vscan ⟨0, 2, 4, BitVec.ofNat 7 (op + 16), .none⟩]))))) = true ∧
    (∀ (ident : W32) (step : W32 → W32 → W32 × Fl), ∃ fold : List W32 → W32 × Fl, fold [] = (ident, 0) ∧
      ∀ x l, fold (x :: l) = l.foldl (fun z y => ((step z.1 y).1, z.2 ||| (step z.1 y).2)) (x, 0)) :=
  ⟨by decide +kernel, fun ident step => ⟨fun l => match l with
    | [] => (ident, 0)
    | x :: r => r.foldl (fun z y => ((step z.1 y).1, z.2 ||| (step z.1 y).2)) (x, 0), rfl, fun _ _ => rfl⟩⟩

/-- GroupEvents: a charged group with no clock of its waiting budget left, and one with a clock left; a run budget with room to report. -/
theorem witness_budgets :
    ([0, 1].all (fun n => let s : State := { tAt 1 0 with g := { (tAt 1 0).g with wbudget := n } }
      charged s.g && s.g.resident && !s.g.exited && !s.g.halted && (s.g.wbudget == 0) == (n == 0) && !bufferFull s (coreDie s.g.core))) = true := by
  decide +kernel

/-- A stopped context 0, its panel evicted, whose group stands at a point; SNAPBASE 0x1_0000, SNAPKB as given. -/
def tStopped (kb : Nat) (b : Block) (refused : Option W64) : State :=
  let p := tSet (words8 0x9000 [7]) ([(ctxReg 0 0x28, BitVec.ofNat 64 (0x1_0000_0000 + kb)), (ctxReg 0 0x20, 0x10000)] ++ tQueue) (tSync [])
  { p with panels := [{ placedPanel with resident := false }], g := { p.g with block := some b, refused := refused, resident := false } }

/-- MovingEvents, the snapshot: points of each kind that names an object, and a refused arrival; the group is in the list and no record is lost. -/
theorem witness_snapshot :
    (([(⟨1, 0x20, 7, 32⟩, none), (⟨2, 0x4000_0000, 9, 64⟩, none), (⟨3, 0x40, 1, 32⟩, none), (⟨4, 0x60, 0, 32⟩, none), (⟨4, 0x4000_0000, 0, 64⟩, none),
       (⟨5, 0x9000, 3, 4⟩, none), (⟨6, 0, 3, 0⟩, none), (⟨9, 0, 0, 0⟩, some 0x4000_0000)] : List (Block × Option W64)).all (fun c =>
      let s := tStopped 1 c.1 c.2
      let kept := (snapGroups s 0).take ((1024 * 1 - 64) / 128)
      bit (rdWin s (ctxReg 0 0x28)) 32 && !halted s 0 && s.snapped.isEmpty && s.panels.all (fun p => !p.resident) &&
        fld (rdWin s (ctxReg 0 0x28)) 0 16 == 1 && kept.map (·.id) == [s.g.id] &&
        !halted (snapStore 0 (BitVec.ofNat 64 1 :: (indexed 0 kept).flatMap (fun e => snapEntry s e.1 e.2)) 0x10000
          (kept.foldl (fun a g => withGroup g.id touchNamed a) s)) 0)) = true := by decide +kernel

/-- EngineEvents: a copy of three rows within scratchpad; copies from memory, to memory and between two ranges of it, to their end and to a part;
a word of each. -/
theorem witness_copies :
    (let s := tCmds [tCmd 9 (.copy 0 true true 0x100 0x1000 64 3 96 64)] (tMem [] [])
     (cmdOf s 9).any (fun c => atHead s c && !awaitsEarlier s c && c.done == 0 && !c.lost && c.paused.isNone && c.bar.isNone)) = true ∧
    (([(false, true, 128), (true, false, 128), (false, false, 128), (false, true, 8)] : List (Bool × Bool × Nat)).all (fun k =>
      let s := tCmds [tCmd 9 (.copy 0 k.1 k.2.1 0x4000 0x8000 64 2 96 64)] (tMem [] [])
      match cmdOf s 9 with
      | some c => atHead s c && !awaitsEarlier s c && (k.1 || k.2.1 || !sharesStorage (cmdWho s c) s 0x4000 0x8000 64 2 96 64) &&
          (match copyWords (cmdWho s c) c.panel k.1 k.2.1 0x4000 0x8000 64 96 64 (64 * 2) (k.2.2 / 4) c.done c.lines s with
            | ((p, _), .ok _ _) => p == k.2.2
            | _ => false) &&
          (match engRead (cmdWho s c) 0 k.1 4 0x4060 s with
            | .ok bs s1 => (match engWrite (cmdWho s c) 0 k.2.1 0x8040 bs s1 with | .ok _ _ => true | _ => false)
            | _ => false)
      | none => false)) = true := by decide +kernel

/-- A node at 0x6000 with one child, a leaf of two triangles in the plane z = 0 with word 3 as given. -/
def tNode : List Byte :=
  List.replicate 3 (bytesOf 4 0xBF80_0000) |>.flatten |> (· ++ [0, 0] ++ bytesOf 2 1 ++ [0, 0, 0, 3, 3, 3] ++ (List.replicate 7 [1, 1, 1, 0, 0, 0]).flatten ++
    ([0, 0, 0, 0x3F80_0000, 0, 0, 0, 0x3F80_0000, 0, 0x3F80_0000, 0x3F80_0000, 0, 5, 0, 0, 0] : List Nat).flatMap (bytesOf 4))

/-- EngineEvents: a ray down through (1/4, 1/4) hits the leaf's first triangle at t = 5; a triangle that is hit, and one that lies along the ray. -/
theorem witness_rays :
    (let d : List W64 := [0x6000, 0x2000, 0, BitVec.ofNat 64 (2 ^ 21 + 0x4000)]
     let r : RayLane := ⟨3, [0x3E80_0000, 0x3E80_0000, 0x40A0_0000, 0, 0, 0, 0xBF80_0000, 0x7F80_0000], [1, 2, 3, 4], 0⟩
     let s := tCmds [tCmd 9 (.ray false d [r])] (tSet (indexed 0x6000 tNode) [] (tMem [] []))
     match cmdOf s 9, rayOf r.ray with
     | some c, some ray => c.paused.isNone && !c.lost && atHead s c && !awaitsEarlier s c && c.bar.isNone &&
         (match visitTree (cmdWho (bump s) c) c.panel ray (bit (d.getD 3 0) 39) (2 ^ 57) [((d.getD 0 0).toNat, true)] [] [] (bump s) with
           | .ok hits _ => hits.map (fun k => (decide (k.t = 5), k.w)) == [(true, 10)]
           | _ => false)
     | _, _ => false) = true ∧
    (let r : Ray := { o := ⟨1 / 4, 1 / 4, 5⟩, d := ⟨0, 0, -1⟩, lo := 0, hi := none }
     (triHit r false ⟨0, 0, 0⟩ ⟨1, 0, 0⟩ ⟨0, 1, 0⟩ 7).isSome = true ∧ dot3 r.d (cross3 (vsub3 ⟨0, 0, 1⟩ ⟨0, 0, 0⟩) (vsub3 ⟨0, 1, 0⟩ ⟨0, 0, 0⟩)) = 0) := by
  decide +kernel

/-- EngineEvents, the arrays: a float MMA, MMAX and MMAZ of 2 by 2 FP16 ones; a scan of one vector of two FP32 ones in the scratchpad; a row of each
tile of a sliced product; rows of a rounding at the ends of the frame. -/
theorem witness_arrays :
    ([MatKind.mma, .mmax, .mmaz].all (fun k =>
      let tc : W64 := BitVec.ofNat 64 (6 + 2 * 16 + 2 * 2048)
      let g : Group := { tGroup with t := indexed 0 (List.replicate 128 (0x3C : Byte)) }
      let m : MatOp := { opOf k ⟨0, 0, 0, 0, .none⟩ tState with tctlA := tc, tctlB := tc }
      m.kind == k && m.sel == 0 && tcRows tc == 2 && tcCols tc == 2 && (match ttFmt (tcTT tc) with
        | some f => [0, 1].all (fun i => [0, 1].all (fun j => (match decodeF f (tileElem g 0 (tcTT tc) i j) with | .fin n x => !n && decide (0 < x) | _ => false)))
        | none => false))) = true ∧
    ([MatKind.xscanRow, .xscanCol].all (fun k =>
      let m : MatOp := { opOf k ⟨0, 0, 0, 0, .none⟩ tState with desc := [0x8000_0000_0000_0000, 0x800, BitVec.ofNat 64 (1 + 2 * 2 ^ 12 + 2 ^ 37), 16] }
      let s : State := { tState with scratch := [(scrKey 3 2, 0x80), (scrKey 3 3, 0x3F)] }
      bit (m.desc.getD 0 0) 63 && m.vecs == 0 && m.elems == 0 && m.big.isNone && !m.bad && fld (m.desc.getD 2 0) 0 12 == 1 &&
        fld (m.desc.getD 2 0) 12 25 == 2 && fld (m.desc.getD 1 0) 0 21 == 0x800 && decodeF f32 (natOf (scrRead s 3 0 4)) == .fin false 1)) = true ∧
    (let tc : W64 := BitVec.ofNat 64 (8 + 32 * 16 + 2 * 2048)
     let m : MatOp := { opOf .slmm ⟨0, 2, 0, 1, .none⟩ tState with tctlA := tc, tctlB := tc, k := 3, d := 62, a := 0, b := 1 }
     m.kind == .slmm && decide (m.d < 63) && tcRows tc == 32 && ((sliceRows tGroup tState m.a tc (tcCols tc) (fld m.scale 0 21) m.k)[31]?).isSome &&
       ((sliceRows tGroup tState m.b tc (tcCols tc) (fld m.scale 32 21) m.k)[0]?).isSome) = true ∧
    ([(MatKind.wrndF64, 8), (.wrndF32, 4)].all (fun c => let m : MatOp := { opOf c.1 ⟨0, 62, 0, 0, .none⟩ tState with d := 62, off := 0x4000 }
      m.kind == c.1 && decide (m.d < 63) && decide (m.off + 1024 * c.2 ≤ 2 ^ 21))) = true := by decide +kernel

/-- A seam command of scope .SYS of a core, rank 0 to 31 of four modules, in a round. -/
def tSysSeam (id core rank round : Nat) (gather started : Bool) : Cmd :=
  { tCmd id (.seam { tSeamOf tSmall rank 32 round gather started with scope := 5, mods := [5, 9, 3, 4] }) with core := core }
/-- Route entries to the other modules over a port that is up. -/
def tRoutes : List (Nat × W64) :=
  [(modidOff, 5), (rtReg 0, BitVec.ofNat 64 (9 + 2 ^ 63)), (rtReg 1, BitVec.ofNat 64 (3 + 2 ^ 63)), (rtReg 2, BitVec.ofNat 64 (4 + 2 ^ 63)),
   (pmaskReg 0, 1), (pmaskReg 1, 1), (pmaskReg 2, 1), (pstatReg 0, 2)]

/-- EngineEvents, SEAM: eight dies of this module at .SYS; a round with another module's die, and the gather of rank 0; a composite that is done,
its descriptor homed here. -/
theorem witness_sys_seams :
    (let s := tCmds ((List.range 8).map (fun d => tSysSeam (10 + d) (48 * d) d 0 false false)) (tSet [] tRoutes (tMem [] []))
     (match seamsOn 0x8000_0000 s with
       | (_, x) :: _ => x.scope == 5 && routesListed x.mods s &&
           (match gatherDies ((seamsOn 0x8000_0000 s).filter (fun e => e.2.scope == x.scope && e.2.parts == x.parts)) (List.range 8) with
             | some ps => ps.length == 8 && ps.all (fun e => sameShape x.tgt e.2.tgt)
             | none => false)
       | [] => false)) = true ∧
    (let c := tSysSeam 1 0 0 3 false true
     let s := tCmds [c] (tSet [] tRoutes (tMem [] []))
     (match seamOf c, targetOf (tSeamOf tSmall 0 32 3 false true).tgt with
       | some x, some t => atHead s c && !awaitsEarlier s c && decide (x.round < seamRounds x) && foreign x (x.rank ^^^ 2 ^ x.round) && reaches s x (x.rank ^^^ 2 ^ x.round) &&
           (match receivePixels c t false (!x.rank.testBit x.round) ((keptPixels t x.parts x.rank x.round).drop c.done) s with | .ok .done _ => true | _ => false)
       | _, _ => false)) = true ∧
    ([tSysSeam 1 0 0 5 true true, tGather 1 0 0x8000].all (fun c => let s := tCmds [c] (tSet [] tRoutes (tMem [] []))
     (match seamOf c, targetOf (tSeamOf tSmall 0 32 5 true true).tgt with
       | some x, some t => atHead s c && !awaitsEarlier s c && decide (seamRounds x ≤ x.round) && x.gather && !x.gathered && x.rank == 0 &&
           (match receivePixels c t true true ((strangeStrips t x).drop c.done) s with | .ok .done _ => true | _ => false)
       | _, _ => false))) = true ∧
    (let s := tCmds [tSeam 1 0 2 1 true, tSeam 2 1 2 1 true] (tMem [] [])
     isHbm 0x8000_0000 && ((seamsOn 0x8000_0000 s).filter (fun e => e.2.started)).length == 2) = true := by decide +kernel

/-- HomeAndHostEvents: requests of the I/O port for a context, of a group as it issues and of its arrays, at the ends of their counts, with room
to report; an asker with a request on its way and those without; an entry with A to write over a leaf that is not poisoned. -/
theorem witness_io_requests :
    (([(2 ^ 32, .ioPort 0), (2 ^ 32 + 60, .ioPort 15), (2 ^ 32 + 1, .issuer 0), (2 ^ 32 + 2, .arrays 0)] : List (Nat × Asker)).all (fun a =>
      [0, 15, 16].all (fun n => let s : State := { tMem [] [] with reqLost := [(a.2, n)] }
      askerOf a.1 == some a.2 && (s.g :: s.others).all (fun g => g.inflight.all (fun e => e.id != a.1)) && (cmdOf s a.1).isNone &&
      (focus (fun g => g.id == 0) s).isSome && !halted s 0 && !halted s 15 && !bufferFull s (coreDie s.g.core) && !bufferFull s 8))) = true ∧
    (asking (tMem [] []) (.issuer 0) = true ∧ asking (tMem [] []) (.ioPort 0) = true ∧ asking (tMem [] []) (.ioPort 5) = false ∧ asking (tMem [] []) (.arrays 0) = false) ∧
    (tMem [] []).reqLost = [] ∧
    (let e : TlbEntry := ⟨0, 0, 0, 30, 0x3F, 0x2010_0000, true, false, false, false⟩
     let s : State := { tMem [] [] with tlb := [e] }
     fld (rw8 s e.at_) 24 40 = fld e.pte 24 40 ∧ poisonAt s e.at_ = false ∧ poisonAt s (e.at_ + 4) = false) := by decide +kernel

/-- Compares: elements without modifiers of each type, .EQ and .GEU, with both halves of a 16x2 type; the functions that the clause names exist. -/
theorem witness_vcmp :
    ([0, 1, 2, 3].all (fun et => let s := tWith (BitVec.ofNat 64 (et * 64 + 1)) [] [(4, every 0xFFFF_0001), (6, every 0x8000_0001)]
      etOf s == et && [0, 9].all (fun p => ready (.vcmp ⟨0, 2, 4, 6, parS p 0⟩) s) && modsA ⟨0, 2, 4, 6, parS 9 0⟩ == ⟨false, false⟩ &&
      modsB ⟨0, 2, 4, 6, parS 9 0⟩ == ⟨false, false⟩ &&
      regElems s et 4 0 == (if et ≤ 1 then [0xFFFF_0001] else [1, 0xFFFF]))) = true ∧
    (∃ (S : Nat → Int) (P : Nat → Nat → Bool), (∀ x, S x = if x < 2 ^ 31 then (x : Int) else (x : Int) - 2 ^ 32) ∧
      ∀ x y, P x y = decide (S x ≤ S y)) := ⟨by decide +kernel, ⟨_, _, fun _ => rfl, fun _ _ => rfl⟩⟩

/-- FloatRounded and FloatExact, R120 and R121: halves of a format; magnitudes at code 0, among the subnormal ones, halfway, at the largest
finite code, and above it, with the code that is selected at most that one and past it. -/
theorem witness_rounding :
    ([0x3F00_0000, 0x3FC0_0000, 0xC020_0000].all (fun x => (match decodeF f32 x with
      | .fin _ a => decide (0 < a) && [0, 1, 2, 3].any (fun k : Nat => decide ((k : Rat) - a = 1 / 2 ∨ a - (k : Rat) = 1 / 2))
      | _ => false))) = true ∧
    ([f64, f32, f16, bf16, e5m2, e4m3, e2m1].all (fun f => [0, 1, maxCode f - 1, maxCode f].all (fun k =>
      let lo := gridValue f k
      let hi := gridValue f (k + 1)
      [(lo + hi) / 2, (3 * lo + hi) / 4].all (fun x => decide (0 < x ∧ lo ≤ x ∧ x < hi) && decide (selects .tz false k lo x hi ≤ maxCode f) &&
        decide (maxCode f < selects .up false k lo x hi) == decide (k = maxCode f))))) = true := by decide +kernel

/-- FloatConvert: of each source format a finite value, and NaNs and infinities where it has them; integers at the ends of their ranges; finite
values between two integers, in each sign and beyond both ranges. -/
theorem witness_conversions :
    (([f64, f32, f16, bf16, e4m3, e5m2, e2m1] : List Fmt).all (fun f => (match decodeF f (signBits f true + 1) with | .fin m _ => m | _ => false)) &&
      ([f64, f32, f16, bf16, e5m2] : List Fmt).all (fun f => decodeF f (infBits f true) == .inf true && decodeF f (infBits f false) == .inf false &&
        (decodeF f (infBits f true + 1)).isNaN) && (decodeF e4m3 0x7F).isNaN) = true ∧
    ((2 ^ 32 - 1 : Nat) < 2 ^ 32 ∧ (2 : Nat) ^ 31 ≤ 2 ^ 32 - 1) ∧
    (([(0x3FC0_0000, 1), (0xBFC0_0000, 1), (0x4F80_0000, 2 ^ 32), (0xCF80_0000, 2 ^ 32), (0, 0)] : List (Nat × Nat)).all (fun e => (match decodeF f32 e.1 with
      | .fin _ a => decide ((e.2 : Rat) ≤ a ∧ a < (e.2 : Rat) + 1)
      | _ => false))) = true ∧
    (∃ (fmt : Nat → Fmt) (count : Nat → Nat), (∀ c, fmt c = (if c = 2 then f64 else if c = 3 then f32 else if c = 4 then f16
      else if c = 5 then bf16 else if c = 6 then e4m3 else if c = 7 then e5m2 else e2m1)) ∧
      ∀ c, count c = (if c = 4 ∨ c = 5 then 2 else if c = 6 ∨ c = 7 then 4 else if c = 8 then 8 else 1)) :=
  ⟨by decide +kernel, by decide +kernel, by decide +kernel, ⟨_, _, fun _ => rfl, fun _ => rfl⟩⟩

/-- AtomicsComplete, Table 11-3: at both sizes the extreme values, two NaNs, one, zeros of both signs, numbers and infinities. -/
theorem witness_atomics :
    (([(4, f32), (8, f64)] : List (Nat × Fmt)).all (fun c => decide (2 ^ (8 * c.1) - 1 < 2 ^ (8 * c.1)) &&
      (decodeF c.2 (infBits c.2 true + 1)).isNaN && !(decodeF c.2 (infBits c.2 true)).isNaN && decodeF c.2 (infBits c.2 true) == .inf true &&
      decodeF c.2 (infBits c.2 false) == .inf false && decodeF c.2 (signBits c.2 true) == .fin true 0 && decodeF c.2 0 == .fin false 0 &&
      (match decodeF c.2 (signBits c.2 true + 1), decodeF c.2 1 with
        | .fin true a, .fin false b => decide (0 < a ∧ 0 < b ∧ -a < b)
        | _, _ => false))) = true ∧
    (∃ S : Nat → Int, ∀ y, S y = if y < 2 ^ 31 then (y : Int) else (y : Int) - 2 ^ 32) := ⟨by decide +kernel, ⟨_, fun _ => rfl⟩⟩

/-- RegisterFrame: a vector sum whose result is still in flight, a floating-point sum that raises a flag, a scalar product. -/
theorem witness_frames_in_flight :
    (([(0x101, .fadd ⟨0, 2, 4, 6, .none⟩), (1, .smul ⟨0, 2, 4, 6, .none⟩), (1, .vmul ⟨0, 2, 4, 6, .none⟩)] : List (Nat × Instr)).all (fun c =>
      let s := tWith (BitVec.ofNat 64 c.1) tGroup.s []
      ready c.2 s && isWord c.2 && s.g.pend.isEmpty && decide (0x10 ≤ opcode c.2 ∧ opcode c.2 ≤ 0x50) && after c.2 s (fun t => !t.g.pend.isEmpty))) =
      true := by decide +kernel

end Sys2Proof.Tests
end

section
/-! PROOF. What a kill leaves (R244, R39): one rule for each operation that a kill is made of, for any list of panels, and the obligation. -/

namespace Sys2Proof.Proofs

open Sys2Proof.Machine Sys2Proof.Safety Sys2Proof.Laws

/-! Sparse maps and groups. -/

/-- A read after entries have been dropped. -/
theorem cget_ckeep {α : Type} (d : Nat → α) (p : Nat → Bool) (m : Cells α) (k : Nat) :
    cget d (ckeep p m) k = if p k then cget d m k else d k := by
  induction m with
  | nil => simp [ckeep, cget]
  | cons e r ih =>
    obtain ⟨a, x⟩ := e
    by_cases ha : a = k
    · subst ha
      by_cases hp : p a = true <;> simp [ckeep, cget, hp, ih]
    · by_cases hp : p a = true <;> simp [ckeep, cget, hp, ih, ha]

theorem mem_allGroups {g : Group} {s : State} : g ∈ allGroups s ↔ g = s.g ∨ g ∈ s.others := by simp [allGroups]

theorem empty_live : Group.empty.live = false := rfl

/-- The live groups that a removal leaves. -/
theorem live_mem_removeGroups {p : Group → Bool} {s : State} {g : Group} (h : g.live = true) :
    g ∈ allGroups (removeGroups p s) ↔ g ∈ allGroups s ∧ p g = false := by
  have hg : g = (removeGroups p s).g ↔ g = s.g ∧ p g = false := by
    simp only [removeGroups]
    split
    · rename_i hp
      simp only [Bool.and_eq_true] at hp
      constructor
      · rintro rfl; simp [empty_live] at h
      · rintro ⟨rfl, hn⟩; simp [hn] at hp
    · rename_i hp
      constructor
      · rintro rfl; exact ⟨rfl, by simpa [h] using hp⟩
      · exact And.left
  have ho : g ∈ (removeGroups p s).others ↔ g ∈ s.others ∧ p g = false := by simp [removeGroups, h]
  rw [mem_allGroups, mem_allGroups, hg, ho, ← or_and_right]

theorem removeGroups_g_of_not {p : Group → Bool} {s : State} (h : p s.g = false) : (removeGroups p s).g = s.g := by
  simp [removeGroups, h]

theorem removeGroups_others (p : Group → Bool) (s : State) :
    (removeGroups p s).others = s.others.filter (fun g => g.live && !p g) := rfl

/-! The window. -/

theorem rdWin_wrWin (s : State) (o x : Nat) (v : W64) : rdWin (wrWin s o v) x = if o = x then v else rdWin s x :=
  cget_cset winReset s.win x o v

theorem bit_setFld_zero (q : W64) : bit (setFld q 0 1 0) 0 = false := by
  rw [bit, setFld, BitVec.getLsbD_ofNat, Nat.testBit_zero]
  simp [Nat.mod_one]

theorem queueReg_inj {n m r : Nat} : queueReg n r = queueReg m r ↔ n = m := by
  unfold queueReg; omega

/-- Disable one queue where the context owns it. -/
def disableQueue (c : Nat) (s : State) (n : Nat) : State :=
  if fld (rdWin s (queueReg n 0x10)) 2 4 = c then wrWin s (queueReg n 0x10) (setFld (rdWin s (queueReg n 0x10)) 0 1 0) else s

theorem disableQueues_eq (s : State) (c : Nat) : disableQueues s c = (List.range 16).foldl (disableQueue c) s := rfl

/-- Disabling queues writes the window only. -/
theorem disableQueues_frame (s : State) (c : Nat) : ∃ w, disableQueues s c = { s with win := w } := by
  rw [disableQueues_eq]
  generalize List.range 16 = l
  induction l generalizing s with
  | nil => exact ⟨s.win, rfl⟩
  | cons n r ih =>
    obtain ⟨w, h⟩ := ih (disableQueue c s n)
    refine ⟨w, h.trans ?_⟩
    unfold disableQueue
    split <;> rfl

theorem rdWin_disableQueue (c n x : Nat) (s : State) : rdWin (disableQueue c s n) x =
    if x = queueReg n 0x10 ∧ fld (rdWin s x) 2 4 = c then setFld (rdWin s x) 0 1 0 else rdWin s x := by
  unfold disableQueue
  by_cases hx : x = queueReg n 0x10
  · subst hx
    split <;> simp [rdWin_wrWin, *]
  · split <;> simp [rdWin_wrWin, hx, Ne.symm hx]

/-- A register that is not among the queues' that are looked at stays as it is. -/
theorem rdWin_foldl_disableQueue_other (c x : Nat) (l : List Nat) (s : State) (h : ∀ n ∈ l, x ≠ queueReg n 0x10) :
    rdWin (l.foldl (disableQueue c) s) x = rdWin s x := by
  induction l generalizing s with
  | nil => rfl
  | cons n r ih =>
    rw [List.foldl_cons, ih _ (fun m hm => h m (List.mem_cons_of_mem _ hm)), rdWin_disableQueue]
    simp [h n List.mem_cons_self]

/-- Each queue that the context owns is disabled, another one stays as it is. -/
theorem rdWin_foldl_disableQueue (c n : Nat) (l : List Nat) (hl : l.Nodup) (hn : n ∈ l) (s : State) :
    rdWin (l.foldl (disableQueue c) s) (queueReg n 0x10) =
      if fld (rdWin s (queueReg n 0x10)) 2 4 = c then setFld (rdWin s (queueReg n 0x10)) 0 1 0 else rdWin s (queueReg n 0x10) := by
  induction l generalizing s with
  | nil => cases hn
  | cons m r ih =>
    obtain ⟨hm, hr⟩ := List.nodup_cons.mp hl
    rw [List.foldl_cons]
    by_cases h : n = m
    · subst h
      rw [rdWin_foldl_disableQueue_other, rdWin_disableQueue]
      · simp
      · rintro k hk he
        exact hm (queueReg_inj.mp he ▸ hk)
    · rw [ih hr (List.mem_of_ne_of_mem h hn), rdWin_disableQueue]
      simp [queueReg_inj, h]

theorem rdWin_disableQueues (c n : Nat) (hn : n < 16) (s : State) : rdWin (disableQueues s c) (queueReg n 0x10) =
    if fld (rdWin s (queueReg n 0x10)) 2 4 = c then setFld (rdWin s (queueReg n 0x10)) 0 1 0 else rdWin s (queueReg n 0x10) :=
  rdWin_foldl_disableQueue c n _ List.nodup_range (List.mem_range.mpr hn) s

theorem rdWin_disableQueues_other (c x : Nat) (s : State) (h : ∀ n, n < 16 → x ≠ queueReg n 0x10) :
    rdWin (disableQueues s c) x = rdWin s x :=
  rdWin_foldl_disableQueue_other c x _ s (fun n hn => h n (List.mem_range.mp hn))

/-! Killing panels. -/

/-- The panels of a list are killed in turn. -/
def killPanels (ids : List Nat) (s : State) : State := ids.foldl (fun a i => killPanel i a) s

@[simp] theorem killPanels_cons (i : Nat) (r : List Nat) (s : State) : killPanels (i :: r) s = killPanels r (killPanel i s) := rfl

/-- A field that killing one panel keeps is kept by killing many. -/
theorem killPanels_keeps {α : Type} (f : State → α) (h : ∀ i s, f (killPanel i s) = f s) (ids : List Nat) (s : State) :
    f (killPanels ids s) = f s := by
  induction ids generalizing s with
  | nil => rfl
  | cons i r ih => rw [killPanels_cons, ih, h]

/-- A list that killing one panel filters is filtered by killing many. -/
theorem killPanels_filters {α : Type} (f : State → List α) (key : α → Nat) (h : ∀ i s, f (killPanel i s) = (f s).filter (fun x => key x != i))
    (ids : List Nat) (s : State) : f (killPanels ids s) = (f s).filter (fun x => !ids.contains (key x)) := by
  induction ids generalizing s with
  | nil => simp [killPanels]
  | cons i r ih =>
    rw [killPanels_cons, ih, h, List.filter_filter]
    congr 1
    funext x
    by_cases hx : key x = i <;> simp [hx]

theorem killPanels_panels (ids : List Nat) (s : State) :
    (killPanels ids s).panels = s.panels.filter (fun p => !ids.contains p.id) :=
  killPanels_filters (·.panels) (·.id) (fun _ _ => rfl) ids s

theorem killPanels_cmds (ids : List Nat) (s : State) :
    (killPanels ids s).cmds = s.cmds.filter (fun c => !ids.contains c.panel) :=
  killPanels_filters (·.cmds) (·.panel) (fun _ _ => rfl) ids s

theorem killPanel_allGroups {i : Nat} {s : State} {g : Group} (h : g.live = true) :
    g ∈ allGroups (killPanel i s) ↔ g ∈ allGroups s ∧ g.panel ≠ i := by
  refine Iff.trans (live_mem_removeGroups (p := fun g => g.panel == i) h) ?_
  simp

theorem killPanels_allGroups {ids : List Nat} {s : State} {g : Group} (h : g.live = true) :
    g ∈ allGroups (killPanels ids s) ↔ g ∈ allGroups s ∧ g.panel ∉ ids := by
  induction ids generalizing s with
  | nil => simp [killPanels]
  | cons i r ih => rw [killPanels_cons, ih, killPanel_allGroups h, List.mem_cons, not_or, and_assoc]

theorem killPanels_g {ids : List Nat} {s : State} (h : s.g.panel ∉ ids) : (killPanels ids s).g = s.g := by
  induction ids generalizing s with
  | nil => rfl
  | cons i r ih =>
    have hi : s.g.panel ≠ i := fun e => h (e ▸ List.mem_cons_self)
    have hg : (killPanel i s).g = s.g := removeGroups_g_of_not (p := fun g => g.panel == i) (by simpa using hi)
    rw [killPanels_cons, ih (by rw [hg]; exact fun e => h (List.mem_cons_of_mem _ e)), hg]

theorem mem_killPanels_others {ids : List Nat} {s : State} {g : Group} (hg : g ∈ s.others) (hl : g.live = true) (h : g.panel ∉ ids) :
    g ∈ (killPanels ids s).others := by
  induction ids generalizing s with
  | nil => exact hg
  | cons i r ih =>
    have hi : g.panel ≠ i := fun e => h (e ▸ List.mem_cons_self)
    refine ih ?_ (fun e => h (List.mem_cons_of_mem _ e))
    have : g ∈ (removeGroups (fun g => g.panel == i) s).others := by simp [removeGroups_others, hg, hl, hi]
    exact this

/-- The storage of a killed panel reads as nothing written. -/
theorem killPanels_store {w : Nat} (f : State → Cells (BitVec w)) (key : Nat → Nat)
    (h : ∀ i s, f (killPanel i s) = ckeep (fun k => decide (key k ≠ i)) (f s)) (ids : List Nat) (s : State) (k : Nat) :
    cget zero (f (killPanels ids s)) k = if ids.contains (key k) then 0 else cget zero (f s) k := by
  induction ids generalizing s with
  | nil => simp [killPanels]
  | cons i r ih =>
    rw [killPanels_cons, ih, h, cget_ckeep]
    by_cases hi : key k = i <;> simp [hi, zero]

theorem killPanels_scratch (ids : List Nat) (s : State) (k : Nat) :
    cget zero (killPanels ids s).scratch k = if ids.contains (k / 2 ^ 21) then 0 else cget zero s.scratch k :=
  killPanels_store (·.scratch) (· / 2 ^ 21) (fun _ _ => rfl) ids s k

theorem killPanels_frames (ids : List Nat) (s : State) (k : Nat) :
    cget zero (killPanels ids s).frames k = if ids.contains (k / 2 ^ 18) then 0 else cget zero s.frames k :=
  killPanels_store (·.frames) (· / 2 ^ 18) (fun _ _ => rfl) ids s k

/-! Bins. -/

/-- From `s` to `t` commands and groups only go, and each command that stays finds its panel's context as before. -/
def Shrinks (s t : State) : Prop :=
  (∀ c ∈ t.cmds, c ∈ s.cmds ∧ panelCtx t c.panel = panelCtx s c.panel) ∧ ∀ g ∈ allGroups t, g.live = true → g ∈ allGroups s

theorem shrinks_trans {a b c : State} (h : Shrinks a b) (k : Shrinks b c) : Shrinks a c :=
  ⟨fun x hx => ⟨(h.1 x (k.1 x hx).1).1, (k.1 x hx).2.trans (h.1 x (k.1 x hx).1).2⟩, fun g hg hl => h.2 g (k.2 g hg hl) hl⟩

/-- A bin that something holds later was held before. -/
theorem binHeld_of_shrinks {s t : State} (h : Shrinks s t) {b : Bin} (hb : binHeld t b = true) : binHeld s b = true := by
  obtain ⟨hc, hg⟩ := h
  simp only [binHeld, Bool.or_eq_true] at hb ⊢
  rcases hb with (hr | hc') | hg'
  · exact .inl (.inl hr)
  · refine .inl (.inr ?_)
    simp only [rayHolds, List.any_eq_true] at hc' ⊢
    obtain ⟨c, hm, hk⟩ := hc'
    obtain ⟨hm', hp⟩ := hc c hm
    exact ⟨c, hm', by rw [← hp]; exact hk⟩
  · refine .inr ?_
    simp only [List.any_eq_true, Bool.and_eq_true] at hg' ⊢
    obtain ⟨g, hm, hl, hr⟩ := hg'
    exact ⟨g, hg g hm hl, hl, hr⟩

theorem panelOf_filter_ne {l : List Panel} {i j : Nat} (h : j ≠ i) :
    (l.filter (fun p => p.id != i)).find? (fun p => p.id == j) = l.find? (fun p => p.id == j) := by
  rw [List.find?_filter]
  congr 1
  funext p
  by_cases hp : p.id = j <;> simp [hp, h]

theorem shrinks_killPanel (i : Nat) (s : State) : Shrinks s (killPanel i s) := by
  refine ⟨fun c hc => ?_, fun g hg hl => ((killPanel_allGroups hl).mp hg).1⟩
  have hm : c ∈ s.cmds.filter (fun c => c.panel != i) := hc
  simp only [List.mem_filter, bne_iff_ne] at hm
  refine ⟨hm.1, ?_⟩
  have : panelOf (killPanel i s) c.panel = panelOf s c.panel := panelOf_filter_ne hm.2
  simp [panelCtx, this]

theorem shrinks_killPanels (ids : List Nat) (s : State) : Shrinks s (killPanels ids s) := by
  induction ids generalizing s with
  | nil => exact ⟨fun c hc => ⟨hc, rfl⟩, fun g hg _ => hg⟩
  | cons i r ih => exact shrinks_trans (shrinks_killPanel i s) (ih (killPanel i s))

theorem mem_killPanel_bins {i : Nat} {s : State} {b : Bin} : b ∈ (killPanel i s).bins ↔ b ∈ s.bins ∧ binHeld (killPanel i s) b = true :=
  List.mem_filter

theorem killPanels_bins_sub {ids : List Nat} {s : State} {b : Bin} (h : b ∈ (killPanels ids s).bins) : b ∈ s.bins := by
  induction ids generalizing s with
  | nil => exact h
  | cons i r ih => exact (mem_killPanel_bins.mp (ih h)).1

/-- A bin that something still holds in the end is not freed on the way. -/
theorem mem_killPanels_bins {ids : List Nat} {s : State} {b : Bin} (hb : b ∈ s.bins) (hh : binHeld (killPanels ids s) b = true) :
    b ∈ (killPanels ids s).bins := by
  induction ids generalizing s with
  | nil => exact hb
  | cons i r ih =>
    exact ih (mem_killPanel_bins.mpr ⟨hb, binHeld_of_shrinks (shrinks_killPanels r (killPanel i s)) hh⟩) hh

/-! Killing a context. -/

/-- The panels of a context. -/
def ctxPanels (c : Nat) (s : State) : List Nat := (s.panels.filter (fun p => p.ctx == c)).map (·.id)

theorem mem_ctxPanels {c id : Nat} {s : State} : (ctxPanels c s).contains id = s.panels.any (fun p => p.ctx == c && p.id == id) := by
  rw [Bool.eq_iff_iff]
  simp [ctxPanels, and_assoc]

/-- The state of a kill before its queues are disabled. -/
def killWork (c : Nat) (s : State) : State :=
  let s2 := removeGroups (fun g => g.ctx == c) (killPanels (ctxPanels c s) s)
  { s2 with
    bins := s2.bins.filter (fun b => b.ctx != c)
    formed := s2.formed.filter (fun f => f.ctx != c)
    passes := s2.passes.filter (fun p => p.ctx != c)
    bolts := s2.bolts.filter (fun b => !(b.ctx == c && b.failed)) }

theorem killCtx_eq (c : Nat) (s : State) : killCtx c s = disableQueues (killWork c s) c := rfl

theorem killWork_panels (c : Nat) (s : State) : (killWork c s).panels = s.panels.filter (fun p => !(ctxPanels c s).contains p.id) :=
  killPanels_panels (ctxPanels c s) s

theorem killWork_cmds (c : Nat) (s : State) : (killWork c s).cmds = s.cmds.filter (fun x => !(ctxPanels c s).contains x.panel) :=
  killPanels_cmds (ctxPanels c s) s

theorem killWork_formed (c : Nat) (s : State) : (killWork c s).formed = s.formed.filter (fun f => f.ctx != c) :=
  congrArg _ (killPanels_keeps (·.formed) (fun _ _ => rfl) (ctxPanels c s) s)

theorem killWork_passes (c : Nat) (s : State) : (killWork c s).passes = s.passes.filter (fun p => p.ctx != c) :=
  congrArg _ (killPanels_keeps (·.passes) (fun _ _ => rfl) (ctxPanels c s) s)

theorem killWork_allGroups {c : Nat} {s : State} {g : Group} (h : g.live = true) :
    g ∈ allGroups (killWork c s) ↔ g ∈ allGroups s ∧ g.panel ∉ ctxPanels c s ∧ g.ctx ≠ c := by
  refine Iff.trans (live_mem_removeGroups (p := fun g => g.ctx == c) h) ?_
  rw [killPanels_allGroups h, and_assoc]
  simp

theorem mem_killWork_others {c : Nat} {s : State} {g : Group} (hg : g ∈ s.others) (hl : g.live = true) (hc : g.ctx ≠ c)
    (h : g.panel ∉ ctxPanels c s) : g ∈ (killWork c s).others := by
  have := mem_killPanels_others hg hl h
  simp [killWork, removeGroups_others, this, hl, hc]

theorem killWork_g {c : Nat} {s : State} (hc : s.g.ctx ≠ c) (h : s.g.panel ∉ ctxPanels c s) : (killWork c s).g = s.g := by
  have hk := killPanels_g h
  refine (removeGroups_g_of_not (p := fun g => g.ctx == c) ?_).trans hk
  simpa [hk] using hc

theorem mem_killWork_bins {c : Nat} {s : State} {b : Bin} : b ∈ (killWork c s).bins ↔ b ∈ (killPanels (ctxPanels c s) s).bins ∧ b.ctx ≠ c := by
  refine List.mem_filter.trans ?_
  rw [bne_iff_ne]
  exact Iff.rfl

theorem shrinks_killWork (c : Nat) (s : State) : Shrinks (killPanels (ctxPanels c s) s) (killWork c s) :=
  ⟨fun _ hx => ⟨hx, rfl⟩, fun _ hg hl => ((live_mem_removeGroups (p := fun g => g.ctx == c) hl).mp hg).1⟩

/-- Settles O11: what a kill removes is what killing the context's panels removes, with the bins, groups, formed groups and passes of the
context. -/
theorem killEndsContext : Obligations.KillEndsContext := by
  intro c s t lost ht hlost
  obtain ⟨w, hw⟩ := disableQueues_frame (killWork c s) c
  have hl : ∀ id, lost id = (ctxPanels c s).contains id := fun id => (hlost id).trans mem_ctxPanels.symm
  have hm : ∀ {id}, lost id = false → id ∉ ctxPanels c s := fun h => by simpa [hl] using h
  have he : t = { killWork c s with win := w } := ht.trans ((killCtx_eq c s).trans hw)
  have keeps : ∀ {α : Type} (f : State → α), (∀ i a, f (killPanel i a) = f a) → f (killPanels (ctxPanels c s) s) = f s :=
    fun f h => killPanels_keeps f h _ s
  have hwin : ∀ x, rdWin (killWork c s) x = rdWin s x := fun x => congrArg (fun m => cget winReset m x) (keeps (·.win) fun _ _ => rfl)
  have hrd : ∀ x, rdWin t x = rdWin (disableQueues (killWork c s) c) x := fun x => by rw [ht, killCtx_eq]
  have hp : t.panels = s.panels.filter (fun p => !lost p.id) := by simp only [he, killWork_panels, hl]
  refine ⟨fun g hg hlv => ?_, hp, fun p h => ?_, fun b hb => ?_, ?_, ?_, ?_, ?_, ?_, ?_, ?_, ?_, fun _ hc hn => ?_, fun g hg hlv hc hn => ?_,
    fun b hb hc hh => ?_, fun id k hk => ?_, fun id d i hd hi => ?_, fun n hn hq => ?_, fun n hn hq => ?_, fun x hx => ?_⟩
  · obtain ⟨h, hpan, hctx⟩ := (killWork_allGroups hlv).mp (show g ∈ allGroups (killWork c s) by rw [he] at hg; exact hg)
    exact ⟨hctx, by simpa [hl] using hpan, h⟩
  · rw [hp, List.mem_filter] at h
    rintro rfl
    simp only [hlost, Bool.not_eq_true', List.any_eq_false] at h
    exact h.2 p h.1 (by simp)
  · obtain ⟨h, hctx⟩ := mem_killWork_bins.mp (show b ∈ (killWork c s).bins by rw [he] at hb; exact hb)
    exact ⟨hctx, killPanels_bins_sub h⟩
  · simp only [he, killWork_cmds, hl]
  · rw [he]; exact killWork_formed c s
  · rw [he]; exact killWork_passes c s
  · rw [he]; exact keeps (·.mem) fun _ _ => rfl
  · rw [he]; exact keeps (·.wr) fun _ _ => rfl
  · rw [he]; exact keeps (·.l1) fun _ _ => rfl
  · rw [he]; exact keeps (·.tlb) fun _ _ => rfl
  · rw [he]; exact keeps (·.outbound) fun _ _ => rfl
  · rw [he]; exact killWork_g hc (hm hn)
  · rw [he]; exact mem_killWork_others hg hlv hc (hm hn)
  · rw [he] at hh ⊢
    exact mem_killWork_bins.mpr ⟨mem_killPanels_bins hb (binHeld_of_shrinks (shrinks_killWork c s) hh), hc⟩
  · rw [he, hl]
    refine (killPanels_scratch (ctxPanels c s) s (scrKey id k)).trans ?_
    rw [show scrKey id k / 2 ^ 21 = id by unfold scrKey; omega]
  · rw [he, hl]
    refine (killPanels_frames (ctxPanels c s) s (frameKey id d i)).trans ?_
    rw [show frameKey id d i / 2 ^ 18 = id by unfold frameKey; omega]
    rfl
  · rw [hrd, rdWin_disableQueues c n hn, hwin, if_pos hq, bit_setFld_zero]
  · rw [hrd, rdWin_disableQueues c n hn, hwin, if_neg hq]
  · rw [hrd, rdWin_disableQueues_other c x _ hx, hwin]

end Sys2Proof.Proofs
end

section
/-! PROOF. What a step is when an event is due or a group's turn comes, and that every instruction and event goes on. -/

namespace Sys2Proof.Proofs

open Sys2Proof.Machine Sys2Proof.Safety Sys2Proof.Laws

/-- Every instruction and every event answers a next state. -/
theorem exec_goes_on (i : Instr) (s : State) : ∃ t, exec i s = .next t := by
  rcases exec_commits i s with ⟨x, h⟩ | h
  · exact ⟨_, h⟩
  · exact ⟨_, h⟩

/-- With nothing due, the event that comes next is the whole step. -/
theorem step_event {s : State} {i : Instr} {r : List Instr} (hd : dueNow s = none) (hi : s.inputs = i :: r) (hw : isWord i = false) :
    step s = exec i { s with inputs := r } := by
  simp [step, nextStep, hd, hi, hw]

/-- With nothing due and no event, the step is the turn of the group that is picked. -/
theorem step_turn {s s1 : State} (hd : dueNow s = none) (hi : s.inputs = []) (hb : dueBudget s = none) (he : s.errors = [])
    (hf : faultAtPoint s = none) (ht : nextTurn s = .issue s1) : step s = boundary s1 := by
  simp [step, nextStep, groupStep, hd, hi, hb, he, hf, ht]

/-- A group to which no held fault is delivered issues the instruction that it fetches. -/
theorem boundary_decoded {s s1 : State} {w0 w1 : W32} {i : Instr} {n : Nat} (hh : s.g.held = [] ∨ s.g.priv = true)
    (hf : fetchInstr s = .ok (w0, w1) s1) (hd : decode w0 w1 = .instr i n) : boundary s = exec i s1 := by
  have hn : (!s.g.held.isEmpty && !s.g.priv) = false := by rcases hh with h | h <;> simp [h]
  simp [boundary, hn, issueWord, hf, hd]

/-- Settles O4: the turn of a group runs what it decodes, an event is the whole step, and both go on. -/
theorem stepRunsDecoded : Obligations.StepRunsDecoded :=
  ⟨fun _ _ _ _ _ _ _ hd hi hb he hf ht hh hw hx => (step_turn hd hi hb he hf ht).trans (boundary_decoded hh hw hx),
    fun _ _ _ hd hi hw => step_event hd hi hw, exec_goes_on⟩

end Sys2Proof.Proofs
end

section
/-! PROOF. What the homes and the cluster L1s do leaves groups, panels and everything else of the device as it was: one frame for touching,
writing and writing back lines. -/

namespace Sys2Proof.Proofs

open Sys2Proof.Machine Sys2Proof.Safety Sys2Proof.Laws

/-- The state `s` with what the homes, the L1s, the window and the journal hold in `t`. -/
def homesFrom (s t : State) : State :=
  { s with
    l1 := t.l1, poison := t.poison, lines := t.lines, tags := t.tags, hostLines := t.hostLines, win := t.win, reqLost := t.reqLost
    wr := t.wr, outputs := t.outputs }

/-- From `s` to `t` nothing changes but what the homes, the L1s, the window and the journal hold. -/
def HomesOnly (s t : State) : Prop := t = homesFrom s t

/-- A state with other contents of the homes, the L1s, the window and the journal. -/
theorem homesOnly_with (s : State) (l1 : Cells (Option L1Word)) (poison : Cells Bool) (lines : List HomeLine)
    (tags : Cells (Option OwnerTag)) (hostLines : List Nat) (win : Cells W64) (reqLost : List (Asker × Nat)) (wr : List (Nat × Byte))
    (outputs : List Output) : HomesOnly s { s with
      l1 := l1, poison := poison, lines := lines, tags := tags, hostLines := hostLines, win := win, reqLost := reqLost, wr := wr
      outputs := outputs } := rfl

theorem homesOnly_refl (s : State) : HomesOnly s s := rfl

theorem homesOnly_trans {s t u : State} (h : HomesOnly s t) (k : HomesOnly t u) : HomesOnly s u := by
  calc u = homesFrom t u := k
    _ = homesFrom (homesFrom s t) u := congrArg (fun x => homesFrom x u) h
    _ = homesFrom s u := rfl

theorem homesOnly_foldl {α : Type} {f : State → α → State} (h : ∀ a x, HomesOnly a (f a x)) (l : List α) (s : State) :
    HomesOnly s (l.foldl f s) := by
  induction l generalizing s with
  | nil => exact homesOnly_refl s
  | cons x r ih => exact homesOnly_trans (h s x) (ih (f s x))

theorem homesOnly_ite {s a b : State} {p : Prop} [Decidable p] (ha : HomesOnly s a) (hb : HomesOnly s b) :
    HomesOnly s (if p then a else b) := by
  split <;> assumption

namespace HomesOnly

variable {s t : State} (h : HomesOnly s t)
include h

theorem g_eq : t.g = s.g := (congrArg State.g h).trans rfl
theorem others_eq : t.others = s.others := (congrArg State.others h).trans rfl
theorem panels_eq : t.panels = s.panels := (congrArg State.panels h).trans rfl
theorem scratch_eq : t.scratch = s.scratch := (congrArg State.scratch h).trans rfl

end HomesOnly

/-! The homes. -/

theorem homesOnly_wbs (s : State) (k : Nat) (bs : List Byte) : HomesOnly s (wbs s k bs) := by
  induction bs generalizing s k with
  | nil => exact homesOnly_refl s
  | cons b r ih => exact homesOnly_trans (t := wb s k b) (homesOnly_with _ _ _ _ _ _ _ _ _ _) (ih _ _)

theorem homesOnly_putMarks (s : State) (md off : Nat) (l : List Nat) : HomesOnly s (putMarks s md off l) :=
  homesOnly_ite (homesOnly_refl s) (homesOnly_with _ _ _ _ _ _ _ _ _ _)

theorem homesOnly_evictLine (s : State) (h : HomeLine) : HomesOnly s (evictLine s h) :=
  homesOnly_trans (homesOnly_trans (homesOnly_ite (homesOnly_putMarks s h.md h.off h.marks) (homesOnly_refl s)) (homesOnly_with _ _ _ _ _ _ _ _ _ _)) (homesOnly_with _ _ _ _ _ _ _ _ _ _)

theorem homesOnly_touch (s : State) (k : Nat) (q a : BitVec 2) (w : Bool) : HomesOnly s (touch s k q a w) := by
  unfold touch
  refine homesOnly_ite (homesOnly_refl s) ?_
  extract_lets md off set inset s1 old
  split
  · exact homesOnly_with _ _ _ _ _ _ _ _ _ _
  · refine homesOnly_ite (homesOnly_refl s) (homesOnly_trans ?_ (homesOnly_with _ _ _ _ _ _ _ _ _ _))
    dsimp only [s1]
    split
    · exact homesOnly_evictLine s _
    · exact homesOnly_refl s

theorem homesOnly_backInvalidate (s : State) (k : Nat) : HomesOnly s (backInvalidate s k) :=
  homesOnly_ite (homesOnly_with _ _ _ _ _ _ _ _ _ _) (homesOnly_refl s)

theorem homesOnly_wrWin (s : State) (o : Nat) (v : W64) : HomesOnly s (wrWin s o v) := homesOnly_with _ _ _ _ _ _ _ _ _ _

theorem homesOnly_tagWrite (s : State) (k : Nat) (c : Option Nat) : HomesOnly s (tagWrite s k c) := by
  unfold tagWrite
  refine homesOnly_ite (homesOnly_refl s) ?_
  extract_lets
  split
  · exact homesOnly_with _ _ _ _ _ _ _ _ _ _
  · extract_lets s1
    refine homesOnly_trans ?_ (homesOnly_with _ _ _ _ _ _ _ _ _ _)
    dsimp only [s1]
    split
    · exact homesOnly_ite (homesOnly_wrWin s _ _) (homesOnly_refl s)
    · exact homesOnly_refl s

theorem homesOnly_cleanWord (s : State) (w : Nat) : HomesOnly s { s with poison := cset (fun _ => false) s.poison (w / 4) false } := homesOnly_with _ _ _ _ _ _ _ _ _ _

theorem homesOnly_homeWrite (s : State) (k : Nat) (bs : List Byte) (q a : BitVec 2) (c : Option Nat) :
    HomesOnly s (homeWrite s k bs q a c) := by
  unfold homeWrite
  extract_lets s1 ws s2 s3
  have h1 : HomesOnly s s1 := homesOnly_trans (homesOnly_touch s k q a true) (homesOnly_backInvalidate _ k)
  have h2 : HomesOnly s1 s2 := homesOnly_foldl (fun a w => homesOnly_tagWrite a w c) ws s1
  have h3 : HomesOnly s2 s3 := by
    dsimp only [s3]
    split
    · exact homesOnly_foldl homesOnly_cleanWord ws s2
    · exact homesOnly_refl s2
  exact homesOnly_trans (homesOnly_trans (homesOnly_trans h1 h2) h3) (homesOnly_wbs s3 k bs)

/-! The cluster L1s. -/

theorem homesOnly_writeBackWord (s : State) (c l i : Nat) : HomesOnly s (writeBackWord s c l i) := by
  unfold writeBackWord
  split
  · refine homesOnly_ite ?_ (homesOnly_refl s)
    extract_lets k s1
    have h1 : HomesOnly s s1 := homesOnly_homeWrite s _ _ _ _ _
    clear_value s1
    exact homesOnly_trans h1 (homesOnly_with _ _ _ _ _ _ _ _ _ _)
  · exact homesOnly_refl s

theorem homesOnly_writeBack (s : State) (c : Nat) (p : Nat → Bool) : HomesOnly s (writeBack s c p) :=
  homesOnly_foldl (fun _ _ => homesOnly_writeBackWord _ _ _ _) _ _

theorem homesOnly_flush (s : State) (c : Nat) (p : Nat → Bool) : HomesOnly s (flush s c p) :=
  homesOnly_trans (homesOnly_writeBack s c p) (homesOnly_with _ _ _ _ _ _ _ _ _ _)

theorem homesOnly_hostReady (s : State) (c : Nat) (p : Phys) (w : Bool) : HomesOnly s (hostReady s c p w) :=
  homesOnly_ite (homesOnly_foldl (fun a x => homesOnly_ite (homesOnly_flush a x _) (homesOnly_writeBack a x _)) _ _) (homesOnly_refl s)

theorem homesOnly_logRefused (s : State) (o : Nat) (m : Master) : HomesOnly s (logRefused s o m) := homesOnly_wrWin s _ _

/-- A read that the device makes. -/
theorem homesOnly_devRead (s : State) (p : Phys) (n : Nat) : HomesOnly s (devRead s p n).2 := by
  unfold devRead
  split
  · split
    · exact homesOnly_refl s
    · exact homesOnly_logRefused s p.key .host
  · exact homesOnly_trans (homesOnly_hostReady s noCluster p false) (homesOnly_touch _ _ _ _ _)

/-! Releases and acquires. -/

theorem homesOnly_releasePart (n : Nat) (s : State) : HomesOnly s (releasePart n s).2 :=
  homesOnly_ite (homesOnly_writeBack s _ _) (homesOnly_refl s)

theorem acquirePart_live (n : Nat) (w : Swatch) (s : State) : (acquirePart n w s).g.live = s.g.live := by
  unfold acquirePart
  split
  · rw [onG_g, orPending, onPending, (homesOnly_flush s _ _).g_eq]
  · rfl

end Sys2Proof.Proofs
end

section
/-! PROOF. MIGRATE (R51 to R54, R378): what its body does for a group that waits for nothing, and the obligation. -/

namespace Sys2Proof.Proofs

open Sys2Proof.Machine Sys2Proof.Safety Sys2Proof.Laws

/-! Interlocked results. -/

/-- An interlocked result reaches the vector, scalar, mode, tile control and FPSTAT registers and the list of pending writes only. -/
theorem put_frame (e : Effect) (g : Group) :
    ∃ v s gm tc fp pd, put e g = { g with v := v, s := s, gmode := gm, tctl := tc, fpstat := fp, pend := pd } := by
  obtain ⟨v, s, gm, tc, fp, h⟩ := foldEff_frame (g.pend.filter (fun p => sameTarget p.eff e)) g
  obtain ⟨v', s', gm', tc', fp', h'⟩ := applyEff_frame (flushTarget g e) e
  exact ⟨v', s', gm', tc', fp', _, by rw [put, h', flushTarget, h]⟩

theorem put_live (e : Effect) (g : Group) : (put e g).live = g.live := by
  obtain ⟨v, s, gm, tc, fp, pd, h⟩ := put_frame e g
  rw [h]

/-- The scalar that an interlocked result writes. -/
theorem cget_put_sca_same (n : Nat) (x : W64) (g : Group) : cget zero (put (.sca n x) g).s n = x := by
  rw [put, applyEff, cget_cset_same]

theorem cget_applyEff_sca_other {n k : Nat} (x : W64) (g : Group) (h : k ≠ n) : cget zero (applyEff g (.sca n x)).s k = cget zero g.s k := by
  rw [applyEff, cget_cset_other zero _ _ (Ne.symm h)]

theorem completeAll_live (g : Group) : (completeAll g).live = g.live := by
  obtain ⟨v, s, gm, tc, fp, h⟩ := completeAll_frame g
  rw [h]

theorem completeAll_panel (g : Group) : (completeAll g).panel = g.panel := by
  obtain ⟨v, s, gm, tc, fp, h⟩ := completeAll_frame g
  rw [h]

/-! Moving a group. -/

theorem waitOps_none {p : MatOp → Bool} {i : Nat} {s : State} (h : needsOps p i s = false) : waitOps [i] p s = .ok () s := by
  simp [waitOps, h]

/-- Noting a cluster changes bolts only. -/
theorem noteCluster_frame (p c : Nat) (s : State) : ∃ b, noteCluster p c s = { s with bolts := b } := by
  unfold noteCluster
  split <;> exact ⟨_, rfl⟩

theorem noteCluster_g (p c : Nat) (s : State) : (noteCluster p c s).g = s.g := by
  obtain ⟨b, h⟩ := noteCluster_frame p c s
  rw [h]

theorem noteCluster_scratch (p c : Nat) (s : State) : (noteCluster p c s).scratch = s.scratch := by
  obtain ⟨b, h⟩ := noteCluster_frame p c s
  rw [h]

/-- The group as it stands on the core that it moves to. -/
theorem moveTo_g (c : Nat) (s : State) :
    (moveTo c s).g = { s.g with core := c, slot := pickSlot s c, order := s.nextId, waited := 0 } := by
  unfold moveTo
  rw [noteCluster_g, flushCluster, (homesOnly_flush _ _ _).g_eq]
  rfl

/-- Its panel's scratchpad does not travel. -/
theorem moveTo_scratch (c : Nat) (s : State) :
    (moveTo c s).scratch = ckeep (fun x => decide (x / 2 ^ 21 ≠ s.g.panel)) s.scratch := by
  unfold moveTo
  rw [noteCluster_scratch, flushCluster, (homesOnly_flush _ _ _).scratch_eq]
  rfl

/-- The state in which a MIGRATE that waits for nothing chooses the group's core: released, with no write pending. -/
def migrateReady (s : State) : State := onG completeAll (releasePart 4 s).2

theorem migrateReady_g (s : State) : (migrateReady s).g = completeAll s.g := by
  rw [migrateReady, onG_g, (homesOnly_releasePart 4 s).g_eq]

/-- What MIGRATE answers, and where its group goes on, once it waits for nothing (R52, R53). -/
def migrateEnd (o : Opnd) (p : Phys) (s : State) : Res (Option W64) :=
  if homeDie p = coreDie s.g.core then .ok none (onG (put (.sca o.d.toNat 1)) (acquirePart 4 fullSwatch s)) else
  match placeCore s (homeDie p) s.g.part 1 with
  | none => .ok none (onG (put (.sca o.d.toNat 2)) (acquirePart 4 fullSwatch s))
  | some c => .ok none (onG (put (.sca o.d.toNat 0)) (onG (orPending 4 fullSwatch) (moveTo c s)))

theorem migrateBody_waitless {o : Opnd} {s s1 : State} {p : Phys} (hr : ready (.migrate o) s = true) (hp : s.g.priv = false)
    (ha : ((panelOf s s.g.panel).map (fun p => decide (p.groups ≤ 1))).getD true = true)
    (hn : namedPlace (whoOf s.g 0) (rdS s o.a.toNat) s = .ok p s1) (hg : s1.g = s.g) (hw : migrateWaits s1 = false)
    (ho : needsOps (fun _ => true) s.g.id s1 = false) : migrateBody o s = migrateEnd o p (migrateReady s1) := by
  simp only [migrateBody, hp, ha, hn, hw, hg, waitOps_none ho, ready_present hr, fetchRegs, Res.bind, Bool.not_true, Bool.or_self,
    Bool.false_eq_true, if_false]
  rfl

theorem migrateEnd_home {o : Opnd} {s : State} {p : Phys} (hd : homeDie p = coreDie s.g.core) :
    migrateEnd o p s = .ok none (onG (put (.sca o.d.toNat 1)) (acquirePart 4 fullSwatch s)) := if_pos hd

theorem migrateEnd_full {o : Opnd} {s : State} {p : Phys} (hd : homeDie p ≠ coreDie s.g.core)
    (hc : placeCore s (homeDie p) s.g.part 1 = none) :
    migrateEnd o p s = .ok none (onG (put (.sca o.d.toNat 2)) (acquirePart 4 fullSwatch s)) := by
  rw [migrateEnd, if_neg hd, hc]

theorem migrateEnd_moves {o : Opnd} {s : State} {p : Phys} {c : Nat} (hd : homeDie p ≠ coreDie s.g.core)
    (hc : placeCore s (homeDie p) s.g.part 1 = some c) :
    migrateEnd o p s = .ok none (onG (put (.sca o.d.toNat 0)) (onG (orPending 4 fullSwatch) (moveTo c s))) := by
  rw [migrateEnd, if_neg hd, hc]

/-- In the privileged view, and in a panel of several groups, it traps. -/
theorem migrateBody_denied {o : Opnd} {s : State}
    (h : s.g.priv = true ∨ ((panelOf s s.g.panel).map (fun p => decide (p.groups ≤ 1))).getD true = false) :
    migrateBody o s = .trap { cause := 0x0D, sub := 1 } s := by
  rcases h with h | h <;> simp [migrateBody, h]

/-- MIGRATE completes as its body goes on. -/
theorem migrate_completes {o : Opnd} {s s' : State} (hr : ready (.migrate o) s = true) (hb : migrateBody o s = .ok none s')
    (hl : s'.g.live = true) : Completes (.migrate o) s none s' :=
  completes_of_body rfl hr hb hl rfl

/-- Settles O22: the group stays with the answer 1 or 2, moves with the answer 0, or traps. -/
theorem migrateMoves : Obligations.MigrateMoves := by
  intro o s hr
  refine ⟨fun hp ha p s1 hn hg hw ho s4 h4 => ?_, fun h => ends_of_trap rfl hr (migrateBody_denied h)⟩
  obtain rfl : s4 = migrateReady s1 := h4
  have hgr : (migrateReady s1).g = completeAll s.g := by rw [migrateReady_g, hg]
  have hbody := migrateBody_waitless hr hp ha hn hg hw ho
  have hlive : (migrateReady s1).g.live = true := by rw [hgr, completeAll_live]; exact ready_live hr
  have stays : ∀ x, (onG (put (.sca o.d.toNat x)) (acquirePart 4 fullSwatch (migrateReady s1))).g.live = true := fun x => by
    rw [onG_g, put_live, acquirePart_live, hlive]
  refine ⟨fun hd => ?_, fun hd hc => ?_, fun c hd hc => ?_⟩
  · exact migrate_completes hr (hbody.trans (migrateEnd_home hd)) (stays 1)
  · exact migrate_completes hr (hbody.trans (migrateEnd_full hd hc)) (stays 2)
  · have hm := moveTo_g c (migrateReady s1)
    have hpend : (onG (orPending 4 fullSwatch) (moveTo c (migrateReady s1))).g.pend = [] := by
      rw [onG_g, hm, hgr]; rfl
    have hput := put_quiet (.sca o.d.toNat 0) hpend
    refine ⟨_, migrate_completes hr (hbody.trans (migrateEnd_moves hd hc)) ?_, ?_, ?_, ?_, ?_, fun k hk => ?_, ?_⟩
    · rw [onG_g, put_live, onG_g, hm]; exact hlive
    · rw [onG_g, hput, onG_g, hm]; rfl
    · rw [onG_g, hput, onG_g, hm, hgr]; exact completeAll_panel s.g
    · rw [onG_g, hput, onG_g, hm]; rfl
    · exact cget_put_sca_same _ _ _
    · rw [onG_g, hput, cget_applyEff_sca_other _ _ hk, onG_g, hm]; rfl
    · rw [onG_scratch, onG_scratch, moveTo_scratch, hgr, completeAll_panel]

end Sys2Proof.Proofs
end

section
/-! PROOF. Spawn pools and bins (R38 to R46): which slots a reservation gives, what a commit does to its bin, and that all of it touches
bins and formed groups only. -/

namespace Sys2Proof.Proofs

open Sys2Proof.Machine Sys2Proof.Safety Sys2Proof.Laws

/-! Free slots. -/

/-- Going round from a slot, the search ends at a free one where one of the slots that it looks at is free. -/
theorem freeFrom_free {used : List Nat} {slots : Nat} {n x : Nat} (hx : x < slots) (h : ∃ i < n, 32 * ((x + i) % slots) ∉ used) :
    freeFrom used slots n x < slots ∧ 32 * freeFrom used slots n x ∉ used := by
  induction n generalizing x with
  | zero => obtain ⟨i, hi, _⟩ := h; omega
  | succ n ih =>
    by_cases hu : 32 * x ∈ used
    · simp only [freeFrom, List.contains_iff_mem, if_pos hu]
      refine ih (Nat.mod_lt _ (by omega)) ?_
      obtain ⟨i, hi, hf⟩ := h
      cases i with
      | zero => rw [Nat.add_zero, Nat.mod_eq_of_lt hx] at hf; exact absurd hu hf
      | succ j => exact ⟨j, by omega, by rwa [Nat.mod_add_mod, Nat.add_right_comm, Nat.add_assoc]⟩
    · simp only [freeFrom, List.contains_iff_mem, if_neg hu]
      exact ⟨hx, hu⟩

/-- Fewer slots are used than there are: of so many in a row and one more, one is free. -/
theorem exists_free {used : List Nat} {slots x : Nat} (h : used.length < slots) :
    ∃ i < used.length + 1, 32 * ((x + i) % slots) ∉ used := by
  by_contra hn
  push Not at hn
  have hd : ((List.range (used.length + 1)).map (fun i => 32 * ((x + i) % slots))).Nodup := by
    refine List.Nodup.map_on (fun i hi j hj e => ?_) List.nodup_range
    rw [List.mem_range] at hi hj
    have hm : i ≡ j [MOD slots] := Nat.ModEq.add_left_cancel' x (Nat.eq_of_mul_eq_mul_left (by omega) e)
    rwa [Nat.ModEq, Nat.mod_eq_of_lt (by omega), Nat.mod_eq_of_lt (by omega)] at hm
  have hs : (List.range (used.length + 1)).map (fun i => 32 * ((x + i) % slots)) ⊆ used := by
    intro y hy
    obtain ⟨i, hi, rfl⟩ := List.mem_map.mp hy
    exact hn i (List.mem_range.mp hi)
  have := (List.subperm_of_subset hd hs).length_le
  simp at this

/-- The offsets that a reservation gives are free slots of the pool, each its own. -/
theorem pickSlots_free {s : State} {slots n : Nat} {used : List Nat} (h : used.length + n ≤ slots) :
    (pickSlots s slots n used).length = n ∧ (pickSlots s slots n used).Nodup ∧
      ∀ x ∈ pickSlots s slots n used, x % 32 = 0 ∧ x < 32 * slots ∧ x ∉ used := by
  induction n generalizing used with
  | zero => simp [pickSlots]
  | succ n ih =>
    obtain ⟨hlt, hfree⟩ := freeFrom_free (Nat.mod_lt (Config.choose s.free n) (show slots > 0 by omega))
      (exists_free (used := used) (slots := slots) (by omega))
    simp only [pickSlots]
    generalize freeFrom used slots (used.length + 1) (Config.choose s.free n % slots) = x at hlt hfree ⊢
    obtain ⟨hl, hd, hm⟩ := ih (used := 32 * x :: used) (by rw [List.length_cons]; omega)
    refine ⟨by rw [List.length_cons, hl], List.nodup_cons.mpr ⟨fun hx => (hm _ hx).2.2 List.mem_cons_self, hd⟩, ?_⟩
    intro y hy
    rcases List.mem_cons.mp hy with rfl | hy
    · exact ⟨by omega, by omega, hfree⟩
    · obtain ⟨h32, hlt', hn⟩ := hm y hy
      exact ⟨h32, hlt', fun hu => hn (List.mem_cons_of_mem _ hu)⟩

/-! Bins and formed groups. -/

/-- From `s` to `t` only bins and formed groups change. -/
def BinsOnly (s t : State) : Prop := ∃ b f, t = { s with bins := b, formed := f }

theorem binsOnly_refl (s : State) : BinsOnly s s := ⟨s.bins, s.formed, rfl⟩

theorem binsOnly_trans {s t u : State} (h : BinsOnly s t) (k : BinsOnly t u) : BinsOnly s u := by
  obtain ⟨b, f, rfl⟩ := h
  obtain ⟨b', f', rfl⟩ := k
  exact ⟨b', f', rfl⟩

theorem binsOnly_foldl {α : Type} {f : State → α → State} (h : ∀ a x, BinsOnly a (f a x)) (l : List α) (s : State) :
    BinsOnly s (l.foldl f s) := by
  induction l generalizing s with
  | nil => exact binsOnly_refl s
  | cons x r ih => exact binsOnly_trans (h s x) (ih (f s x))

theorem BinsOnly.g_eq {s t : State} (h : BinsOnly s t) : t.g = s.g := by obtain ⟨b, f, rfl⟩ := h; rfl

theorem BinsOnly.storesNothing {s t : State} (h : BinsOnly s t) : StoresNothing s t := by obtain ⟨b, f, rfl⟩ := h; exact ⟨rfl, rfl⟩

theorem binsOnly_cleanBins (s : State) : BinsOnly s (cleanBins s) := ⟨_, s.formed, rfl⟩

theorem binsOnly_formGroup (n : Nat) (b : Bin) (s : State) : BinsOnly s (formGroup n b s) := ⟨_, _, rfl⟩

theorem binsOnly_launchEarly (die n k : Nat) (s : State) : BinsOnly s (launchEarly die n k s) := by
  induction n generalizing k s with
  | zero => exact binsOnly_refl s
  | succ n ih =>
    unfold launchEarly
    split
    · exact binsOnly_refl s
    · dsimp only
      split
      · exact binsOnly_formGroup _ _ s
      · exact binsOnly_trans (binsOnly_formGroup _ _ s) (ih _ _)

theorem binsOnly_pressure (die : Nat) (r : Bool) (s : State) : BinsOnly s (pressure die r s) := by
  unfold pressure
  split
  · exact binsOnly_trans (binsOnly_launchEarly _ _ _ s) (binsOnly_cleanBins _)
  · exact binsOnly_refl s

theorem binsOnly_ensureBin {die ctx : Nat} {e : W64} {s t : State} (h : ensureBin die ctx e s = some t) : BinsOnly s t := by
  unfold ensureBin at h
  split at h
  · cases h; exact binsOnly_refl _
  · split at h
    · cases h; exact ⟨_, s.formed, rfl⟩
    · cases h

theorem foldl_ensureBin_none (die ctx : Nat) (es : List W64) :
    es.foldl (fun a e => a.bind (ensureBin die ctx e)) none = none := by
  induction es with
  | nil => rfl
  | cons e r ih => exact ih

theorem binsOnly_ensureBins {die ctx : Nat} {es : List W64} {s t : State}
    (h : es.foldl (fun a e => a.bind (ensureBin die ctx e)) (some s) = some t) : BinsOnly s t := by
  induction es generalizing s with
  | nil => cases h; exact binsOnly_refl _
  | cons e r ih =>
    rw [List.foldl_cons, Option.bind_some] at h
    cases he : ensureBin die ctx e s with
    | none => rw [he, foldl_ensureBin_none] at h; cases h
    | some a => rw [he] at h; exact binsOnly_trans (binsOnly_ensureBin he) (ih h)

/-! Reservations. -/

/-- A reservation that is met gives free slots, and makes bins at most. -/
theorem reserve_slots {n : Nat} {es : List W64} {s t : State} {offs : List Nat} (h : reserve n es s = .slots offs t) :
    (usedOffs s (coreDie s.g.core)).length + n ≤ poolSlots s (coreDie s.g.core) ∧
      offs = pickSlots s (poolSlots s (coreDie s.g.core)) n (usedOffs s (coreDie s.g.core)) ∧ ∃ s1, BinsOnly s s1 ∧ t = bump s1 := by
  unfold reserve at h
  dsimp only at h
  split at h
  · cases h
  · rename_i s1 hb
    split at h
    · cases h
      exact ⟨‹_›, rfl, s1, binsOnly_ensureBins hb, rfl⟩
    · cases h

/-! Commits. -/

theorem isBin_eq {die ctx : Nat} {e : W64} {b : Bin} : isBin die ctx e b = true ↔ b.die = die ∧ b.ctx = ctx ∧ b.entry = e := by
  simp [isBin, and_assoc]

/-- What looks for a bin finds the one put in its place. -/
theorem find?_replace {α : Type} {p : α → Bool} {l : List α} {a b : α} (h : l.find? p = some a) (hb : p b = true) :
    (l.map (fun x => if p x then b else x)).find? p = some b := by
  induction l with
  | nil => cases h
  | cons x r ih =>
    by_cases hx : p x = true
    · simp [hx, hb]
    · rw [List.find?_cons_of_neg hx] at h
      simp [hx, ih h]

/-- What looks for a bin finds the one that has moved to the end. -/
theorem find?_moved {α : Type} {p : α → Bool} (l : List α) {b : α} (hb : p b = true) :
    (l.filter (fun x => !p x) ++ [b]).find? p = some b := by
  have : (l.filter (fun x => !p x)).find? p = none := by
    rw [List.find?_eq_none]
    intro x hx
    simpa using (List.mem_filter.mp hx).2
  simp [List.find?_append, this, hb]

/-- The bin with the record of a commit (R41, R43, R221). -/
def committed (b : Bin) (r : BinRec) (w : Swatch) : Bin := { b with recs := b.recs ++ [r], timer := true, swatch := b.swatch ||| w }

/-- The state with that bin in its place; a bin that held no record goes to the end. -/
def putRecord (die ctx : Nat) (entry : W64) (b : Bin) (r : BinRec) (w : Swatch) (s : State) : State :=
  if b.recs.isEmpty then { s with bins := s.bins.filter (fun x => !isBin die ctx entry x) ++ [committed b r w] }
  else { s with bins := s.bins.map (fun x => if isBin die ctx entry x then committed b r w else x) }

section Commit

variable {die ctx : Nat} {entry : W64} {s : State} {b : Bin} (h : s.bins.find? (isBin die ctx entry) = some b)
include h

theorem commitRec_found (off : Nat) (prio ccls : BitVec 2) (w : Swatch) : commitRec die ctx entry off prio ccls w s =
    if 64 ≤ (b.recs ++ [(⟨off, prio, ccls⟩ : BinRec)]).length then
      formGroup 64 (committed b ⟨off, prio, ccls⟩ w) (putRecord die ctx entry b ⟨off, prio, ccls⟩ w s)
    else putRecord die ctx entry b ⟨off, prio, ccls⟩ w s := by
  rw [commitRec, h]
  rfl

theorem isBin_of_found : isBin die ctx entry b = true := List.find?_some h

theorem find?_putRecord (r : BinRec) (w : Swatch) :
    (putRecord die ctx entry b r w s).bins.find? (isBin die ctx entry) = some (committed b r w) := by
  have hb : isBin die ctx entry (committed b r w) = true := (isBin_of_found h : isBin die ctx entry b = true)
  unfold putRecord
  split
  · exact find?_moved _ hb
  · exact find?_replace h hb

end Commit

theorem putRecord_formed (die ctx : Nat) (entry : W64) (b : Bin) (r : BinRec) (w : Swatch) (s : State) :
    (putRecord die ctx entry b r w s).formed = s.formed := by
  unfold putRecord
  split <;> rfl

theorem binsOnly_putRecord (die ctx : Nat) (entry : W64) (b : Bin) (r : BinRec) (w : Swatch) (s : State) :
    BinsOnly s (putRecord die ctx entry b r w s) := by
  unfold putRecord
  split <;> exact ⟨_, s.formed, rfl⟩

theorem binsOnly_commitRec (die ctx : Nat) (entry : W64) (off : Nat) (prio ccls : BitVec 2) (w : Swatch) (s : State) :
    BinsOnly s (commitRec die ctx entry off prio ccls w s) := by
  cases h : s.bins.find? (isBin die ctx entry) with
  | none => rw [commitRec, h]; exact binsOnly_refl s
  | some b =>
    rw [commitRec_found h]
    split
    · exact binsOnly_trans (binsOnly_putRecord _ _ _ _ _ _ s) (binsOnly_formGroup _ _ _)
    · exact binsOnly_putRecord _ _ _ _ _ _ s

/-- What is left of a bin when its oldest records form a group. -/
def remaining (n : Nat) (b : Bin) : Bin :=
  { b with recs := b.recs.drop n, timer := !(b.recs.drop n).isEmpty, swatch := if (b.recs.drop n).isEmpty then 0 else b.swatch }

/-- Forming a group leaves its bin with the younger records. -/
theorem find?_formGroup {die ctx : Nat} {entry : W64} {s : State} {b : Bin} (n : Nat) (h : s.bins.find? (isBin die ctx entry) = some b) :
    (formGroup n b s).bins.find? (isBin die ctx entry) = some (remaining n b) := by
  have hb := isBin_of_found h
  obtain ⟨rfl, rfl, rfl⟩ := isBin_eq.mp hb
  exact find?_replace h (show isBin b.die b.ctx b.entry (remaining n b) = true from hb)

/-- A commit into a bin of fewer than 63 records leaves it there with its timer running. -/
theorem commitRec_joins {die ctx : Nat} {entry : W64} {s : State} {b : Bin} (h : s.bins.find? (isBin die ctx entry) = some b) (off : Nat)
    (prio ccls : BitVec 2) (w : Swatch) (hl : b.recs.length < 63) :
    commitRec die ctx entry off prio ccls w s = putRecord die ctx entry b ⟨off, prio, ccls⟩ w s := by
  rw [commitRec_found h, if_neg (by simp; omega)]

/-- The commit that makes 64 forms a group of them. -/
theorem commitRec_forms {die ctx : Nat} {entry : W64} {s : State} {b : Bin} (h : s.bins.find? (isBin die ctx entry) = some b) (off : Nat)
    (prio ccls : BitVec 2) (w : Swatch) (hl : b.recs.length = 63) : commitRec die ctx entry off prio ccls w s =
      formGroup 64 (committed b ⟨off, prio, ccls⟩ w) (putRecord die ctx entry b ⟨off, prio, ccls⟩ w s) := by
  rw [commitRec_found h, if_pos (by simp [hl])]

end Sys2Proof.Proofs
end

section
/-! PROOF. SPRES, SPRES.W and SPCOM (R40, R407 to R409): each way that their bodies end, and the obligation. -/

namespace Sys2Proof.Proofs

open Sys2Proof.Machine Sys2Proof.Safety Sys2Proof.Laws

/-! Lanes. -/

theorem mem_activeLanes_lt {m : W64} {i : Nat} (h : i ∈ activeLanes m) : i < 64 :=
  List.mem_range.mp (List.mem_filter.mp h).1

theorem activeLanes_nodup (m : W64) : (activeLanes m).Nodup := List.nodup_range.filter _

theorem laneOf_map_laneIdx {f : Nat → W32} {i : Nat} (h : i < 64) : laneOf (laneIdx.map f) i = f i := by
  simp [laneOf, laneIdx, h]

/-- In two lists side by side, the pair whose first entry is that of a place is the pair of that place. -/
theorem find?_zip {ls offs : List Nat} (hd : ls.Nodup) {j i x : Nat} (hi : ls[j]? = some i) (hx : offs[j]? = some x) :
    (ls.zip offs).find? (fun e => e.1 == i) = some (i, x) := by
  induction ls generalizing offs j with
  | nil => simp at hi
  | cons a r ih =>
    cases offs with
    | nil => simp at hx
    | cons y t =>
      obtain ⟨ha, hr⟩ := List.nodup_cons.mp hd
      cases j with
      | zero => simp_all
      | succ j =>
        rw [List.getElem?_cons_succ] at hi hx
        have hne : a ≠ i := fun e => ha (e ▸ List.mem_of_getElem? hi)
        simpa [hne] using ih hr hi hx

/-- Pending scalar writes that take effect reach no vector register. -/
theorem foldl_sca_v (l : List Pending) (g : Group) (h : ∀ p ∈ l, ∃ n x, p.eff = .sca n x) :
    (l.foldl (fun a p => applyEff a p.eff) g).v = g.v := by
  induction l generalizing g with
  | nil => rfl
  | cons p r ih =>
    obtain ⟨n, x, hp⟩ := h p List.mem_cons_self
    rw [List.foldl_cons, ih _ (fun q hq => h q (List.mem_cons_of_mem _ hq)), hp]
    rfl

theorem sameTarget_sca {e : Effect} {n : Nat} {x : W64} (h : sameTarget e (.sca n x) = true) : ∃ m y, e = .sca m y := by
  cases e with
  | sca m y => exact ⟨m, y, rfl⟩
  | vec | mode | tctl | fp => exact absurd h Bool.false_ne_true

/-- An interlocked scalar result reaches no vector register. -/
theorem put_sca_v (n : Nat) (x : W64) (g : Group) : (put (.sca n x) g).v = g.v :=
  foldl_sca_v _ g (fun _ hp => sameTarget_sca (List.mem_filter.mp hp).2)

/-- An interlocked vector result is in every lane that it has a value for. -/
theorem laneOf_put_vec {n i : Nat} {ls : List (Option W32)} {x : W32} (g : Group) (hi : i < 64) (hx : ls.getD i none = some x) :
    laneOf (cget (fun _ => zeroLanes) (put (.vec n ls) g).v n) i = x := by
  rw [put, applyEff]
  dsimp only
  rw [cget_cset_same, laneOf_map_laneIdx hi, hx]

theorem put_reserved (e : Effect) (g : Group) : (put e g).reserved = g.reserved := by
  obtain ⟨v, s, gm, tc, fp, pd, h⟩ := put_frame e g
  rw [h]

/-! SPRES and SPRES.W. -/

/-- The non-waiting and the waiting form run one body. -/
theorem exec_spres {i : Instr} {o : Opnd} {wait : Bool} (h : (i = .spres o ∧ wait = false) ∨ (i = .spresW o ∧ wait = true)) (s : State) :
    exec i s = runI i s (spresBody wait o) ∧ settles i = false := by
  rcases h with ⟨rfl, rfl⟩ | ⟨rfl, rfl⟩ <;> exact ⟨rfl, rfl⟩

/-- The state in which the active lanes have their offsets and the flag is 0. -/
def granted (o : Opnd) (offs : List Nat) (s s1 : State) : State :=
  let die := coreDie s.g.core
  let s2 := onG (fun g => { g with reserved := g.reserved ++ offs.map (fun x => (⟨die, s.g.ctx, rdS s o.a.toNat, x⟩ : Reservation)) }) s1
  let s3 := onG (put (.vec o.d.toNat (pickLane ((activeLanes (effMask s)).zip offs) (fun x => BitVec.ofNat 32 x)))) s2
  pressure die false (onG (put (.sca o.b.toNat 0)) s3)

section SpresBody

variable {wait : Bool} {o : Opnd} {s : State}

theorem spresBody_empty (hm : effMask s = 0) : spresBody wait o s = .ok none (onG (put (.sca o.b.toNat 0)) s) := by
  simp only [spresBody, if_pos hm]

theorem spresBody_misaligned (hm : effMask s ≠ 0) (he : (rdS s o.a.toNat).toNat % 4 ≠ 0) :
    spresBody wait o s = .trap { cause := 4, sub := 0, mask := 1, fault := rdS s o.a.toNat } s := by
  simp only [spresBody, if_neg hm, if_pos he]

variable (hm : effMask s ≠ 0) (he : (rdS s o.a.toNat).toNat % 4 = 0)
include hm he

theorem spresBody_poolless (hp : poolSlots s (coreDie s.g.core) = 0) : spresBody wait o s =
    if wait then spawnFault 2 0 s else .ok none (onG (put (.sca o.b.toNat 1)) s) := by
  simp only [spresBody, if_neg hm, he, hp, ne_eq, not_true, if_false, if_true]

variable (hp : poolSlots s (coreDie s.g.core) ≠ 0)
include hp

theorem spresBody_lacking {s1 : State} (hr : reserve (activeLanes (effMask s)).length [rdS s o.a.toNat] s = .lacking s1) :
    spresBody wait o s = if wait then .block ⟨7, 0, rdS s o.a.toNat, (activeLanes (effMask s)).length⟩ s1
      else .ok none (onG (put (.sca o.b.toNat 1)) s1) := by
  simp only [spresBody, if_neg hm, he, if_neg hp, hr, ne_eq, not_true, if_false]

theorem spresBody_granted {s1 : State} {offs : List Nat}
    (hr : reserve (activeLanes (effMask s)).length [rdS s o.a.toNat] s = .slots offs s1) :
    spresBody wait o s = .ok none (granted o offs s s1) := by
  simp only [spresBody, if_neg hm, he, if_neg hp, hr, ne_eq, not_true, if_false, granted]

end SpresBody

/-- The group as a met reservation leaves it. -/
theorem granted_g {o : Opnd} {offs : List Nat} {s s1 : State} (hg : s1.g = s.g) : (granted o offs s s1).g =
    put (.sca o.b.toNat 0) (put (.vec o.d.toNat (pickLane ((activeLanes (effMask s)).zip offs) (fun x => BitVec.ofNat 32 x)))
      { s.g with reserved := s.g.reserved ++ offs.map (fun x => (⟨coreDie s.g.core, s.g.ctx, rdS s o.a.toNat, x⟩ : Reservation)) }) := by
  rw [granted, (binsOnly_pressure _ _ _).g_eq, onG_g, onG_g, onG_g, hg]

theorem granted_storesNothing (o : Opnd) (offs : List Nat) (s s1 : State) : StoresNothing s1 (granted o offs s s1) := by
  have h := fun x => (binsOnly_pressure (coreDie s.g.core) false x).storesNothing
  exact ⟨(h _).1.trans rfl, (h _).2.trans rfl⟩

/-- Each active lane has the offset of its place. -/
theorem granted_lane {o : Opnd} {offs : List Nat} {s s1 : State} (hg : s1.g = s.g) {j x i : Nat} (hx : offs[j]? = some x)
    (hi : (activeLanes (effMask s))[j]? = some i) : laneOf (rdV (granted o offs s s1) o.d.toNat) i = BitVec.ofNat 32 x := by
  have hlt := mem_activeLanes_lt (List.mem_of_getElem? hi)
  rw [rdV, granted_g hg, put_sca_v]
  refine laneOf_put_vec _ hlt ?_
  simp [pickLane, laneIdx, hlt, find?_zip (activeLanes_nodup _) hi hx]

/-- A reservation leaves the group as it is, and stores nothing. -/
theorem reserve_slots_frame {n : Nat} {es : List W64} {s t : State} {offs : List Nat} (h : reserve n es s = .slots offs t) :
    t.g = s.g ∧ StoresNothing s t := by
  obtain ⟨-, -, s1, hb, rfl⟩ := reserve_slots h
  exact ⟨hb.g_eq, hb.storesNothing⟩

/-! SPCOM. -/

/-- The offset in an active lane. -/
def laneOff (o : Opnd) (s : State) (i : Nat) : Nat := (laneOf (rdV s o.a.toNat) i).toNat

/-- The reservation that a lane commits: the first one of its offset (log 95). -/
def laneRes (o : Opnd) (s : State) (i : Nat) : Option Reservation := s.g.reserved.find? (fun r => r.off == laneOff o s i)

/-- A lane's offset is not reserved, or repeats that of an earlier lane. -/
def badLane (o : Opnd) (s : State) (i : Nat) : Bool :=
  (laneRes o s i).isNone || (activeLanes (effMask s)).any (fun j => decide (j < i) && laneOff o s j == laneOff o s i)

/-- The scope at which a commit releases. -/
def commitScope (s : State) (rs : List Reservation) : Nat := if rs.all (fun r => r.die == coreDie s.g.core) then 3 else 4

/-- The reservations leave the group, and their records enter their bins in lane order. -/
def commitAll (s : State) (rs : List Reservation) (scope : Nat) (w : Swatch) (s1 : State) : State :=
  cleanBins (rs.foldl (fun a r => commitRec r.die r.ctx r.entry r.off s.g.prio s.g.ccls w a)
    (onG (fun g => { clearPending scope g with reserved := g.reserved.filter (fun r => !rs.contains r) }) s1))

theorem spcomBody_empty {o : Opnd} {s : State} (hm : effMask s = 0) : spcomBody o s = .ok none s := by
  simp only [spcomBody, if_pos hm]

/-- The lanes that SPCOM finds bad, of its list of lanes and offsets. -/
theorem spcomBody_lanes (o : Opnd) (s : State) :
    (((activeLanes (effMask s)).map (fun i => (i, laneOff o s i))).filter (fun l =>
      (s.g.reserved.find? (fun r => r.off == l.2)).isNone ||
        ((activeLanes (effMask s)).map (fun i => (i, laneOff o s i))).any (fun k => decide (k.1 < l.1) && k.2 == l.2))) =
      ((activeLanes (effMask s)).filter (badLane o s)).map (fun i => (i, laneOff o s i)) := by
  rw [List.filter_map]
  congr 1
  refine List.filter_congr (fun i _ => ?_)
  simp [badLane, laneRes, List.any_map, Function.comp_def]

theorem spcomBody_traps {o : Opnd} {s : State} (hb : (activeLanes (effMask s)).filter (badLane o s) ≠ []) :
    spcomBody o s = spawnFault 1 (maskOf ((activeLanes (effMask s)).filter (badLane o s))) s := by
  have hm : effMask s ≠ 0 := fun h => hb (by rw [h]; rfl)
  have hl := spcomBody_lanes o s
  unfold laneOff at hl
  simp only [spcomBody, if_neg hm, hl, List.map_map, List.isEmpty_map]
  rw [if_pos (by simpa using hb)]
  simp [Function.comp_def]

theorem spcomBody_commits {o : Opnd} {s : State} (hm : effMask s ≠ 0) (hb : (activeLanes (effMask s)).filter (badLane o s) = [])
    {rs : List Reservation} (hr : rs = (activeLanes (effMask s)).filterMap (laneRes o s)) :
    spcomBody o s = .ok none (commitAll s rs (commitScope s rs) (releasePart (commitScope s rs) s).1 (releasePart (commitScope s rs) s).2) := by
  have hl := spcomBody_lanes o s
  unfold laneOff at hl
  rw [hb, List.map_nil] at hl
  subst hr
  simp only [spcomBody, if_neg hm, hl, List.isEmpty_nil, Bool.not_true, Bool.false_eq_true, if_false, List.filterMap_map]
  rfl

/-- The reservations of lanes that all have one carry the lanes' offsets. -/
theorem laneRes_offs {o : Opnd} {s : State} {l : List Nat} (h : ∀ i ∈ l, (laneRes o s i).isSome = true) :
    (l.filterMap (laneRes o s)).map (·.off) = l.map (laneOff o s) := by
  induction l with
  | nil => rfl
  | cons i r ih =>
    obtain ⟨x, hx⟩ := Option.isSome_iff_exists.mp (h i List.mem_cons_self)
    have hoff : x.off = laneOff o s i := by simpa using List.find?_some hx
    rw [List.filterMap_cons_some hx, List.map_cons, List.map_cons, hoff, ih (fun j hj => h j (List.mem_cons_of_mem _ hj))]

/-- With a reservation for every lane, and each once, no lane is bad. -/
theorem no_badLane {o : Opnd} {s : State} {rs : List Reservation} (hr : rs = (activeLanes (effMask s)).filterMap (laneRes o s))
    (hl : rs.length = (activeLanes (effMask s)).length) (hd : (rs.map (·.off)).Nodup) :
    (activeLanes (effMask s)).filter (badLane o s) = [] := by
  subst hr
  have hsome := List.filterMap_length_eq_length.mp hl
  rw [laneRes_offs hsome] at hd
  rw [List.filter_eq_nil_iff]
  intro i hi hbad
  simp only [badLane, Bool.or_eq_true, List.any_eq_true, Bool.and_eq_true, decide_eq_true_eq, beq_iff_eq] at hbad
  rcases hbad with hn | ⟨j, hj, hlt, he⟩
  · have := hsome i hi
    rw [Option.isNone_iff_eq_none] at hn
    simp [hn] at this
  · exact absurd (List.inj_on_of_nodup_map hd hj hi he) (by omega)

theorem commitAll_g (s : State) (rs : List Reservation) (scope : Nat) (w : Swatch) (s1 : State) : (commitAll s rs scope w s1).g =
    { clearPending scope s1.g with reserved := s1.g.reserved.filter (fun r => !rs.contains r) } := by
  rw [commitAll, (binsOnly_cleanBins _).g_eq, (binsOnly_foldl (fun a r => binsOnly_commitRec _ _ _ _ _ _ _ a) rs _).g_eq, onG_g]

theorem commitScope_ge (s : State) (rs : List Reservation) : 3 ≤ commitScope s rs := by
  unfold commitScope
  split <;> omega

/-! The obligation, part by part. -/

/-- SPRES and SPRES.W, each way that they end. -/
theorem spres_ends {o : Opnd} {s : State} {i : Instr} {wait : Bool} (hw : (i = .spres o ∧ wait = false) ∨ (i = .spresW o ∧ wait = true))
    (hr : ready i s = true) {e : W64} (he : e = rdS s o.a.toNat) {die : Nat} (hd : die = coreDie s.g.core) :
    (effMask s = 0 → Puts i s (.sca o.b.toNat 0)) ∧
    (effMask s ≠ 0 → e.toNat % 4 ≠ 0 → Ends i s (takeTrap { cause := 4, sub := 0, mask := 1, fault := e } false s)) ∧
    (effMask s ≠ 0 → e.toNat % 4 = 0 → poolSlots s die = 0 → (wait = false → Puts i s (.sca o.b.toNat 1)) ∧
      (wait = true → Ends i s (takeTrap { cause := 0x0C, sub := 2, mask := 0, fault := Config.freeW64 s.free 0 } false (bump s)))) ∧
    (effMask s ≠ 0 → e.toNat % 4 = 0 → poolSlots s die ≠ 0 →
      (∀ s1, reserve (activeLanes (effMask s)).length [e] s = .lacking s1 → s1.g = s.g →
        (wait = false → Completes i s none (onG (put (.sca o.b.toNat 1)) s1)) ∧
        (wait = true → Ends i s (onG (fun g => { g with block := some ⟨7, 0, e, (activeLanes (effMask s)).length⟩ }) s1))) ∧
      (∀ offs s1, reserve (activeLanes (effMask s)).length [e] s = .slots offs s1 → Completes i s none (granted o offs s s1))) := by
  subst he hd
  obtain ⟨hx, hset⟩ := exec_spres hw s
  have flagged : ∀ {x : W64} {s1 : State}, s1.g = s.g → (onG (put (.sca o.b.toNat x)) s1).g.live = true := fun hg => by
    rw [onG_g, put_live, hg, ready_live hr]
  refine ⟨fun hm => completes_of_body hx hr (spresBody_empty hm) (flagged rfl) hset,
    fun hm he => ends_of_trap hx hr (spresBody_misaligned hm he), fun hm he hp => ?_,
    fun hm he hp => ⟨fun s1 h hg => ?_, fun offs s1 h => ?_⟩⟩
  · have hb := spresBody_poolless (wait := wait) hm he hp
    refine ⟨fun hw => ?_, fun hw => ?_⟩ <;> subst hw
    · exact completes_of_body hx hr hb (flagged rfl) hset
    · exact ends_of_trap hx hr hb
  · have hb := spresBody_lacking (wait := wait) hm he hp h
    refine ⟨fun hw => ?_, fun hw => ?_⟩ <;> subst hw
    · exact completes_of_body hx hr hb (flagged hg) hset
    · exact ends_of_block hx hr hb
  · refine completes_of_body hx hr (spresBody_granted hm he hp h) ?_ hset
    rw [granted_g (reserve_slots_frame h).1, put_live, put_live]
    exact ready_live hr

/-- SPCOM with a bad lane traps. -/
theorem spcom_traps {o : Opnd} {s : State} {bad : Nat → Bool} (hr : ready (.spcom o) s = true)
    (hex : ∃ k ∈ activeLanes (effMask s), bad k = true)
    (hbad : ∀ k, bad k = true ↔ (∀ r ∈ s.g.reserved, r.off ≠ (laneOf (rdV s o.a.toNat) k).toNat) ∨
      ∃ j ∈ activeLanes (effMask s), j < k ∧ laneOf (rdV s o.a.toNat) j = laneOf (rdV s o.a.toNat) k) :
    Ends (.spcom o) s (takeTrap { cause := 0x0C, sub := 1, mask := maskOf ((activeLanes (effMask s)).filter bad),
                                  fault := Config.freeW64 s.free 0 } false (bump s)) := by
  have he : bad = badLane o s := by
    funext k
    rw [Bool.eq_iff_iff, hbad]
    simp [badLane, laneRes, laneOff, BitVec.toNat_inj]
  subst he
  obtain ⟨k, hk, hb⟩ := hex
  exact ends_of_trap rfl hr (spcomBody_traps (List.ne_nil_of_mem (List.mem_filter.mpr ⟨hk, hb⟩)))

/-- SPCOM of offsets that the group has reserved, each once. -/
theorem spcom_commits {o : Opnd} {s s1 : State} {rs : List Reservation} {w : Swatch} {scope : Nat} (hr : ready (.spcom o) s = true)
    (hm : effMask s ≠ 0) (hrs : rs = (activeLanes (effMask s)).filterMap (laneRes o s)) (hl : rs.length = (activeLanes (effMask s)).length)
    (hd : (rs.map (·.off)).Nodup) (hs : scope = commitScope s rs) (hrel : releasePart scope s = (w, s1)) :
    Completes (.spcom o) s none (commitAll s rs scope w s1) ∧
      (commitAll s rs scope w s1).g = { clearPending scope s.g with reserved := s.g.reserved.filter (fun r => !rs.contains r) } := by
  subst hs
  have hg : s1.g = s.g := by rw [← (homesOnly_releasePart (commitScope s rs) s).g_eq, hrel]
  have hc := commitAll_g s rs (commitScope s rs) w s1
  rw [hg] at hc
  have hb := spcomBody_commits hm (no_badLane hrs hl hd) hrs
  rw [hrel] at hb
  exact ⟨completes_of_body rfl hr hb (by rw [hc]; exact ready_live hr) rfl, hc⟩

/-- Settles O45: the ends of the three instructions, the slots that a reservation gives, and the bin that a commit leaves. -/
theorem spawnsComplete : Obligations.SpawnsComplete := by
  refine ⟨fun o s e die he hd => ⟨fun i wait hw hr => ?_, fun hr hm => ?_, fun bad hr hex hbad => spcom_traps hr hex hbad,
    fun rs w s1 scope hr hm hrs hl hnd hs hrel s2 h2 => ?_⟩, fun n es s t offs h => ?_, fun die ctx entry off prio ccls w s t b h ht => ?_⟩
  · obtain ⟨hempty, hmis, hless, hroom⟩ := spres_ends hw hr he hd
    refine ⟨hempty, hmis, hless, fun hm hal hp => ⟨(hroom hm hal hp).1, fun offs s1 h => ?_⟩⟩
    obtain ⟨hg, hst⟩ := reserve_slots_frame h
    have hst' := granted_storesNothing o offs s s1
    refine ⟨_, (hroom hm hal hp).2 offs s1 h, ?_, ?_, ⟨hst'.1.trans hst.1, hst'.2.trans hst.2⟩, fun j x hx i hi => granted_lane hg hx hi⟩
    · rw [granted_g hg, put_reserved, put_reserved, he, hd]
      rfl
    · rw [granted_g hg, cget_put_sca_same]
  · exact completes_of_body rfl hr (spcomBody_empty hm) (ready_live hr) rfl
  · obtain ⟨hc, hg⟩ := spcom_commits hr hm hrs hl hnd (by rw [hs, hd]; rfl) hrel
    refine ⟨_, hc, by rw [h2]; rfl, by rw [hg], ?_, by rw [hg]; rfl, by rw [hg]; rfl⟩
    have : 3 ≤ scope := by rw [hs]; split <;> omega
    rw [hg]
    exact if_pos this
  · obtain ⟨hu, rfl, -⟩ := reserve_slots h
    exact pickSlots_free hu
  · subst ht
    refine ⟨fun hl => ?_, fun hl => ?_⟩
    · rw [commitRec_joins h _ _ _ _ hl]
      exact ⟨putRecord_formed _ _ _ _ _ _ _, find?_putRecord h _ _⟩
    · have hfind := find?_formGroup 64 (find?_putRecord h ⟨off, prio, ccls⟩ w)
      have hrest : (committed b ⟨off, prio, ccls⟩ w).recs.length ≤ 64 := by simp [committed, hl]
      rw [commitRec_forms h _ _ _ _ hl, hfind]
      refine ⟨_, congrArg (· ++ _) (putRecord_formed _ _ _ _ _ _ _), rfl, rfl, rfl, ?_, rfl, ?_⟩
      · dsimp only
        rw [List.take_of_length_le hrest]
        simp [committed]
      · simp [remaining, List.drop_of_length_le hrest]

end Sys2Proof.Proofs
end

section
/-! PROOF. The dispatcher (R28 to R34, R48, R49, R242, R246): taking a record, releasing a bolt, placing a panel, completing one. -/

namespace Sys2Proof.Proofs

open Sys2Proof.Machine Sys2Proof.Safety Sys2Proof.Laws

/-! Events. -/

/-- An event happens as its function of the state says. -/
theorem happens_of_event {e : Instr} {f : State → State} {s s' : State} (hx : exec e s = event f s) (h : f s = s') : Happens e s s' := by
  rw [Happens, hx, event_next, h]

/-! Records. -/

/-- A record that is not fatal, of a context that is not halted, enters its die's buffer. -/
theorem postRec_posts {r : EvRec} {s : State} (hh : halted s r.ctx = false) (ht : r.type ≠ 3) :
    postRec r s = { s with outbound := s.outbound ++ [r] } := by
  simp [postRec, hh, ht]

/-! Taking a record. -/

/-- The dispatcher comes to check the record at HEAD of a queue that it may take one from (R246). -/
theorem takeRecord_admits {n c : Nat} {q pair slot : W64} {l w : List W64} {s s1 s2 s3 : State} (hq : q = rdWin s (queueReg n 0x10))
    (hc : c = fld q 2 4) (hen : bit q 0 = true) (hv : bit (rdWin s (ctxReg c 0)) 63 = true) (hb : curBolt s n = none)
    (hh : queueHeld s n = false) (hp : pair = ctlPair s n) (hpa : pair.toNat % 16 = 0) (hl : devLoad8s s c 0 pair 2 = (.inl l, s1))
    (hlt : (l.getD 1 0).toNat < (l.getD 0 0).toNat) (hle : (l.getD 0 0).toNat ≤ (l.getD 1 0).toNat + 2 ^ ringLog s1 n)
    (hs : slot = ringSlot s1 n (l.getD 1 0).toNat) (hsa : slot.toNat % 128 = 0) (hw : devLoad8s s1 c 0 slot 16 = (.inl w, s2))
    (hst : devStore s2 c 0 (pair + 8) (bytesOf 8 ((l.getD 1 0).toNat + 1)) = (none, s3)) :
    takeRecord n s = admitRecord n ((l.getD 1 0).toNat % 2 ^ 32) c slot w s3 := by
  subst hq hc hp hs
  have hng : ¬ ((l.getD 0 0).toNat < (l.getD 1 0).toNat ∨ (l.getD 1 0).toNat + 2 ^ ringLog s1 n < (l.getD 0 0).toNat) := by omega
  simp only [takeRecord, hen, hv, hb, hh, Option.isSome_none, Bool.not_true, Bool.or_self, Bool.false_eq_true, if_false, hpa, ne_eq,
    not_true, hl, if_neg hng, if_neg (Nat.ne_of_gt hlt), hsa, hw, hst]

/-- A refused record leaves a launch error of its queue, and no bolt. -/
theorem refuseBolt_posts {b : Bolt} {code : Nat} {s : State} (hh : halted s b.ctx = false) :
    refuseBolt b code s = bump { s with outbound := s.outbound ++ [boltRec s b 1 code 0 b.addr] } :=
  congrArg bump (postRec_posts (r := boltRec s b 1 code 0 b.addr) hh (by simp [boltRec]))

theorem admitRecord_refused {n seq c code : Nat} {addr : W64} {w : List W64} {s : State} (h : recordCode w = some code)
    (hh : halted s c = false) : admitRecord n seq c addr w s =
      bump { s with outbound := s.outbound ++ [boltRec s (boltOf s n seq c 0 addr w) 1 code 0 addr] } := by
  rw [admitRecord, h]
  exact refuseBolt_posts (b := boltOf s n seq c 0 addr w) hh

theorem admitRecord_taken {n seq c die : Nat} {addr : W64} {w : List W64} {s s1 : State} (h : recordCode w = none)
    (hd : argsDie c (w.getD 1 0) s = (.inl die, s1)) :
    admitRecord n seq c addr w s = { s1 with bolts := s1.bolts ++ [boltOf s1 n seq c die addr w] } := by
  rw [admitRecord, h]
  dsimp only
  rw [hd]

theorem boltOf_released {s : State} {n seq c die : Nat} {addr : W64} {w : List W64} :
    (boltOf s n seq c die addr w).released = true ↔ fld (w.getD 6 0) 0 3 = 0 := by simp [boltOf]

theorem boltOf_deps_length (s : State) (n seq c die : Nat) (addr : W64) (w : List W64) :
    (boltOf s n seq c die addr w).deps.length = fld (w.getD 6 0) 0 3 := by simp [boltOf]

/-! Releasing a bolt. -/

section Release

variable {n : Nat} {b : Bolt} {s s1 : State} (hb : curBolt s n = some b) (hr : b.released = false)
include hb hr

theorem releaseBolt_met (h : depsMet b.ctx b.die b.deps s = (.inl true, s1)) : releaseBolt n s =
    { s1 with bolts := s1.bolts.map (fun x => if isBolt b.queue b.seq x then { x with released := true } else x) } := by
  simp only [releaseBolt, hb, Option.filter_some, hr, Bool.not_false, if_true, h]

theorem releaseBolt_unmet (h : depsMet b.ctx b.die b.deps s = (.inl false, s1)) : releaseBolt n s = s1 := by
  simp only [releaseBolt, hb, Option.filter_some, hr, Bool.not_false, if_true, h]

end Release

theorem isBolt_iff {q n : Nat} {x : Bolt} : isBolt q n x = true ↔ x.queue = q ∧ x.seq = n := by simp [isBolt]

/-! Groups that join. -/

theorem mem_addGroup (g : Group) (s : State) : g ∈ allGroups (addGroup g s) := by
  rw [mem_allGroups, addGroup]
  split
  · exact .inr (by simp)
  · exact .inl rfl

theorem mem_addGroup_of_mem {g h : Group} {s : State} (hm : h ∈ allGroups s) (hl : h.live = true) : h ∈ allGroups (addGroup g s) := by
  rw [mem_allGroups] at hm ⊢
  rw [addGroup]
  split
  · exact hm.imp id (fun ho => List.mem_append_left _ ho)
  · rename_i hd
    rcases hm with rfl | hm
    · exact absurd hl hd
    · exact .inr hm

theorem addGroup_panels (g : Group) (s : State) : (addGroup g s).panels = s.panels := by
  rw [addGroup]
  split <;> rfl

/-- Groups join in turn, each made from the state that it finds. -/
def addGroups (f : State → Nat → Group) (l : List Nat) (s : State) : State := l.foldl (fun a j => addGroup (f a j) a) s

@[simp] theorem addGroups_cons (f : State → Nat → Group) (j : Nat) (r : List Nat) (s : State) :
    addGroups f (j :: r) s = addGroups f r (addGroup (f s j) s) := rfl

theorem addGroups_panels (f : State → Nat → Group) (l : List Nat) (s : State) : (addGroups f l s).panels = s.panels := by
  induction l generalizing s with
  | nil => rfl
  | cons j r ih => rw [addGroups_cons, ih, addGroup_panels]

theorem mem_addGroups_of_mem {f : State → Nat → Group} {h : Group} (l : List Nat) {s : State} (hm : h ∈ allGroups s) (hl : h.live = true) :
    h ∈ allGroups (addGroups f l s) := by
  induction l generalizing s with
  | nil => exact hm
  | cons j r ih => exact ih (mem_addGroup_of_mem hm hl)

/-- Each of the groups that join is there in the end. -/
theorem mem_addGroups {f : State → Nat → Group} (hf : ∀ a j, (f a j).live = true) {l : List Nat} {j : Nat} (hj : j ∈ l) (s : State) :
    ∃ a, f a j ∈ allGroups (addGroups f l s) := by
  induction l generalizing s with
  | nil => cases hj
  | cons i r ih =>
    rcases List.mem_cons.mp hj with rfl | hj
    · exact ⟨s, mem_addGroups_of_mem r (mem_addGroup _ s) (hf s j)⟩
    · exact ih hj _

/-! Placing a panel. -/

/-- Group `j` of a bolt's panel as it starts (R31, R70). -/
def boltGroup (b : Bolt) (p : Panel) (a : State) (j : Nat) : Group :=
  let g := freshGroup a p j b.part b.entry (BitVec.ofNat 64 (2 ^ gridLanes b.grid - 1)) b.prio b.ccls
  { g with s := cset zero g.s 2 b.args, args := b.args, pidx := nextPidx b, bid := boltBid b.queue b.seq }

/-- The state that a panel is placed in: the cluster's L1 is flushed where it has run no panel of the bolt (R221). -/
def panelBase (b : Bolt) (core : Nat) (s : State) : State :=
  if b.clusters.contains (core / 4) then s else flushCluster (core / 4) s

/-- The next panel of a bolt as it is placed. -/
def boltPanel (b : Bolt) (core rec_ : Nat) (s : State) : Panel :=
  freshPanel (panelBase b core s) .bolt b.ctx b.die core (some (b.queue, b.seq)) (gridGroups b.grid) rec_

/-- The panel and its groups have joined. -/
def panelJoined (b : Bolt) (core rec_ : Nat) (s : State) : State :=
  addGroups (boltGroup b (boltPanel b core rec_ s)) (List.range (gridGroups b.grid)) (addPanel (boltPanel b core rec_ s) (panelBase b core s))

/-- What follows the joining changes bolts and withdraws the request for the panel. -/
theorem startPanel_joined (b : Bolt) (core rec_ : Nat) (s : State) :
    ∃ x, startPanel b core rec_ s = withdraw (.queue b.queue) { panelJoined b core rec_ s with bolts := x } := by
  obtain ⟨x, h⟩ := noteCluster_frame (boltPanel b core rec_ s).id (core / 4) { panelJoined b core rec_ s with
    bolts := (panelJoined b core rec_ s).bolts.map (fun x =>
      if isBolt b.queue b.seq x then { x with placed := x.placed + 1, starved := false } else x) }
  exact ⟨x, congrArg (withdraw (.queue b.queue)) h⟩

theorem mem_startPanel_panels (b : Bolt) (core rec_ : Nat) (s : State) :
    boltPanel b core rec_ s ∈ (startPanel b core rec_ s).panels := by
  obtain ⟨x, h⟩ := startPanel_joined b core rec_ s
  rw [h]
  refine List.mem_map.mpr ⟨boltPanel b core rec_ s, ?_, rfl⟩
  have hm : boltPanel b core rec_ s ∈ (panelJoined b core rec_ s).panels := by
    rw [panelJoined, addGroups_panels]
    exact List.mem_append_right _ (List.mem_singleton.mpr rfl)
  exact hm

theorem mem_startPanel_groups {b : Bolt} {j : Nat} (hj : j < gridGroups b.grid) (core rec_ : Nat) (s : State) :
    ∃ a, boltGroup b (boltPanel b core rec_ s) a j ∈ allGroups (startPanel b core rec_ s) := by
  obtain ⟨x, h⟩ := startPanel_joined b core rec_ s
  rw [h]
  exact mem_addGroups (fun _ _ => rfl) (List.mem_range.mpr hj) _

/-- PANEL_PLACE starts the panel of the bolt that is served. -/
theorem placePanel_starts {b : Bolt} {core r : Nat} {s : State}
    (hb : servedBolt s (fun b => (boltCore s b).isSome && (freeRecord s b.ctx).isSome) = some b) (hc : boltCore s b = some core)
    (hr : freeRecord s b.ctx = some r) :
    placePanel s = startPanel b core r { s with lastQueue := cset (fun _ => 15) s.lastQueue b.prio.toNat b.queue } := by
  rw [placePanel, hb]
  dsimp only
  rw [hc, hr]

/-! Completing a panel. -/

/-- A panel that has nothing left is gone, with its groups and its storage. -/
def freedPanel (id : Nat) (s : State) : State :=
  freePanelStore (removeGroups (fun g => g.panel == id) { s with panels := s.panels.filter (fun x => x.id != id) }) id

/-- One more panel of the bolt has completed. -/
def countPanel (bolt : Option (Nat × Nat)) (x : Bolt) : Bolt :=
  if bolt = some (x.queue, x.seq) then { x with completed := x.completed + 1 } else x

theorem completePanel_done {id : Nat} {p : Panel} {s : State} (hp : panelOf s id = some p) (hd : panelDone s id = true) :
    completePanel id s = finishBolts { freedPanel id s with bolts := s.bolts.map (countPanel p.bolt) } := by
  rw [completePanel, hp]
  simp only [hd, Bool.not_true, Bool.false_eq_true, if_false]
  rfl

theorem finishBolts_none {s : State} (h : ∀ b ∈ s.bolts, b.completed < boltPanels b) : finishBolts s = s := by
  have : s.bolts.filter (fun b => decide (boltPanels b ≤ b.completed)) = [] := by
    rw [List.filter_eq_nil_iff]
    intro b hb
    simpa using h b hb
  rw [finishBolts, this]
  rfl

theorem countPanel_of_ne {bolt : Option (Nat × Nat)} {x : Bolt} (h : bolt ≠ some (x.queue, x.seq)) : countPanel bolt x = x := if_neg h

theorem countPanel_key (bolt : Option (Nat × Nat)) (x : Bolt) (q n : Nat) : isBolt q n (countPanel bolt x) = isBolt q n x := by
  unfold countPanel
  split <;> rfl

theorem countPanel_other {b x : Bolt} (h : isBolt b.queue b.seq x = false) : countPanel (some (b.queue, b.seq)) x = x := by
  refine countPanel_of_ne (fun e => ?_)
  simp only [Option.some.injEq, Prod.mk.injEq] at e
  simp [isBolt, e.1, e.2] at h

/-- Of the bolts that have counted a panel, the one whose last panel it was is the only one that is finished. -/
theorem filter_finished {l : List Bolt} {b : Bolt} (hf : l.filter (isBolt b.queue b.seq) = [b]) (hb : boltPanels b = b.completed + 1)
    (ho : ∀ x ∈ l, isBolt b.queue b.seq x = false → x.completed < boltPanels x) :
    (l.map (countPanel (some (b.queue, b.seq)))).filter (fun x => decide (boltPanels x ≤ x.completed)) =
      [{ b with completed := b.completed + 1 }] := by
  have hcb : countPanel (some (b.queue, b.seq)) b = { b with completed := b.completed + 1 } := if_pos rfl
  rw [List.filter_map, ← hcb, ← List.map_singleton (f := countPanel (some (b.queue, b.seq))), ← hf]
  congr 1
  refine List.filter_congr (fun x hx => ?_)
  cases h : isBolt b.queue b.seq x with
  | true =>
    obtain rfl : x = b := List.mem_singleton.mp (hf ▸ List.mem_filter.mpr ⟨hx, h⟩)
    rw [Function.comp_apply, hcb]
    exact decide_eq_true (Nat.le_of_eq hb)
  | false =>
    rw [Function.comp_apply, countPanel_other h]
    exact decide_eq_false (Nat.not_le.mpr (ho x hx h))

/-- The other bolts are as they were. -/
theorem filter_unfinished (l : List Bolt) (b : Bolt) :
    (l.map (countPanel (some (b.queue, b.seq)))).filter (fun x => !isBolt b.queue b.seq x) = l.filter (fun x => !isBolt b.queue b.seq x) := by
  rw [List.filter_map]
  have hk : ((fun x => !isBolt b.queue b.seq x) ∘ countPanel (some (b.queue, b.seq))) = fun x => !isBolt b.queue b.seq x := by
    funext x
    rw [Function.comp_apply, countPanel_key]
  rw [hk]
  refine (List.map_congr_left (fun x hx => countPanel_other ?_)).trans (List.map_id _)
  simpa using (List.mem_filter.mp hx).2

/-- A completion store that does not fault is made. -/
theorem completionStore_made {b : Bolt} {va : W64} {bs : List Byte} {s s1 : State} (h : devStore s b.ctx b.die va bs = (none, s1)) :
    completionStore b va bs s = s1 := by
  rw [completionStore, h]

/-- The state of a bolt's end just before its completion word: the bolt is gone, the TLBs' A and D and its clusters' lines are written. -/
def boltWritten (b : Bolt) (s : State) : State :=
  b.clusters.foldl (fun a c => writeBack a c allLines)
    (writeTlbAd (fun e => e.ctx == ctxTag s b.ctx) { s with bolts := s.bolts.filter (fun x => !isBolt b.queue b.seq x) })

theorem finishBolt_stores {b : Bolt} {s s1 : State} (hf : b.failed = false) (ha : b.doneAddr ≠ 0)
    (h : devStore (boltWritten b s) b.ctx b.die b.doneAddr (bytesOf 8 b.doneVal.toNat) = (none, s1)) : finishBolt b s = s1 := by
  have hn : (b.failed || b.doneAddr == 0) = false := by rw [hf, Bool.false_or]; exact beq_eq_false_iff_ne.mpr ha
  simp only [finishBolt, hn, Bool.false_eq_true, if_false]
  exact completionStore_made h

/-- Settles O50: a record is taken or refused, a bolt is released, a panel is placed, a panel completes and with it perhaps its bolt. -/
theorem dispatcherEvents : Obligations.DispatcherEvents := by
  refine ⟨fun n c q pair slot l w s s1 s2 s3 hq hc hen hv hb hh hp hpa hl hlt hle hs hsa hw hst => ?_,
    fun n b s s1 hb hr => ⟨fun h => ?_, fun h => happens_of_event rfl (releaseBolt_unmet hb hr h)⟩,
    fun b core r s hb hc hr => ?_, fun id p s hp hd hpb hbs => ?_, fun id p b s s1 s2 s3 s4 hp hd hpb hf hb ho hfl ha h1 h2 h3 hst => ?_⟩
  · have ht := takeRecord_admits hq hc hen hv hb hh hp hpa hl hlt hle hs hsa hw hst
    refine ⟨fun code hcode hhalt => ?_, fun die s4 hcode hd => ?_⟩
    · rw [admitRecord_refused hcode hhalt] at ht
      exact ⟨_, _, happens_of_event rfl ht, rfl, rfl, rfl, rfl, rfl, rfl⟩
    · rw [admitRecord_taken hcode hd] at ht
      exact ⟨_, _, happens_of_event rfl ht, rfl, rfl, rfl, rfl, rfl, rfl, rfl, rfl, rfl, rfl, rfl, rfl, rfl,
        boltOf_released, boltOf_deps_length _ _ _ _ _ _ _⟩
  · refine ⟨_, happens_of_event rfl (releaseBolt_met hb hr h), fun x hx hq hn => ?_, List.length_map _, rfl, rfl⟩
    obtain ⟨y, -, rfl⟩ := List.mem_map.mp hx
    split
    · rfl
    · rename_i hne
      rw [if_neg hne] at hq hn
      exact absurd (isBolt_iff.mpr ⟨hq, hn⟩) hne
  · refine ⟨_, _, happens_of_event rfl (placePanel_starts hb hc hr), mem_startPanel_panels b core r _, rfl, rfl, rfl, rfl,
      rfl, fun j hj => ?_⟩
    obtain ⟨a, hm⟩ := mem_startPanel_groups hj core r { s with lastQueue := cset (fun _ => 15) s.lastQueue b.prio.toNat b.queue }
    exact ⟨_, hm, rfl, rfl, rfl, rfl, rfl, rfl, cget_cset_same zero _ _ _⟩
  · have hnone : ∀ x ∈ s.bolts.map (countPanel p.bolt), x.completed < boltPanels x := by
      intro x hx
      obtain ⟨y, hy, rfl⟩ := List.mem_map.mp hx
      unfold countPanel
      split
      · exact hpb y hy ‹_›
      · exact hbs y hy
    refine ⟨_, happens_of_event rfl ((completePanel_done hp hd).trans (finishBolts_none hnone)), fun x hx => ?_,
      fun g hg hl => ?_, rfl, rfl, rfl⟩
    · simpa using (List.mem_filter.mp (show x ∈ s.panels.filter (fun x => x.id != id) from hx)).2
    · simpa using ((live_mem_removeGroups (p := fun g => g.panel == id) hl).mp hg).2
  · subst h1 h2 h3
    have hfin : completePanel id s = finishBolt { b with completed := b.completed + 1 }
        { freedPanel id s with bolts := s.bolts.map (countPanel (some (b.queue, b.seq))) } := by
      rw [completePanel_done hp hd, hpb, finishBolts, filter_finished hf hb ho]
      rfl
    refine happens_of_event rfl (hfin.trans (finishBolt_stores hfl ha ?_))
    rw [boltWritten, filter_unfinished]
    exact hst

end Sys2Proof.Proofs
end

section
/-! PROOF. Spawned groups and passes (R43 to R45, R249, R278, R281, R282, R285): the timer of a bin, the placing of a bobbin's group, and a
pass's primitives, fragment groups and end. -/

namespace Sys2Proof.Proofs

open Sys2Proof.Machine Sys2Proof.Safety Sys2Proof.Laws

/-! The timer of a bin. -/

/-- What a search finds it finds among the ones kept, where it is one of them. -/
theorem find?_filter_of_kept {α : Type} {p q : α → Bool} {l : List α} {b : α} (h : l.find? p = some b) (hq : q b = true) :
    (l.filter q).find? p = some b := by
  obtain ⟨hb, as, bs, rfl, has⟩ := List.find?_eq_some_iff_append.mp h
  refine List.find?_eq_some_iff_append.mpr ⟨hb, as.filter q, bs.filter q, ?_, fun a ha => has a (List.mem_filter.mp ha).1⟩
  rw [List.filter_append, List.filter_cons_of_pos hq]

section Timeout

variable {die ctx : Nat} {e : W64} {b : Bin} {s : State} (h : s.bins.find? (isBin die ctx e) = some b)
include h

theorem binTimeout_forms (ht : b.timer = true) (hr : b.recs ≠ []) : binTimeout die ctx e s = cleanBins (formGroup 63 b s) := by
  simp [binTimeout, h, ht, hr]

/-- A bin that keeps records is not freed. -/
theorem find?_cleanBins_formGroup {n : Nat} (hn : n < b.recs.length) :
    (cleanBins (formGroup n b s)).bins.find? (isBin die ctx e) = some (remaining n b) := by
  have hh : binHeld (formGroup n b s) (remaining n b) = true := by
    have hr : (b.recs.drop n).isEmpty = false := by simpa using hn
    simp only [binHeld, remaining, hr, Bool.not_false, Bool.true_or]
  exact find?_filter_of_kept (find?_formGroup n h) hh

end Timeout

/-! The placing of a bobbin's group. -/

/-- The state in which a bobbin's group starts: its core's L1 is flushed of the lines of the bin's swatch (R45, R221). -/
def bobbinBase (f : Formed) (core : Nat) (s : State) : State := flush s (core / 4) (fun x => swatchHit f.swatch x)

/-- The panel of a bobbin's group. -/
def bobbinPanel (f : Formed) (core rec_ : Nat) (s : State) : Panel :=
  freshPanel (bobbinBase f core s) .bobbin f.ctx f.die core none 1 rec_

/-- A bobbin's group as it starts (R45, R249). -/
def bobbinGroup (f : Formed) (part : W64) (core rec_ : Nat) (l : List (List W64)) (s : State) : Group :=
  { freshGroup (addPanel (bobbinPanel f core rec_ s) (bobbinBase f core s)) (bobbinPanel f core rec_ s) 0 part f.entry
      (BitVec.ofNat 64 (2 ^ f.offs.length - 1)) f.prio f.ccls with
    v := payloadRegs l, swDie := f.swatch }

theorem mem_startBobbin (f : Formed) (part : W64) (core rec_ : Nat) (l : List (List W64)) (s : State) :
    bobbinGroup f part core rec_ l s ∈ allGroups (startBobbin f part core rec_ l s) :=
  mem_addGroup (bobbinGroup f part core rec_ l s) (addPanel (bobbinPanel f core rec_ s) (bobbinBase f core s))

theorem placeBobbin_starts {f : Formed} {r : List Formed} {w : W64} {core rec_ : Nat} {l : List (List W64)} {s s1 s3 : State}
    (hf : s.formed = f :: r) (hc : ctxRuns s f.ctx = true) (he : entryPart f.ctx f.die f.entry s = (some w, s1)) (hw : partOk w 1 = true)
    (hp : placeCore s1 f.die w 1 = some core) (hr : freeRecord s1 f.ctx = some rec_)
    (hl : loadPayloads f.die f.offs { s1 with formed := s1.formed.filter (fun x => !(x == f)) } = (.inl l, s3)) :
    placeBobbin s = startBobbin f w core rec_ l s3 := by
  have ht : tryBobbin f s = some (startBobbin f w core rec_ l s3) := by
    simp only [tryBobbin, hc, he, Option.filter_some, hw, hp, hr, hl, Bool.not_true, Bool.false_eq_true, if_false, if_true]
  rw [placeBobbin, hf, List.findSome?_cons, ht, Option.getD_some]

/-! Passes. -/

theorem isPass_eq {die ctx : Nat} {args : W64} {p : Pass} : isPass die ctx args p = true ↔ p.die = die ∧ p.ctx = ctx ∧ p.args = args := by
  simp [isPass, and_assoc]

/-- A pass that is found is there as it has been changed. -/
theorem mem_onPass {die ctx : Nat} {args : W64} {p : Pass} {s : State} (h : s.passes.find? (isPass die ctx args) = some p)
    (f : Pass → Pass) : f p ∈ (onPass die ctx args f s).passes :=
  List.mem_map.mpr ⟨p, List.mem_of_find?_eq_some h, if_pos (List.find?_some h : isPass die ctx args p = true)⟩

theorem rasterise_found {die ctx : Nat} {args : W64} {p : Pass} {x : Prim} {s : State} (h : s.passes.find? (isPass die ctx args) = some p)
    (hx : p.prims.find? (fun y => y.tiles.isNone) = some x) : rasterise die ctx args s = onPass die ctx args (rasterPrim x) s := by
  rw [rasterise, h]
  dsimp only
  rw [hx]

/-- A primitive that is not on the screen, or covers no tile, is culled (R278, R281). -/
theorem rasterPrim_culled {x : Prim} {p : Pass}
    (h : onScreen (passView p) x.verts = none ∨ ∃ o, onScreen (passView p) x.verts = some o ∧ coveredTiles (passView p) o.pieces = []) :
    rasterPrim x p = { p with culled := p.culled + 1, prims := p.prims.filter (fun y => y.seq != x.seq) } := by
  unfold rasterPrim
  rcases h with h | ⟨o, h, ht⟩
  · rw [h]; rfl
  · rw [h]; dsimp only; rw [ht]; rfl

/-- A primitive that covers tiles has them. -/
theorem rasterPrim_tiles {x : Prim} {p : Pass} {o : OnScreen} (h : onScreen (passView p) x.verts = some o)
    (ht : coveredTiles (passView p) o.pieces ≠ []) : rasterPrim x p = { p with
      prims := p.prims.map (fun y => if y.seq = x.seq then { y with tiles := some (coveredTiles (passView p) o.pieces) } else y) } := by
  rw [rasterPrim, h]
  exact if_neg (by simpa using ht)

/-! Fragment groups. -/

theorem scrWrite_allGroups (bs : List Byte) (p k : Nat) (s : State) : allGroups (scrWrite s p k bs) = allGroups s := by
  induction bs generalizing s k with
  | nil => rfl
  | cons b r ih => rw [scrWrite, ih]; rfl

/-- The panel of a fragment group. -/
def fragmentPanel (p : Pass) (core rec_ : Nat) (s : State) : Panel := freshPanel s .fragment p.ctx p.die core none 1 rec_

/-- The state in which a fragment group starts: its tile is the primitive's no more. -/
def fragmentBase (p : Pass) (x : Prim) (tile core rec_ : Nat) (s : State) : State :=
  addPanel (fragmentPanel p core rec_ s) (onPass p.die p.ctx p.args (dropTile x.seq tile) s)

/-- A fragment group as it starts (R282). -/
def fragmentGroup (p : Pass) (x : Prim) (o : OnScreen) (tile : Nat) (part : W64) (core rec_ code : Nat) (s : State) : Group :=
  let b := fragmentBase p x tile core rec_ s
  fragmentRegs p x o tile code b.free (freshGroup b (fragmentPanel p core rec_ s) 0 part (p.desc.getD 3 0) 0 x.prio x.ccls)

theorem mem_startFragment (p : Pass) (x : Prim) (o : OnScreen) (tile : Nat) (part : W64) (core rec_ : Nat) (s : State) :
    fragmentGroup p x o tile part core rec_ (rateCode p tile s).1 (rateCode p tile s).2 ∈
      allGroups (startFragment p x o tile part core rec_ s) := by
  rw [startFragment]
  dsimp only
  rw [scrWrite_allGroups]
  exact mem_addGroup (fragmentGroup p x o tile part core rec_ (rateCode p tile s).1 (rateCode p tile s).2)
    (bump (fragmentBase p x tile core rec_ (rateCode p tile s).2))

theorem cget_csetAll_cons {α : Type} [DecidableEq α] (d : Nat → α) (m : Cells α) (k : Nat) (v : α) {r : List (Nat × α)}
    (h : ∀ e ∈ r, e.1 ≠ k) : cget d (csetAll d m ((k, v) :: r)) k = v := by
  rw [csetAll, cget_csetAll_other d r h, cget_cset_same]

theorem fragmentRegs_mask (p : Pass) (x : Prim) (o : OnScreen) (tile code free : Nat) (g : Group) :
    cget zero (fragmentRegs p x o tile code free g).s 1 = (fragmentRegs p x o tile code free g).exmask :=
  cget_csetAll_cons zero [] 1 _ (by simp)

theorem fragmentRegs_args (p : Pass) (x : Prim) (o : OnScreen) (tile code free : Nat) (g : Group) :
    cget zero (fragmentRegs p x o tile code free g).s 2 = p.desc.getD 4 0 := by
  rw [fragmentRegs]
  dsimp only
  rw [csetAll]
  exact cget_csetAll_cons zero _ 2 _ (by simp)

theorem launchFragment_starts {die ctx tile core rec_ : Nat} {args w : W64} {p : Pass} {x : Prim} {o : OnScreen} {s s1 : State}
    (h : s.passes.find? (isPass die ctx args) = some p)
    (hx : (launchable p.prims [])[Config.choose s.free 0 % (launchable p.prims []).length]? = some (x, tile))
    (he : entryPart ctx die (p.desc.getD 3 0) (bump s) = (some w, s1)) (hw : partOk w 1 = true)
    (ho : onScreen (passView p) x.verts = some o) (hc : placeCore s1 die w 1 = some core) (hr : freeRecord s1 ctx = some rec_)
    (hrun : ctxRuns s1 ctx = true) : launchFragment die ctx args s = startFragment p x o tile w core rec_ s1 := by
  simp only [launchFragment, h, hx, he, Option.filter_some, hw, ho, hc, hr, hrun, if_true]

/-! The end of a pass. -/

/-- The state of a pass's end before its stores: the pass is gone, and every cluster's lines are written back. -/
def passWritten (die ctx : Nat) (args : W64) (s : State) : State :=
  (l1Clusters s).foldl (fun a c => writeBack a c allLines) { s with passes := s.passes.filter (fun x => !isPass die ctx args x) }

section Complete

variable {die ctx : Nat} {args : W64} {p : Pass} {bs : List Byte} {s s1 : State} (h : s.passes.find? (isPass die ctx args) = some p)
  (hp : p.prims = []) (hg : ∀ g ∈ allGroups s, ofPass p g = false) (hl : devLoad s ctx die 8 args = (.inl bs, s1)) (hb : natOf bs % 2 = 1)
include h hp hg hl hb

/-- A closed, empty pass stores COUNT, DONE and, where it names an address, DONEVAL. -/
theorem completePass_closed : completePass die ctx args s =
    let t := completionStore (passBolt p) args (bytesOf 8 (natOf bs ||| 2))
      (completionStore (passBolt p) (args + 0x50) (bytesOf 8 (p.accepted + p.culled * 2 ^ 32)) (passWritten die ctx args s1))
    if p.desc.getD 8 0 = 0 then t else completionStore (passBolt p) (p.desc.getD 8 0) (bytesOf 8 (p.desc.getD 9 0).toNat) t := by
  have hany : (!p.prims.isEmpty || (allGroups s).any (ofPass p)) = false := by
    rw [hp, List.isEmpty_nil, Bool.not_true, Bool.false_or, List.any_eq_false]
    exact fun g hm => by simp [hg g hm]
  have hodd : ¬ natOf bs % 2 = 0 := by omega
  simp only [completePass, h, hany, hl, Bool.false_eq_true, if_false, if_neg hodd]
  rfl

end Complete

/-- Settles O54: a bin's timer forms a group, a bobbin's group and a fragment group start, a primitive is rasterised, a pass ends. -/
theorem spawnAndPassEvents : Obligations.SpawnAndPassEvents := by
  refine ⟨fun die ctx e b s hb ht hr => ?_, fun f r w core rec_ l s s1 s3 hf hc he hw hp hr hl => ?_,
    fun die ctx args p x s h hx => ⟨fun hn => ?_, fun o ho ht => ?_⟩,
    fun die ctx tile core rec_ args w p x o s s1 h hx he hw ho hc hr hrun => ?_,
    fun die ctx args p bs s s1 s2 s3 s4 h hp hg hl hodd h2 hcount hdone => ?_⟩
  · have ho : BinsOnly s (cleanBins (formGroup 63 b s)) := binsOnly_trans (binsOnly_formGroup 63 b s) (binsOnly_cleanBins _)
    obtain ⟨hd, hctx, hent⟩ := isBin_eq.mp (isBin_of_found hb)
    exact ⟨cleanBins (formGroup 63 b s), _, happens_of_event rfl (binTimeout_forms hb ht hr), rfl, hd, hctx, hent, rfl, rfl, ho.storesNothing,
      ho.g_eq, fun hlen => by rw [find?_cleanBins_formGroup hb hlen]; rfl⟩
  · exact ⟨startBobbin f w core rec_ l s3, happens_of_event rfl (placeBobbin_starts hf hc he hw hp hr hl), bobbinGroup f w core rec_ l s3,
      mem_startBobbin f w core rec_ l s3, rfl, rfl, rfl, rfl, rfl, rfl, rfl, rfl, rfl, rfl, rfl⟩
  · have hq := mem_onPass h (rasterPrim x)
    rw [rasterPrim_culled hn] at hq
    refine ⟨onPass die ctx args (rasterPrim x) s, happens_of_event rfl (rasterise_found h hx), ⟨rfl, rfl⟩, rfl, _, hq,
      (isPass_eq.mp (List.find?_some h)).2.2, rfl, rfl, fun y hy => ?_⟩
    simpa using (List.mem_filter.mp hy).2
  · have hq := mem_onPass h (rasterPrim x)
    rw [rasterPrim_tiles ho ht] at hq
    refine ⟨onPass die ctx args (rasterPrim x) s, happens_of_event rfl (rasterise_found h hx), ⟨rfl, rfl⟩, rfl, _, hq,
      (isPass_eq.mp (List.find?_some h)).2.2, rfl, _, List.mem_map.mpr ⟨x, List.mem_of_find?_eq_some hx, if_pos rfl⟩, rfl, rfl, rfl⟩
  · refine ⟨startFragment p x o tile w core rec_ s1, happens_of_event rfl (launchFragment_starts h hx he hw ho hc hr hrun),
      fragmentGroup p x o tile w core rec_ (rateCode p tile s1).1 (rateCode p tile s1).2, mem_startFragment p x o tile w core rec_ s1,
      rfl, rfl, rfl, rfl, rfl, fragmentRegs_args _ _ _ _ _ _ _, fragmentRegs_mask _ _ _ _ _ _ _, rfl, rfl, rfl⟩
  · obtain ⟨rfl, rfl, -⟩ := isPass_eq.mp (List.find?_some h)
    subst h2
    have hend := completePass_closed h hp hg hl hodd
    rw [completionStore_made (b := passBolt p) (s := passWritten p.die p.ctx args s1) hcount, completionStore_made (b := passBolt p) hdone] at hend
    refine ⟨fun hz => happens_of_event rfl (hend.trans (if_pos hz)), fun s5 hz h5 => happens_of_event rfl (hend.trans ?_)⟩
    rw [if_neg hz]
    exact completionStore_made (b := passBolt p) h5

end Sys2Proof.Proofs
end

section
/-! PROOF. Panels that leave their core and come back (R50, R243, R254 to R256, R258, R261): what the saving of a panel does, and that what
each of its groups does as it comes back leaves the placement of the groups as it is. -/

namespace Sys2Proof.Proofs

open Sys2Proof.Machine Sys2Proof.Safety Sys2Proof.Laws

/-! Groups that are changed in place. -/

theorem mem_mapGroups {f : Group → Group} {g : Group} {s : State} : g ∈ allGroups (mapGroups f s) ↔ ∃ h ∈ allGroups s, f h = g := by
  simp [allGroups, eq_comm]

/-- A panel that a search by number finds has that number. -/
theorem panelOf_id {id : Nat} {p : Panel} {s : State} (h : panelOf s id = some p) : p.id = id := by
  simpa using List.find?_some h

/-! Saving a panel. -/

theorem homesOnly_touchImage (p : Nat → Bool) (l : List Nat) (w : Bool) (s : State) : HomesOnly s (touchImage p l w s) :=
  homesOnly_foldl (fun a k => homesOnly_touch a k 0 3 w) _ s

/-- Writing an image leaves groups and panels as they are, and the image holds its units. -/
theorem writeImage_spec (l : List Nat) (s : State) : allGroups (writeImage l s) = allGroups s ∧ (writeImage l s).panels = s.panels ∧
    ∀ u ∈ l, ∃ x ∈ (writeImage l s).image, x.unit = u ∧ x.written = [] := by
  have h1 := homesOnly_touchImage (fun _ => true) l true s
  have h2 := homesOnly_foldl (fun a x => homesOnly_backInvalidate a (128 * x))
    ((touchImage (fun _ => true) l true s).hostLines.filter (fun x => l.contains (x / 32))) (touchImage (fun _ => true) l true s)
  have h := homesOnly_trans h1 h2
  refine ⟨?_, h.panels_eq, fun u hu => ⟨⟨u, s.free, []⟩, List.mem_append_left _ (List.mem_map.mpr ⟨u, hu, rfl⟩), rfl, rfl⟩⟩
  calc allGroups (writeImage l s) = _ :: _ := rfl
    _ = allGroups s := congrArg₂ List.cons h.g_eq h.others_eq

/-- A panel's group as it is saved. -/
def savedGroup (id : Nat) (g : Group) : Group :=
  if g.live && g.panel == id then { g with resident := false, stall := 0, waited := 0 } else g

theorem savedGroup_resident {id : Nat} {g : Group} (hl : (savedGroup id g).live = true) (hp : (savedGroup id g).panel = id) :
    (savedGroup id g).resident = false := by
  unfold savedGroup at hl hp ⊢
  split
  · rfl
  · rename_i h
    rw [if_neg h] at hl hp
    simp [hl, hp] at h

/-- A saved panel is on no core, nor are its groups, and the image holds its record. -/
theorem savePanel_spec {p : Panel} {l : List Nat} {s s0 : State} (h : imageUnits needW p s = .inl (l, s0)) :
    (∀ x ∈ (savePanel p s).panels, x.id = p.id → x.resident = false ∧ x.request = none) ∧
    (∀ g ∈ allGroups (savePanel p s), g.live = true → g.panel = p.id → g.resident = false) ∧
    ∀ u ∈ l, ∃ x ∈ (savePanel p s).image, x.unit = u ∧ x.written = [] := by
  rw [savePanel, h]
  dsimp only
  set s1 := (panelGroups s0 p.id).foldl (fun a g => writeBack a (p.core / 4) (fun x => swatchHit g.swDie x)) s0
  obtain ⟨hg, hpan, himg⟩ := writeImage_spec l { mapGroups (savedGroup p.id) s1 with
    panels := s1.panels.map (fun x => if x.id = p.id then { x with resident := false, request := none } else x) }
  refine ⟨fun x hx hid => ?_, fun g hm hl hp => ?_, himg⟩
  · obtain ⟨y, -, rfl⟩ := List.mem_map.mp (hpan ▸ hx)
    split
    · exact ⟨rfl, rfl⟩
    · rename_i hne
      rw [if_neg hne] at hid
      exact absurd hid hne
  · obtain ⟨g0, -, rfl⟩ := mem_mapGroups.mp (show g ∈ allGroups (mapGroups (savedGroup p.id) s1) from hg ▸ hm)
    exact savedGroup_resident hl hp

/-- A panel that stays blocked and quiet after its work has run to its end is saved. -/
theorem evict_saves {p q : Panel} {s : State} (hq : panelOf (quiesce p.id s) p.id = some q) (hb : allBlocked (quiesce p.id s) p.id = true)
    (hn : panelQuiet (quiesce p.id s) p.id = true) : evict p s = savePanel p (quiesce p.id s) := by
  simp only [evict, hq, hb, hn, Option.isSome_some, Bool.and_self, if_true]

/-- A group that does nothing for now: it has exited, or waits at a point that charges its waiting (R261). -/
def idleGroup (g : Group) : Bool :=
  g.exited || (match g.block with | some b => chargedKind b | none => false)

theorem idleGroup_of_blocked {g : Group} (h : g.exited = true ∨ ∃ b, g.block = some b ∧ 1 ≤ b.kind ∧ b.kind ≤ 7) : idleGroup g = true := by
  unfold idleGroup
  rcases h with h | ⟨b, hb, h1, h7⟩
  · rw [h, Bool.true_or]
  · simp [hb, chargedKind, h1, h7]

section Evict

variable {id : Nat} {p : Panel} {s : State} (hp : panelOf s id = some p) (hr : p.resident = true) (hb : allBlocked s id = true)
include hp hr hb

theorem evictPanel_asked (h : p.request.isSome = true ∨ bit (rdWin s (ctxReg p.ctx 0x28)) 32 = true) : evictPanel id s = evict p s := by
  have ha : (p.request.isSome || bit (rdWin s (ctxReg p.ctx 0x28)) 32) = true := (Bool.or_eq_true _ _).mpr h
  simp only [evictPanel, hp, hr, hb, ha, Bool.and_self, if_true]

theorem evictIdle_idle (hw : waiters s p.die ≠ [])
    (h : ∀ g ∈ panelGroups s id, g.exited = true ∨ ∃ b, g.block = some b ∧ 1 ≤ b.kind ∧ b.kind ≤ 7) : evictIdle id s = evict p s := by
  have hi : (panelGroups s id).all idleGroup = true := List.all_eq_true.mpr (fun g hg => idleGroup_of_blocked (h g hg))
  have hne : (!(waiters s p.die).isEmpty) = true := by simpa using hw
  have he : evictIdle id s =
      if p.resident && allBlocked s id && (panelGroups s id).all idleGroup && !(waiters s p.die).isEmpty then evict p s else s := by
    rw [evictIdle, hp]
    rfl
  rw [he, hr, hb, hi, hne]
  rfl

end Evict

/-! Where groups stand. -/

/-- What a panel's coming back sets in a group, and what says that it is set. -/
structure Placing where
  panel : Nat
  id : Nat
  exited : Bool
  resident : Bool
  core : Nat
  absent : List Nat
  part : W64

def placing (g : Group) : Placing := ⟨g.panel, g.id, g.exited, g.resident, g.core, g.absent, g.part⟩

/-- Each live group of `t` stands as a live group of `s` does, and each panel of `t` is one of `s`. -/
def Stays (s t : State) : Prop :=
  (∀ g ∈ allGroups t, g.live = true → ∃ h ∈ allGroups s, h.live = true ∧ placing h = placing g) ∧ ∀ p ∈ t.panels, p ∈ s.panels

theorem stays_refl (s : State) : Stays s s := ⟨fun g hg hl => ⟨g, hg, hl, rfl⟩, fun _ h => h⟩

theorem stays_trans {s t u : State} (h : Stays s t) (k : Stays t u) : Stays s u := by
  refine ⟨fun g hg hl => ?_, fun p hp => h.2 p (k.2 p hp)⟩
  obtain ⟨a, ha, hal, hae⟩ := k.1 g hg hl
  obtain ⟨b, hb, hbl, hbe⟩ := h.1 a ha hal
  exact ⟨b, hb, hbl, hbe.trans hae⟩

/-- Where groups only go, the ones left stand as they did. -/
theorem stays_of_mem {s t : State} (hg : ∀ g ∈ allGroups t, g.live = true → g ∈ allGroups s) (hp : ∀ p ∈ t.panels, p ∈ s.panels) :
    Stays s t := ⟨fun g h hl => ⟨g, hg g h hl, hl, rfl⟩, hp⟩

theorem stays_of_eq {s t : State} (hg : allGroups t = allGroups s) (hp : t.panels = s.panels) : Stays s t :=
  stays_of_mem (fun _ h _ => hg ▸ h) (fun _ h => hp ▸ h)

theorem stays_homesOnly {s t : State} (h : HomesOnly s t) : Stays s t :=
  stays_of_eq (congrArg₂ List.cons h.g_eq h.others_eq) h.panels_eq

theorem stays_mapGroups {f : Group → Group} (hl : ∀ g, (f g).live = g.live) (hf : ∀ g, placing (f g) = placing g) (s : State) :
    Stays s (mapGroups f s) := by
  refine ⟨fun g hg h => ?_, fun _ h => h⟩
  obtain ⟨a, ha, rfl⟩ := mem_mapGroups.mp hg
  exact ⟨a, ha, hl a ▸ h, (hf a).symm⟩

theorem stays_onG {f : Group → Group} {s : State} (hl : (f s.g).live = s.g.live) (hf : placing (f s.g) = placing s.g) :
    Stays s (onG f s) := by
  refine ⟨fun g hg h => ?_, fun _ h => h⟩
  rcases List.mem_cons.mp hg with rfl | hg
  · exact ⟨s.g, List.mem_cons_self, hl ▸ h, hf.symm⟩
  · exact ⟨g, List.mem_cons_of_mem _ hg, h, rfl⟩

theorem stays_focus {p : Group → Bool} {s t : State} (h : focus p s = some t) : Stays s t := by
  unfold focus at h
  split at h
  · cases h; exact stays_refl s
  · split at h
    · cases h
    · rename_i g hf
      cases h
      refine stays_of_mem (fun x hx hl => ?_) (fun _ h => h)
      have hrest : ∀ y ∈ s.others.filter (fun x => !(x.live && x.id == g.id)), y ∈ allGroups s :=
        fun y hy => List.mem_cons_of_mem _ (List.mem_filter.mp hy).1
      rcases List.mem_cons.mp hx with rfl | hx
      · exact List.mem_cons_of_mem _ (List.mem_of_find?_eq_some hf)
      · dsimp only at hx
        split at hx
        · rcases List.mem_cons.mp hx with rfl | hx
          · exact List.mem_cons_self
          · exact hrest x hx
        · exact hrest x hx

theorem stays_refocus (old s : State) : Stays s (refocus old s) := by
  unfold refocus
  cases h : (if old.g.live then focus (fun g => g.id == old.g.id) s else none) with
  | none => exact stays_refl s
  | some t =>
    split at h
    · exact stays_focus h
    · cases h

theorem stays_withGroup {f : State → State} (hf : ∀ s, Stays s (f s)) (id : Nat) (s : State) : Stays s (withGroup id f s) := by
  unfold withGroup
  split
  · exact stays_refl s
  · rename_i s1 h
    exact stays_trans (stays_focus h) (stays_trans (hf s1) (stays_refocus s _))

/-! Records and fatal events. -/

theorem stays_postRec (r : EvRec) (s : State) : Stays s (postRec r s) := by
  unfold postRec
  split
  · exact stays_refl s
  · split
    · exact stays_trans (t := wrWin (wrWin s eqStat _) (ctxReg r.ctx 0x28) _)
        (stays_homesOnly (homesOnly_trans (homesOnly_wrWin s _ _) (homesOnly_wrWin _ _ _)))
        (stays_mapGroups (fun g => by split <;> rfl) (fun g => by split <;> rfl) _)
    · exact stays_of_eq rfl rfl

theorem stays_killPanel (i : Nat) (s : State) : Stays s (killPanel i s) :=
  stays_of_mem (shrinks_killPanel i s).2 (fun _ h => (List.mem_filter.mp h).1)

theorem stays_killCtx (c : Nat) (s : State) : Stays s (killCtx c s) := by
  obtain ⟨w, hw⟩ := disableQueues_frame (killWork c s) c
  rw [killCtx_eq, hw]
  refine stays_of_mem (fun g hg hl => ((killWork_allGroups hl).mp hg).1) (fun p hp => ?_)
  rw [killWork_panels] at hp
  exact (List.mem_filter.mp hp).1

theorem stays_fatalEnd (cause sub : Nat) (addr : W64) (s : State) : Stays s (fatalEnd cause sub addr s) := by
  unfold fatalEnd
  split
  · exact stays_trans (stays_postRec _ s) (stays_killPanel _ _)
  · exact stays_trans (stays_postRec _ s) (stays_killCtx _ _)

/-! Blocking points of a group that comes back. -/

theorem stays_unblock (s : State) : Stays s (unblock s) := by
  unfold unblock
  split
  · split <;> exact stays_onG rfl rfl
  · exact stays_refl s

theorem stays_postAndWait (code : Nat) (i : Bool) (s : State) : Stays s (postAndWait code i s) := by
  unfold postAndWait
  dsimp only
  split
  · exact stays_trans (stays_postRec _ s) (stays_onG rfl rfl)
  · exact stays_onG rfl rfl

theorem stays_leavePoint (s : State) : Stays s (leavePoint s) := by
  unfold leavePoint
  split
  · split
    · exact stays_trans (stays_unblock s) (stays_postAndWait _ _ _)
    · split
      · exact stays_trans (stays_unblock s) (stays_onG rfl rfl)
      · exact stays_unblock s
  · exact stays_refl s

theorem homesOnly_touchObject (va : W64) (n : Nat) (s : State) : HomesOnly s (touchObject va n s) := by
  rw [touchObject]
  cases objectPlace s s.g va with
  | some p => exact homesOnly_ite (homesOnly_devRead s p n) (homesOnly_touch s _ _ _ _)
  | none => exact homesOnly_refl s

theorem stays_readAgain (s : State) : Stays s (readAgain s) := by
  unfold readAgain
  split
  · split
    · rw [watchAgain]
      cases watchedError s _ with
      | some sub => exact stays_fatalEnd _ _ _ s
      | none => exact stays_homesOnly (homesOnly_touchObject _ _ s)
    · exact stays_refl s
  · exact stays_refl s

/-- A group that comes back leaves its point to issue its instruction again, or watches its word again. -/
def takeUp (s : State) : State :=
  match s.g.block with
  | some b => if 8 ≤ b.kind ∧ b.kind ≤ 10 then leavePoint s else readAgain s
  | none => s

theorem stays_takeUp (s : State) : Stays s (takeUp s) := by
  unfold takeUp
  split
  · split
    · exact stays_leavePoint s
    · exact stays_readAgain s
  · exact stays_refl s

/-! Coming back. -/

/-- A group as it is put on the panel's core. -/
def broughtGroup (p : Panel) (core ord id : Nat) (s : State) (g : Group) : Group :=
  if g.live && g.id == id then
    if g.exited then { g with core := core }
    else
      { g with
        core := core, slot := pickSlot s core, resident := true, order := ord, waited := 0, absent := allAbsent g.part
        tvec := rdWin s (ctxReg p.ctx 0x30) }
  else g

theorem bringBack_eq (p : Panel) (core ord id : Nat) (s : State) :
    bringBack p core ord id s = withGroup id takeUp (mapGroups (broughtGroup p core ord id s) s) := rfl

/-- A group stands on a core with its registers absent. -/
def Back (core : Nat) (x : Placing) : Prop := x.resident = true ∧ x.core = core ∧ x.absent = allAbsent x.part

theorem broughtGroup_frame (p : Panel) (core ord id : Nat) (s : State) (g : Group) :
    (broughtGroup p core ord id s g).live = g.live ∧ (broughtGroup p core ord id s g).panel = g.panel ∧
      (broughtGroup p core ord id s g).id = g.id ∧ (broughtGroup p core ord id s g).exited = g.exited := by
  unfold broughtGroup
  split
  · split <;> exact ⟨rfl, rfl, rfl, rfl⟩
  · exact ⟨rfl, rfl, rfl, rfl⟩

theorem broughtGroup_back {p : Panel} {core ord id : Nat} {s : State} {g : Group} (hl : g.live = true) (he : g.exited = false)
    (h : g.id = id ∨ Back core (placing g)) : Back core (placing (broughtGroup p core ord id s g)) := by
  unfold broughtGroup
  by_cases hi : g.id = id
  · simp only [hl, hi, he, beq_self_eq_true, Bool.and_self, if_true, Bool.false_eq_true, if_false]
    exact ⟨rfl, rfl, rfl⟩
  · rw [if_neg (by simp [hi])]
    exact h.resolve_left hi

/-- The groups of a panel that are still running are among the ones to come, or are back. -/
def ToCome (panel core : Nat) (l : List Nat) (s : State) : Prop :=
  ∀ g ∈ allGroups s, g.live = true → g.panel = panel → g.exited = false → g.id ∈ l ∨ Back core (placing g)

theorem toCome_stays {panel core : Nat} {l : List Nat} {s t : State} (h : ToCome panel core l s) (k : Stays s t) :
    ToCome panel core l t := by
  intro g hg hl hp he
  obtain ⟨a, ha, hal, hae⟩ := k.1 g hg hl
  have hpan : a.panel = g.panel := congrArg Placing.panel hae
  have hid : a.id = g.id := congrArg Placing.id hae
  have hex : a.exited = g.exited := congrArg Placing.exited hae
  rw [← hid, ← hae]
  exact h a ha hal (hpan.trans hp) (hex.trans he)

theorem toCome_bringBack {panel core id : Nat} {l : List Nat} {s : State} (p : Panel) (ord : Nat) (h : ToCome panel core (id :: l) s) :
    ToCome panel core l (bringBack p core ord id s) := by
  rw [bringBack_eq]
  refine toCome_stays (fun g hg hl hp he => ?_) (stays_withGroup stays_takeUp id _)
  obtain ⟨a, ha, rfl⟩ := mem_mapGroups.mp hg
  obtain ⟨el, ep, ei, ee⟩ := broughtGroup_frame p core ord id s a
  rw [el] at hl
  rw [ee] at he
  rw [ei]
  rcases h a ha hl (ep ▸ hp) he with hm | hb
  · rcases List.mem_cons.mp hm with hi | hm
    · exact .inr (broughtGroup_back hl he (.inl hi))
    · exact .inl hm
  · exact .inr (broughtGroup_back hl he (.inr hb))

/-- The groups come back in turn. -/
def bringAll (p : Panel) (core ord : Nat) (l : List Nat) (s : State) : State := l.foldl (fun a i => bringBack p core ord i a) s

theorem bringAll_spec (p : Panel) (panel core ord : Nat) (l : List Nat) {s : State} (h : ToCome panel core l s) :
    ToCome panel core [] (bringAll p core ord l s) ∧ ∀ x ∈ (bringAll p core ord l s).panels, x ∈ s.panels := by
  induction l generalizing s with
  | nil => exact ⟨h, fun _ hx => hx⟩
  | cons i r ih =>
    obtain ⟨hc, hp⟩ := ih (toCome_bringBack p ord h)
    refine ⟨hc, fun x hx => ?_⟩
    have := hp x hx
    rw [bringBack_eq] at this
    exact (stays_withGroup stays_takeUp i (mapGroups (broughtGroup p core ord i s) s)).2 x this

/-- The order in which a panel's groups come back names each of them. -/
theorem mem_panelOrder {s : State} {id : Nat} {g : Group} (hg : g ∈ allGroups s) (hl : g.live = true) (hp : g.panel = id) :
    g.id ∈ panelOrder s id := by
  have hk : fld g.gid 0 4 < 16 := Nat.mod_lt _ (by decide)
  refine List.mem_flatMap.mpr ⟨fld g.gid 0 4, List.mem_range.mpr hk, List.mem_map.mpr ⟨g, ?_, rfl⟩⟩
  simp [panelGroups, hg, hl, hp]

/-- The state with a panel on a core again. -/
def panelBack (id core : Nat) (s : State) : State :=
  { s with panels := s.panels.map (fun x => if x.id = id then { x with resident := true, core := core, request := none } else x) }

/-- What follows the coming back of the groups: the panel's cluster is noted for its bolt, and no panel is to go for this one any more. -/
def settleBack (id core : Nat) (s : State) : State := withdraw (.panel id) (noteCluster id (core / 4) s)

theorem restorePanel_brings {id core : Nat} {p : Panel} {l : List Nat} {s s0 : State} (hp : panelOf s id = some p)
    (hr : p.resident = false) (hc : ctxRuns s p.ctx = true) (hy : panelReady s id = true)
    (hcore : placeCore s p.die (panelPart s id) p.groups = some core) (hi : imageUnits needR p s = .inl (l, s0)) :
    ∃ s1, restorePanel id s = settleBack id core (bringAll p core (panelBack id core s1).nextId (panelOrder (panelBack id core s1) id)
      { panelBack id core s1 with nextId := (panelBack id core s1).nextId + 1 }) := by
  refine ⟨if core / 4 = p.core / 4 then touchImage (fun _ => true) l false s0
    else flushCluster (core / 4) (touchImage (fun _ => true) l false s0), ?_⟩
  simp only [restorePanel, hp, hr, hc, hy, hcore, hi, Bool.not_true, Bool.or_self, Bool.false_eq_true, if_false]
  rfl

theorem panelBack_spec {id core : Nat} {s : State} {x : Panel} (hx : x ∈ (panelBack id core s).panels) (hid : x.id = id) :
    x.resident = true ∧ x.core = core := by
  obtain ⟨y, -, rfl⟩ := List.mem_map.mp hx
  split
  · exact ⟨rfl, rfl⟩
  · rename_i hne
    rw [if_neg hne] at hid
    exact absurd hid hne

/-- A panel after the withdrawal of a request is one that was there, but for its request. -/
theorem mem_withdraw_panels {r : Request} {s : State} {x : Panel} (h : x ∈ (withdraw r s).panels) :
    ∃ y ∈ s.panels, x.id = y.id ∧ x.resident = y.resident ∧ x.core = y.core := by
  obtain ⟨y, hy, rfl⟩ := List.mem_map.mp h
  refine ⟨y, hy, ?_⟩
  split <;> exact ⟨rfl, rfl, rfl⟩

/-- A panel comes back to its core with its groups, their registers absent. -/
theorem restorePanel_spec {id core : Nat} {p : Panel} {l : List Nat} {s s0 : State} (hp : panelOf s id = some p)
    (hr : p.resident = false) (hc : ctxRuns s p.ctx = true) (hy : panelReady s id = true)
    (hcore : placeCore s p.die (panelPart s id) p.groups = some core) (hi : imageUnits needR p s = .inl (l, s0)) :
    (∀ x ∈ (restorePanel id s).panels, x.id = id → x.resident = true ∧ x.core = core) ∧
    ∀ g ∈ allGroups (restorePanel id s), g.live = true → g.panel = id → g.exited = false →
      g.resident = true ∧ g.core = core ∧ g.absent = allAbsent g.part := by
  obtain ⟨s1, h⟩ := restorePanel_brings hp hr hc hy hcore hi
  obtain ⟨hcome, hpan⟩ := bringAll_spec p id core (panelBack id core s1).nextId (panelOrder (panelBack id core s1) id)
    (s := { panelBack id core s1 with nextId := (panelBack id core s1).nextId + 1 })
    (fun g hg hl hp _ => .inl (mem_panelOrder hg hl hp))
  rw [h]
  generalize bringAll p core _ _ _ = s3 at hcome hpan ⊢
  obtain ⟨b, hb⟩ := noteCluster_frame id (core / 4) s3
  rw [settleBack, hb]
  refine ⟨fun x hx hid => ?_, fun g hg hl hp he => (hcome g hg hl hp he).resolve_left (List.not_mem_nil)⟩
  obtain ⟨y, hy, ei, er, ec⟩ := mem_withdraw_panels hx
  rw [er, ec]
  exact panelBack_spec (hpan y hy) (ei ▸ hid)

/-! Requests and slices. -/

theorem requestPreempt_none {die : Nat} {s : State} (h : waiters s die = []) : requestPreempt die s = s := by
  simp only [requestPreempt, h, List.find?_nil]

theorem requestPreempt_targets {die c : Nat} {w : Waiter} {s : State}
    (hw : (waiters s die).find? (fun w => (requestCore s die (fun x => decide (w.prio.toNat < (panelPrio s x.id).toNat))).isSome) = some w)
    (hc : requestCore s die (fun x => decide (w.prio.toNat < (panelPrio s x.id).toNat)) = some c) : requestPreempt die s =
      target w.what (panelsOn s c (fun x => (panelPrio s x.id).toNat == lowestClass s (panelsOn s c (fun _ => true)))) s := by
  simp only [requestPreempt, hw, hc]

theorem endSlice_charges {ctx die : Nat} {s : State} (h : waiters (chargeSlice ctx die s) die = []) :
    endSlice ctx die s = chargeSlice ctx die s := by
  simp only [endSlice, h, List.find?_nil]

end Sys2Proof.Proofs
end

section
/-! PROOF. CONTEXT_SNAPSHOT (R262): the groups that it takes in their order, the fields of an entry, and the obligation on the events that
move panels. -/

namespace Sys2Proof.Proofs

open Sys2Proof.Machine Sys2Proof.Safety Sys2Proof.Laws

/-! The groups of a snapshot, in order. -/

theorem mem_insertBy {f : Group → Nat} {x y : Group} {l : List Group} : y ∈ insertBy f x l ↔ y = x ∨ y ∈ l := by
  induction l with
  | nil => simp [insertBy]
  | cons z r ih =>
    rw [insertBy]
    split
    · exact List.mem_cons
    · rw [List.mem_cons, ih, List.mem_cons]
      exact or_left_comm

theorem insertBy_sorted {f : Group → Nat} {x : Group} {l : List Group} (h : l.Pairwise (fun a b => f a ≤ f b)) :
    (insertBy f x l).Pairwise (fun a b => f a ≤ f b) := by
  induction l with
  | nil => exact List.pairwise_singleton _ x
  | cons z r ih =>
    obtain ⟨hz, hr⟩ := List.pairwise_cons.mp h
    rw [insertBy]
    split
    · rename_i hlt
      refine List.pairwise_cons.mpr ⟨fun y hy => ?_, h⟩
      rcases List.mem_cons.mp hy with rfl | hy
      · exact Nat.le_of_lt hlt
      · exact Nat.le_trans (Nat.le_of_lt hlt) (hz y hy)
    · rename_i hge
      refine List.pairwise_cons.mpr ⟨fun y hy => ?_, ih hr⟩
      rcases mem_insertBy.mp hy with rfl | hy
      · exact Nat.not_lt.mp hge
      · exact hz y hy

/-- Sorting by insertion. -/
def insertAll (f : Group → Nat) (l a : List Group) : List Group := l.foldl (fun a g => insertBy f g a) a

theorem insertAll_spec {f : Group → Nat} (l : List Group) {a : List Group} (h : a.Pairwise (fun a b => f a ≤ f b)) :
    (insertAll f l a).Pairwise (fun a b => f a ≤ f b) ∧ ∀ g, g ∈ insertAll f l a ↔ g ∈ l ∨ g ∈ a := by
  induction l generalizing a with
  | nil => exact ⟨h, fun g => by simp [insertAll]⟩
  | cons x r ih =>
    obtain ⟨hs, hm⟩ := ih (insertBy_sorted (x := x) h)
    refine ⟨hs, fun g => (hm g).trans ?_⟩
    rw [mem_insertBy, List.mem_cons, or_left_comm, or_assoc]

/-- The order of a snapshot's groups: by save record and group number. -/
def snapKey (s : State) (g : Group) : Nat := ((panelOf s g.panel).map (·.record)).getD 0 * 16 + fld g.gid 0 4

theorem snapGroups_spec (s : State) (c : Nat) : (snapGroups s c).Pairwise (fun a b => snapKey s a ≤ snapKey s b) ∧
    ∀ g, g ∈ snapGroups s c ↔ g ∈ allGroups s ∧ g.live = true ∧ g.ctx = c ∧ g.exited = false ∧ g.block.isSome = true := by
  obtain ⟨hs, hm⟩ := insertAll_spec (f := snapKey s)
    ((allGroups s).filter (fun g => g.live && g.ctx == c && !g.exited && g.block.isSome)) List.Pairwise.nil
  exact ⟨hs, fun g => (hm g).trans (by simp [and_assoc])⟩

/-! Bytes and words. -/

theorem natOf_lt (l : List Byte) : natOf l < 256 ^ l.length := by
  induction l with
  | nil => exact Nat.one_pos
  | cons b r ih =>
    have hb := b.isLt
    rw [natOf, List.length_cons, Nat.pow_succ]
    omega

theorem bytesOf_natOf (l : List Byte) : bytesOf l.length (natOf l) = l := by
  induction l with
  | nil => rfl
  | cons b r ih =>
    have hb : b.toNat < 256 := b.isLt
    have hd : (b.toNat + 256 * natOf r) / 256 = natOf r := by omega
    have hm : BitVec.ofNat 8 (b.toNat + 256 * natOf r) = b := by
      apply BitVec.eq_of_toNat_eq
      rw [BitVec.toNat_ofNat]
      omega
    rw [natOf, List.length_cons, bytesOf, hd, hm, ih]

theorem bytesOf_length (n x : Nat) : (bytesOf n x).length = n := by
  induction n generalizing x with
  | zero => rfl
  | succ n ih => rw [bytesOf, List.length_cons, ih]

/-- The bytes of a word of a list of bytes are its eight bytes there. -/
theorem bytesOf_wordsOfBytes {bs : List Byte} {i : Nat} (h : 8 * i + 8 ≤ bs.length) :
    bytesOf 8 (wordsOfBytes bs i).toNat = (bs.drop (8 * i)).take 8 := by
  have hl : ((bs.drop (8 * i)).take 8).length = 8 := by rw [List.length_take, List.length_drop]; omega
  have hlt := natOf_lt ((bs.drop (8 * i)).take 8)
  have hb := bytesOf_natOf ((bs.drop (8 * i)).take 8)
  rw [hl] at hlt hb
  rw [wordsOfBytes, BitVec.toNat_ofNat, Nat.mod_eq_of_lt (by simpa using hlt), hb]

/-- The words of a list of bytes hold its bytes. -/
theorem flatMap_bytesOf_words (bs : List Byte) (n : Nat) (h : 8 * n ≤ bs.length) :
    ((List.range n).map (fun j => wordsOfBytes bs j)).flatMap (fun x => bytesOf 8 x.toNat) = bs.take (8 * n) := by
  induction n with
  | zero => rfl
  | succ n ih =>
    rw [List.range_succ, List.map_append, List.flatMap_append, ih (by omega), Nat.mul_succ, List.take_add]
    congr 1
    rw [List.map_singleton, List.flatMap_singleton, bytesOf_wordsOfBytes (by omega)]

/-! How much an object's reading gives. -/

theorem rbs_length (s : State) (k n : Nat) : (rbs s k n).length = n := by
  induction n generalizing k with
  | zero => rfl
  | succ n ih => rw [rbs, List.length_cons, ih]

theorem scrRead_length (s : State) (p k n : Nat) : (scrRead s p k n).length = n := by
  induction n generalizing k with
  | zero => rfl
  | succ n ih => rw [scrRead, List.length_cons, ih]

theorem flatMap_bytesOf_length {n : Nat} (l : List Nat) (f : Nat → Nat) : (l.flatMap (fun i => bytesOf n (f i))).length = l.length * n := by
  rw [List.length_flatMap, List.map_congr_left (fun i _ => bytesOf_length n (f i)), List.map_const', List.sum_replicate, smul_eq_mul]

/-- The words that hold `n` bytes from a key hold as many from the key's place in its first word. -/
theorem wordsOf_length (p : Phys) (n : Nat) : p.key % 4 + n ≤ (wordsOf p n).length * 4 := by
  rw [wordsOf, List.length_map, List.length_range]
  omega

theorem homeBytes_length (s : State) (p : Phys) (n : Nat) : (homeBytes s p n).length = n := by
  unfold homeBytes
  dsimp only
  split
  · exact rbs_length s p.rkey n
  · have := wordsOf_length p n
    rw [List.length_take, List.length_drop, flatMap_bytesOf_length]
    omega

theorem devRead_length (s : State) (p : Phys) (n : Nat) : (devRead s p n).1.length = n := by
  unfold devRead
  split
  · split
    · rename_i h
      exact (bytesOf_length 8 _).trans h.1.symm
    · exact bytesOf_length n 0
  · exact homeBytes_length _ p n

theorem objectBytes_length (s : State) (g : Group) (va : W64) (n : Nat) : (objectBytes s g va n).length = n := by
  rw [objectBytes]
  cases objectPlace s g va with
  | some p => exact devRead_length s p n
  | none => exact List.length_replicate

/-! The fields of an entry. -/

theorem snapKind_refused {g : Group} {b : Block} (h : g.refused.isSome = true ∧ 8 ≤ b.kind ∧ b.kind ≤ 10) : snapKind g b = 12 := if_pos h

theorem snapKind_low {g : Group} {b : Block} (h : b.kind ≤ 7) : snapKind g b = b.kind := if_neg (by omega)

/-- ADDR of an entry. -/
def snapAddr (s : State) (i : Nat) (g : Group) (b : Block) : W64 :=
  if snapKind g b = 12 then g.refused.getD 0
  else if 1 ≤ snapKind g b ∧ snapKind g b ≤ 5 then b.addr else Config.freeW64 s.free (16 * i + 3)

/-- The phase or value of an entry. -/
def snapVal (s : State) (i : Nat) (g : Group) (b : Block) : W64 :=
  if (1 ≤ snapKind g b ∧ snapKind g b ≤ 3) ∨ (5 ≤ snapKind g b ∧ snapKind g b ≤ 7) then b.val else Config.freeW64 s.free (16 * i + 4)

/-- The words of an entry's object. -/
def snapWords (s : State) (i : Nat) (g : Group) (b : Block) : List W64 :=
  match snapObject s g b with
  | some bs => (List.range 8).map (fun j => wordsOfBytes bs j)
  | none => (List.range 8).map (fun j => Config.freeW64 s.free (16 * i + (8 + j)))

theorem snapEntry_eq {g : Group} {b : Block} (h : g.block = some b) (s : State) (i : Nat) : snapEntry s i g =
    [g.bid, BitVec.ofNat 64 (fld g.pidx 0 48 + fld g.gid 0 4 * 2 ^ 48), BitVec.ofNat 64 (snapKind g b), snapAddr s i g b, snapVal s i g b,
      0, 0, 0] ++ snapWords s i g b := by
  rw [snapEntry, h]
  rfl

theorem snapWords_length (s : State) (i : Nat) (g : Group) (b : Block) : (snapWords s i g b).length = 8 := by
  unfold snapWords
  split <;> rw [List.length_map, List.length_range]

/-- Where an entry's point names an object of 64 bytes, the entry holds it. -/
theorem snapWords_bytes {s : State} {i : Nat} {g : Group} {b : Block} {bs : List Byte} (h : snapObject s g b = some bs)
    (hl : bs.length = 64) : (snapWords s i g b).flatMap (fun x => bytesOf 8 x.toNat) = bs := by
  rw [snapWords, h]
  exact (flatMap_bytesOf_words bs 8 (by omega)).trans (List.take_of_length_le (by omega))

/-- The object of a refused arrival. -/
theorem snapObject_refused {g : Group} {b : Block} {a : W64} (s : State) (hr : g.refused = some a) (h : 8 ≤ b.kind ∧ b.kind ≤ 10) :
    snapObject s g b = some (objectBytes s g a 64) := by
  simp [snapObject, snapKind_refused (g := g) (b := b) ⟨by rw [hr]; rfl, h⟩, hr]

/-- The panel barrier of a point. -/
theorem snapObject_panel {g : Group} {b : Block} (s : State) (h : b.kind = 1 ∨ b.kind = 3 ∨ (b.kind = 4 ∧ b.size = 32)) :
    snapObject s g b = some (scrRead s g.panel b.addr.toNat 32 ++ List.replicate 32 0) := by
  have hk : b.kind ≤ 7 := by omega
  have hn : b.kind ≠ 12 := by omega
  simp only [snapObject, snapKind_low hk, if_neg hn, if_pos h]

/-- The device barrier of a point. -/
theorem snapObject_device {g : Group} {b : Block} (s : State) (h : b.kind = 2 ∨ (b.kind = 4 ∧ b.size ≠ 32)) :
    snapObject s g b = some (objectBytes s g b.addr 64) := by
  have hk : b.kind ≤ 7 := by omega
  have hn : b.kind ≠ 12 := by omega
  have hp : ¬ (b.kind = 1 ∨ b.kind = 3 ∨ (b.kind = 4 ∧ b.size = 32)) := by omega
  have hd : b.kind = 2 ∨ b.kind = 4 := by omega
  simp only [snapObject, snapKind_low hk, if_neg hn, if_neg hp, if_pos hd]

/-- The word that a point watches. -/
theorem snapObject_watched {g : Group} {b : Block} (s : State) (h : b.kind = 5) :
    snapObject s g b = some (objectBytes s g b.addr b.size ++ List.replicate (64 - b.size) 0) := by
  simp [snapObject, snapKind_low (g := g) (b := b) (by omega), h]

theorem panelObject_length (s : State) (p k : Nat) : (scrRead s p k 32 ++ List.replicate 32 0).length = 64 := by
  rw [List.length_append, scrRead_length, List.length_replicate]

theorem watchedObject_length (s : State) (g : Group) (va : W64) {n : Nat} (h : n ≤ 64) :
    (objectBytes s g va n ++ List.replicate (64 - n) 0).length = 64 := by
  rw [List.length_append, objectBytes_length, List.length_replicate]
  omega

/-! A snapshot. -/

/-- The groups that SNAPKB KiB hold. -/
def snapKept (s : State) (c : Nat) : List Group :=
  (snapGroups s c).take ((fld (rdWin s (ctxReg c 0x28)) 0 16 * 1024 - 64) / 128)

/-- The words of a snapshot: its header and its entries. -/
def snapPage (s : State) (c : Nat) : List W64 :=
  [BitVec.ofNat 64 (snapKept s c).length, BitVec.ofNat 64 ((snapGroups s c).length - (snapKept s c).length), BitVec.ofNat 64 c, 0, 0, 0, 0, 0] ++
    (indexed 0 (snapKept s c)).flatMap (fun e => snapEntry s e.1 e.2)

/-- The state once a snapshot is stored; with SNAPKB 0 nothing is. -/
def snapStored (s : State) (c : Nat) : State :=
  if fld (rdWin s (ctxReg c 0x28)) 0 16 = 0 then s
  else snapStore c (snapPage s c) (sext57 (fld (rdWin s (ctxReg c 0x20)) 0 57)) ((snapKept s c).foldl (fun a g => withGroup g.id touchNamed a) s)

/-- The record of a snapshot. -/
def snapRec (s : State) (c : Nat) : EvRec := queueRec s (ctxQueue s c) 4 0 0 (Config.freeW64 s.free 1) c

/-- The state with a context's snapshot taken and its record posted. -/
def snapTaken (c : Nat) (s : State) : State := bump { s with snapped := c :: s.snapped, outbound := s.outbound ++ [snapRec s c] }

/-- A stopped context whose panels are all evicted posts a record of type 4 after its entries have been stored. -/
theorem snapshot_posts {c : Nat} {s t : State} (hs : bit (rdWin s (ctxReg c 0x28)) 32 = true) (hh : halted s c = false) (hn : c ∉ s.snapped)
    (hp : ∀ p ∈ s.panels, p.ctx = c → p.resident = false) (ht : snapStored s c = t) (hht : halted t c = false) :
    snapshot c s = snapTaken c t := by
  have hany : s.panels.any (fun p => p.ctx == c && p.resident) = false := by
    rw [List.any_eq_false]
    intro p hm
    simpa using hp p hm
  have hc : s.snapped.contains c = false := by simpa using hn
  have he : snapshot c s = bump (postRec (snapRec (snapStored s c) c) { snapStored s c with snapped := c :: (snapStored s c).snapped }) := by
    simp only [snapshot, hs, hh, hc, hany, Bool.not_true, Bool.or_self, Bool.false_eq_true, if_false]
    rfl
  rw [he, ht]
  exact congrArg bump (postRec_posts (r := snapRec t c) (s := { t with snapped := c :: t.snapped }) hht (by simp [snapRec, queueRec]))

/-- Settles O51: requests, saving, coming back, slices, and the snapshot with the order and the fields of its entries. -/
theorem movingEvents : Obligations.MovingEvents := by
  refine ⟨fun die s h => happens_of_event rfl (requestPreempt_none h), fun die c w s hw hc => happens_of_event rfl (requestPreempt_targets hw hc),
    fun id p q l s s0 s1 hp hr hb h1 hq hb1 hn hi e he => ?_, fun id core p l s s0 hp hr hc hy hcore hi => ?_,
    fun ctx die s h => happens_of_event rfl (endSlice_charges h), fun c s hs hh hn hp hz => ?_,
    fun c kb kept words s t hs hh hn hp hkb hne hk hw ht hht => ?_, fun c s key hkey => ?_, fun i g b s e hb he => ?_⟩
  · obtain rfl := panelOf_id hp
    subst h1
    obtain ⟨hpan, hgrp, himg⟩ := savePanel_spec hi
    have hev := evict_saves hq hb1 hn
    refine ⟨savePanel p (quiesce p.id s), ?_, hpan, hgrp, himg⟩
    rcases he with ⟨rfl, ha⟩ | ⟨rfl, hw, hidle⟩
    · exact happens_of_event rfl ((evictPanel_asked hp hr hb ha).trans hev)
    · exact happens_of_event rfl ((evictIdle_idle hp hr hb hw hidle).trans hev)
  · obtain ⟨hpan, hgrp⟩ := restorePanel_spec hp hr hc hy hcore hi
    exact ⟨restorePanel id s, happens_of_event rfl rfl, hpan, hgrp⟩
  · exact ⟨snapTaken c s, snapRec s c, happens_of_event rfl (snapshot_posts hs hh hn hp (if_pos hz) hh), rfl, rfl, rfl, rfl, ⟨rfl, rfl⟩, rfl, rfl⟩
  · have hkept : snapKept s c = kept := by rw [hk, hkb, snapKept, Nat.mul_comm]
    have hpage : snapPage s c = words := by rw [hw, snapPage, hkept]
    have hst : snapStored s c = t := by rw [ht, snapStored, if_neg (hkb ▸ hne), hpage, hkept]
    exact ⟨snapTaken c t, snapRec t c, happens_of_event rfl (snapshot_posts hs hh hn hp hst hht), rfl, rfl, rfl, rfl, rfl⟩
  · rw [show key = snapKey s from funext hkey]
    exact snapGroups_spec s c
  · rw [snapEntry_eq hb] at he
    subst he
    refine ⟨by simp [snapWords_length], rfl, rfl, rfl, fun h1 h5 => ?_, fun hk => ?_, rfl, rfl, rfl, fun a ha h8 h10 => ⟨?_, ?_⟩, fun hk => ?_,
      fun hk => ?_, fun hk => ?_, fun hk hsz => ?_⟩
    · have hn : b.kind ≠ 12 := by omega
      exact (if_neg (by rwa [snapKind_low (by omega)])).trans (if_pos (by rw [snapKind_low (by omega)]; exact ⟨h1, h5⟩))
    · exact if_pos (by rw [snapKind_low (by omega)]; omega)
    · have hr : snapKind g b = 12 := snapKind_refused ⟨by rw [ha]; rfl, h8, h10⟩
      exact (if_pos hr).trans (by rw [ha]; rfl)
    · exact snapWords_bytes (snapObject_refused s ha ⟨h8, h10⟩) (objectBytes_length _ _ _ _)
    · exact snapWords_bytes (snapObject_panel s (by omega)) (panelObject_length _ _ _)
    · split
      · exact snapWords_bytes (snapObject_panel s (by omega)) (panelObject_length _ _ _)
      · exact snapWords_bytes (snapObject_device s (by omega)) (objectBytes_length _ _ _ _)
    · exact snapWords_bytes (snapObject_device s (by omega)) (objectBytes_length _ _ _ _)
    · exact snapWords_bytes (snapObject_watched s hk) (watchedObject_length s g b.addr hsz)

end Sys2Proof.Proofs
end

section
/-! PROOF. MFSR and MTSR (R376, R377): one equation for each register that a write reaches, the trap registers as one list, and the
obligation. -/

namespace Sys2Proof.Proofs

open Sys2Proof.Machine Sys2Proof.Safety Sys2Proof.Laws

/-! What a privileged write changes, by index (Tables 2-7 and 8-9). -/

theorem sysWritePriv_tsave {n : Nat} (h : 0x10C ≤ n) (h' : n ≤ 0x10F) (v : W64) (s : State) :
    sysWritePriv n v s = onG (fun g => { g with tsave := cset zero g.tsave (n - 0x10C) v }) s := by
  simp (disch := omega) only [sysWritePriv, if_neg, if_pos]

theorem sysWritePriv_rplq {n : Nat} (h : 0x140 ≤ n) (v : W64) (s : State) : sysWritePriv n v s =
    onG (fun g => { g with rplq := setNth g.rplq ((n - 0x140) / 4) (fun r => rplSet r ((n - 0x140) % 4) v) }) s := by
  simp (disch := omega) only [sysWritePriv, if_neg, if_pos]

/-- A register that no write reaches. -/
theorem sysWritePriv_readonly {n : Nat} (h : (1 ≤ n ∧ n ≤ 8) ∨ (0x13 ≤ n ∧ n ≤ 0x27) ∨ n = 0x107 ∨ n = 0x108 ∨ n = 0x10A) (v : W64)
    (s : State) : sysWritePriv n v s = s := by
  simp (disch := omega) only [sysWritePriv, if_neg]

theorem live_ite {b : Bool} {s t : State} {p : Prop} [Decidable p] (hs : s.g.live = b) (ht : t.g.live = b) :
    (if p then s else t).g.live = b := by
  split <;> assumption

theorem sysWritePriv_live (n : Nat) (v : W64) (s : State) : (sysWritePriv n v s).g.live = s.g.live := by
  unfold sysWritePriv
  repeat' apply live_ite
  all_goals rfl

/-- Outside the status registers the view decides whether a write has an effect. -/
theorem sysWrite_of_view {n : Nat} (h : n < 0x10 ∨ 0x12 < n) (v : W64) (s : State) :
    sysWrite n v s = if s.g.priv then sysWritePriv n v s else s := by
  simp (disch := omega) only [sysWrite, if_neg]

theorem sysWrite_live (n : Nat) (v : W64) (s : State) : (sysWrite n v s).g.live = s.g.live := by
  unfold sysWrite
  exact live_ite rfl (live_ite rfl (live_ite rfl (live_ite (sysWritePriv_live n v s) rfl)))

/-! Replay entries. -/

theorem setNth_length {α : Type} (f : α → α) (l : List α) (i : Nat) : (setNth l i f).length = l.length := by
  induction l generalizing i with
  | nil => rfl
  | cons x r ih =>
    cases i with
    | zero => rfl
    | succ i => exact congrArg (· + 1) (ih i)

theorem setNth_getElem? {α : Type} (f : α → α) (l : List α) (i e : Nat) :
    (setNth l i f)[e]? = if e = i then l[e]?.map f else l[e]? := by
  induction l generalizing i e with
  | nil => simp [setNth]
  | cons x r ih => cases i <;> cases e <;> simp [setNth, ih]

/-- A write of word `j` of a replay entry (Table 8-10). -/
theorem rplSet_eq (r : Replay) (j : Nat) (v : W64) :
    rplSet r j v = if j = 0 then { r with valid := bit v 63 } else if j = 2 then { r with mask := v } else r := by
  unfold rplSet
  split
  · rfl
  · rfl
  · rw [if_neg (by assumption), if_neg (by assumption)]

/-! The trap registers. -/

/-- The registers of indices 0x100 to 0x10F in their order (Table 8-9). -/
def trapRegs (g : Group) : List W64 :=
  [g.tvec, g.tcause, g.tfirst, g.tfault, g.tpc, g.tmask, g.wbudget, g.runcnt, g.vmctx, g.frpool, g.rplop, g.tgmode,
    cget zero g.tsave 0, cget zero g.tsave 1, cget zero g.tsave 2, cget zero g.tsave 3]

theorem sysRead_trapRegs {n : Nat} (h : 0x100 ≤ n) (h' : n ≤ 0x10F) (s : State) :
    sysRead s n = (trapRegs s.g).getD (n - 0x100) 0 := by
  interval_cases n <;> rfl

/-- A write of a trap register changes its place in the list only. -/
theorem trapRegs_sysWritePriv {n : Nat} (h : 0x102 ≤ n) (h' : n ≤ 0x10F) (v : W64) (s : State) :
    ∃ x, trapRegs (sysWritePriv n v s).g = (trapRegs s.g).set (n - 0x100) x := by
  by_cases ht : 0x10C ≤ n
  · refine ⟨v, ?_⟩
    rw [sysWritePriv_tsave ht h']
    interval_cases n <;> simp [trapRegs, cget_cset]
  · interval_cases n <;> exact ⟨_, rfl⟩

theorem sysRead_sysWritePriv_other {n m : Nat} (h : 0x102 ≤ n) (h' : n ≤ 0x10F) (hm : 0x100 ≤ m) (hm' : m ≤ 0x10F) (hne : n ≠ m) (v : W64)
    (s : State) : sysRead (sysWritePriv n v s) m = sysRead s m := by
  obtain ⟨x, hx⟩ := trapRegs_sysWritePriv h h' v s
  rw [sysRead_trapRegs hm hm', sysRead_trapRegs hm hm', hx, List.getD_eq_getElem?_getD, List.getElem?_set_ne (by omega),
    ← List.getD_eq_getElem?_getD]

/-- TFIRST, TFAULT, TPC, TMASK and TSAVE read back whole. -/
theorem sysRead_sysWritePriv_same {n : Nat} (h : n = 0x102 ∨ n = 0x103 ∨ n = 0x104 ∨ n = 0x105 ∨ (0x10C ≤ n ∧ n ≤ 0x10F)) (v : W64)
    (s : State) : sysRead (sysWritePriv n v s) n = v := by
  rcases h with rfl | rfl | rfl | rfl | ⟨h, h'⟩
  · rfl
  · rfl
  · rfl
  · rfl
  · rw [sysWritePriv_tsave h h', sysRead_trapRegs (by omega) h']
    interval_cases n <;> simp [trapRegs]

/-! The instructions. -/

theorem mfsr_puts {o : Opnd} {s : State} (h : ready (.mfsr o) s = true) :
    Puts (.mfsr o) s (.sca o.d.toNat (if s.g.priv = false ∧ 0x31 ≤ sysIndex o then 0 else sysRead s (sysIndex o))) := by
  refine completes_of_body rfl h ?_ ((put_live _ _).trans (ready_live h)) rfl
  simp [sysHidden]

theorem mtsr_completes {o : Opnd} {s : State} (h : ready (.mtsr o) s = true) :
    Completes (.mtsr o) s none (sysWrite (sysIndex o) (rdS s o.a.toNat) s) :=
  completes_of_body rfl h rfl ((sysWrite_live _ _ _).trans (ready_live h)) rfl

/-- Settles O18: each clause is MTSR's or MFSR's one effect with the equation of the register that the index names. -/
theorem systemRegisters : Obligations.SystemRegisters := by
  refine ⟨fun o s h => mfsr_puts h, fun o s n v h hn hv => ?_, fun s v =>
    ⟨fun n hn => sysRead_sysWritePriv_same hn v s, rfl, rfl, rfl, rfl,
      fun n m h h' hm hm' hne => sysRead_sysWritePriv_other h h' hm hm' hne v s⟩⟩
  have hc := mtsr_completes h
  rw [← hn, ← hv] at hc
  have hstatus : ∀ k s', n = k → sysWrite k v s = s' → Completes (.mtsr o) s none s' := fun k s' hk hs => hs ▸ hk ▸ hc
  refine ⟨fun hk => hstatus _ _ hk rfl, fun hk => hstatus _ _ hk rfl, fun hk => hstatus _ _ hk rfl, fun hp h10 h11 h12 => ?_, fun hp => ?_⟩
  · rwa [sysWrite_of_view (by omega), hp] at hc
  have hpriv : n < 0x10 ∨ 0x12 < n → Completes (.mtsr o) s none (sysWritePriv n v s) := fun hr => by
    rwa [sysWrite_of_view hr, if_pos hp] at hc
  have hreg : ∀ k s', k < 0x10 ∨ 0x12 < k → n = k → sysWritePriv k v s = s' → Completes (.mtsr o) s none s' :=
    fun k s' hr hk hs => by subst hk; exact hs ▸ hpriv hr
  iterate 13 refine ⟨fun hk => hreg _ _ (by omega) hk rfl, ?_⟩
  refine ⟨fun hlo hhi => hreg n _ (by omega) rfl (sysWritePriv_tsave hlo hhi v s), fun hlo => ?_,
    fun hro => hreg n _ (by omega) rfl (sysWritePriv_readonly hro v s), hpriv⟩
  refine ⟨_, hreg n _ (by omega) rfl (sysWritePriv_rplq hlo v s), setNth_length _ _ _, rfl, fun e r he => ?_⟩
  have hmod : (n - 0x140) % 4 = n % 4 := by omega
  simp only [onG_g, setNth_getElem?, he, Option.map_some, rplSet_eq, hmod]
  split_ifs <;> simp_all

end Sys2Proof.Proofs
end

section
/-! PROOF. Why the register frame fails as it is stated: it keeps the count of the opportunities at which the group was passed over (R57),
which an instruction that issues starts anew. -/

namespace Sys2Proof.Proofs

open Sys2Proof.Machine Sys2Proof.Safety Sys2Proof.Laws

/-- The group of an instruction that completes has been passed over at no opportunity since. -/
theorem waited_of_completes {i : Instr} {s s' : State} {j : Option W64} (h : Completes i s j s') :
    ∃ t, exec i s = .next t ∧ t.g.waited = 0 := by
  obtain ⟨t, hx, ⟨_, _, _, hg⟩, _, _⟩ := h
  exact ⟨t, hx, by rw [hg]; rfl⟩

/-- Clocks that pass leave the count as it is. -/
theorem follows_waited {s t : State} (h : Follows s t) : t.g.waited = s.g.waited := by
  obtain ⟨⟨_, _, _, hg⟩, _⟩ := h
  rw [hg]

/-- SMOV s2, s4. -/
def moveScalar : Instr := .smov ⟨0, 2, 4, 0, .none⟩

/-- The state after reset with one live group, which another group of its slot has been preferred to once. -/
def passedOver : State := { State.reset with g := { Group.empty with live := true, resident := true, waited := 1 } }

theorem moveScalar_ready : ready moveScalar passedOver = true := by decide

theorem moveScalar_completes : ∃ s', Completes moveScalar passedOver none s' :=
  ⟨_, completes_of_body rfl moveScalar_ready rfl rfl rfl⟩

/-- Refutes O57: after `moveScalar` in `passedOver` the count is 0, and the statement has it stay 1. -/
theorem not_registerFrame : ¬ Obligations.RegisterFrame := by
  intro h
  obtain ⟨s', hc⟩ := moveScalar_completes
  obtain ⟨t, hx, hw⟩ := waited_of_completes hc
  obtain ⟨u, v, sc, fp, pend, hu, hf, _⟩ := h moveScalar passedOver rfl (by decide) (by decide) moveScalar_ready rfl
  have htu : t = u := by injection hx.symm.trans hu
  have hone : u.g.waited = 1 := follows_waited hf
  rw [← htu, hw] at hone
  exact absurd hone (by decide)

end Sys2Proof.Proofs
end

section
/-! PROOF. The state after reset and a group at launch (R64, R313, R314, R329, R330): which register of the window stands at each offset,
what reset leaves there, and the obligation. -/

namespace Sys2Proof.Proofs

open Sys2Proof.Machine Sys2Proof.Safety Sys2Proof.Laws

/-! The blocks of the window (Table 10-1). -/

theorem regAt_sched {o : Nat} (h8 : o % 8 = 0) (h : o < 0x10_0000) : regAt (schedBase + o) = schedReg o := by
  simp (disch := omega) only [regAt, schedBase, fabBase, if_neg, if_pos, Nat.add_sub_cancel_left]

theorem regAt_fab {o : Nat} (h8 : o % 8 = 0) (h : o < 0x10_0000) : regAt (fabBase + o) = fabReg o := by
  simp (disch := omega) only [regAt, schedBase, fabBase, relBase, if_neg, if_pos, Nat.add_sub_cancel_left]

theorem regAt_rel {o : Nat} (h8 : o % 8 = 0) (h : o < 0x10_0000) : regAt (relBase + o) = relReg o := by
  simp (disch := omega) only [regAt, schedBase, fabBase, relBase, powBase, if_neg, if_pos, Nat.add_sub_cancel_left]

theorem regAt_pow {o : Nat} (h8 : o % 8 = 0) (h : o < 0x10_0000) : regAt (powBase + o) = powReg o := by
  simp (disch := omega) only [regAt, schedBase, fabBase, relBase, powBase, if_neg, if_pos, Nat.add_sub_cancel_left]

/-! The register at each offset. -/

theorem regAt_ctx {c r : Nat} (hc : c < 16) (hr : r < 64) (h8 : r % 8 = 0) : regAt (ctxReg c r) = some (.ctx c r) := by
  rw [ctxReg, Nat.add_assoc, regAt_sched (by omega) (by omega), schedReg, if_pos (by omega),
    show (64 * c + r) / 64 = c by omega, show (64 * c + r) % 64 = r by omega]

theorem regAt_queue {n r : Nat} (hn : n < 16) (hr : r < 24) (h8 : r % 8 = 0) : regAt (queueReg n r) = some (.queue n r) := by
  rw [queueReg, Nat.add_assoc, Nat.add_assoc, regAt_sched (by omega) (by omega), schedReg, if_neg (by omega), if_pos (by omega),
    if_pos (by omega), show (0x400 + (32 * n + r) - 0x400) / 32 = n by omega, show (0x400 + (32 * n + r)) % 32 = r by omega]

theorem regAt_ccq {c : Nat} (hc : c < 4) : regAt (ccqReg c) = some (.ccq c) := by
  rw [ccqReg, Nat.add_assoc, regAt_sched (by omega) (by omega), schedReg, if_neg (by omega), if_neg (by omega), if_pos (by omega),
    show (0x600 + 8 * c - 0x600) / 8 = c by omega]

theorem regAt_rt {i : Nat} (hi : i < 16) : regAt (rtReg i) = some (.rt i) := by
  rw [rtReg, Nat.add_assoc, regAt_fab (by omega) (by omega), fabReg, if_pos (by omega), show (0x100 + 8 * i - 0x100) / 8 = i by omega]

/-- PMASK and PMASKH are one run of 32 registers. -/
theorem regAt_pmask {i : Nat} (hi : i < 32) : regAt (pmaskReg i) = some (.pmask i) := by
  rw [pmaskReg, Nat.add_assoc, regAt_fab (by omega) (by omega), fabReg, if_neg (by omega), if_pos (by omega),
    show (0x180 + 8 * i - 0x180) / 8 = i by omega]

theorem pmaskhReg_eq (i : Nat) : pmaskhReg i = pmaskReg (16 + i) := by
  rw [pmaskhReg, pmaskReg]
  omega

theorem regAt_pw {w r : Nat} (hw : w < 256) (hr : r < 24) (h8 : r % 8 = 0) : regAt (pwReg w r) = some (.pw w r) := by
  rw [pwReg, Nat.add_assoc, Nat.add_assoc, regAt_fab (by omega) (by omega), fabReg, if_neg (by omega), if_neg (by omega), if_pos (by omega),
    if_pos (by omega), show (0x1000 + (32 * w + r) - 0x1000) / 32 = w by omega, show (0x1000 + (32 * w + r)) % 32 = r by omega]

theorem regAt_pstat {p : Nat} (hp : p < 128) : regAt (pstatReg p) = some (.pstat p) := by
  rw [pstatReg, Nat.add_assoc, regAt_fab (by omega) (by omega), fabReg, if_neg (by omega), if_neg (by omega), if_neg (by omega),
    if_pos (by omega), show (0x3000 + 8 * p - 0x3000) / 8 = p by omega]

theorem regAt_cfence {k : Nat} (hk : k < 8) : regAt (cfenceReg k) = some (.cfence k) := by
  rw [cfenceReg, Nat.add_assoc, regAt_rel (by omega) (by omega), relReg, if_neg (by omega), if_pos (by omega),
    show (0x100 + 8 * k - 0x100) / 8 = k by omega]

theorem regAt_cec {u : Nat} (hu : u < 576) : regAt (cecReg u) = some (.cec u) := by
  rw [cecReg, Nat.add_assoc, regAt_rel (by omega) (by omega), relReg, if_neg (by omega), if_neg (by omega), if_pos (by omega),
    show (0x1000 + 8 * u - 0x1000) / 8 = u by omega]

theorem regAt_pcap {d : Nat} (hd : d < 42) : regAt (pcapReg d) = some (.pcap d) := by
  rw [pcapReg, regAt_pow (by omega) (by omega), powReg, if_pos (by omega), show 8 * d / 8 = d by omega]

theorem regAt_pstate {d : Nat} (hd : d < 42) : regAt (pstateReg d) = some (.pstate d) := by
  rw [pstateReg, Nat.add_assoc, regAt_pow (by omega) (by omega), powReg, if_neg (by omega), if_neg (by omega), if_pos (by omega),
    show (0x400 + 8 * d - 0x400) / 8 = d by omega]

theorem regAt_mdBlock {o : Nat} (h8 : o % 8 = 0) (hlo : 0x100_0000 ≤ o) (hhi : o < 0x120_0000) : regAt o =
    if o % 0x1_0000 = 0 then some (.mdrace ((o - 0x100_0000) / 0x1_0000))
    else if o % 0x1_0000 = 0xFFF8 then some (.blkctl (o - 0xFFF8)) else none := by
  rw [regAt, if_neg (by omega), if_neg (by omega), if_neg (by omega), if_neg (by omega), if_neg (by rw [schedBase]; omega),
    if_neg (by rw [fabBase]; omega), if_neg (by rw [relBase]; omega), if_neg (by rw [powBase]; omega), if_neg (by omega), if_pos ⟨hlo, hhi⟩]

theorem regAt_mdrace {n : Nat} (hn : n < 32) : regAt (mdBase n) = some (.mdrace n) := by
  rw [mdBase, regAt_mdBlock (by omega) (by omega) (by omega), if_pos (by omega), show (0x100_0000 + 0x1_0000 * n - 0x100_0000) / 0x1_0000 = n by omega]

theorem regAt_mdBlkctl {n : Nat} (hn : n < 32) : regAt (blkctlOff (mdBase n)) = some (.blkctl (mdBase n)) := by
  have hb : blkctlOff (mdBase n) = mdBase n + 0xFFF8 := if_neg (by rw [mdBase]; omega)
  rw [hb, mdBase, regAt_mdBlock (by omega) (by omega) (by omega), if_neg (by omega), if_pos (by omega), Nat.add_sub_cancel]

/-! What reset leaves. -/

theorem rdWin_reset {o : Nat} {r : Reg} (h : regAt o = some r) : rdWin State.reset o = regReset r := by
  have hw : rdWin State.reset o = winReset o := rfl
  rw [hw, winReset, h]

/-- A block whose BLKCTL is clear at reset belongs to the host. -/
theorem ownerOf_reset_md {n : Nat} (hn : n < 32) : ownerOf State.reset (mdBase n) = .host := by
  have h0 : mdBase n ≠ 0 := by rw [mdBase]; omega
  have hr : mdBase n ≠ relBase ∧ mdBase n ≠ powBase := by rw [mdBase, relBase, powBase]; omega
  rw [ownerOf, if_neg h0, rdWin_reset (regAt_mdBlkctl hn), regReset, if_neg (not_or.mpr hr)]
  rfl

/-- Memory that is filled from nothing has its canonical form. -/
theorem steady_withFetchWord (nbits w : Nat) : Steady (State.reset.withFetchWord nbits w) :=
  ⟨cwf_csetAll zero _ (m := []) rfl, rfl⟩

/-- At launch s1 holds the mask, and every other scalar register zero (R64). -/
theorem freshGroup_s (s : State) (p : Panel) (gi : Nat) (part entry mask : W64) (a b : BitVec 2) (k : Nat) :
    cget zero (freshGroup s p gi part entry mask a b).s k = if k = 1 then mask else 0 := by
  rw [freshGroup, cget_cset]
  simp only [eq_comm (a := 1)]
  rfl

/-- Settles O6: the register at each offset with its value at reset; the rest is what the state after reset and a group at launch list. -/
theorem resetState : Obligations.ResetState := by
  refine ⟨⟨⟨rfl, rfl⟩, steady_withFetchWord⟩, ⟨rfl, rfl, rfl, rfl, rfl, rfl, rfl, rfl, rfl, fun _ => rfl, fun _ => ⟨rfl, rfl, rfl⟩⟩,
    fun c hc => ?_, fun n hn => ?_, fun c hc => rdWin_reset (regAt_ccq hc), ⟨rfl, rfl, rfl, rfl, rfl, rfl, rfl, rfl, rfl, rfl⟩,
    fun i hi => ⟨rdWin_reset (regAt_rt hi), rdWin_reset (regAt_pmask (by omega)), ?_⟩,
    fun w hw => ⟨rdWin_reset (regAt_pw hw (by omega) rfl), rdWin_reset (regAt_pw hw (by omega) rfl), rdWin_reset (regAt_pw hw (by omega) rfl)⟩,
    fun p hp => rdWin_reset (regAt_pstat hp), fun k hk => rdWin_reset (regAt_cfence hk), fun u hu => ?_,
    fun d hd => ⟨rdWin_reset (regAt_pcap hd), rdWin_reset (regAt_pstate hd)⟩,
    ⟨rfl, rfl, rfl, rfl, rfl, fun n hn => ⟨ownerOf_reset_md hn, rdWin_reset (regAt_mdrace hn)⟩⟩, ?_⟩
  · have h : ∀ r, r < 64 → r % 8 = 0 → rdWin State.reset (ctxReg c r) = regReset (.ctx c r) := fun r hr h8 => rdWin_reset (regAt_ctx hc hr h8)
    rw [h 0 (by omega) rfl, h 8 (by omega) rfl, h 0x10 (by omega) rfl, h 0x18 (by omega) rfl, h 0x20 (by omega) rfl, h 0x28 (by omega) rfl,
      h 0x30 (by omega) rfl, h 0x38 (by omega) rfl]
    simp only [regReset]
    decide
  · have h : ∀ r, r < 24 → r % 8 = 0 → rdWin State.reset (queueReg n r) = regReset (.queue n r) := fun r hr h8 =>
      rdWin_reset (regAt_queue hn hr h8)
    rw [h 0 (by omega) rfl, h 8 (by omega) rfl, h 0x10 (by omega) rfl]
    simp only [regReset]
    decide
  · rw [pmaskhReg_eq]
    exact rdWin_reset (regAt_pmask (by omega))
  · rw [rdWin_reset (regAt_cec hu)]
    simp only [regReset]
    decide
  · rintro s p gi part entry mask a b g rfl
    exact ⟨rfl, rfl, freshGroup_s s p gi part entry mask a b, rfl, fun _ => rfl, rfl, rfl, rfl, rfl, rfl, rfl, rfl, rfl,
      rfl, rfl, rfl, rfl, rfl, rfl, rfl, rfl⟩

end Sys2Proof.Proofs
end

section
/-! PROOF. LDS and STS (R371, R372, R413): the ways that their checks end, what each way makes of the instruction, and the obligation. -/

namespace Sys2Proof.Proofs

open Sys2Proof.Machine Sys2Proof.Safety Sys2Proof.Laws

/-! The checks of a scratchpad access (R372, R222). -/

section Check

variable {n : Nat} {st : Bool} {l : List (Nat × W64)} {s : State}

/-- A misaligned lane comes before everything else. -/
theorem scrCheck_misaligned (h : l.filter (fun e => decide (e.2.toNat % n ≠ 0)) ≠ []) :
    scrCheck n n st l s = .trap (laneTrap 0x04 0 (l.filter (fun e => decide (e.2.toNat % n ≠ 0)))) s := by
  rw [scrCheck, if_pos (by rwa [Bool.not_eq_true', List.isEmpty_eq_false_iff])]

theorem filter_misaligned (h : ∀ e ∈ l, e.2.toNat % n = 0) : l.filter (fun e => decide (e.2.toNat % n ≠ 0)) = [] :=
  List.filter_eq_nil_iff.mpr (fun e he => by simp [h e he])

/-- Of aligned lanes one that leaves the partition traps. -/
theorem scrCheck_outside (ha : ∀ e ∈ l, e.2.toNat % n = 0) (h : l.filter (fun e => decide (scrBytes s.g.part < e.2.toNat + n)) ≠ []) :
    scrCheck n n st l s = .trap (laneTrap 0x07 0 (l.filter (fun e => decide (scrBytes s.g.part < e.2.toNat + n)))) s := by
  have hb : (!(l.filter (fun e => decide (scrBytes s.g.part < e.2.toNat + n))).isEmpty) = true := by
    rwa [Bool.not_eq_true', List.isEmpty_eq_false_iff]
  simp only [scrCheck, filter_misaligned ha, hb, if_true]
  rfl

theorem scrCheck_passes (h : ∀ e ∈ l, e.2.toNat % n = 0 ∧ e.2.toNat + n ≤ scrBytes s.g.part ∧
    tackHit s s.g.core true s.g.panel e.2.toNat n st = false) : scrCheck n n st l s = .ok () s := by
  have hin : l.filter (fun e => decide (scrBytes s.g.part < e.2.toNat + n)) = [] :=
    List.filter_eq_nil_iff.mpr (fun e he => by simp [(h e he).2.1])
  have htack : l.filter (fun e => tackHit s s.g.core true s.g.panel e.2.toNat n st) = [] :=
    List.filter_eq_nil_iff.mpr (fun e he => by simp [(h e he).2.2])
  simp only [scrCheck, filter_misaligned (fun e he => (h e he).1), hin, htack]
  rfl

end Check

/-! What loading and storing leaves alone. -/

theorem putLoaded_live (d n : Nat) (sx : Bool) (vals : List (Nat × Nat)) (g : Group) : (putLoaded d n sx vals g).live = g.live := by
  unfold putLoaded
  dsimp only
  split
  · rw [put_live, put_live]
  · exact put_live _ _

theorem scrWrite_g (bs : List Byte) (p k : Nat) (s : State) : (scrWrite s p k bs).g = s.g := by
  induction bs generalizing k s with
  | nil => rfl
  | cons b r ih => exact ih _ _

theorem scrStoreLanes_g (n : Nat) (data : Nat → Nat) (l : List (Nat × W64)) (done : List Nat) (s : State) :
    (scrStoreLanes n data l done s).g = s.g := by
  induction l generalizing done s with
  | nil => rfl
  | cons e r ih =>
    rw [scrStoreLanes]
    split
    · exact ih _ _
    · rw [ih, scrWrite_g]

/-! The instructions. -/

theorem lds_completes {o : Opnd} {s : State} (hr : ready (.lds o) s = true)
    (hc : scrCheck (sizeOf_ (parOf o)) (sizeOf_ (parOf o)) false (scrAddrs o s) s = .ok () s) :
    Completes (.lds o) s none (onG (putLoaded o.d.toNat (sizeOf_ (parOf o)) (parOf o).sx
      ((scrAddrs o s).map (fun e => (e.1, natOf (scrRead s s.g.panel e.2.toNat (sizeOf_ (parOf o))))))) s) := by
  refine completes_of_body rfl hr ?_ ((putLoaded_live _ _ _ _ _).trans (ready_live hr)) rfl
  simp only [hc, Res.bind]

theorem sts_completes {o : Opnd} {s : State} (hr : ready (.sts o) s = true)
    (hc : scrCheck (sizeOf_ (parOf o)) (sizeOf_ (parOf o)) true (scrAddrs o s) s = .ok () s) :
    Completes (.sts o) s none (bump (scrStoreLanes (sizeOf_ (parOf o)) (fun i => (laneOf (rdV s o.d.toNat) i).toNat +
      (if sizeOf_ (parOf o) = 8 then (laneOf (rdV s (o.d.toNat + 1)) i).toNat * 2 ^ 32 else 0)) (scrAddrs o s) [] s)) := by
  refine completes_of_body rfl hr ?_ ((congrArg Group.live (scrStoreLanes_g _ _ _ _ _)).trans (ready_live hr)) rfl
  simp only [hc, Res.bind]

/-- An access whose checks trap, either way it goes, ends in that trap. -/
theorem scratch_traps {o : Opnd} {s : State} {i : Instr} {t : TrapInfo} (hi : i = .lds o ∨ i = .sts o) (hr : ready i s = true)
    (hc : ∀ st, scrCheck (sizeOf_ (parOf o)) (sizeOf_ (parOf o)) st (scrAddrs o s) s = .trap t s) : Ends i s (takeTrap t false s) := by
  rcases hi with rfl | rfl
  · refine ends_of_trap rfl hr ?_
    simp only [hc, Res.bind]
  · refine ends_of_trap rfl hr ?_
    simp only [hc, Res.bind]

theorem completeAll_pc (g : Group) : (completeAll g).pc = g.pc := by
  obtain ⟨v, s, gm, tc, fp, h⟩ := completeAll_frame g
  rw [h]

/-- Settles O40: an access completes where its checks pass, ends in the trap of the first that does not, and the trap keeps registers,
scratchpad and memory. -/
theorem scratchpad : Obligations.Scratchpad := by
  refine ⟨?_, ?_⟩
  · rintro o s n l st rfl rfl h
    have hc := scrCheck_passes h
    exact ⟨fun hst hr => by subst hst; exact lds_completes hr hc, fun hst hr => by subst hst; exact sts_completes hr hc⟩
  · rintro o s n l bad rfl rfl i hi hr
    refine ⟨?_, ?_, ?_⟩
    · rintro rfl hne
      exact scratch_traps hi hr (fun st => scrCheck_misaligned hne)
    · rintro ha rfl hne
      exact scratch_traps hi hr (fun st => scrCheck_outside ha hne)
    · rintro t hp hv hsr - hf a rfl
      rw [takeTrap_handler t false s (ready_idle hr) hp hv hsr]
      refine ⟨rfl, rfl, completeAll_pc s.g, congrArg (·.getD s.g.pc) hf, rfl, fun k hk => ?_, rfl, rfl, rfl⟩
      exact cget_cset_other zero _ _ (Ne.symm hk)

end Sys2Proof.Proofs
end

section
/-! PROOF. Exact sums of products of signed bytes (R132, R145, R146): the arrays' exact values are integers here, and their INT32
accumulation is addition modulo 2^32, whatever the chunks. -/

namespace Sys2Proof.Proofs

open Sys2Proof.Machine Sys2Proof.Safety Sys2Proof.Laws

/-! Exact values that are integers. -/

/-- A finite value, of either sign of zero, that is an integer. -/
def Exactly (x : FVal) (z : Int) : Prop := ∃ n m, 0 ≤ m ∧ x = .fin n m ∧ x.toRat = z

theorem xrat_toRat (x : Rat) : (xrat x).toRat = x := by
  by_cases h : x < 0 <;> simp [xrat, FVal.toRat, h]

theorem exactly_xrat (z : Int) : Exactly (xrat z) z := by
  refine ⟨_, _, ?_, rfl, xrat_toRat _⟩
  split <;> linarith

theorem exactly_isZero {x : FVal} {z : Int} (h : Exactly x z) (hz : x.isZero = true) : z = 0 := by
  obtain ⟨n, m, -, rfl, hv⟩ := h
  have hm : m = 0 := by simpa [FVal.isZero] using hz
  have h0 : (FVal.fin n m).toRat = 0 := by simp [FVal.toRat, hm]
  exact_mod_cast hv.symm.trans h0

theorem exactly_xmul {x y : FVal} {a b : Int} (hx : Exactly x a) (hy : Exactly y b) : Exactly (xmul x y) (a * b) := by
  obtain ⟨n, m, hm, rfl, ha⟩ := hx
  obtain ⟨k, l, hl, rfl, hb⟩ := hy
  have hml : 0 ≤ m * l := mul_nonneg hm hl
  refine ⟨n != k, _, ?_, rfl, ?_⟩
  · dsimp only
    split <;> linarith
  · rw [Int.cast_mul, ← ha, ← hb]
    cases n <;> cases k <;> simp [xmul, FVal.toRat, FVal.isNaN, FVal.isInf, FVal.neg] <;> intro <;> linarith

theorem exactly_xadd {x y : FVal} {a b : Int} (hx : Exactly x a) (hy : Exactly y b) : Exactly (xadd x y) (a + b) := by
  obtain ⟨n, m, hm, rfl, ha⟩ := hx
  obtain ⟨k, l, hl, rfl, hb⟩ := hy
  have he : xadd (.fin n m) (.fin k l) = if ((FVal.fin n m).isZero && (FVal.fin k l).isZero && n && k) = true then .fin true 0
    else xrat ((FVal.fin n m).toRat + (FVal.fin k l).toRat) := rfl
  rw [he]
  split
  · rename_i hz
    simp only [FVal.isZero, Bool.and_eq_true, beq_iff_eq] at hz
    obtain ⟨⟨⟨rfl, rfl⟩, -⟩, -⟩ := hz
    refine ⟨true, 0, le_rfl, rfl, ?_⟩
    rw [Int.cast_add, ← ha, ← hb]
    simp [FVal.toRat]
  · rw [ha, hb, ← Int.cast_add]
    exact exactly_xrat (a + b)

/-- Adding up exact integers in any order of chunks. -/
theorem exactly_foldl {f : Nat → FVal} {z : Nat → Int} (h : ∀ j, Exactly (f j) (z j)) (l : List Nat) {x : FVal} {a : Int}
    (hx : Exactly x a) : Exactly ((l.map f).foldl xadd x) (a + (l.map z).sum) := by
  induction l generalizing x a with
  | nil => simpa using hx
  | cons j r ih =>
    rw [List.map_cons, List.foldl_cons, List.map_cons, List.sum_cons, ← add_assoc]
    exact ih (exactly_xadd hx (h j))

theorem exactly_chunkSum {f h : Nat → FVal} {a b : Nat → Int} (hf : ∀ j, Exactly (f j) (a j)) (hh : ∀ j, Exactly (h j) (b j))
    (l : List Nat) : Exactly (chunkSum (l.map f) (l.map h)) (l.map (fun j => a j * b j)).sum := by
  have hp := exactly_foldl (fun j => exactly_xmul (hf j) (hh j)) l (exactly_xrat 0)
  rw [zero_add] at hp
  simp only [chunkSum, List.zipWith_map, List.zipWith_self]
  split
  · rename_i hz
    rw [exactly_isZero hp hz]
    exact exactly_xrat 0
  · exact hp

/-! INT32 accumulation. -/

theorem ofInt_sextNat (x : Nat) : BitVec.ofInt 32 (sextNat 32 x) = BitVec.ofNat 32 x := by
  apply BitVec.eq_of_toNat_eq
  rw [BitVec.toNat_ofInt, BitVec.toNat_ofNat, sextNat]
  split <;> omega

theorem ofNat_toNat_emod (z : Int) : BitVec.ofNat 32 (z % 4294967296).toNat = BitVec.ofInt 32 z := by
  apply BitVec.eq_of_toNat_eq
  rw [BitVec.toNat_ofInt, BitVec.toNat_ofNat]
  omega

theorem accInt_exactly (c : Nat × BitVec 3) {x : FVal} {z : Int} (h : Exactly x z) :
    BitVec.ofNat 32 (accInt c x).1 = BitVec.ofNat 32 c.1 + BitVec.ofInt 32 z := by
  obtain ⟨_, _, _, _, hx⟩ := h
  rw [accInt, hx, ofNat_toNat_emod, Rat.num_intCast, BitVec.ofInt_add, ofInt_sextNat]

theorem foldl_accInt {f : Nat → FVal} {z : Nat → Int} (h : ∀ q, Exactly (f q) (z q)) (l : List Nat) (c : Nat × BitVec 3) :
    BitVec.ofNat 32 ((l.map f).foldl accInt c).1 = BitVec.ofNat 32 c.1 + BitVec.ofInt 32 (l.map z).sum := by
  induction l generalizing c with
  | nil => simp
  | cons q r ih => rw [List.map_cons, List.foldl_cons, ih, accInt_exactly c (h q), List.map_cons, List.sum_cons, BitVec.ofInt_add, add_assoc]

/-! Chunks along K (R132). -/

/-- The places along K of chunk `q`. -/
def chunkPlaces (n k q : Nat) : List Nat := ((List.range n).filter (fun j => decide (q * n + j < k))).map (fun j => q * n + j)

theorem filter_range_lt (n k : Nat) : (List.range n).filter (fun j => decide (j < k)) = List.range (min n k) := by
  induction n with
  | zero => simp
  | succ n ih =>
    rw [List.range_succ, List.filter_append, ih]
    by_cases h : n < k
    · rw [Nat.min_eq_left (by omega), Nat.min_eq_left (by omega), List.range_succ]
      simp [h]
    · rw [Nat.min_eq_right (by omega), Nat.min_eq_right (by omega)]
      simp [h]

theorem chunkPlaces_eq (n k q : Nat) : chunkPlaces n k q = (List.range (min n (k - q * n))).map (fun j => q * n + j) := by
  rw [chunkPlaces, ← filter_range_lt]
  congr 2
  funext j
  rw [decide_eq_decide]
  omega

/-- The chunks side by side are the places along K in order. -/
theorem flatMap_chunkPlaces (n k Q : Nat) : (List.range Q).flatMap (chunkPlaces n k) = List.range (min k (Q * n)) := by
  induction Q with
  | zero => simp
  | succ Q ih =>
    rw [List.range_succ, List.flatMap_append, ih, List.flatMap_singleton, chunkPlaces_eq]
    by_cases h : Q * n ≤ k
    · rw [Nat.min_eq_right h, ← List.range_add]
      congr 1
      rw [Nat.succ_mul]
      omega
    · rw [Nat.sub_eq_zero_of_le (by omega), Nat.min_zero, Nat.min_eq_left (by omega), Nat.min_eq_left (by rw [Nat.succ_mul]; omega)]
      exact List.append_nil _

/-- Summing chunk by chunk sums all along K. -/
theorem sum_chunks {n : Nat} (hn : 0 < n) (k : Nat) (f : Nat → Int) :
    ((List.range ((k + n - 1) / n)).map (fun q => ((chunkPlaces n k q).map f).sum)).sum = ((List.range k).map f).sum := by
  have hk : min k ((k + n - 1) / n * n) = k := by
    have h := Nat.lt_div_mul_add hn (a := k + n - 1)
    omega
  have h := congrArg (fun l => (l.map f).sum) (flatMap_chunkPlaces n k ((k + n - 1) / n))
  rw [hk, List.map_flatMap, List.flatMap_def, List.sum_flatten, List.map_map] at h
  exact h

end Sys2Proof.Proofs
end

section
/-! PROOF. MMA and MMAZ of signed bytes (R69, R145, Table 5-2): an operation is one addition for each element that the test selects, in
any order, and the obligation. -/

namespace Sys2Proof.Proofs

open Sys2Proof.Machine Sys2Proof.Safety Sys2Proof.Laws

/-! The operands. -/

/-- Element `k` of row `r` of a tile of signed bytes. -/
def signedByte (g : Group) (t r k : Nat) : Int := (tileByte g t (64 * r + k)).toInt

theorem sextNat_toNat (b : Byte) : sextNat 8 b.toNat = b.toInt := by
  have h := b.isLt
  rw [sextNat, BitVec.toInt_eq_toNat_cond, Nat.mod_eq_of_lt h]
  split <;> split <;> omega

/-- An operand of signed bytes without scales. -/
def byteSide (t off rows k : Nat) : MatSide := ⟨t, 0, false, 0, off, rows, k⟩

theorem sideElem_byte (g : Group) (s : State) (t off rows kk : Nat) (band : FVal) (r k : Nat) :
    sideElem g s (byteSide t off rows kk) band r k = xrat (signedByte g t r k : Int) := by
  have hb : tileElem g t 0 r k = (tileByte g t (64 * r + k)).toNat := by
    simp [tileElem, ttBits, natOf]
  simp [sideElem, byteSide, ttFmt, hb, sextNat_toNat, signedByte]

/-- A row of signed bytes, cut into chunks along K. -/
def byteRow (g : Group) (t k r : Nat) : List (List FVal) :=
  (List.range ((k + 32 - 1) / 32)).map (fun q => (chunkPlaces 32 k q).map (fun j => xrat (signedByte g t r j : Int)))

theorem sideRows_byte (g : Group) (s : State) (t off rows k : Nat) :
    sideRows g s (byteSide t off rows k) = (List.range rows).map (byteRow g t k) := by
  simp only [sideRows, sideElem_byte]
  simp [byteSide, byteRow, chunkPlaces, chunkLen]

/-- The sum of the products of row `i` of A and row `j` of B. -/
def rowProduct (g : Group) (m : MatOp) (i j : Nat) : Int :=
  ((List.range (tcCols m.tctlA)).map (fun k => signedByte g m.a i k * signedByte g m.b j k)).sum

/-- Accumulating chunk by chunk adds the sum of the products modulo 2^32. -/
theorem foldl_byteRows (g : Group) (m : MatOp) (i j : Nat) (c : Nat × BitVec 3) :
    BitVec.ofNat 32 ((List.zipWith chunkSum (byteRow g m.a (tcCols m.tctlA) i) (byteRow g m.b (tcCols m.tctlA) j)).foldl accInt c).1 =
      BitVec.ofNat 32 c.1 + BitVec.ofInt 32 (rowProduct g m i j) := by
  rw [byteRow, byteRow, List.zipWith_map, List.zipWith_self,
    foldl_accInt (fun q => exactly_chunkSum (fun _ => exactly_xrat _) (fun _ => exactly_xrat _) _), sum_chunks (by omega)]
  rfl

/-! The frame elements. -/

theorem frameGet_frameSet (s : State) (panel d i panel' d' i' : Nat) (x : W32) : frameGet (frameSet panel d i x s) panel' d' i' =
    if frameKey panel d i = frameKey panel' d' i' then x else frameGet s panel' d' i' := cget_cset _ _ _ _ _

/-- What an operation does at one element: nothing, or the addition of its products to what the frame holds or to zero. -/
def addElement (g : Group) (m : MatOp) (p : Nat → Bool) (s : State) (e : Nat × Nat) : State :=
  if p (64 * e.1 + e.2) then
    frameSet g.panel m.d (64 * e.1 + e.2) ((if m.kind = .mmaz then 0 else frameGet s g.panel m.d (64 * e.1 + e.2)) +
      BitVec.ofInt 32 (rowProduct g m e.1 e.2)) s
  else s

theorem indexed_map_range' {α : Type} (f : Nat → α) (n a : Nat) :
    indexed a ((List.range' a n).map f) = (List.range' a n).map (fun i => (i, f i)) := by
  induction n generalizing a with
  | zero => rfl
  | succ n ih => rw [List.range'_succ, List.map_cons, indexed, ih, List.map_cons]

theorem indexed_map_range {α : Type} (f : Nat → α) (n : Nat) : indexed 0 ((List.range n).map f) = (List.range n).map (fun i => (i, f i)) := by
  rw [List.range_eq_range', indexed_map_range']

/-- An operation on signed bytes adds to its elements in order. -/
theorem performMma_bytes {m : MatOp} (hk : m.kind = .mma ∨ m.kind = .mmaz) (hs : m.sel = 0) (ha : tcTT m.tctlA = 0) (hb : tcTT m.tctlB = 0)
    (g : Group) (p : Nat → Bool) (s : State) : (performMma g m p s).2 =
      (List.range (tcRows m.tctlA) ×ˢ List.range (tcRows m.tctlB)).foldl (addElement g m p) s := by
  have hx : m.kind ≠ .mmax := by rcases hk with h | h <;> simp [h]
  have hA := sideRows_byte g s m.a (fld m.scale 0 21) (tcRows m.tctlA) (tcCols m.tctlA)
  have hB := sideRows_byte g s m.b (fld m.scale 32 21) (tcRows m.tctlB) (tcCols m.tctlA)
  rw [byteSide] at hA hB
  simp only [performMma, hx, hs, ha, hb, if_false, decide_false, hA, hB, indexed_map_range, List.foldl_map]
  rw [show List.range (tcRows m.tctlA) ×ˢ List.range (tcRows m.tctlB) =
    (List.range (tcRows m.tctlA)).flatMap (fun i => (List.range (tcRows m.tctlB)).map (Prod.mk i)) from rfl, List.foldl_flatMap]
  simp only [List.foldl_map]
  refine (List.foldl_hom Prod.snd (fun z i => ?_)).symm
  refine List.foldl_hom Prod.snd (fun z j => ?_)
  rw [addElement]
  by_cases hp : p (64 * i + j) = true
  · simp only [hp, if_true, Bool.not_true, Bool.false_eq_true, if_false, intFrame, beq_self_eq_true, Bool.and_self, Bool.true_or,
      foldl_byteRows]
    congr 2
    split
    · rfl
    · rw [BitVec.ofNat_toNat, BitVec.setWidth_eq]
  · simp [hp]

/-! What a run of additions leaves. -/

section Elements

variable {g : Group} {m : MatOp} {p : Nat → Bool}

theorem addElement_frame (s : State) (e : Nat × Nat) : ∃ f, addElement g m p s e = { s with frames := f } := by
  unfold addElement
  split
  · exact ⟨_, rfl⟩
  · exact ⟨s.frames, rfl⟩

theorem foldl_addElement_frame (l : List (Nat × Nat)) (s : State) : ∃ f, l.foldl (addElement g m p) s = { s with frames := f } := by
  induction l generalizing s with
  | nil => exact ⟨s.frames, rfl⟩
  | cons e r ih =>
    obtain ⟨f, hf⟩ := addElement_frame (g := g) (m := m) (p := p) s e
    obtain ⟨f', hf'⟩ := ih { s with frames := f }
    exact ⟨f', by rw [List.foldl_cons, hf, hf']⟩

/-- Word `i` of frame `d` of a panel is none of the selected elements of a list. -/
def Untouched (m : MatOp) (p : Nat → Bool) (l : List (Nat × Nat)) (panel d i : Nat) : Prop :=
  ∀ e ∈ l, p (64 * e.1 + e.2) = true → frameKey panel m.d (64 * e.1 + e.2) ≠ frameKey panel d i

theorem frameGet_foldl_untouched {l : List (Nat × Nat)} {d i : Nat} (h : Untouched m p l g.panel d i) (s : State) :
    frameGet (l.foldl (addElement g m p) s) g.panel d i = frameGet s g.panel d i := by
  induction l generalizing s with
  | nil => rfl
  | cons e r ih =>
    rw [List.foldl_cons, ih (fun x hx => h x (List.mem_cons_of_mem _ hx)), addElement]
    split
    · rw [frameGet_frameSet, if_neg (h e List.mem_cons_self ‹_›)]
    · rfl

theorem frameKey_injective {panel d i j : Nat} (h : frameKey panel d i = frameKey panel d j) : i = j := by
  unfold frameKey at h
  omega

/-- Elements of different rows or columns lie apart. -/
theorem untouched_of_ne {l : List (Nat × Nat)} (hl : ∀ e ∈ l, e.2 < 64) {i j panel : Nat} (hj : j < 64)
    (h : p (64 * i + j) = true → (i, j) ∉ l) : Untouched m p l panel m.d (64 * i + j) := by
  intro e he hp hk
  have hi := frameKey_injective hk
  have h2 := hl e he
  have he' : e = (i, j) := Prod.ext (by omega) (by dsimp only; omega)
  rw [he'] at he hp
  exact h hp he

/-- An element that is met once has its products added once. -/
theorem frameGet_foldl_added {l : List (Nat × Nat)} (hd : l.Nodup) (hl : ∀ e ∈ l, e.2 < 64) {i j : Nat} (he : (i, j) ∈ l)
    (hp : p (64 * i + j) = true) (s : State) : frameGet (l.foldl (addElement g m p) s) g.panel m.d (64 * i + j) =
      (if m.kind = .mmaz then 0 else frameGet s g.panel m.d (64 * i + j)) + BitVec.ofInt 32 (rowProduct g m i j) := by
  induction l generalizing s with
  | nil => exact absurd he List.not_mem_nil
  | cons e r ih =>
    obtain ⟨hne, hr⟩ := List.nodup_cons.mp hd
    have hlr : ∀ x ∈ r, x.2 < 64 := fun x hx => hl x (List.mem_cons_of_mem _ hx)
    have hj : j < 64 := hl _ he
    rw [List.foldl_cons]
    rcases List.mem_cons.mp he with rfl | her
    · rw [frameGet_foldl_untouched (untouched_of_ne hlr hj (fun _ => hne)), addElement, if_pos hp, frameGet_frameSet, if_pos rfl]
    · have h1 : Untouched m p [e] g.panel m.d (64 * i + j) :=
        untouched_of_ne (fun x hx => hl x (by simp_all)) hj (fun _ hx => hne (List.mem_singleton.mp hx ▸ her))
      rw [ih hr hlr her, show addElement g m p s e = [e].foldl (addElement g m p) s from rfl, frameGet_foldl_untouched h1]

end Elements

/-- Settles O47: the selected elements have their products added once, and nothing else changes. -/
theorem integerMatrix : Obligations.IntegerMatrix := by
  rintro g m p s el hel hk hs ha hb hra hrb - hd
  have hprod : ∀ i j, ((List.range (tcCols m.tctlA)).map (fun k => el m.a i k * el m.b j k)).sum = rowProduct g m i j := fun i j => by
    simp only [hel]
    rfl
  have hl : ∀ e ∈ List.range (tcRows m.tctlA) ×ˢ List.range (tcRows m.tctlB), e.1 < tcRows m.tctlA ∧ e.2 < tcRows m.tctlB := fun e he => by
    obtain ⟨i, j⟩ := e
    simpa [List.mem_product] using he
  have hl2 := fun e he => lt_of_lt_of_le (hl e he).2 hrb
  obtain ⟨f, hf⟩ := foldl_addElement_frame (g := g) (m := m) (p := p) (List.range (tcRows m.tctlA) ×ˢ List.range (tcRows m.tctlB)) s
  rw [performMma_bytes hk hs ha hb]
  refine ⟨fun i j hi hj hp => ?_, fun i j _ hj h => ?_, fun d i hdl hne hi => ?_, by rw [hf]; exact ⟨rfl, rfl⟩, by rw [hf]⟩
  · rw [hprod]
    exact frameGet_foldl_added (List.nodup_range.product List.nodup_range) hl2 (by simp [List.mem_product, hi, hj]) hp s
  · refine frameGet_foldl_untouched (untouched_of_ne hl2 hj (fun hp he => ?_)) s
    have h2 := hl _ he
    rcases h with h | h | h
    · exact absurd h2.1 (Nat.not_lt.mpr h)
    · exact absurd h2.2 (Nat.not_lt.mpr h)
    · exact absurd (hp.symm.trans h) (by decide)
  · refine frameGet_foldl_untouched (fun e he _ hkey => hne ?_) s
    have h1 := hl e he
    unfold frameKey at hkey
    omega

end Sys2Proof.Proofs
end

section
/-! PROOF. The round trip (R79 to R91): every well-formed word decodes from its words, from its bytes, and from the number that the opcode
table writes for it. -/

namespace Sys2Proof.Proofs

open Sys2Proof.Machine Sys2Proof.Laws

/-! Words. -/

/-- The words of every well-formed instruction decode to it. -/
theorem encoding_statement : ∀ i : Instr, Encoding.Statement i
  | .nop o => Encoding.nop o | .yieldpt o => Encoding.yieldpt o | .exit o => Encoding.exit o | .ret o => Encoding.ret o
  | .rfe o => Encoding.rfe o | .svc o => Encoding.svc o | .trap o => Encoding.trap o | .bra o => Encoding.bra o | .brc o => Encoding.brc o
  | .bzm o => Encoding.bzm o | .call o => Encoding.call o | .mode o => Encoding.mode o | .mfsr o => Encoding.mfsr o
  | .mtsr o => Encoding.mtsr o | .migrate o => Encoding.migrate o | .launch o => Encoding.launch o | .tlbinv o => Encoding.tlbinv o
  | .harvest o => Encoding.harvest o | .mappg o => Encoding.mappg o | .accsn o => Encoding.accsn o | .cmaint o => Encoding.cmaint o
  | .sadd o => Encoding.sadd o | .ssub o => Encoding.ssub o | .smul o => Encoding.smul o | .smulh o => Encoding.smulh o
  | .smad o => Encoding.smad o | .sand o => Encoding.sand o | .sor o => Encoding.sor o | .sxor o => Encoding.sxor o
  | .sshl o => Encoding.sshl o | .sshr o => Encoding.sshr o | .ssra o => Encoding.ssra o | .smin o => Encoding.smin o
  | .smax o => Encoding.smax o | .scmp o => Encoding.scmp o | .ssel o => Encoding.ssel o | .smov o => Encoding.smov o
  | .sli o => Encoding.sli o | .spopc o => Encoding.spopc o | .sclz o => Encoding.sclz o | .sffs o => Encoding.sffs o
  | .vadd o => Encoding.vadd o | .vsub o => Encoding.vsub o | .vmul o => Encoding.vmul o | .vmulh o => Encoding.vmulh o
  | .vmad o => Encoding.vmad o | .vand o => Encoding.vand o | .vor o => Encoding.vor o | .vxor o => Encoding.vxor o
  | .vshl o => Encoding.vshl o | .vshr o => Encoding.vshr o | .vsra o => Encoding.vsra o | .vmin o => Encoding.vmin o
  | .vmax o => Encoding.vmax o | .vabs o => Encoding.vabs o | .vcmp o => Encoding.vcmp o | .vsel o => Encoding.vsel o
  | .vmov o => Encoding.vmov o | .vmovImm o => Encoding.vmovImm o | .vmovScalar o => Encoding.vmovScalar o | .vpopc o => Encoding.vpopc o
  | .vclz o => Encoding.vclz o | .vbfe o => Encoding.vbfe o | .vbfi o => Encoding.vbfi o | .fadd o => Encoding.fadd o
  | .fsub o => Encoding.fsub o | .fmul o => Encoding.fmul o | .fma o => Encoding.fma o | .fmin o => Encoding.fmin o
  | .fmax o => Encoding.fmax o | .fcmp o => Encoding.fcmp o | .frcp o => Encoding.frcp o | .frsq o => Encoding.frsq o
  | .fsqrt o => Encoding.fsqrt o | .fex2 o => Encoding.fex2 o | .flg2 o => Encoding.flg2 o | .ftrig o => Encoding.ftrig o
  | .frnd o => Encoding.frnd o | .fcvt o => Encoding.fcvt o | .fcls o => Encoding.fcls o | .fscl o => Encoding.fscl o
  | .shfl o => Encoding.shfl o | .shflScalar o => Encoding.shflScalar o | .shfx o => Encoding.shfx o | .vote o => Encoding.vote o
  | .rfal o => Encoding.rfal o | .vred o => Encoding.vred o | .vscan o => Encoding.vscan o | .viota o => Encoding.viota o
  | .ld o => Encoding.ld o | .st o => Encoding.st o | .lds o => Encoding.lds o | .sts o => Encoding.sts o | .sld o => Encoding.sld o
  | .sst o => Encoding.sst o | .ldacq o => Encoding.ldacq o | .strel o => Encoding.strel o | .fence o => Encoding.fence o
  | .atom o => Encoding.atom o | .cas o => Encoding.cas o | .red o => Encoding.red o | .pfetch o => Encoding.pfetch o
  | .mwait o => Encoding.mwait o | .barinit o => Encoding.barinit o | .bararv o => Encoding.bararv o | .barwait o => Encoding.barwait o
  | .cpy o => Encoding.cpy o | .cpywp o => Encoding.cpywp o | .qnt o => Encoding.qnt o | .spres o => Encoding.spres o
  | .spresW o => Encoding.spresW o | .spcom o => Encoding.spcom o | .tcfg o => Encoding.tcfg o | .tld o => Encoding.tld o
  | .tst o => Encoding.tst o | .mma o => Encoding.mma o | .mmax o => Encoding.mmax o | .mmaz o => Encoding.mmaz o
  | .accld o => Encoding.accld o | .accst o => Encoding.accst o | .mbatch o => Encoding.mbatch o | .mbwait o => Encoding.mbwait o
  | .xscan o => Encoding.xscan o | .slmm o => Encoding.slmm o | .wrnd o => Encoding.wrnd o | .wrndF32 o => Encoding.wrndF32 o
  | .vemit o => Encoding.vemit o | .pemit o => Encoding.pemit o | .texs o => Encoding.texs o | .texsL o => Encoding.texsL o
  | .texsB o => Encoding.texsB o | .texf o => Encoding.texf o | .texfL o => Encoding.texfL o | .rtst o => Encoding.rtst o
  | .rtld o => Encoding.rtld o | .mlins o => Encoding.mlins o | .mlres o => Encoding.mlres o | .mlresClr o => Encoding.mlresClr o
  | .rayq o => Encoding.rayq o | .rayqBob o => Encoding.rayqBob o | .seam o => Encoding.seam o
  | .engineFaultDelivery _ | .engineTranslationFault _ | .registerMissFetch _ | .wakeBlockedGroup _ | .ldthrExpiry _ | .dispatchTakeRecord _
  | .dependenceRelease _ | .panelPlace | .panelComplete _ | .preemptRequest _ | .panelEvict _ | .idleEvictTimeout _ | .panelRestore _
  | .sliceEnd _ _ | .runBudgetExpiry _ | .waitBudgetExpiry _ | .contextSnapshot _ | .faultRecordPost _ | .eventWriteRetry | .frespResume _
  | .frespKill _ | .ctxPreempt _ | .ctxKill _ | .ctxStopResume _ | .registerWrite _ _ _ | .spawnBinTimeout _ _ _ | .bobbinGroupPlace
  | .copyCommandComplete _ _ | .qntCommandComplete _ | .batchComplete _ | .rayqCommandComplete _ | .seamComposite _ | .seamExchange _
  | .seamComplete _ | .primitiveRasterise _ _ _ | .fragmentGroupLaunch _ _ _ | .passComplete _ _ _ | .homeWritebackMerge _ _ | .homeAtomic _
  | .replicaMulticast _ | .requestReissueTimeout _ | .adFlushTimeout _ _ _ | .hostSnoop _ | .hostMemWrite _ _ | .hostMemRead _ _
  | .peerRead _ _ | .accessionedRead _ | .peerWrite _ _ _ | .peerAtomic _ _ _ _ | .read _ | .write _ _ | .take _ | .give _ | .telem
  | .reset _ | .spare _ _ | .clrfovf | .cecWindowBoundary _ | .hbmRowCopyDone _ | .powerWindowEnd _ _ | .powerOnReset
  | .svetfenLinkTrain _ _ | .hostLinkTrain _ _ | .hostWindowRead _ _ | .peerWindowReread _ | .flitCrcDrop _ => encoding_event rfl

/-! Bytes. -/

theorem bytesWord_append (w : W32) (l : List Byte) : bytesWord (wordBytes w ++ l) = w := by
  have hhi : w.extractLsb' 24 8 ++ w.extractLsb' 16 8 = w.extractLsb' 16 16 := BitVec.extractLsb'_append_extractLsb'_eq_extractLsb' rfl
  have hmid : w.extractLsb' 16 16 ++ w.extractLsb' 8 8 = w.extractLsb' 8 24 := BitVec.extractLsb'_append_extractLsb'_eq_extractLsb' rfl
  have hlo : w.extractLsb' 8 24 ++ w.extractLsb' 0 8 = w.extractLsb' 0 32 := BitVec.extractLsb'_append_extractLsb'_eq_extractLsb' rfl
  change (w.extractLsb' 24 8 ++ w.extractLsb' 16 8 ++ w.extractLsb' 8 8 ++ w.extractLsb' 0 8 : BitVec (8 + 8 + 8 + 8)) = w
  rw [hhi, hmid, hlo]
  exact BitVec.extractLsb'_eq_self

/-- The bytes of two words decode as the words do. -/
theorem decodeBytes_words (w0 w1 : W32) : decodeBytes (wordBytes w0 ++ wordBytes w1) = decode w0 w1 := by
  have hd : (wordBytes w0 ++ wordBytes w1).drop 4 = wordBytes w1 ++ [] := by simp [wordBytes]
  rw [decodeBytes, hd, bytesWord_append, bytesWord_append]

/-! Table numbers. -/

/-- The bytes of the number that an instruction of two words has in the opcode table. -/
theorem tableBytes_long (w0 w1 : W32) : tableBytes 64 (w0.toNat + w1.toNat % 2 ^ 32 * 2 ^ 32) = wordBytes w0 ++ wordBytes w1 := by
  have h0 := w0.isLt
  have h1 := w1.isLt
  have hv : (w0.toNat + w1.toNat % 2 ^ 32 * 2 ^ 32) % 2 ^ 64 = w0.toNat + w1.toNat * 2 ^ 32 := by omega
  have hlo : BitVec.ofNat 32 (w0.toNat + w1.toNat * 2 ^ 32) = w0 := 
    BitVec.eq_of_toNat_eq (by rw [BitVec.toNat_ofNat, Nat.add_mul_mod_self_right, Nat.mod_eq_of_lt h0])
  have hhi : (w0.toNat + w1.toNat * 2 ^ 32) / 2 ^ 32 = w1.toNat := by omega
  simp only [tableBytes, hv, hlo, hhi, BitVec.ofNat_toNat, BitVec.setWidth_eq]

/-- The bytes of the number that an instruction of one word has in the opcode table. -/
theorem tableBytes_short (w0 w1 : W32) : tableBytes 32 (w0.toNat + w1.toNat % 2 ^ 0 * 2 ^ 32) = wordBytes w0 ++ wordBytes 0 := by
  have h0 := w0.isLt
  have hv : (w0.toNat + w1.toNat % 2 ^ 0 * 2 ^ 32) % 2 ^ 32 = w0.toNat := by omega
  simp only [tableBytes, hv, Nat.div_eq_of_lt h0, BitVec.ofNat_toNat, BitVec.setWidth_eq]
  rfl

/-- The number that the opcode table writes for an instruction has the bytes of its words. -/
theorem tableBytes_encode (i : Instr) :
    tableBytes (8 * instrLen i) ((encode i).1.toNat + (encode i).2.toNat % 2 ^ (8 * instrLen i - 32) * 2 ^ 32) =
      wordBytes (encode i).1 ++ wordBytes (encode i).2 := by
  by_cases hx : extPresent (opnd i).x = true
  · rw [instrLen, if_pos hx]
    exact tableBytes_long _ _
  · have hnone : (opnd i).x = .none := by
      cases h : (opnd i).x <;> simp_all [extPresent]
    have hw : (encode i).2 = 0 := by rw [encode, hnone, encodeExt]
    rw [instrLen, if_neg hx, hw]
    exact tableBytes_short _ _

/-- Settles O1: each word decodes by its constructor's lemma, and its bytes and its table number are those words again. -/
theorem decodeOfEncode : Obligations.DecodeOfEncode := fun i hw hwf => by
  have hd : decode (encode i).1 (encode i).2 = .instr i (instrLen i) := encoding_statement i hw hwf
  have hb : decodeBytes (wordBytes (encode i).1 ++ wordBytes (encode i).2) = .instr i (instrLen i) := (decodeBytes_words _ _).trans hd
  refine ⟨hd, hb, ?_⟩
  rw [decodeTableWord, tableBytes_encode, hb]

end Sys2Proof.Proofs
end

section
/-! PROOF. What decodes is what the encoder writes, and what does not decode is refused under its own sub-code (R79, R80, R82, R89, R93,
Tables 3-6 and 3-10). -/

namespace Sys2Proof.Proofs

open Sys2Proof.Machine Sys2Proof.Laws

/-! The constructor that an opcode and an operand word choose. -/

theorem decodeOp01_word {o : Opnd} {i : Instr} (h : decodeOp01 o = some i) : opcode i = 1 ∧ opnd i = o := by
  simp only [decodeOp01] at h
  repeat' split at h
  all_goals cases h
  all_goals exact ⟨rfl, rfl⟩

theorem decodeOp0B_word {o : Opnd} {i : Instr} (h : decodeOp0B o = some i) : opcode i = 0x0B ∧ opnd i = o := by
  simp only [decodeOp0B] at h
  repeat' split at h
  all_goals cases h
  all_goals exact ⟨rfl, rfl⟩

/-- The instruction that an opcode and an operand word choose has both of them. -/
theorem decodeOp_word {op : Nat} {o : Opnd} {i : Instr} (h : decodeOp op o = some i) : opcode i = op ∧ opnd i = o := by
  unfold decodeOp at h
  split at h
  case h_1 => exact decodeOp01_word h
  case h_11 => exact decodeOp0B_word h
  all_goals repeat' split at h
  all_goals cases h
  all_goals exact ⟨rfl, rfl⟩

/-! Fields put together again. -/

/-- Two fields that meet are one field. -/
theorem extract_join {w : Nat} (x : BitVec w) (k m n : Nat) :
    x.extractLsb' (k + m) n ++ x.extractLsb' k m = x.extractLsb' k (n + m) :=
  BitVec.extractLsb'_append_extractLsb'_eq_extractLsb' rfl

/-- A bit as a field of one bit. -/
theorem ofBool_bit {w : Nat} (x : BitVec w) (k : Nat) : BitVec.ofBool (x.getLsbD k) = x.extractLsb' k 1 := by
  apply BitVec.eq_of_getLsbD_eq
  intro j hj
  obtain rfl : j = 0 := by omega
  cases h : x.getLsbD k <;> simp [h]

/-- The fields of a first word, joined as Table 3-1 has them, are the word. -/
theorem first_join (w : W32) : w.extractLsb' 29 3 ++ BitVec.ofBool (w.getLsbD 28) ++ w.extractLsb' 21 7 ++ w.extractLsb' 14 7 ++
    w.extractLsb' 7 7 ++ w.extractLsb' 0 7 = w := by
  rw [ofBool_bit, extract_join w 28 1 3, extract_join w 21 7 4, extract_join w 14 7 11, extract_join w 7 7 18, extract_join w 0 7 25]
  exact whole w

/-- The kind of an extension word that has one of the three legal kinds, as its field. -/
theorem kind_field {w : W32} {k : BitVec 2} (h : extKind w = k.toNat) : w.extractLsb' 30 2 = k := BitVec.eq_of_toNat_eq h

theorem imm_join {w : W32} (h : extKind w = 0) : encodeExt (.imm (w.extractLsb' 0 30)) = w := by
  rw [encodeExt, ← kind_field (k := 0) h, extract_join w 0 30 2]
  exact whole w

theorem bro_join {w : W32} (h : extKind w = 1) : encodeExt (.bro
    { c := w.extractLsb' 23 7, bsc := w.getLsbD 22, bhi := w.getLsbD 21, z1 := w.extractLsb' 18 3, sel := w.extractLsb' 14 4,
      na := w.getLsbD 13, aa := w.getLsbD 12, nb := w.getLsbD 11, ab := w.getLsbD 10, nc := w.getLsbD 9, ac := w.getLsbD 8,
      z2 := w.extractLsb' 0 8 }) = w := by
  simp only [encodeExt, ← kind_field (k := 1) h, ofBool_bit]
  rw [extract_join w 23 7 2, extract_join w 22 1 9, extract_join w 21 1 10, extract_join w 18 3 11, extract_join w 14 4 14,
    extract_join w 13 1 18, extract_join w 12 1 19, extract_join w 11 1 20, extract_join w 10 1 21, extract_join w 9 1 22,
    extract_join w 8 1 23, extract_join w 0 8 24]
  exact whole w

theorem par_join {w : W32} (h : extKind w = 2) : encodeExt (.par
    { scope := w.extractLsb' 27 3, order := w.extractLsb' 25 2, scale := w.extractLsb' 23 2, size := w.extractLsb' 21 2,
      sx := w.getLsbD 20, ccls := w.extractLsb' 18 2, sel := w.extractLsb' 14 4, val := w.extractLsb' 0 14 }) = w := by
  simp only [encodeExt, ← kind_field (k := 2) h, ofBool_bit]
  rw [extract_join w 27 3 2, extract_join w 25 2 5, extract_join w 23 2 7, extract_join w 21 2 9, extract_join w 20 1 11,
    extract_join w 18 2 12, extract_join w 14 4 14, extract_join w 0 14 18]
  exact whole w

/-- An extension word that is read is the one that the encoder writes, and it is carried. -/
theorem decodeExt_some {w : W32} {x : Ext} (h : decodeExt w = some x) : encodeExt x = w ∧ extPresent x = true := by
  unfold decodeExt at h
  split at h
  · cases h; exact ⟨imm_join ‹_›, rfl⟩
  · split at h
    · cases h; exact ⟨bro_join ‹_›, rfl⟩
    · split at h
      · cases h; exact ⟨par_join ‹_›, rfl⟩
      · cases h

/-- The extension that two words carry: none where XW is clear, else one that is read from the second word. -/
theorem ext_carried {w0 w1 : W32} {x : Ext} (h : (if hasExt w0 then decodeExt w1 else some Ext.none) = some x) :
    extPresent x = hasExt w0 ∧ (hasExt w0 = true → encodeExt x = w1) := by
  split at h
  · rename_i he
    obtain ⟨hw, hp⟩ := decodeExt_some h
    exact ⟨hp.trans he.symm, fun _ => hw⟩
  · rename_i he
    cases h
    exact ⟨(Bool.eq_false_iff.mpr he).symm, fun h => absurd h he⟩

/-! Decoding, case by case. -/

/-- The primary opcode of a first word. -/
def wordOp (w : W32) : Nat := (w.extractLsb' 21 7).toNat

/-- The operand word that a first word and an extension make. -/
def wordOpnd (w : W32) (x : Ext) : Opnd :=
  { st := w.extractLsb' 29 3, d := w.extractLsb' 14 7, a := w.extractLsb' 7 7, b := w.extractLsb' 0 7, x := x }

section Decode

variable {w0 w1 : W32} (h0 : w0 ≠ 0)
include h0

theorem decode_unassigned (ha : opAssigned (wordOp w0) = false) : decode w0 w1 = .illegal 2 := by
  rw [wordOp] at ha
  simp only [decode, h0, ha, if_false, Bool.not_false, if_true]

variable (ha : opAssigned (wordOp w0) = true)
include ha

theorem decode_badKind (hx : (if hasExt w0 then decodeExt w1 else some Ext.none) = none) : decode w0 w1 = .illegal 3 := by
  rw [wordOp] at ha
  simp only [decode, h0, ha, hx, if_false, Bool.not_true, Bool.false_eq_true]

variable {x : Ext} (hx : (if hasExt w0 then decodeExt w1 else some Ext.none) = some x)
include hx

theorem decode_refusedExt (hf : extAccepted (opForm (wordOp w0)) x = false) : decode w0 w1 = .illegal 4 := by
  rw [wordOp] at ha hf
  simp only [decode, h0, ha, hx, hf, if_false, Bool.not_true, Bool.false_eq_true, Bool.not_false, if_true]

variable (hf : extAccepted (opForm (wordOp w0)) x = true)
include hf

theorem decode_reserved (hd : decodeOp (wordOp w0) (wordOpnd w0 x) = none) : decode w0 w1 = .illegal 5 := by
  rw [wordOp] at ha hf hd
  rw [wordOpnd] at hd
  simp only [decode, h0, ha, hx, hf, hd, if_false, Bool.not_true, Bool.false_eq_true]

theorem decode_chosen {i : Instr} (hd : decodeOp (wordOp w0) (wordOpnd w0 x) = some i) :
    decode w0 w1 = .instr i (if hasExt w0 then 8 else 4) := by
  rw [wordOp] at ha hf hd
  rw [wordOpnd] at hd
  simp only [decode, h0, ha, hx, hf, hd, if_false, Bool.not_true, Bool.false_eq_true]

end Decode

/-- An opcode that refuses the extension is what sub-code 4 stands for. -/
theorem decode_refusedExt_iff {w0 w1 : W32} {x : Ext} (h0 : w0 ≠ 0) (ha : opAssigned (wordOp w0) = true)
    (hx : (if hasExt w0 then decodeExt w1 else some Ext.none) = some x) :
    decode w0 w1 = .illegal 4 ↔ extAccepted (opForm (wordOp w0)) x = false := by
  refine ⟨fun h => Bool.eq_false_iff.mpr (fun hf => ?_), decode_refusedExt h0 ha hx⟩
  cases hd : decodeOp (wordOp w0) (wordOpnd w0 x) with
  | none => rw [decode_reserved h0 ha hx hf hd] at h; cases h
  | some i => rw [decode_chosen h0 ha hx hf hd] at h; cases h

/-- Words that decode to an instruction meet none of the refusals. -/
theorem decode_instr {w0 w1 : W32} {i : Instr} {n : Nat} (h : decode w0 w1 = .instr i n) : ∃ x,
    opAssigned (wordOp w0) = true ∧ (if hasExt w0 then decodeExt w1 else some Ext.none) = some x ∧
      decodeOp (wordOp w0) (wordOpnd w0 x) = some i ∧ n = (if hasExt w0 then 8 else 4) := by
  by_cases h0 : w0 = 0
  · subst h0; cases h
  by_cases ha : opAssigned (wordOp w0) = true
  swap
  · rw [decode_unassigned h0 (Bool.eq_false_iff.mpr ha)] at h; cases h
  cases hx : (if hasExt w0 then decodeExt w1 else some Ext.none) with
  | none => rw [decode_badKind h0 ha hx] at h; cases h
  | some x =>
    by_cases hf : extAccepted (opForm (wordOp w0)) x = true
    · cases hd : decodeOp (wordOp w0) (wordOpnd w0 x) with
      | none => rw [decode_reserved h0 ha hx hf hd] at h; cases h
      | some j => rw [decode_chosen h0 ha hx hf hd] at h; cases h; exact ⟨x, ha, rfl, hd, rfl⟩
    · rw [decode_refusedExt h0 ha hx (Bool.eq_false_iff.mpr hf)] at h; cases h

/-- The words of what decodes (R79, R80). -/
theorem encode_of_decode {w0 w1 : W32} {i : Instr} {n : Nat} (h : decode w0 w1 = .instr i n) :
    isWord i = true ∧ n = instrLen i ∧ (encode i).1 = w0 ∧ (n = 8 → (encode i).2 = w1) ∧ (n = 4 → hasExt w0 = false) := by
  obtain ⟨x, ha, hx, hd, hn⟩ := decode_instr h
  obtain ⟨hop, ho⟩ := decodeOp_word hd
  obtain ⟨hp, hw⟩ := ext_carried hx
  have hox : (opnd i).x = x := by rw [ho, wordOpnd]
  refine ⟨?_, ?_, ?_, fun h8 => ?_, fun h4 => ?_⟩
  · rw [isWord, hop]
    exact bne_iff_ne.mpr (fun hz => absurd (hz ▸ ha) (by decide))
  · rw [hn, instrLen, hox, hp]
  · have hb : BitVec.ofNat 7 (wordOp w0) = w0.extractLsb' 21 7 := by rw [wordOp, BitVec.ofNat_toNat, BitVec.setWidth_eq]
    simp only [encode, encodeFirst, hop, ho, wordOpnd, hp, hasExt, hb]
    exact first_join w0
  · have he : hasExt w0 = true := by
      by_contra hne
      rw [hn, if_neg hne] at h8
      exact absurd h8 (by decide)
    rw [encode, hox, hw he]
  · by_contra hne
    rw [hn, if_pos (Bool.not_eq_false _ ▸ hne)] at h4
    exact absurd h4 (by decide)

/-! Table 3-6: the opcodes that need an extension word, and those that take none. -/

theorem form_needs : ∀ op < 128, (3 ≤ op ∧ op ≤ 8) ∨ op = 0x0B ∨ op = 0x14 ∨ (0x1D ≤ op ∧ op ≤ 0x1E) ∨ op = 0x20 ∨ op = 0x28 ∨
    (0x32 ≤ op ∧ op ≤ 0x33) ∨ op = 0x38 ∨ op = 0x3C ∨ op = 0x3F ∨ op = 0x47 ∨ op = 0x59 ∨ (0x62 ≤ op ∧ op ≤ 0x64) ∨
    (0x71 ≤ op ∧ op ≤ 0x72) ∨ op = 0x74 ∨ op = 0x7D → opAssigned op = true ∧ (opForm op).none = false := by
  decide +kernel

theorem form_bare : ∀ op < 128, (1 ≤ op ∧ op ≤ 2) ∨ (9 ≤ op ∧ op ≤ 10) ∨ op = 0x1F ∨ (0x21 ≤ op ∧ op ≤ 0x23) ∨ op = 0x31 ∨
    (0x35 ≤ op ∧ op ≤ 0x36) ∨ (0x40 ≤ op ∧ op ≤ 0x46) ∨ op = 0x48 ∨ (0x4B ≤ op ∧ op ≤ 0x50) ∨ (0x66 ≤ op ∧ op ≤ 0x67) ∨
    (0x6F ≤ op ∧ op ≤ 0x70) ∨ op = 0x75 ∨ (0x78 ≤ op ∧ op ≤ 0x7A) →
    opAssigned op = true ∧ (opForm op).k00 = false ∧ (opForm op).k01 = false ∧ (opForm op).k10 = false := by
  decide +kernel

/-- A row that takes no extension word refuses each kind. -/
theorem extAccepted_bare {f : Form} {x : Ext} (h00 : f.k00 = false) (h01 : f.k01 = false) (h10 : f.k10 = false)
    (hx : extPresent x = true) : extAccepted f x = false := by
  cases x with
  | none => cases hx
  | imm v => exact h00
  | bro k => exact h01
  | par k => exact h10

/-- An extension word of kind 0b11 is not read, and any other is. -/
theorem decodeExt_none_iff (w : W32) : decodeExt w = none ↔ w.extractLsb' 30 2 = 3 := by
  have hk : extKind w = (w.extractLsb' 30 2).toNat := rfl
  have hlt := (w.extractLsb' 30 2).isLt
  unfold decodeExt
  constructor
  · intro h
    split_ifs at h
    have h3 : (3 : BitVec 2).toNat = 3 := rfl
    exact BitVec.eq_of_toNat_eq (by omega)
  · intro h
    have h3 : extKind w = 3 := by rw [hk, h]; rfl
    simp [h3]

theorem decodeExt_kind10 {w : W32} (h : extKind w = 2) : ∃ k, decodeExt w = some (.par k) ∧ k.sel = w.extractLsb' 14 4 :=
  ⟨_, by rw [decodeExt, if_neg (by omega), if_neg (by omega), if_pos h], rfl⟩

theorem decodeOp01_reserved {o : Opnd} (h : 7 ≤ o.d.toNat) : decodeOp01 o = none := by
  unfold decodeOp01
  dsimp only
  iterate 7 rw [if_neg (by omega)]

theorem decodeOp0B_reserved {o : Opnd} (h : 5 ≤ parSel o) : decodeOp0B o = none := by
  unfold decodeOp0B
  dsimp only
  iterate 5 rw [if_neg (by omega)]

/-- Settles O2: the words of what decodes, and each refusal by the case of the decoder that answers it. -/
theorem encodeOfDecode : Obligations.EncodeOfDecode := by
  refine ⟨fun w0 w1 i n h => encode_of_decode h, fun w1 => rfl, ?_⟩
  rintro w0 w1 _ rfl h0
  refine ⟨decode_unassigned h0, fun ha he hk => ?_, fun x ha hx => decode_refusedExt_iff h0 ha hx, fun he hop => ?_,
    fun he hk hop => ?_, fun hop he hd => ?_, fun hop he hk hs => ?_⟩
  · exact decode_badKind h0 ha ((if_pos he).trans ((decodeExt_none_iff w1).mpr hk))
  · obtain ⟨ha, hf⟩ := form_needs _ (BitVec.isLt _) hop
    exact decode_refusedExt h0 ha (if_neg (Bool.eq_false_iff.mp he)) hf
  · obtain ⟨x, hx⟩ := Option.ne_none_iff_exists'.mp (fun h => hk ((decodeExt_none_iff w1).mp h))
    obtain ⟨ha, h00, h01, h10⟩ := form_bare _ (BitVec.isLt _) hop
    exact decode_refusedExt h0 ha ((if_pos he).trans hx) (extAccepted_bare h00 h01 h10 (decodeExt_some hx).2)
  · have hop : wordOp w0 = 1 := hop
    exact decode_reserved h0 (hop ▸ rfl) (if_neg (Bool.eq_false_iff.mp he)) (hop ▸ rfl) (hop ▸ decodeOp01_reserved hd)
  · have hop : wordOp w0 = 0x0B := hop
    obtain ⟨k, hx, hsel⟩ := decodeExt_kind10 (congrArg BitVec.toNat hk)
    have hs5 : 5 ≤ parSel (wordOpnd w0 (.par k)) := hs.trans_eq (congrArg BitVec.toNat hsel.symm)
    exact decode_reserved h0 (hop ▸ rfl) ((if_pos he).trans hx) (hop ▸ rfl) (hop ▸ decodeOp0B_reserved hs5)

end Sys2Proof.Proofs
end

section
/-! PROOF. When a posted result is visible (R98, R100, R102): one equation for a single pending result, and which pending results a register
hears of. -/

namespace Sys2Proof.Proofs

open Sys2Proof.Machine Sys2Proof.Laws

/-! A single pending result. -/

theorem retire_quiet {g : Group} (d : Nat) (h : g.pend = []) : retire d g = g := by
  cases g; cases h; rfl

/-- One pending result takes effect where its distance has passed, and else comes nearer by the distance that has (R98). -/
theorem retire_single (g : Group) (l d : Nat) (e : Effect) : retire d { g with pend := [⟨l, e⟩] } =
    if l ≤ d then { applyEff g e with pend := [] } else { g with pend := [⟨l - d, e⟩] } := by
  by_cases h : l ≤ d
  · cases e <;> simp [retire, h, applyEff]
  · simp [retire, h]

/-- A posted result of a group without pending writes, when `d` has passed. -/
theorem retire_post {g : Group} (l d : Nat) (e : Effect) (h : g.pend = []) : retire d (post l e g) =
    if l ≤ d then { applyEff g e with pend := [] } else { g with pend := [⟨l - d, e⟩] } := by
  rw [post_quiet l e h, retire_single]

/-- The same, when first `d` has passed and then `k` more. -/
theorem retire_retire_post {g : Group} (l d k : Nat) (e : Effect) (h : g.pend = []) : retire k (retire d (post l e g)) =
    if l ≤ d then { applyEff g e with pend := [] } else if l ≤ d + k then { applyEff g e with pend := [] }
      else { g with pend := [⟨l - d - k, e⟩] } := by
  rw [retire_post l d e h]
  split
  · exact retire_quiet k rfl
  · rw [retire_single]
    exact if_congr (by omega) rfl rfl

/-- A lane of a masked vector result (R98, R421). -/
theorem laneOf_applyEff_masked (g : Group) (n : Nat) (m : W64) (f : Nat → W32) {i : Nat} (hi : i < 64) :
    laneOf (cget (fun _ => zeroLanes) (applyEff g (.vec n (masked m f))).v n) i =
      if m.getLsbD i = true then f i else laneOf (cget (fun _ => zeroLanes) g.v n) i := by
  have hm : (masked m f).getD i none = if m.getLsbD i = true then some (f i) else none := by
    simp [masked, laneIdx, List.getD, hi]
  simp only [applyEff, cget_cset_same, laneOf_map_laneIdx hi, hm]
  by_cases hb : m.getLsbD i = true <;> simp [hb]

/-! Which results a scalar register hears of. -/

/-- An effect on another register leaves a scalar register alone. -/
theorem cget_applyEff_untargeted {n : Nat} {x : W64} {e : Effect} (g : Group) (h : sameTarget e (.sca n x) = false) :
    cget zero (applyEff g e).s n = cget zero g.s n := by
  cases e with
  | sca k y => exact cget_applyEff_sca_other y g (fun hk => by simp [sameTarget, hk] at h)
  | vec | mode | tctl | fp => rfl

theorem cget_foldl_untargeted {n : Nat} {x : W64} {l : List Pending} (h : ∀ p ∈ l, sameTarget p.eff (.sca n x) = false) (g : Group) :
    cget zero (l.foldl (fun a p => applyEff a p.eff) g).s n = cget zero g.s n := by
  induction l generalizing g with
  | nil => rfl
  | cons p r ih =>
    rw [List.foldl_cons, ih (fun q hq => h q (List.mem_cons_of_mem _ hq)), cget_applyEff_untargeted g (h p List.mem_cons_self)]

/-- The last effect on a scalar register is the one that stays (R100). -/
theorem cget_foldl_last (l : List Pending) (n k : Nat) (x : W64) (g : Group) :
    cget zero ((l ++ [(⟨k, .sca n x⟩ : Pending)]).foldl (fun a p => applyEff a p.eff) g).s n = x := by
  rw [List.foldl_append]
  exact cget_cset_same _ _ _ _

/-- A write of a register leaves no earlier write of it pending (R100). -/
theorem flushTarget_untargeted (g : Group) (e : Effect) : ∀ p ∈ (flushTarget g e).pend, sameTarget p.eff e = false := by
  intro p hp
  have hf := (List.mem_filter.mp hp).2
  simpa using hf

theorem put_untargeted (g : Group) (e : Effect) : ∀ p ∈ (put e g).pend, sameTarget p.eff e = false := by
  obtain ⟨v, s, gm, tc, fp, h⟩ := applyEff_frame (flushTarget g e) e
  rw [put, h]
  exact flushTarget_untargeted g e

/-- A posted result stands last among the pending ones. -/
theorem post_pend (k : Nat) (e : Effect) (g : Group) : (post k e g).pend = (flushTarget g e).pend ++ [⟨k, e⟩] := rfl

/-- Once its distance has passed, the write posted last is there. -/
theorem cget_retire_post {k d : Nat} (h : k ≤ d) (n : Nat) (x : W64) (g : Group) : cget zero (retire d (post k (.sca n x) g)).s n = x := by
  have hl : (post k (.sca n x) g).pend.filter (fun p => decide (p.left ≤ d)) =
      (flushTarget g (.sca n x)).pend.filter (fun p => decide (p.left ≤ d)) ++ [⟨k, .sca n x⟩] := by
    simp [post_pend, h]
  rw [retire, hl]
  exact cget_foldl_last _ _ _ _ _

/-- An interlocked write stays while earlier writes come due. -/
theorem cget_retire_put (d n : Nat) (x : W64) (g : Group) : cget zero (retire d (put (.sca n x) g)).s n = x := by
  have hq : ∀ p ∈ (put (.sca n x) g).pend.filter (fun p => decide (p.left ≤ d)), sameTarget p.eff (.sca n x) = false :=
    fun p hp => put_untargeted g _ p (List.mem_filter.mp hp).1
  exact (cget_foldl_untargeted hq _).trans (cget_put_sca_same n x g)

theorem cget_completeAll_post (l n : Nat) (x : W64) (g : Group) : cget zero (completeAll (post l (.sca n x) g)).s n = x := by
  rw [completeAll, post_pend]
  exact cget_foldl_last _ _ _ _ _

/-- Settles O7: a single pending result by its equation, the later of two by the order of the pending writes. -/
theorem resultAtDistance : Obligations.ResultAtDistance := by
  refine ⟨fun g n l d x hg => ⟨?_, fun m hm => ?_, fun e => ?_⟩, fun g n l d m f hg i hi => ?_,
    fun g n l k d x y h => ⟨cget_retire_post h n y _, cget_retire_put d n y _⟩,
    fun g n l x => ⟨rfl, cget_completeAll_post l n x g, completeAll_quiet rfl⟩⟩
  · rw [retire_post l d _ hg]
    split <;> simp [applyEff]
  · rw [retire_post l d _ hg]
    split
    · exact cget_applyEff_sca_other x g hm
    · rfl
  · rw [retire_retire_post l d e _ hg]
    by_cases hd : l ≤ d
    · simp [hd, applyEff]
    · by_cases he : l ≤ d + e <;> simp [hd, he, applyEff]
  · rw [retire_post l d _ hg]
    by_cases h : l ≤ d
    · simpa [h] using laneOf_applyEff_masked g n m f hi
    · simp [h]

end Sys2Proof.Proofs
end

section
/-! PROOF. The scoreboard (R101): the check of pending sources is the last of Table 3-10, and no other check depends on pending writes. -/

namespace Sys2Proof.Proofs

open Sys2Proof.Machine Sys2Proof.Laws

/-- The state without the pending writes of the current group. -/
def noPending (s : State) : State := onG (fun g => { g with pend := [] }) s

theorem bad0B_iff (s : State) (i : Instr) :
    bad0B s i = true ↔ gmSCB s.g.gmode = true ∧ ∃ r ∈ readsOf s i, pendingOn s.g r = true := by
  simp [bad0B]

theorem bad0B_noPending (s : State) (i : Instr) : bad0B (noPending s) i = false := by
  simp [bad0B, noPending, pendingOn]

/-- The lowest sub-code is the lowest one without pending writes, else that of the scoreboard. -/
theorem illegalSub_scoreboard (s : State) (i : Instr) :
    illegalSub s i = (illegalSub (noPending s) i).or (if bad0B s i then some 0x0B else none) := by
  have h05 : bad05 (noPending s) i = bad05 s i := rfl
  have h07 : bad07 (noPending s) i = bad07 s i := rfl
  have het : etOf (noPending s) = etOf s := rfl
  have hpriv : (noPending s).g.priv = s.g.priv := rfl
  simp only [illegalSub, bad0B_noPending, h05, h07, het, hpriv, Bool.false_eq_true, if_false]
  split_ifs <;> rfl

/-- Every sub-code but that of the scoreboard is lower. -/
theorem illegalSub_noPending_lt {s : State} {i : Instr} {n : Nat} (h : illegalSub (noPending s) i = some n) : n < 0x0B := by
  simp only [illegalSub, bad0B_noPending, Bool.false_eq_true, if_false] at h
  split_ifs at h <;> cases h <;> decide

/-- Settles O8: a pending source is met by the scoreboard, or a lower sub-code is; and the scoreboard answers only for a pending source. -/
theorem scoreboard : Obligations.Scoreboard := by
  refine fun i s => ⟨fun hs hr => ?_, ?_⟩
  · have hb := (bad0B_iff s i).mpr ⟨hs, hr⟩
    rw [illegalSub_scoreboard, if_pos hb]
    cases h : illegalSub (noPending s) i with
    | none => exact ⟨0x0B, rfl, le_rfl⟩
    | some n => exact ⟨n, rfl, (illegalSub_noPending_lt h).le⟩
  · rw [← and_assoc, ← bad0B_iff, illegalSub_scoreboard]
    change _ ↔ _ ∧ illegalSub (noPending s) i = none
    cases h : illegalSub (noPending s) i with
    | none => simp
    | some n => simpa using (illegalSub_noPending_lt h).ne

end Sys2Proof.Proofs
end

section
/-! PROOF. Illegal words (R93, R94, R264, R265, R273): the trap that an illegal word takes, to its handler or to the host; and the privileged
words, which are illegal in the unprivileged view. -/

namespace Sys2Proof.Proofs

open Sys2Proof.Machine Sys2Proof.Safety Sys2Proof.Laws

/-! The trap of an illegal word. -/

/-- An illegal word goes to the handler (R93, R264). -/
theorem illegal_handled {i : Instr} {s : State} {n : Nat} (hw : isWord i = true) (hi : s.g.inflight = []) (hp : s.g.priv = false)
    (hv : bit s.g.tvec 63 = true) (hr : partSR s.g.part = 3) (h : illegalSub s i = some n) :
    Ends i s (onG (fun _ => toHandler (trapped (illegalTrap n s) s)) (endSlotStall s)) := by
  have he := ends_of_illegal hw h hi
  rwa [takeTrap_handler _ _ _ hi hp hv hr] at he

theorem illegal_to_host {i : Instr} {s : State} {n : Nat} (hw : isWord i = true) (hi : s.g.inflight = []) (hp : s.g.priv = false)
    (hv : bit s.g.tvec 63 = false ∨ partSR s.g.part ≠ 3) (h : illegalSub s i = some n) :
    Ends i s (postAndWait 0 false (onG (fun _ => trapped (illegalTrap n s) s) (endSlotStall s))) := by
  have he := ends_of_illegal hw h hi
  rwa [takeTrap_host _ _ _ hi hp (by rintro ⟨hb, hq⟩; rcases hv with h | h <;> simp_all)] at he

/-- With room the record is posted, and the group waits at kind 11 (R273). -/
theorem postAndWait_room {s : State} {code : Nat} (hr : roomFor s (coreDie s.g.core) = true) (hh : halted s s.g.ctx = false) :
    postAndWait code false s = onG (fun g => { g with block := some ⟨11, 0, 0, 0⟩ })
      { s with outbound := s.outbound ++ [groupRec s.g 2 (fld s.g.tcause 0 8) (fld s.g.tcause 8 8) code s.g.tfault true] } := by
  have hp : postRec (groupRec s.g 2 (fld s.g.tcause 0 8) (fld s.g.tcause 8 8) code s.g.tfault true) s = _ :=
    postRec_posts hh (Nat.succ_ne_self 2).symm
  simp only [postAndWait, hr, if_true, Bool.false_eq_true, if_false, hp]

/-- The fields of TCAUSE that name the cause and the sub-code (Table 8-7). -/
theorem fld_tcauseOf (t : TrapInfo) (n : Nat) : fld (tcauseOf t n) 0 8 = t.cause % 256 ∧ fld (tcauseOf t n) 8 8 = t.sub % 256 := by
  simp only [fld, tcauseOf, bitsOf, BitVec.toNat_ofNat, Nat.shiftRight_eq_div_pow]
  omega

theorem tcause_illegal (n : Nat) (s : State) : tcauseOf (illegalTrap n s) 0 = BitVec.ofNat 64 (1 + n % 256 * 256) := by
  simp [tcauseOf, illegalTrap]

/-- Four registers that are written together read back, each its own value. -/
theorem cget_csetAll_four (m : Cells W64) (a : Nat) (f : Nat → W64) {k : Nat} (hk : k < 4) :
    cget zero (csetAll zero m ((List.range 4).map (fun i => (a + i, f i)))) (a + k) = f k := by
  have hl : (List.range 4).map (fun i => (a + i, f i)) = [(a, f 0), (a + 1, f 1), (a + 2, f 2), (a + 3, f 3)] := rfl
  simp only [hl, csetAll, cget_cset]
  interval_cases k <;> simp

/-- What an exception without held instructions saves, and what of the group it leaves as it was (R264). -/
theorem trapped_eq (t : TrapInfo) (s : State) : ∃ v sc gm tc fp, completeAll s.g =
      { s.g with v := v, s := sc, gmode := gm, tctl := tc, fpstat := fp, pend := [] } ∧
    trapped t s = { s.g with
      v := v, s := sc, gmode := gm, tctl := tc, fpstat := fp, pend := []
      tcause := tcauseOf t 0, tfirst := t.first.getD s.g.pc, tfault := t.fault, tpc := s.g.pc, tmask := t.mask, tgmode := gm
      tsave := (trapped t s).tsave, rplq := [], inflight := [], priv := true, waited := 0 } := by
  obtain ⟨v, sc, gm, tc, fp, h⟩ := completeAll_frame s.g
  exact ⟨v, sc, gm, tc, fp, h, by simp [trapped, enterTrap, h]⟩

/-- TSAVE takes s60 to s63 as the pending writes leave them (R264). -/
theorem trapped_tsave (t : TrapInfo) {s : State} (hr : partSR s.g.part = 3) {k : Nat} (hk : k < 4) :
    cget zero (trapped t s).tsave k = cget zero (completeAll s.g).s (60 + k) := by
  obtain ⟨v, sc, gm, tc, fp, h⟩ := completeAll_frame s.g
  have hs : (trapped t s).tsave = csetAll zero s.g.tsave ((List.range 4).map (fun i => (0 + i, cget zero sc (60 + i)))) := by
    simp [trapped, enterTrap, h, hr]
  have h4 := cget_csetAll_four s.g.tsave 0 (fun i => cget zero sc (60 + i)) hk
  rw [Nat.zero_add] at h4
  rw [hs, h4, h]

/-- Settles O9: the handler, or the host, finds the group as the trap of an illegal word leaves it. -/
theorem illegalWords : Obligations.IllegalWords := by
  refine ⟨fun i s n hw _ hi hp hv hr h => ⟨_, illegal_handled hw hi hp hv hr h, ?_⟩,
    fun i s n hw _ hi hp hv h hroom hh => ?_⟩
  · have hsave := fun k hk => trapped_tsave (illegalTrap n s) hr (k := k) hk
    obtain ⟨v, sc, gm, tc, fp, hc, ht⟩ := trapped_eq (illegalTrap n s) s
    rw [hc] at hsave ⊢
    rw [ht]
    refine ⟨rfl, rfl, rfl, rfl, rfl, rfl, rfl, tcause_illegal n s, rfl, hsave, cget_cset_same _ _ _ _,
      fun k hk => cget_cset_other _ _ _ hk.symm, rfl, rfl, rfl, rfl, rfl, ⟨rfl, rfl⟩, rfl, rfl, rfl, rfl⟩
  · have he := illegal_to_host hw hi hp hv h
    obtain ⟨v, sc, gm, tc, fp, hc, ht⟩ := trapped_eq (illegalTrap n s) s
    rw [ht] at he
    rw [postAndWait_room] at he
    case hr => exact hroom
    case hh => exact hh
    obtain ⟨hcause, hsub⟩ := fld_tcauseOf (illegalTrap n s) 0
    exact ⟨_, _, he, rfl, rfl, hcause, hsub, rfl, rfl, rfl, rfl, rfl, rfl, rfl, rfl, ⟨rfl, rfl⟩, rfl⟩

/-! The privileged words (R93). -/

theorem needsPriv_iff (i : Instr) : needsPriv i = true ↔ ∃ o, i = .rfe o ∨ i = .tlbinv o ∨ i = .harvest o ∨ i = .mappg o := by
  constructor
  · intro h
    unfold needsPriv at h
    split at h
    case h_1 o => exact ⟨o, .inl rfl⟩
    case h_2 o => exact ⟨o, .inr (.inl rfl)⟩
    case h_3 o => exact ⟨o, .inr (.inr (.inl rfl))⟩
    case h_4 o => exact ⟨o, .inr (.inr (.inr rfl))⟩
    case h_5 => cases h
  · rintro ⟨o, rfl | rfl | rfl | rfl⟩ <;> rfl

theorem isWord_of_needsPriv {i : Instr} (h : needsPriv i = true) : isWord i = true := by
  obtain ⟨o, rfl | rfl | rfl | rfl⟩ := (needsPriv_iff i).mp h <;> rfl

/-- A privileged word of the unprivileged view meets sub-code 0x0A, or a lower one. -/
theorem illegalSub_of_needsPriv {i : Instr} {s : State} (hn : needsPriv i = true) (hp : s.g.priv = false) :
    ∃ n, illegalSub s i = some n ∧ n ≤ 0x0A := by
  simp only [illegalSub, hn, hp, Bool.not_false, Bool.and_self, if_true]
  split_ifs
  all_goals exact ⟨_, rfl, by decide⟩

/-- Sub-code 0x0A stands for a privileged word of the unprivileged view only. -/
theorem needsPriv_of_illegalSub {i : Instr} {s : State} (h : illegalSub s i = some 0x0A) : needsPriv i = true ∧ s.g.priv = false := by
  unfold illegalSub at h
  split_ifs at h with _ _ _ _ _ hp
  all_goals simp_all

/-- Settles O15: the check of the privileged words and what it answers, and the handler that its trap goes to. -/
theorem privilegedOnly : Obligations.PrivilegedOnly := by
  refine ⟨fun o i s hi hp => ?_, fun i s h => ?_⟩
  · have hn := (needsPriv_iff i).mpr ⟨o, hi⟩
    obtain ⟨n, h, hle⟩ := illegalSub_of_needsPriv hn hp
    refine ⟨n, h, hle, fun _ hfl hv hr => ⟨_, illegal_handled (isWord_of_needsPriv hn) hfl hp hv hr h, ?_⟩⟩
    obtain ⟨v, sc, gm, tc, fp, hc, ht⟩ := trapped_eq (illegalTrap n s) s
    have hcause := tcause_illegal n s
    rw [Nat.mod_eq_of_lt (by omega : n < 256)] at hcause
    rw [ht]
    exact ⟨rfl, rfl, rfl, hcause, rfl, rfl, rfl⟩
  · obtain ⟨hn, hp⟩ := needsPriv_of_illegalSub h
    exact ⟨hp, (needsPriv_iff i).mp hn⟩

end Sys2Proof.Proofs
end

section
/-! PROOF. The scalar arithmetic (R399, R400): a scalar instruction posts one value, and the value is the exact one modulo 2^64. -/

namespace Sys2Proof.Proofs

open Sys2Proof.Machine Sys2Proof.Safety Sys2Proof.Laws

theorem post_live (l : Nat) (e : Effect) (g : Group) : (post l e g).live = g.live := by
  obtain ⟨v, s, gm, tc, fp, h⟩ := foldEff_frame (g.pend.filter (fun p => sameTarget p.eff e)) g
  simp only [post, flushTarget, h]

/-- The B operand of the statements is that of the model. -/
theorem scalarB_eq_opB (s : State) (o : Opnd) : scalarB s o = opB s o := by
  unfold scalarB opB
  cases o.x <;> rfl

/-- An instruction whose body posts one scalar value. -/
theorem posts_scalar {i : Instr} {s : State} {o : Opnd} {l : Nat} {f : State → W64} {x : W64}
    (hx : exec i s = runI i s (scalarTo l o f)) (hr : ready i s = true) (hp : settles i = false) (hv : f s = x) :
    Posts i s l (.sca o.d.toNat x) :=
  hv ▸ completes_of_body hx hr rfl ((post_live _ _ _).trans (ready_live hr)) hp

/-- An instruction whose body posts one operation on the two scalar sources. -/
theorem posts_scalar2 {i : Instr} {s : State} {o : Opnd} {l : Nat} {f : W64 → W64 → W64} {x : W64}
    (hx : exec i s = runI i s (scalar2 l o f)) (hr : ready i s = true) (hp : settles i = false)
    (hv : f (rdS s o.a.toNat) (opB s o) = x) : Posts i s l (.sca o.d.toNat x) :=
  posts_scalar hx hr hp (by rw [scalarB_eq_opB, hv])

/-! Values modulo 2^64. -/

theorem sub_eq_ofInt (a b : W64) : a - b = BitVec.ofInt 64 (a.toInt - b.toInt) :=
  BitVec.eq_of_toInt_eq (by rw [BitVec.toInt_sub, BitVec.toInt_ofInt])

theorem add_eq_ofNat (a b : W64) : a + b = BitVec.ofNat 64 (a.toNat + b.toNat) := by
  rw [BitVec.ofNat_add, BitVec.ofNat_toNat, BitVec.ofNat_toNat, BitVec.setWidth_eq, BitVec.setWidth_eq]

theorem mul_eq_ofNat (a b : W64) : a * b = BitVec.ofNat 64 (a.toNat * b.toNat) := by
  rw [BitVec.ofNat_mul, BitVec.ofNat_toNat, BitVec.ofNat_toNat, BitVec.setWidth_eq, BitVec.setWidth_eq]

theorem mul_add_eq_ofNat (a b c : W64) : a * b + c = BitVec.ofNat 64 (a.toNat * b.toNat + c.toNat) := by
  rw [mul_eq_ofNat, BitVec.ofNat_add, BitVec.ofNat_toNat, BitVec.setWidth_eq]

theorem shiftLeft_eq_ofNat (a : W64) (n : Nat) : a <<< n = BitVec.ofNat 64 (a.toNat * 2 ^ n) :=
  BitVec.eq_of_toNat_eq (by rw [BitVec.toNat_shiftLeft, BitVec.toNat_ofNat, Nat.shiftLeft_eq])

theorem ushiftRight_eq_ofNat (a : W64) (n : Nat) : a >>> n = BitVec.ofNat 64 (a.toNat / 2 ^ n) :=
  BitVec.eq_of_toNat_eq (by
    rw [BitVec.toNat_ushiftRight, BitVec.toNat_ofNat, Nat.shiftRight_eq_div_pow,
      Nat.mod_eq_of_lt ((Nat.div_le_self _ _).trans_lt a.isLt)])

theorem sshiftRight_eq_ofInt (a : W64) (n : Nat) : a.sshiftRight n = BitVec.ofInt 64 (a.toInt / 2 ^ n) := by
  rw [BitVec.sshiftRight, Int.shiftRight_eq_div_pow]
  norm_cast

theorem selU_iff (o : Opnd) : selU o = true ↔ (parOf o).sel = 1 := beq_iff_eq

/-- Settles O23: each instruction posts its operation, whose value is the exact one modulo 2^64. -/
theorem scalarArithmetic : Obligations.ScalarArithmetic := by
  refine ⟨?_, ?_⟩
  · rintro o s _ _ _ _ _ rfl rfl rfl rfl rfl
    refine ⟨fun h => posts_scalar2 rfl h rfl (add_eq_ofNat _ _), fun h => posts_scalar2 rfl h rfl (sub_eq_ofInt _ _),
      fun h => posts_scalar2 rfl h rfl (mul_eq_ofNat _ _), fun h hs => posts_scalar2 rfl h rfl (if_pos ((selU_iff o).mpr hs)),
      fun h hs => posts_scalar2 rfl h rfl ((if_neg (mt (selU_iff o).mp hs)).trans ?_),
      fun h => posts_scalar rfl h rfl (mul_add_eq_ofNat _ _ _)⟩
    rw [w64]
    norm_cast
  · rintro o s _ _ _ rfl rfl rfl
    exact ⟨fun h => ⟨_, fun k => BitVec.getLsbD_and, posts_scalar2 rfl h rfl rfl⟩,
      fun h => ⟨_, fun k => BitVec.getLsbD_or, posts_scalar2 rfl h rfl rfl⟩,
      fun h => ⟨_, fun k => BitVec.getLsbD_xor, posts_scalar2 rfl h rfl rfl⟩,
      fun h => posts_scalar2 rfl h rfl (shiftLeft_eq_ofNat _ _), fun h => posts_scalar2 rfl h rfl (ushiftRight_eq_ofNat _ _),
      fun h => posts_scalar2 rfl h rfl (sshiftRight_eq_ofInt _ _)⟩

end Sys2Proof.Proofs
end

section
/-! PROOF. Vector results (R98, R421, R422): an instruction whose body computes one result for each lane posts it, and what a lane of an integer
operation without modifiers is in numbers. -/

namespace Sys2Proof.Proofs

open Sys2Proof.Machine Sys2Proof.Safety Sys2Proof.Laws

/-! Results of all lanes. -/

theorem postFlags_live (l : Nat) (f : Fl) (g : Group) : (postFlags l f g).live = g.live := by
  unfold postFlags
  split
  · rfl
  · exact post_live _ _ _

theorem postLanes_live (l et d : Nat) (r : LaneRes) (g : Group) : (postLanes l et d r g).live = g.live := by
  unfold postLanes
  split
  · rfl
  · refine (postFlags_live _ _ _).trans ?_
    split
    · exact (post_live _ _ _).trans (post_live _ _ _)
    · exact post_live _ _ _

/-- An instruction whose body computes a result for each lane posts it. -/
theorem postsLanes_of_body {i : Instr} {s : State} {o : Opnd} {l : Nat} {f : Nat → List Nat × Fl} {body : State → Res (Option W64)}
    (hx : exec i s = runI i s body) (hr : ready i s = true) (hp : settles i = false)
    (hb : body s = .ok none (onG (postLanes l (etOf s) o.d.toNat (perLane (effMask s) f)) s)) : PostsLanes i s l o.d.toNat f :=
  completes_of_body hx hr hb ((postLanes_live _ _ _ _ _).trans (ready_live hr)) hp

/-- No check of the element type holds of a legal word. -/
theorem bad05_of_legal {s : State} {i : Instr} (h : illegalSub s i = none) : bad05 s i = false := by
  unfold illegalSub at h
  split_ifs at h with h05
  simp_all

/-- The modulus of VMULH is that of the element, for the element types that the instruction takes. -/
theorem vmulh_modulus {o : Opnd} {s : State} (h : ready (.vmulh o) s = true) :
    ((2 ^ elemBits (etOf s) : Nat) : Int) = if etOf s = 2 ∨ etOf s = 3 then 65536 else 4294967296 := by
  have hb := bad05_of_legal (ready_legal h)
  have het : etOf s ≤ 3 := by
    simp only [bad05, Bool.or_eq_false_iff, Bool.not_eq_false', decide_eq_true_eq] at hb
    exact hb.2
  generalize etOf s = et at het ⊢
  interval_cases et <;> rfl

/-! One lane in numbers. -/

theorem sextNat_word (x : W32) : sextNat 32 x.toNat = x.toInt := by
  have h := x.isLt
  rw [sextNat, BitVec.toInt_eq_toNat_cond, Nat.mod_eq_of_lt h]
  exact if_congr (by omega) rfl rfl

/-- Without saturation the exact value is taken modulo the element (R421). -/
theorem narrow_wraps (w : Nat) (sg : Bool) (x : Int) : narrow w sg false x = ((BitVec.ofInt w x).toNat, false) := by
  simp [narrow, BitVec.toNat_ofInt]

/-- With saturation a signed 32-bit value beyond its range becomes the nearest end of it (R422). -/
theorem narrow_saturates (x : Int) : narrow 32 true true x =
    if x < -2147483648 then (2147483648, true) else if 2147483647 < x then (2147483647, true) else ((BitVec.ofInt 32 x).toNat, false) := by
  simp [narrow, BitVec.toNat_ofInt]

theorem modInt_plain (w : Nat) (sg sat : Bool) (x : Nat) : modInt w sg sat ⟨false, false⟩ x = (intVal w sg x, false) := by
  simp [modInt]

/-- A lane of an instruction without extension word: no modifiers, and two sources. -/
theorem intLane_plain {s : State} {o : Opnd} (h : o.x = .none) (sats : Bool) (f : Int → Int → Int → Int) (i : Nat) :
    intLane s o sats f i =
      let rs := (elems3 (regElems s (etOf s) o.a.toNat i) (regElems s (etOf s) o.b.toNat i) []).map (fun e =>
        narrow (elemBits (etOf s)) (etSigned (etOf s)) (gmSAT s.g.gmode && sats)
          (f (intVal (elemBits (etOf s)) (etSigned (etOf s)) e.1) (intVal (elemBits (etOf s)) (etSigned (etOf s)) e.2.1)
            (intVal (elemBits (etOf s)) (etSigned (etOf s)) e.2.2)))
      (rs.map (·.1), flIf (rs.any (·.2)) flIS) := by
  simp [intLane, elemsB, elemsC, modsA, modsB, modsC, h, modInt_plain]

/-- The elements of a lane with one element. -/
theorem regElems_word {s : State} {et : Nat} (h : et = 0 ∨ et = 1) (n i : Nat) : regElems s et n i = [(laneOf (rdV s n) i).toNat] := by
  rcases h with rfl | rfl <;> rfl

theorem regElems_halves (s : State) (n i : Nat) :
    regElems s 3 n i = [(laneOf (rdV s n) i).toNat % 65536, (laneOf (rdV s n) i).toNat / 65536] := rfl

theorem intVal_signed (x : W32) : intVal 32 true x.toNat = x.toInt := sextNat_word x

theorem intVal_unsigned (x : W32) : intVal 32 false x.toNat = x.toNat := by
  simp [intVal, Nat.mod_eq_of_lt x.isLt]

theorem intVal_low (x : W32) : intVal 16 false (x.toNat % 65536) = (x.toNat % 65536 : Nat) :=
  congrArg Nat.cast (Nat.mod_mod _ _)

theorem intVal_high (x : W32) : intVal 16 false (x.toNat / 65536) = (x.toNat / 65536 : Nat) := by
  have h := x.isLt
  exact congrArg Nat.cast (Nat.mod_eq_of_lt (by omega : x.toNat / 65536 < 2 ^ 16))

/-- A lane of one signed 32-bit element. -/
theorem intLane_signed {s : State} {o : Opnd} (h : o.x = .none) (het : etOf s = 0) (sats : Bool) (f : Int → Int → Int → Int) (i : Nat) :
    intLane s o sats f i =
      let r := narrow 32 true (gmSAT s.g.gmode && sats) (f (laneOf (rdV s o.a.toNat) i).toInt (laneOf (rdV s o.b.toNat) i).toInt 0)
      ([r.1], flIf r.2 flIS) := by
  have hz : intVal 32 true 0 = 0 := rfl
  rw [intLane_plain h, het]
  simp [regElems_word, elems3, indexed, elemBits, packed, etSigned, intVal_signed, hz]

/-- A lane of one unsigned 32-bit element. -/
theorem intLane_unsigned {s : State} {o : Opnd} (h : o.x = .none) (het : etOf s = 1) (sats : Bool) (f : Int → Int → Int → Int) (i : Nat) :
    intLane s o sats f i =
      let r := narrow 32 false (gmSAT s.g.gmode && sats) (f (laneOf (rdV s o.a.toNat) i).toNat (laneOf (rdV s o.b.toNat) i).toNat 0)
      ([r.1], flIf r.2 flIS) := by
  have hz : intVal 32 false 0 = 0 := rfl
  rw [intLane_plain h, het]
  simp [regElems_word, elems3, indexed, elemBits, packed, etSigned, intVal_unsigned, hz]

/-- A lane of two unsigned 16-bit elements, without saturation. -/
theorem intLane_halves {s : State} {o : Opnd} (h : o.x = .none) (hs : gmSAT s.g.gmode = false) (het : etOf s = 3) (sats : Bool)
    (f : Int → Int → Int → Int) (i : Nat) : intLane s o sats f i =
      ([(BitVec.ofInt 16 (f ((laneOf (rdV s o.a.toNat) i).toNat % 65536 : Nat) ((laneOf (rdV s o.b.toNat) i).toNat % 65536 : Nat) 0)).toNat,
        (BitVec.ofInt 16 (f ((laneOf (rdV s o.a.toNat) i).toNat / 65536 : Nat) ((laneOf (rdV s o.b.toNat) i).toNat / 65536 : Nat) 0)).toNat], 0) := by
  have hz : intVal 16 false 0 = 0 := rfl
  have hw : elemBits 3 = 16 := rfl
  have hsg : etSigned 3 = false := rfl
  have he : ∀ a a' b b' : Nat, elems3 [a, a'] [b, b'] [] = [(a, b, 0), (a', b', 0)] := fun _ _ _ _ => rfl
  rw [intLane_plain h, het, hs, hw, hsg]
  simp only [regElems_halves, he, Bool.false_and, narrow_wraps, List.map_cons, List.map_nil, intVal_low, intVal_high, hz]
  rfl

/-- Settles O25: each instruction posts its lanes' results, and a lane is its operation narrowed once. -/
theorem vectorArithmetic : Obligations.VectorArithmetic := by
  refine ⟨fun o s => ⟨fun h => postsLanes_of_body rfl h rfl rfl, fun h => postsLanes_of_body rfl h rfl rfl,
      fun h => postsLanes_of_body rfl h rfl rfl, fun h => ?_, fun h => postsLanes_of_body rfl h rfl rfl, fun h => ?_, fun h => ?_, fun h => ?_⟩,
    fun s o f sats i hx hs => ⟨fun het => ?_, fun het => ?_, fun het => intLane_halves hx hs het sats f i⟩, fun s o f i x hx hs het hv => ?_⟩
  · rw [← vmulh_modulus h]
    exact postsLanes_of_body rfl h rfl rfl
  · have hmin : (fun a b _ => min a b : Int → Int → Int → Int) = fun a b _ => if b < a then b else a := by
      funext a b _
      split_ifs <;> omega
    rw [hmin]
    exact postsLanes_of_body rfl h rfl rfl
  · have hmax : (fun a b _ => max a b : Int → Int → Int → Int) = fun a b _ => if a < b then b else a := by
      funext a b _
      split_ifs <;> omega
    rw [hmax]
    exact postsLanes_of_body rfl h rfl rfl
  · have habs : (fun a _ _ => (a.natAbs : Int) : Int → Int → Int → Int) = fun a _ _ => if a < 0 then -a else a := by
      funext a _ _
      split_ifs <;> omega
    rw [habs]
    exact postsLanes_of_body rfl h rfl rfl
  · rw [intLane_signed hx het, hs]
    simp only [Bool.false_and, narrow_wraps]
    rfl
  · rw [intLane_unsigned hx het, hs]
    simp only [Bool.false_and, narrow_wraps]
    rfl
  · rw [intLane_signed hx het, hs, ← hv]
    simp only [Bool.and_self, narrow_saturates]
    refine ⟨fun h => ?_, fun h => ?_, fun h h' => ?_⟩
    · rw [if_pos h]; rfl
    · rw [if_neg (by omega), if_pos h]; rfl
    · rw [if_neg (by omega), if_neg (by omega)]; rfl

end Sys2Proof.Proofs
end

section
/-! PROOF. The rounded floating-point instructions, FSCL and FRND (R353, R355, R361 to R363, R120): the error of a rounding to an integer, and
what a one-source operation does with each kind of value. -/

namespace Sys2Proof.Proofs

open Sys2Proof.Machine Sys2Proof.Safety Sys2Proof.Laws

/-! Rounding a quotient to an integer (R120). -/

/-- What rounding a quotient to an integer adds to it, in parts of the divisor: less than one either way, the way that the mode says, and at
most a half to nearest, where a tie goes to the even integer under RNE and away from zero under RNA. -/
structure Rounded (rm : Rm) (neg : Bool) (d : Nat) (q : Nat × Bool) (err : Int) : Prop where
  near : -(d : Int) < err ∧ err < d
  inexact : q.2 = true ↔ err ≠ 0
  toZero : rm = .tz → err ≤ 0
  toUp : rm = .up → if neg then err ≤ 0 else 0 ≤ err
  toDown : rm = .dn → if neg then 0 ≤ err else err ≤ 0
  nearest : rm = .ne ∨ rm = .na → 2 * err ≤ d ∧ -(d : Int) ≤ 2 * err
  tie : 2 * err = d ∨ 2 * err = -(d : Int) → (rm = .ne → q.1 % 2 = 0) ∧ (rm = .na → 0 < err)

/-- A quotient is rounded down, by its remainder, or up. -/
theorem roundQuot_rounded (rm : Rm) (neg : Bool) (n : Nat) {d : Nat} (hd : 0 < d) :
    Rounded rm neg d (roundQuot rm neg n d) (((roundQuot rm neg n d).1 * d : Nat) - n) := by
  have hn : n = d * (n / d) + n % d := (Nat.div_add_mod n d).symm
  have hr : n % d < d := Nat.mod_lt n hd
  unfold roundQuot
  generalize n / d = k at *
  generalize n % d = r at *
  subst hn
  have hdown : ((k * d : Nat) : Int) - ((d * k + r : Nat) : Int) = -(r : Int) := by push_cast; ring
  have hup : (((k + 1) * d : Nat) : Int) - ((d * k + r : Nat) : Int) = d - r := by push_cast; ring
  cases rm <;> dsimp only <;> split_ifs with h <;> simp only [hdown, hup]
  all_goals simp only [Bool.and_eq_true, Bool.or_eq_true, decide_eq_true_eq, beq_iff_eq, Bool.not_eq_true', Bool.false_and, not_and,
    Bool.false_eq_true] at h
  all_goals constructor
  all_goals grind

/-- What is added to a rational that is rounded to an integer. -/
theorem rounded_sub (a : Rat) (ha : 0 < a) (k : Nat) :
    (k : Rat) - a = (((k * a.den : Nat) - a.num.natAbs : Int) : Rat) / (a.den : Rat) := by
  have hd : (a.den : Rat) ≠ 0 := Nat.cast_ne_zero.mpr a.den_nz
  have hn : ((a.num.natAbs : Int) : Rat) = a * a.den := by
    rw [Int.natAbs_of_nonneg (Rat.num_nonneg.mpr ha.le), Rat.mul_den_eq_num]
  rw [eq_div_iff hd, Int.cast_sub, hn]
  push_cast
  ring

theorem pow2_pos (e : Int) : 0 < pow2 e := by
  unfold pow2
  split
  · positivity
  · rw [Rat.mkRat_eq_div]
    positivity

/-! One-source operations by the kind of value. -/

theorem oneNaN_inf (f : Fmt) (m : Bool) (k : FRes) : oneNaN f (.inf m) k = k := rfl

theorem oneNaN_fin (f : Fmt) (m : Bool) (a : Rat) (k : FRes) : oneNaN f (.fin m a) k = k := rfl

theorem oneNaN_nan (f : Fmt) (m q : Bool) (p : Nat) (k : FRes) : oneNaN f (.nan m q p) k = ⟨nanBits f m p, if q then 0 else flNV⟩ := by
  cases q <;> rfl

/-- The sign and the magnitude of a finite value that is not zero. -/
theorem toRat_neg_iff {m : Bool} {a : Rat} (ha : 0 < a) : (FVal.fin m a).toRat < 0 ↔ m = true := by
  cases m <;> simp [FVal.toRat, ha, ha.le]

theorem roundSigned_fin (f : Fmt) (rm : Rm) (z m : Bool) {a : Rat} (ha : 0 < a) :
    roundSigned f rm z (if m then -a else a) = roundF f rm m a := by
  cases m <;> simp [roundSigned, ha, ha.ne', ha.le.not_gt]

section Values

variable {f : Fmt} {x : Nat} (rm : Rm) {m : Bool}

theorem sclF_fin {a : Rat} (h : decodeF f x = .fin m a) (ha : 0 < a) {n : Int} (hlo : -5000 ≤ n) (hhi : n ≤ 5000) :
    sclF f rm x n = roundF f rm m (a * pow2 n) := by
  have hn : max (-5000) (min n 5000) = n := by omega
  have hm : (FVal.fin m a).toRat * pow2 n = if m then -(a * pow2 n) else a * pow2 n := by
    cases m <;> simp [FVal.toRat]
  have hz : (FVal.fin m a).isZero = false := by simp [FVal.isZero, ha.ne']
  rw [sclF, h, oneNaN_fin, hz, hn, hm]
  exact roundSigned_fin f rm false m (mul_pos ha (pow2_pos n))

/-- A count beyond 5000 acts as 5000, and one below -5000 as that. -/
theorem sclF_clamped (f : Fmt) (rm : Rm) (x : Nat) {n k : Int} (h : max (-5000) (min n 5000) = max (-5000) (min k 5000)) :
    sclF f rm x n = sclF f rm x k := by
  rw [sclF, sclF, h]

theorem unchanged (h : decodeF f x = .inf m ∨ decodeF f x = .fin m 0) (n : Int) : sclF f rm x n = ⟨x, 0⟩ ∧ rndF f rm x = ⟨x, 0⟩ := by
  rcases h with h | h <;> rw [sclF, rndF, h] <;> exact ⟨rfl, rfl⟩

theorem quieted {q : Bool} {p : Nat} (h : decodeF f x = .nan m q p) (n : Int) :
    sclF f rm x n = ⟨nanBits f m p, if q then 0 else flNV⟩ ∧ rndF f rm x = ⟨nanBits f m p, if q then 0 else flNV⟩ := by
  rw [sclF, rndF, h]
  exact ⟨oneNaN_nan _ _ _ _ _, oneNaN_nan _ _ _ _ _⟩

/-- FRND of a finite value rounds its magnitude under its sign (R362). -/
theorem rndF_fin {a : Rat} (h : decodeF f x = .fin m a) (ha : 0 < a) : rndF f rm x =
    ⟨(roundF f .ne m (((roundQuot rm m a.num.natAbs a.den).1 : Nat) : Rat)).bits, flIf (roundQuot rm m a.num.natAbs a.den).2 flNX⟩ := by
  have hz : (FVal.fin m a).isZero = false := by simp [FVal.isZero, ha.ne']
  have hs : decide ((FVal.fin m a).toRat < 0) = m := by
    rw [Bool.eq_iff_iff, decide_eq_true_iff]
    exact toRat_neg_iff ha
  have hnum : (FVal.fin m a).toRat.num.natAbs = a.num.natAbs := by cases m <;> simp [FVal.toRat]
  have hden : (FVal.fin m a).toRat.den = a.den := by cases m <;> simp [FVal.toRat]
  rw [rndF, h, oneNaN_fin, hz, roundInt, hs, hnum, hden]
  cases m <;> simp [FVal.neg, FVal.isInf]

end Values

/-- What a mode does to a positive rational, from what it does to its quotient (R120, R362). -/
theorem rounded_rat {rm : Rm} {m : Bool} {a : Rat} {k : Nat} {ix : Bool} {err : Int} (h : Rounded rm m a.den (k, ix) err)
    (hk : (k : Rat) - a = (err : Rat) / (a.den : Rat)) :
    (flIf ix flNX = if (k : Rat) = a then 0 else flNX) ∧ (k : Rat) < a + 1 ∧ a < (k : Rat) + 1 ∧
      (rm = .tz → (k : Rat) ≤ a) ∧ (rm = .up → if m then (k : Rat) ≤ a else a ≤ (k : Rat)) ∧
      (rm = .dn → if m then a ≤ (k : Rat) else (k : Rat) ≤ a) ∧
      (rm = .ne ∨ rm = .na → (k : Rat) - a ≤ 1 / 2 ∧ a - (k : Rat) ≤ 1 / 2) ∧
      ((k : Rat) - a = 1 / 2 ∨ a - (k : Rat) = 1 / 2 → (rm = .ne → k % 2 = 0) ∧ (rm = .na → a < (k : Rat))) := by
  have hd : (0 : Rat) < a.den := Nat.cast_pos.mpr a.pos
  have hle : ∀ c : Int, (k : Rat) - a ≤ c / 2 ↔ 2 * err ≤ c * a.den := fun c => by
    rw [hk, div_le_div_iff₀ hd two_pos, mul_comm]
    norm_cast
  have hge : ∀ c : Int, (c : Rat) / 2 ≤ (k : Rat) - a ↔ c * a.den ≤ 2 * err := fun c => by
    rw [hk, div_le_div_iff₀ two_pos hd, mul_comm (err : Rat)]
    norm_cast
  have hnonpos : (k : Rat) ≤ a ↔ err ≤ 0 := by
    rw [← sub_nonpos, ← zero_div (2 : Rat), ← Int.cast_zero, hle]
    omega
  have hnonneg : a ≤ (k : Rat) ↔ 0 ≤ err := by
    rw [← sub_nonneg, ← zero_div (2 : Rat), ← Int.cast_zero, hge]
    omega
  refine ⟨?_, ?_, ?_, fun hm => hnonpos.mpr (h.toZero hm), fun hm => ?_, fun hm => ?_, fun hm => ?_, fun ht => ?_⟩
  · have hix : ix = true ↔ err ≠ 0 := h.inexact
    have heq : (k : Rat) = a ↔ err = 0 := by
      rw [le_antisymm_iff, hnonpos, hnonneg]
      omega
    by_cases h0 : err = 0 <;> simp_all [flIf]
  · have hn := mt (hge 2).mp (by have := h.near.2; omega)
    push_cast at hn
    linarith
  · have hn := mt (hle (-2)).mp (by have := h.near.1; omega)
    push_cast at hn
    linarith
  · have hup := h.toUp hm
    split_ifs at hup ⊢
    · exact hnonpos.mpr hup
    · exact hnonneg.mpr hup
  · have hdown := h.toDown hm
    split_ifs at hdown ⊢
    · exact hnonneg.mpr hdown
    · exact hnonpos.mpr hdown
  · obtain ⟨hhi, hlo⟩ := h.nearest hm
    have h1 := (hle 1).mpr (by omega)
    have h2 := (hge (-1)).mpr (by omega)
    push_cast at h1 h2
    exact ⟨h1, by linarith⟩
  · have htie : 2 * err = a.den ∨ 2 * err = -(a.den : Int) := ht.imp
      (fun hp => by
        have h1 := (hle 1).mp (by push_cast; linarith)
        have h2 := (hge 1).mp (by push_cast; linarith)
        omega)
      (fun hp => by
        have h1 := (hle (-1)).mp (by push_cast; linarith)
        have h2 := (hge (-1)).mp (by push_cast; linarith)
        omega)
    obtain ⟨hev, haw⟩ := h.tie htie
    exact ⟨hev, fun hm => not_le.mp (mt hnonpos.mp (not_le.mpr (haw hm)))⟩

/-- Settles O28: each instruction posts its lanes' results, and FSCL and FRND by the kind of value. -/
theorem floatRounded : Obligations.FloatRounded := by
  refine ⟨?_, fun f rm x n m a => ⟨fun h ha hlo hhi => sclF_fin rm h ha hlo hhi, fun h => sclF_clamped f rm x (by omega),
    fun h => sclF_clamped f rm x (by omega), fun h => unchanged rm h n, fun q p h => quieted rm h n, fun h ha => ?_⟩⟩
  · rintro o s _ rfl
    exact ⟨fun h => postsLanes_of_body rfl h rfl rfl, fun h => postsLanes_of_body rfl h rfl rfl, fun h => postsLanes_of_body rfl h rfl rfl,
      fun h => postsLanes_of_body rfl h rfl rfl, fun h => postsLanes_of_body rfl h rfl rfl, fun h => postsLanes_of_body rfl h rfl rfl,
      fun h => postsLanes_of_body rfl h rfl rfl, fun h => postsLanes_of_body rfl h rfl rfl, fun h => postsLanes_of_body rfl h rfl rfl⟩
  · rw [rndF_fin rm h ha]
    exact ⟨_, rfl, rounded_rat (roundQuot_rounded rm m a.num.natAbs a.pos) (rounded_sub a ha _)⟩

end Sys2Proof.Proofs
end

section
/-! PROOF. The one-source functions (R359, R360, Table 11-9): their results are written at once, and the special results by the kind of
value. -/

namespace Sys2Proof.Proofs

open Sys2Proof.Machine Sys2Proof.Safety Sys2Proof.Laws

/-! Interlocked results of all lanes. -/

theorem putLanes_live (et d : Nat) (r : LaneRes) (g : Group) : (putLanes et d r g).live = g.live := by
  unfold putLanes
  split
  · rfl
  · dsimp only
    split
    · exact (put_live _ _).trans (put_live _ _)
    · exact put_live _ _

/-- An instruction whose body is a one-source function writes it. -/
theorem putsFunction_of_body {i : Instr} {s : State} {o : Opnd} {f : Fmt → Rm → Bool → Nat → FRes} (hx : exec i s = runI i s (oneSource o f))
    (hr : ready i s = true) (hp : settles i = false) : PutsFunction i s o f :=
  completes_of_body hx hr rfl ((putLanes_live _ _ _ _).trans (ready_live hr)) hp

/-! Operands of a kind. -/

section Kinds

variable {f : Fmt} (rm : Rm) (up : Bool) {x : Nat}

/-- The functions of a number below zero, an infinity too, that has no value there (Table 11-9). -/
theorem functions_negative (h : decodeF f x = .inf true ∨ ∃ a : Rat, 0 < a ∧ decodeF f x = .fin true a) :
    sqrtF f rm x = invalid f 5 ∧ rsqF f rm up x = invalid f 5 ∧ lg2F f rm up x = invalid f 5 := by
  rcases h with h | ⟨a, ha, h⟩
  · rw [sqrtF, rsqF, lg2F, h]
    exact ⟨rfl, rfl, rfl⟩
  · have hz : (FVal.fin true a).isZero = false := by simp [FVal.isZero, ha.ne']
    rw [sqrtF, rsqF, lg2F, h, oneNaN_fin, oneNaN_fin, oneNaN_fin, hz]
    exact ⟨rfl, rfl, rfl⟩

theorem functions_infinite {m : Bool} (c : Bool) (h : decodeF f x = .inf m) : rcpF f rm x = ⟨signBits f m, 0⟩ ∧
    trigF c f rm up x = invalid f 5 ∧ ex2F f rm up x = if m then ⟨0, 0⟩ else ⟨infBits f false, 0⟩ := by
  rw [rcpF, trigF, ex2F, h]
  exact ⟨rfl, rfl, rfl⟩

theorem functions_infinity (h : decodeF f x = .inf false) :
    sqrtF f rm x = ⟨x, 0⟩ ∧ rsqF f rm up x = ⟨0, 0⟩ ∧ lg2F f rm up x = ⟨x, 0⟩ := by
  rw [sqrtF, rsqF, lg2F, h]
  exact ⟨rfl, rfl, rfl⟩

theorem functions_nan {m q : Bool} {p : Nat} (c : Bool) (h : decodeF f x = .nan m q p) {r : FRes}
    (hr : r = ⟨nanBits f m p, if q then 0 else flNV⟩) : rcpF f rm x = r ∧ rsqF f rm up x = r ∧ sqrtF f rm x = r ∧ ex2F f rm up x = r ∧
      lg2F f rm up x = r ∧ trigF c f rm up x = r := by
  rw [rcpF, rsqF, sqrtF, ex2F, lg2F, trigF, h, hr]
  exact ⟨oneNaN_nan _ _ _ _ _, oneNaN_nan _ _ _ _ _, oneNaN_nan _ _ _ _ _, oneNaN_nan _ _ _ _ _, oneNaN_nan _ _ _ _ _, oneNaN_nan _ _ _ _ _⟩

/-- The functions of a zero that do not take its value (Table 11-9). -/
theorem functions_zero {m : Bool} (h : decodeF f x = .fin m 0) : rcpF f rm x = ⟨infBits f m, flDZ⟩ ∧ rsqF f rm up x = ⟨infBits f m, flDZ⟩ ∧
    sqrtF f rm x = ⟨x, 0⟩ ∧ lg2F f rm up x = ⟨infBits f true, flDZ⟩ ∧ trigF false f rm up x = ⟨x, 0⟩ ∧
    trigF true f rm up x = roundF f rm false 1 ∧ ex2F f rm up x = ofBound f rm up (exp2Bound 0) := by
  rw [rcpF, rsqF, sqrtF, lg2F, trigF, trigF, ex2F, h]
  cases m <;> exact ⟨rfl, rfl, rfl, rfl, rfl, rfl, rfl⟩

end Kinds

/-! Exact values. -/

/-- A value that its format holds is its own rounding, whatever the open choice. -/
theorem ofBound_exact {f : Fmt} {rm : Rm} {m : Bool} {x : Rat} {r : FRes} (up : Bool) (h : roundF f rm m x = r) (hf : r.fl = 0) :
    ofBound f rm up (.exact m x) = r := by
  rw [ofBound, h, hf]
  rfl

section Formats

variable {f : Fmt} (hf : f = f64 ∨ f = f32 ∨ f = f16 ∨ f = bf16)
include hf

theorem decodeF_signBits (m : Bool) : decodeF f (signBits f m) = .fin m 0 := by
  rcases hf with rfl | rfl | rfl | rfl <;> cases m <;> decide +kernel

theorem roundF_one (rm : Rm) : roundF f rm false 1 = ⟨(roundF f .ne false 1).bits, 0⟩ := by
  rcases hf with rfl | rfl | rfl | rfl <;> cases rm <;> decide +kernel

theorem rsqBound_one : rsqBound f 1 = .exact false 1 := by
  rcases hf with rfl | rfl | rfl | rfl <;> decide +kernel

/-- The root that FSQRT rounds for 1 is 1. -/
theorem sqrtRound_one (rm : Rm) : sqrtRound f rm 1 = roundF f rm false 1 := by
  have h : (((sqrtSticky 1 (log2Rat 1 / 2 - f.fb - 3) : Nat) : Rat) * pow2 (log2Rat 1 / 2 - f.fb - 3 - 1)) = 1 := by
    rcases hf with rfl | rfl | rfl | rfl <;> decide +kernel
  exact congrArg (roundF f rm false) h

theorem functions_one (rm : Rm) (up : Bool) {x : Nat} (h : decodeF f x = .fin false 1) : rcpF f rm x = roundF f rm false 1 ∧
    rsqF f rm up x = roundF f rm false 1 ∧ sqrtF f rm x = roundF f rm false 1 ∧ lg2F f rm up x = ⟨0, 0⟩ := by
  have hrsq : ofBound f rm up (rsqBound f 1) = roundF f rm false 1 := by
    rw [rsqBound_one hf, roundF_one hf]
    exact ofBound_exact up (roundF_one hf rm) rfl
  have hlg : log2Bound 1 = .exact false 0 := by decide +kernel
  have hz : (FVal.fin false 1).isZero = false := by simp [FVal.isZero]
  have hrcp : roundSigned f rm false (1 / 1) = roundF f rm false 1 := by
    rw [one_div_one]
    exact roundSigned_fin f rm false false one_pos
  rw [rcpF, rsqF, sqrtF, lg2F, h, oneNaN_fin, oneNaN_fin, oneNaN_fin, oneNaN_fin, hz]
  exact ⟨hrcp, hrsq, sqrtRound_one hf rm, (congrArg (ofBound f rm up) hlg).trans (ofBound_exact up rfl rfl)⟩

end Formats

/-- Settles O30: each instruction writes its function of every lane, and the special results by the kind of operand. -/
theorem floatFunctions : Obligations.FloatFunctions := by
  refine ⟨fun o s => ⟨fun h => putsFunction_of_body rfl h rfl, fun h => putsFunction_of_body rfl h rfl,
    fun h => putsFunction_of_body rfl h rfl, fun h => putsFunction_of_body rfl h rfl, fun h => putsFunction_of_body rfl h rfl,
    fun h => putsFunction_of_body rfl h rfl⟩, fun f rm up hf => ⟨fun x h => functions_negative rm up h,
    fun x m c h => functions_infinite rm up c h, fun x h => functions_infinity rm up h, fun m => ?_, fun x r h hr => ?_,
    fun x m q p c r h hr => functions_nan rm up c h hr⟩⟩
  · obtain ⟨hrcp, hrsq, hsqrt, hlg, hsin, hcos, hex⟩ := functions_zero rm up (decodeF_signBits hf m)
    have hexp : exp2Bound 0 = .exact false 1 := by decide +kernel
    exact ⟨decodeF_signBits hf m, hrcp, hrsq, hsqrt, hlg, hsin, hcos.trans (roundF_one hf rm),
      hex.trans ((congrArg _ hexp).trans (ofBound_exact up (roundF_one hf rm) rfl))⟩
  · rw [hr, ← roundF_one hf rm]
    exact functions_one hf rm up h

end Sys2Proof.Proofs
end

section
/-! PROOF. RFE (R266, R271, R396): what is read back for each valid replay entry, and the group as it leaves its handler. -/

namespace Sys2Proof.Proofs

open Sys2Proof.Machine Sys2Proof.Safety Sys2Proof.Laws

/-! Reading the operand block. -/

theorem recLoads_step {n k : Nat} {va : W64} {s s1 s2 s3 : State} {p : Phys} {bs : List Byte} {l : List Nat}
    (hp : recPlace s needR n va = (.inl p, s1)) (hb : loadBytes s1 (whoOf s1.g 0) p n = (bs, s2))
    (hr : recLoads n k (va + BitVec.ofNat 64 n) s2 = (.inl l, s3)) : recLoads n (k + 1) va s = (.inl (natOf bs :: l), s3) := by
  simp only [recLoads, hp, hb, hr]

theorem recLoads_length {n k : Nat} {va : W64} {s t : State} {l : List Nat} (h : recLoads n k va s = (.inl l, t)) : l.length = k := by
  induction k generalizing va s l t with
  | zero => cases h; rfl
  | succ k ih =>
    simp only [recLoads] at h
    split at h
    · cases h
    · split at h
      · cases h
        exact congrArg (· + 1) (ih ‹_›)
      · cases h

theorem loadVecs_length {k : Nat} {va : W64} {s t : State} {l : List Lanes} (h : loadVecs k va s = (.inl l, t)) :
    l.length = k ∧ ∀ v ∈ l, v.length = 64 := by
  induction k generalizing va s l t with
  | zero => cases h; simp
  | succ k ih =>
    simp only [loadVecs] at h
    split at h
    · cases h
    · split at h
      · cases h
      · cases h
        obtain ⟨hk, hv⟩ := ih ‹_›
        refine ⟨congrArg (· + 1) hk, fun v hm => ?_⟩
        rcases List.mem_cons.mp hm with rfl | hm
        · rw [List.length_map, recLoads_length ‹_›]
        · exact hv v hm

/-! Replay entries. -/

/-- The instruction that a replay entry gives back, with the operands that are read for it (R266, R271). -/
def reinjected (id : Nat) (r : Replay) (sc : List Nat) (vs : List Lanes) : InFlight :=
  { id := id, pc := r.pc, word := r.word, ext := r.ext, mask := r.mask, scal := sc.map (fun x => BitVec.ofNat 64 x), vecs := vs
    tries := 0, lost := false, overdue := false, tctl := r.tctl, olds := [], done := false }

theorem reload_invalid {e : Nat} {r : Replay} {l : List (Nat × Replay)} (h : r.valid = false) (s : State) :
    reload ((e, r) :: l) s = reload l s := by
  simp [reload, h]

/-- A valid entry is given back with the operands at its place in the operand block. -/
theorem reload_valid {e : Nat} {r : Replay} {l : List (Nat × Replay)} {s s1 s2 s3 : State} {sc : List Nat} {vs : List Lanes}
    {x : List InFlight} (hv : r.valid = true)
    (hsc : recLoads 8 (capturedBy r.word r.ext).1 (s.g.rplop + BitVec.ofNat 64 (2048 * e)) s = (.inl sc, s1))
    (hvs : loadVecs (capturedBy r.word r.ext).2 (s.g.rplop + BitVec.ofNat 64 (2048 * e) + 64) s1 = (.inl vs, s2))
    (hl : reload l { s2 with nextId := s2.nextId + 1 } = (.inl x, s3)) :
    reload ((e, r) :: l) s = (.inl (reinjected s2.nextId r sc vs :: x), s3) := by
  simp only [reload, hv, hsc, hvs, hl, reinjected, Bool.not_true, Bool.false_eq_true, if_false]

/-- What a valid entry that is given back has read. -/
theorem reload_valid_inv {e : Nat} {r : Replay} {l : List (Nat × Replay)} {s s3 : State} {x : List InFlight} (hv : r.valid = true)
    (h : reload ((e, r) :: l) s = (.inl x, s3)) : ∃ s1 s2 sc vs y,
      recLoads 8 (capturedBy r.word r.ext).1 (s.g.rplop + BitVec.ofNat 64 (2048 * e)) s = (.inl sc, s1) ∧
      loadVecs (capturedBy r.word r.ext).2 (s.g.rplop + BitVec.ofNat 64 (2048 * e) + 64) s1 = (.inl vs, s2) ∧
      reload l { s2 with nextId := s2.nextId + 1 } = (.inl y, s3) ∧ x = reinjected s2.nextId r sc vs :: y := by
  simp only [reload, hv, Bool.not_true, Bool.false_eq_true, if_false] at h
  split at h
  · cases h
  · split at h
    · cases h
    · split at h
      · cases h
      · cases h
        exact ⟨_, _, _, _, _, ‹_›, ‹_›, ‹_›, rfl⟩

/-- What is given back: the valid entries in order, each with as many sources as its opcode captures. -/
theorem reload_entries {l : List (Nat × Replay)} {s s1 : State} {x : List InFlight} (h : reload l s = (.inl x, s1)) :
    x.map (fun e => (e.pc, e.word, e.ext, e.mask, e.tctl)) =
      ((l.map (·.2)).filter (·.valid)).map (fun r => (r.pc, r.word, r.ext, r.mask, r.tctl)) ∧
    ∀ e ∈ x, e.scal.length = (capturedBy e.word e.ext).1 ∧ e.vecs.length = (capturedBy e.word e.ext).2 ∧ ∀ v ∈ e.vecs, v.length = 64 := by
  induction l generalizing s x with
  | nil => cases h; simp
  | cons a l ih =>
    obtain ⟨e, r⟩ := a
    by_cases hv : r.valid = true
    · obtain ⟨t1, t2, sc, vs, y, hsc, hvs, hl, rfl⟩ := reload_valid_inv hv h
      obtain ⟨hmap, hlen⟩ := ih hl
      refine ⟨by simp [hv, hmap, reinjected], fun q hq => ?_⟩
      rcases List.mem_cons.mp hq with rfl | hq
      · exact ⟨(List.length_map _).trans (recLoads_length hsc), loadVecs_length hvs⟩
      · exact hlen q hq
    · rw [Bool.not_eq_true] at hv
      rw [reload_invalid hv] at h
      simpa [hv] using ih h

theorem reload_none {l : List (Nat × Replay)} (h : ∀ a ∈ l, a.2.valid = false) (s : State) : reload l s = (.inl [], s) := by
  induction l with
  | nil => rfl
  | cons a l ih =>
    rw [reload_invalid (h a List.mem_cons_self), ih (fun b hb => h b (List.mem_cons_of_mem _ hb))]

theorem indexed_valid {l : List Replay} (h : ∀ r ∈ l, r.valid = false) (n : Nat) : ∀ a ∈ indexed n l, a.2.valid = false := by
  induction l generalizing n with
  | nil => simp [indexed]
  | cons r l ih =>
    intro a ha
    rcases List.mem_cons.mp ha with rfl | ha
    · exact h r List.mem_cons_self
    · exact ih (fun q hq => h q (List.mem_cons_of_mem _ hq)) _ a ha

/-! Leaving the handler. -/

/-- The state in which a group leaves its handler, with the instructions that are given back. -/
def returned (x : List InFlight) (s : State) : State := resumeCmds (onG (leaveTrap x) s)

theorem returnFromTrap_inl {s s1 : State} {x : List InFlight} (h : reload (indexed 0 s.g.rplq) s = (.inl x, s1)) :
    returnFromTrap s = returned x s1 := by
  rw [returnFromTrap, h, returned]

/-- The step of an RFE that meets no fault on the operand block. -/
theorem rfe_step {o : Opnd} {s s1 : State} {x : List InFlight} (hr : ready (.rfe o) s = true)
    (hl : reload (indexed 0 s.g.rplq) s = (.inl x, s1)) (hg : s1.g = s.g) {t : State}
    (ht : settle (.rfe o) (onG (advance (.rfe o) (some s.g.tpc)) (returned x s1)) = onG (advance (.rfe o) (some s.g.tpc)) t) :
    Completes (.rfe o) s (some s.g.tpc) t := by
  have hlive : (returned x s1).g.live = true := by
    have h : (returned x s1).g.live = s1.g.live := rfl
    rw [h, hg, ready_live hr]
  have hpc : (returned x s1).g.pc = s.g.tpc := congrArg Group.tpc hg
  refine ⟨_, (run_ready _ hr : execRfe o s = _), ?_⟩
  simp only [returnFromTrap_inl hl, conclude, hlive, if_true, hpc, ht]
  exact follows_commit _ (follows_spend _ _ _)

theorem advance_returned_inflight (o : Opnd) (j : Option W64) (x : List InFlight) (s : State) :
    (onG (advance (.rfe o) j) (returned x s)).g.inflight = x := advance_inflight _ _ _

/-- Without an instruction to give back the RFE is complete. -/
theorem settle_nothing (o : Opnd) (j : Option W64) (s : State) :
    settle (.rfe o) (onG (advance (.rfe o) j) (returned [] s)) = onG (advance (.rfe o) j) (returned [] s) := by
  simp only [settle, advance_returned_inflight, List.isEmpty_nil, Bool.true_or, if_true]

/-- Instructions that are given back stand in flight where the environment holds them. -/
theorem settle_held {x : List InFlight} (hx : x ≠ []) (o : Opnd) (j : Option W64) {s : State} (hh : s.holds.headD false = true) :
    settle (.rfe o) (onG (advance (.rfe o) j) (returned x s)) =
      onG (advance (.rfe o) j) { returned x s with holds := s.holds.drop 1 } := by
  have he : x.isEmpty = false := List.isEmpty_eq_false_iff.mpr hx
  have hh' : (onG (advance (.rfe o) j) (returned x s)).holds.headD false = true := hh
  simp only [settle, advance_returned_inflight, he, settles, isReplay, takeHold, hh', Bool.or_true, Bool.not_true, Bool.or_self,
    Bool.false_eq_true, if_false, if_true]
  rfl

theorem cget_leaveTrap_saved (x : List InFlight) {g : Group} (hp : partSR g.part = 3) {k : Nat} (hk : k < 4) :
    cget zero (leaveTrap x g).s (60 + k) = cget zero g.tsave k := by
  rw [leaveTrap, if_pos hp]
  exact cget_csetAll_four g.s 60 (cget zero g.tsave) hk

theorem cget_leaveTrap_other (x : List InFlight) {g : Group} {k : Nat} (h : k < 60 ∨ 64 ≤ k ∨ partSR g.part ≠ 3) :
    cget zero (leaveTrap x g).s k = cget zero g.s k := by
  by_cases hp : partSR g.part = 3
  · rw [leaveTrap, if_pos hp]
    refine cget_csetAll_other zero _ (fun e he => ?_)
    obtain ⟨i, hi, rfl⟩ := List.mem_map.mp he
    have := List.mem_range.mp hi
    dsimp only
    omega
  · rw [leaveTrap, if_neg hp]

theorem restoredBy_false_iff (part : W64) (e : Effect) :
    restoredBy part e = false ↔ (∀ w, e ≠ .mode w) ∧ ∀ n x, e = .sca n x → partSR part = 3 → n < 60 := by
  cases e <;> simp [restoredBy]

/-- Settles O12: what is read back entry by entry, and the step of an RFE with and without instructions to give back. -/
theorem rfeReturns : Obligations.RfeReturns := by
  refine ⟨fun l s s1 x h => reload_entries h, ?_, fun n va s s1 s2 s3 p k bs l hp hb hr => recLoads_step hp hb hr, ?_, fun o s hr hv => ?_⟩
  · rintro e r s s1 s2 _ sc vs hv rfl hsc hvs
    exact ⟨_, _, reload_valid hv hsc hvs rfl, rfl, rfl, rfl⟩
  · intro o s s1 x hr hh hl hx hg hs1
    refine ⟨returned x s1, ?_, rfl, rfl, rfl, congrArg Group.tgmode hg, (congrArg Group.v hg : s1.g.v = _), rfl, fun hp k hk => ?_⟩
    · rw [← hs1] at hh ⊢
      exact rfe_step hr hl hg (settle_held hx o _ hh)
    · rw [← hg] at hp ⊢
      exact cget_leaveTrap_saved x hp hk
  · have hl := reload_none (indexed_valid hv 0) s
    refine ⟨returned [] s, rfe_step hr hl rfl (settle_nothing o _ s), rfl, rfl, fun hp k hk => cget_leaveTrap_saved [] hp hk,
      fun k hk => cget_leaveTrap_other [] hk, fun p => ?_, rfl, rfl, rfl, rfl, rfl, ⟨rfl, rfl⟩, rfl, rfl, rfl⟩
    rw [← restoredBy_false_iff]
    change p ∈ s.g.pend.filter _ ↔ _
    simp

end Sys2Proof.Proofs
end

section
/-! PROOF. Tiles and frames (R335 to R337, R415, R418, R419): a memory instruction that waits for no matrix operation issues as the others do,
what its entry has captured, and what it does when it is performed. -/

namespace Sys2Proof.Proofs

open Sys2Proof.Machine Sys2Proof.Safety Sys2Proof.Laws

/-! Issue. -/

/-- With no accepted operation that satisfies the test there is nothing to wait for. -/
theorem waitOps_no_need {ids : List Nat} {p : MatOp → Bool} {s : State} (h : ∀ id ∈ ids, needsOps p id s = false) :
    waitOps ids p s = .ok () s := by
  have hn : ids.any (fun i => needsOps p i s) = false := by simpa using h
  simp only [waitOps, hn, Bool.not_false, if_true]

/-- A body that issues the instruction makes the step that of a memory instruction. -/
theorem exec_runMem {i : Instr} {s : State} {body : State → Res (Option W64)} (hx : exec i s = runI i s body) (hr : ready i s = true)
    (hb : body s = .ok none (enqueue i s)) : exec i s = runMem i s := by
  rw [hx, runMem, run_ready body hr, run_ready _ hr, hb]

theorem exec_tld {o : Opnd} {s : State} (hr : ready (.tld o) s = true) (h : needsOps (readsTile o.d.toNat) s.g.id s = false) :
    exec (.tld o) s = runMem (.tld o) s := by
  refine exec_runMem rfl hr ?_
  rw [waitOps_none h]
  rfl

theorem exec_frame {o : Opnd} {s : State} {i : Instr} (hi : i = .accld o ∨ i = .accst o) (hr : ready i s = true)
    (h : ∀ id ∈ panelIds s, needsOps (fun m => (framesOf m).contains o.d.toNat) id s = false) : exec i s = runMem i s := by
  rcases hi with rfl | rfl
  all_goals
    refine exec_runMem rfl hr ?_
    rw [waitOps_no_need h]
    rfl

/-! The entry. -/

theorem isWord_of_isReplay {i : Instr} (h : isReplay i = true) : isWord i = true := by
  unfold isReplay at h
  split at h
  all_goals first | rfl | exact absurd h Bool.false_ne_true

/-- The words of the entry are those of the instruction. -/
theorem decode_entry {i : Instr} {s : State} (hg : goes i s) (hr : isReplay i = true) : ∃ n, decode (encode i).1 (encode i).2 = .instr i n := by
  obtain ⟨_, hwf, _⟩ := hg
  exact ⟨_, encoding_statement i (isWord_of_isReplay hr) hwf⟩

theorem capS_tile {i : Instr} {o : Opnd} (hi : i = .tld o ∨ i = .tst o) (s : State) :
    capS (entryOf i s) 0 = rdS s o.a.toNat ∧ capS (entryOf i s) 1 = rdS s o.b.toNat := by
  rcases hi with rfl | rfl <;> exact ⟨rfl, rfl⟩

theorem capS_frame {i : Instr} {o : Opnd} (hi : i = .accld o ∨ i = .accst o) (s : State) : capS (entryOf i s) 0 = rdS s o.a.toNat := by
  rcases hi with rfl | rfl <;> rfl

/-- Issuing leaves the group who it is to the memory system. -/
theorem whoOf_begun (i : Instr) (s : State) (c : BitVec 2) : whoOf (begun i s).g c = whoOf s.g c := by
  obtain ⟨v, sc, gm, tc, fp, h⟩ := foldEff_frame ((enqueue i s).g.pend.filter (fun p => decide (p.left ≤ 1 + (opnd i).st.toNat)))
    { (enqueue i s).g with pc := (enqueue i s).g.pc + BitVec.ofNat 64 (instrLen i) }
  simp only [begun, onG_g, advance, retire, Option.getD_none]
  rw [h]
  rfl

/-! What is performed. -/

section Perform

variable {o : Opnd} {s s1 : State}

/-- A memory instruction that is performed by a meaning of its own. -/
theorem performs_by {i : Instr} {s' : State} {perf : InFlight → State → Res Unit} (hx : exec i s = runMem i s) (hg : goes i s)
    (hr : isReplay i = true) (hi : ∀ e n t, decode e.word e.ext = .instr i n → performEntry e t = perf e t)
    (hp : perf (entryOf i s) (begun i s) = .ok () s') : Performs i s s' := by
  obtain ⟨n, hd⟩ := decode_entry hg hr
  exact performs_of_entry hx hg hr ⟨n, hd⟩ ((hi (entryOf i s) n _ hd).trans hp)

theorem perfTld_checked {e : InFlight} {t : State}
    (h : tileCheck o e e.tctl 0 (whoOf t.g (parOf o).ccls) needR t = .ok () s1) :
    perfTld o e t = .ok () ((tileRows o e e.tctl 0).foldl (fun a r =>
      let x := loadRow (whoOf t.g (parOf o).ccls) e.tctl (parOf o).sel.toNat r a
      onG (tileSet o.d.toNat (64 * r.1) x.1) x.2) (onG (fun g => { g with t := ckeep (fun b => decide (b / 4096 ≠ o.d.toNat)) g.t }) s1)) := by
  simp only [perfTld, h, Res.bind]

theorem perfTst_checked {e : InFlight} {t : State}
    (h : tileCheck o e e.tctl 0 (whoOf t.g (parOf o).ccls) needW t = .ok () s1) :
    perfTst o e t = .ok () ((tileRows o e e.tctl 0).foldl (fun a r =>
      (rowChunks e.tctl (parOf o).sel.toNat r).foldl (fun b c =>
        storeVa (whoOf t.g (parOf o).ccls) 16 c.2.1 ((List.range c.2.2).map (fun k => tileByte b.g o.d.toNat (64 * r.1 + 16 * c.1 + k))) b) a) s1) := by
  simp only [perfTst, h, Res.bind]

/-- A word that nothing of another group's leaves open. -/
theorem frameAny_nil (s : State) (e : InFlight) (i : Nat) (x : W32) : frameAny s e i x [] = x := by
  simp [frameAny, anyOf]

theorem perfAccld_checked {e : InFlight} {t : State} (ho : e.olds = [])
    (h : frameCheck (capS e 0 + dispOf o) (whoOf t.g 0) needR t = .ok () s1) :
    perfAccld o e t = .ok () ((List.range 4096).foldl (fun x i =>
      let y := loadVa (whoOf t.g 0) 4 (capS e 0 + dispOf o + BitVec.ofNat 64 (4 * i)) x
      frameSet y.2.g.panel o.d.toNat i (BitVec.ofNat 32 (natOf y.1)) y.2) (keepOlds o.d.toNat s1)) := by
  simp only [perfAccld, h, Res.bind, ho, List.isEmpty_nil, if_true, frameAny_nil]

theorem perfAccst_checked {e : InFlight} {t : State} (ho : e.olds = [])
    (h : frameCheck (capS e 0 + dispOf o) (whoOf t.g 0) needW t = .ok () s1) :
    perfAccst o e t = .ok () ((List.range 4096).foldl (fun x i =>
      storeVa (whoOf t.g 0) 1 (capS e 0 + dispOf o + BitVec.ofNat 64 (4 * i)) (bytesOf 4 (frameGet x x.g.panel o.d.toNat i).toNat) x) s1) := by
  simp only [perfAccst, h, Res.bind, ho, List.map_nil, frameAny_nil]

end Perform

/-- Settles O36: each instruction issues without waiting and is performed by its own meaning; rows and chunks are where R419 has them. -/
theorem tilesAndFrames : Obligations.TilesAndFrames := by
  refine ⟨?_, fun o s tc i c _ hi hc => ⟨?_, ?_, fun r sel => ?_⟩, ?_⟩
  · rintro o s s1 w tc rfl
    refine ⟨fun h => completes_of_body rfl h rfl ((post_live _ _ _).trans (ready_live h)) rfl, fun hg htc hn hc => ?_, fun hg htc hc => ?_⟩
    · subst htc
      refine performs_by (exec_tld hg.1 hn) hg rfl (perf := perfTld o) (fun e n t hd => by rw [performEntry, hd]) ?_
      rw [← whoOf_begun (.tld o)] at hc ⊢
      exact perfTld_checked hc
    · subst htc
      refine performs_by rfl hg rfl (perf := perfTst o) (fun e n t hd => by rw [performEntry, hd]) ?_
      rw [← whoOf_begun (.tst o)] at hc ⊢
      exact perfTst_checked hc
  · obtain ⟨ha, hb⟩ := capS_tile (.inl rfl : (.tld o : Instr) = .tld o ∨ _) s
    rw [tileRows, ha, hb]
    exact List.mem_map.mpr ⟨i, List.mem_range.mpr hi, rfl⟩
  · rw [tileRows, List.length_map, List.length_range]
  · exact List.mem_map.mpr ⟨c, List.mem_range.mpr (by omega), rfl⟩
  · rintro o s s1 _ rfl hn
    refine ⟨fun hg hc => ?_, fun hg hc => ?_⟩
    · refine performs_by (exec_frame (.inl rfl) hg.1 hn) hg rfl (perf := perfAccld o) (fun e n t hd => by rw [performEntry, hd]) ?_
      rw [← whoOf_begun (.accld o), ← capS_frame (.inl rfl : (.accld o : Instr) = .accld o ∨ _)] at hc ⊢
      exact perfAccld_checked rfl hc
    · refine performs_by (exec_frame (.inr rfl) hg.1 hn) hg rfl (perf := perfAccst o) (fun e n t hd => by rw [performEntry, hd]) ?_
      rw [← whoOf_begun (.accst o), ← capS_frame (.inr rfl : (.accst o : Instr) = .accld o ∨ _)] at hc ⊢
      exact perfAccst_checked rfl hc

end Sys2Proof.Proofs
end

section
/-! PROOF. Rounding to a multiple of a power of two (R120): powers of two and binary logarithms of exact values, and the neighbour that a
mode selects. -/

namespace Sys2Proof.Proofs

open Sys2Proof.Machine Sys2Proof.Safety Sys2Proof.Laws

/-! Powers of two and binary logarithms. -/

theorem pow2_eq_zpow (e : Int) : pow2 e = (2 : Rat) ^ e := by
  unfold pow2
  split
  · rename_i h
    obtain ⟨n, rfl⟩ := Int.eq_ofNat_of_zero_le h
    simp
  · rename_i h
    obtain ⟨n, hn⟩ := Int.eq_ofNat_of_zero_le (a := -e) (by omega)
    rw [hn, show e = -(n : Int) by omega, Rat.mkRat_eq_div]
    simp

theorem pow2_add (a b : Int) : pow2 (a + b) = pow2 a * pow2 b := by
  simp only [pow2_eq_zpow]
  exact zpow_add₀ two_ne_zero a b

theorem pow2_natCast (n : Nat) : pow2 n = (2 : Rat) ^ n := by
  rw [pow2_eq_zpow, zpow_natCast]

theorem pow2_lt_pow2 {a b : Int} : pow2 a < pow2 b ↔ a < b := by
  simp only [pow2_eq_zpow]
  exact zpow_lt_zpow_iff_right₀ one_lt_two

theorem pow2_le_pow2 {a b : Int} : pow2 a ≤ pow2 b ↔ a ≤ b := by
  simp only [pow2_eq_zpow]
  exact zpow_le_zpow_iff_right₀ one_lt_two

theorem natAbs_num_div_den {x : Rat} (hx : 0 ≤ x) : (x.num.natAbs : Rat) / x.den = x := by
  rw [← Int.cast_natCast, Int.natAbs_of_nonneg (Rat.num_nonneg.mpr hx), Rat.num_div_den]

/-- The binary logarithm of a positive rational. -/
theorem log2Rat_spec {x : Rat} (hx : 0 < x) : pow2 (log2Rat x) ≤ x ∧ x < pow2 (log2Rat x + 1) := by
  have hn : x.num.natAbs ≠ 0 := by simpa using hx.ne'
  have hd : (0 : Rat) < x.den := Nat.cast_pos.mpr x.pos
  have hxq := natAbs_num_div_den hx.le
  have hn1 : pow2 (Nat.log2 x.num.natAbs : Nat) ≤ x.num.natAbs := by
    rw [pow2_natCast]; exact_mod_cast Nat.log2_self_le hn
  have hn2 : (x.num.natAbs : Rat) < pow2 ((Nat.log2 x.num.natAbs : Nat) + 1 : Int) := by
    rw [show ((Nat.log2 x.num.natAbs : Nat) + 1 : Int) = ((Nat.log2 x.num.natAbs + 1 : Nat) : Int) by push_cast; rfl, pow2_natCast]
    exact_mod_cast Nat.lt_log2_self
  have hd1 : pow2 (Nat.log2 x.den : Nat) ≤ x.den := by
    rw [pow2_natCast]; exact_mod_cast Nat.log2_self_le x.den_nz
  have hd2 : (x.den : Rat) < pow2 ((Nat.log2 x.den : Nat) + 1 : Int) := by
    rw [show ((Nat.log2 x.den : Nat) + 1 : Int) = ((Nat.log2 x.den + 1 : Nat) : Int) by push_cast; rfl, pow2_natCast]
    exact_mod_cast Nat.lt_log2_self
  have hlo : pow2 ((Nat.log2 x.num.natAbs : Int) - Nat.log2 x.den - 1) ≤ (x.num.natAbs : Rat) / x.den := by
    rw [le_div_iff₀ hd]
    refine (mul_le_mul_of_nonneg_left hd2.le (pow2_pos _).le).trans ?_
    rw [← pow2_add]
    exact hn1.trans' (pow2_le_pow2.mpr (by omega))
  have hhi : (x.num.natAbs : Rat) / x.den < pow2 ((Nat.log2 x.num.natAbs : Int) - Nat.log2 x.den + 1) := by
    rw [div_lt_iff₀ hd]
    refine lt_of_lt_of_le ?_ (mul_le_mul_of_nonneg_left hd1 (pow2_pos _).le)
    rw [← pow2_add]
    exact hn2.trans_le (pow2_le_pow2.mpr (by omega))
  rw [hxq] at hlo hhi
  unfold log2Rat
  dsimp only
  split
  · exact ⟨hlo, by rwa [sub_add_cancel]⟩
  · exact ⟨not_lt.mp ‹_›, hhi⟩

theorem log2Rat_lt_iff {x : Rat} (hx : 0 < x) (n : Int) : log2Rat x < n ↔ x < pow2 n := by
  obtain ⟨hlo, hhi⟩ := log2Rat_spec hx
  constructor
  · exact fun h => hhi.trans_le (pow2_le_pow2.mpr h)
  · exact fun h => pow2_lt_pow2.mp (hlo.trans_lt h)

/-! The neighbour that a mode selects. -/

theorem selects_eq_or (rm : Rm) (neg : Bool) (k : Nat) (lo x hi : Rat) : selects rm neg k lo x hi = k ∨ selects rm neg k lo x hi = k + 1 := by
  unfold selects
  cases rm <;> dsimp only <;> split_ifs <;> simp

theorem selects_same (rm : Rm) (neg : Bool) (k : Nat) (x hi : Rat) : selects rm neg k x x hi = k := if_pos rfl

/-- The choice depends on how far off the neighbours are in parts of their distance only. -/
theorem selects_scale (rm : Rm) (neg : Bool) (k : Nat) {c : Rat} (hc : 0 < c) (lo x hi : Rat) :
    selects rm neg k (lo * c) (x * c) (hi * c) = selects rm neg k lo x hi := by
  simp only [selects, ← sub_mul, mul_lt_mul_iff_left₀ hc, mul_left_inj' hc.ne']

/-- Neighbours further up by an even count. -/
theorem selects_add {j : Nat} (hj : j % 2 = 0) (rm : Rm) (neg : Bool) (k : Nat) (lo x hi : Rat) :
    selects rm neg (j + k) lo x hi = j + selects rm neg k lo x hi := by
  have h2 : (j + k) % 2 = k % 2 := by omega
  simp only [selects, h2]
  cases rm <;> dsimp only <;> split_ifs <;> simp [add_assoc]

/-- Rounding a quotient selects between the integers around it. -/
theorem roundQuot_eq (rm : Rm) (neg : Bool) (n : Nat) {d : Nat} (hd : 0 < d) :
    roundQuot rm neg n d = (selects rm neg (n / d) (n / d : Nat) ((n : Rat) / d) ((n / d : Nat) + 1),
      decide ((n : Rat) / d ≠ (n / d : Nat))) := by
  have hn : n = d * (n / d) + n % d := (Nat.div_add_mod n d).symm
  have hd0 : (0 : Rat) < d := Nat.cast_pos.mpr hd
  have hx : (n : Rat) / d = (n / d : Nat) + (n % d : Nat) / d := by
    rw [eq_comm, ← mul_left_inj' hd0.ne', add_mul, div_mul_cancel₀ _ hd0.ne', div_mul_cancel₀ _ hd0.ne']
    exact_mod_cast (by rw [mul_comm]; exact hn.symm)
  have hr := Nat.mod_lt n hd
  unfold roundQuot selects
  rw [hx]
  generalize n / d = k at *
  generalize n % d = r at *
  have e0 : (k : Rat) + r / d = k ↔ r = 0 := by simp [hd.ne']
  have hlo : (k : Rat) + r / d - k = r / d := by ring
  have hhi : (k : Rat) + 1 - (k + r / d) = (d - r) / d := by
    field_simp
    ring
  have e1 : (k : Rat) + r / d - k < k + 1 - (k + r / d) ↔ 2 * r < d := by
    rw [hlo, hhi, div_lt_div_iff_of_pos_right hd0, lt_sub_iff_add_lt]
    norm_cast
    omega
  have e2 : (k : Rat) + 1 - (k + r / d) < k + r / d - k ↔ d < 2 * r := by
    rw [hlo, hhi, div_lt_div_iff_of_pos_right hd0, sub_lt_iff_lt_add]
    norm_cast
    omega
  simp only [e0, e1, e2, ne_eq, Prod.mk.injEq, and_true]
  cases rm <;> dsimp only <;> grind

/-- A magnitude rounded to a multiple of a power of two lies between two of them. -/
theorem roundAt_eq (rm : Rm) (neg : Bool) {x : Rat} (hx : 0 < x) (q : Int) : ∃ n : Nat, n * pow2 q ≤ x ∧ x < (n + 1) * pow2 q ∧
    roundAt rm neg x q = (selects rm neg n (n * pow2 q) x ((n + 1) * pow2 q), decide (x ≠ n * pow2 q)) := by
  have hd : (0 : Rat) < x.den := Nat.cast_pos.mpr x.pos
  have hxq := natAbs_num_div_den hx.le
  obtain ⟨a, b, hb, hab, hr⟩ : ∃ a b : Nat, 0 < b ∧ x = (a : Rat) / b * pow2 q ∧ roundAt rm neg x q = roundQuot rm neg a b := by
    unfold roundAt
    split
    · rename_i h
      obtain ⟨m, rfl⟩ := Int.eq_ofNat_of_zero_le h
      refine ⟨_, _, Nat.mul_pos x.pos (by positivity), ?_, rfl⟩
      conv_lhs => rw [← hxq]
      simp [pow2_natCast]
      field_simp
    · rename_i h
      obtain ⟨m, hm⟩ := Int.eq_ofNat_of_zero_le (a := -q) (by omega)
      refine ⟨_, _, x.pos, ?_, rfl⟩
      conv_lhs => rw [← hxq]
      rw [hm, show q = -(m : Int) by omega, pow2_eq_zpow]
      simp
      field_simp
  refine ⟨a / b, ?_, ?_, ?_⟩
  · rw [hab]
    exact mul_le_mul_of_nonneg_right Nat.cast_div_le (pow2_pos q).le
  · rw [hab]
    refine mul_lt_mul_of_pos_right ?_ (pow2_pos q)
    rw [div_lt_iff₀ (Nat.cast_pos.mpr hb)]
    exact_mod_cast Nat.lt_mul_of_div_lt (Nat.lt_succ_self _) hb
  · rw [hr, roundQuot_eq rm neg a hb]
    conv_rhs => rw [hab]
    rw [selects_scale rm neg _ (pow2_pos q)]
    simp [(pow2_pos q).ne']

end Sys2Proof.Proofs
end

section
/-! PROOF. The grid of a format (R113, R121, R122): its codes are multiples of a step for each exponent, rounding once selects one of
them, and which magnitudes are tiny. -/

namespace Sys2Proof.Proofs

open Sys2Proof.Machine Sys2Proof.Safety Sys2Proof.Laws

/-! The grid of a format (R113, R121). -/

/-- The exponent of a format's smallest step. -/
def gridBottom (f : Fmt) : Int := 1 - (f.bias : Int) - f.fb

/-- The codes of one exponent, and the first of the next, are multiples of its step. -/
theorem gridValue_step (f : Fmt) {t n : Nat} (ht : t = 0 ∨ 2 ^ f.fb ≤ n) (hn : n ≤ 2 ^ (f.fb + 1)) :
    gridValue f (t * 2 ^ f.fb + n) = n * pow2 (t + gridBottom f) := by
  have hp : 0 < 2 ^ f.fb := Nat.two_pow_pos _
  rw [pow_succ] at hn
  have step : ∀ e k : Nat, k < 2 ^ f.fb → gridValue f ((e + 1) * 2 ^ f.fb + k) = ((2 ^ f.fb + k : Nat) : Rat) * pow2 (e + gridBottom f) := by
    intro e k hk
    have hdiv : ((e + 1) * 2 ^ f.fb + k) / 2 ^ f.fb = e + 1 := by
      rw [Nat.add_comm, Nat.add_mul_div_right _ _ hp, Nat.div_eq_of_lt hk, Nat.zero_add]
    have hmod : ((e + 1) * 2 ^ f.fb + k) % 2 ^ f.fb = k := by
      rw [Nat.add_comm, Nat.add_mul_mod_self_right, Nat.mod_eq_of_lt hk]
    simp only [gridValue, hdiv, hmod, Nat.add_one_ne_zero, if_false, gridBottom]
    congr 2
    push_cast
    ring
  have split : n < 2 ^ f.fb ∨ (∃ k, k < 2 ^ f.fb ∧ n = 2 ^ f.fb + k) ∨ n = 2 * 2 ^ f.fb := by
    by_cases h : n < 2 ^ f.fb
    · exact .inl h
    · by_cases h2 : n = 2 * 2 ^ f.fb
      · exact .inr (.inr h2)
      · exact .inr (.inl ⟨n - 2 ^ f.fb, by omega, by omega⟩)
  rcases split with h | ⟨k, hk, rfl⟩ | rfl
  · obtain rfl : t = 0 := by omega
    simp [gridValue, Nat.div_eq_of_lt h, gridBottom]
  · rw [← step t k hk]
    congr 1
    ring
  · rw [show t * 2 ^ f.fb + 2 * 2 ^ f.fb = (t + 1 + 1) * 2 ^ f.fb + 0 by ring, step (t + 1) 0 hp,
      show ((t + 1 : Nat) : Int) + gridBottom f = t + gridBottom f + 1 by push_cast; ring, pow2_add, show pow2 1 = 2 from rfl]
    push_cast
    ring

/-- Each code stands at a multiple of a step, and the next code one step further. -/
theorem gridValue_succ (f : Fmt) (k : Nat) : ∃ t n : Nat, k = t * 2 ^ f.fb + n ∧ (t = 0 ∨ 2 ^ f.fb ≤ n) ∧ n < 2 ^ (f.fb + 1) := by
  have hp : 0 < 2 ^ f.fb := Nat.two_pow_pos _
  have hdm : k / 2 ^ f.fb * 2 ^ f.fb + k % 2 ^ f.fb = k := Nat.div_add_mod' k _
  have hm := Nat.mod_lt k hp
  rw [pow_succ]
  rcases h : k / 2 ^ f.fb with _ | t
  · exact ⟨0, k, by omega, .inl rfl, by rw [h] at hdm; omega⟩
  · rw [h, Nat.succ_mul] at hdm
    exact ⟨t, 2 ^ f.fb + k % 2 ^ f.fb, by omega, .inr (by omega), by omega⟩

theorem gridValue_strictMono (f : Fmt) : StrictMono (gridValue f) := by
  refine strictMono_nat_of_lt_succ (fun k => ?_)
  obtain ⟨t, n, rfl, ht, hn⟩ := gridValue_succ f k
  rw [Nat.add_assoc, gridValue_step f ht hn.le, gridValue_step f (by omega) hn]
  exact mul_lt_mul_of_pos_right (by push_cast; linarith) (pow2_pos _)

/-- The code below a positive magnitude lies among those of its exponent. -/
theorem between_codes (f : Fmt) {x : Rat} (hx : 0 < x) {n : Nat} {q : Int} (hq : q = max (log2Rat x) (1 - (f.bias : Int)) - f.fb)
    (hlo : n * pow2 q ≤ x) (hhi : x < (n + 1) * pow2 q) : ∃ t : Nat, q = t + gridBottom f ∧ (t = 0 ∨ 2 ^ f.fb ≤ n) ∧ n < 2 ^ (f.fb + 1) ∧
      gridValue f (t * 2 ^ f.fb + n) = n * pow2 q ∧ gridValue f (t * 2 ^ f.fb + (n + 1)) = (n + 1) * pow2 q := by
  obtain ⟨elo, ehi⟩ := log2Rat_spec hx
  obtain ⟨t, ht⟩ := Int.eq_ofNat_of_zero_le (a := q - gridBottom f) (by rw [gridBottom]; omega)
  have htq : q = t + gridBottom f := by omega
  have hn : n < 2 ^ (f.fb + 1) := by
    have h : (n : Rat) * pow2 q < pow2 ((f.fb + 1 : Nat) + q) :=
      hlo.trans_lt (ehi.trans_le (pow2_le_pow2.mpr (by omega)))
    rw [pow2_add, mul_lt_mul_iff_left₀ (pow2_pos q), pow2_natCast] at h
    exact_mod_cast h
  have ht0 : t = 0 ∨ 2 ^ f.fb ≤ n := by
    refine or_iff_not_imp_left.mpr (fun h0 => ?_)
    have h : pow2 (f.fb + q) < ((n : Rat) + 1) * pow2 q :=
      (pow2_le_pow2.mpr (by rw [gridBottom] at htq; omega)).trans_lt (elo.trans_lt hhi)
    rw [pow2_add, mul_lt_mul_iff_left₀ (pow2_pos q), pow2_natCast] at h
    have h' : 2 ^ f.fb < n + 1 := by exact_mod_cast h
    omega
  refine ⟨t, htq, ht0, hn, ?_, ?_⟩
  · rw [gridValue_step f ht0 hn.le, htq]
  · rw [gridValue_step f (by omega) hn, htq]
    push_cast
    rfl

theorem exists_gridValue (f : Fmt) {x : Rat} (hx : 0 < x) : ∃ k, gridValue f k ≤ x ∧ x < gridValue f (k + 1) := by
  obtain ⟨n, hlo, hhi, -⟩ := roundAt_eq .ne false hx (max (log2Rat x) (1 - (f.bias : Int)) - f.fb)
  obtain ⟨t, -, -, -, hk, hk1⟩ := between_codes f hx rfl hlo hhi
  exact ⟨t * 2 ^ f.fb + n, by rwa [hk], by rw [add_assoc, hk1]; exact hhi⟩

/-- Rounding to the step of a magnitude's exponent selects between its neighbours in the format. -/
theorem roundAt_grid {f : Fmt} (hf : 1 ≤ f.fb) (rm : Rm) (neg : Bool) {x : Rat} {k : Nat} (hx : 0 < x) (hlo : gridValue f k ≤ x)
    (hhi : x < gridValue f (k + 1)) {q : Int} (hq : q = max (log2Rat x) (1 - (f.bias : Int)) - f.fb) :
    (q - gridBottom f).toNat * 2 ^ f.fb + (roundAt rm neg x q).1 = selects rm neg k (gridValue f k) x (gridValue f (k + 1)) ∧
      (roundAt rm neg x q).2 = decide (x ≠ gridValue f k) := by
  obtain ⟨n, nlo, nhi, hr⟩ := roundAt_eq rm neg hx q
  obtain ⟨t, ht, -, -, hk, hk1⟩ := between_codes f hx hq nlo nhi
  have hkn : k = t * 2 ^ f.fb + n := by
    have h1 := (gridValue_strictMono f).lt_iff_lt.mp (hlo.trans_lt (by rw [hk1]; exact nhi : x < gridValue f (t * 2 ^ f.fb + (n + 1))))
    have h2 := (gridValue_strictMono f).lt_iff_lt.mp ((by rw [hk]; exact nlo : gridValue f (t * 2 ^ f.fb + n) ≤ x).trans_lt hhi)
    omega
  have heven : t * 2 ^ f.fb % 2 = 0 := by
    obtain ⟨m, hm⟩ := Nat.exists_eq_add_of_le hf
    rw [hm, Nat.add_comm, pow_succ, ← mul_assoc, Nat.mul_mod_left]
  have htn : (q - gridBottom f).toNat = t := by omega
  subst hkn
  rw [hr, htn, selects_add heven, add_assoc, hk, hk1]
  exact ⟨rfl, rfl⟩

/-! Tiny magnitudes (R122). -/

/-- Rounding below an even multiple `j + 2` of a step reaches it from the multiple before it only. -/
theorem selects_reaches (rm : Rm) (neg : Bool) {j n : Nat} {u x : Rat} (hj : j % 2 = 0) (hu : 0 < u) (hlo : n * u ≤ x)
    (hhi : x < (n + 1) * u) (hx : x < (j + 2) * u) :
    (!decide (selects rm neg n (n * u) x ((n + 1) * u) = j + 2)) =
      (decide (x ≤ (j + 1) * u) || decide (selects rm neg 1 ((j + 1) * u) x ((j + 2) * u) = 1)) := by
  have hn : n < j + 2 := by
    have h := lt_of_mul_lt_mul_right (hlo.trans_lt hx) hu.le
    exact_mod_cast h
  by_cases hn1 : n = j + 1
  · have hs := selects_add hj rm neg 1 ((j + 1) * u) x ((j + 2) * u)
    have hc : ((j + 1 : Nat) : Rat) = j + 1 := Nat.cast_succ j
    rw [hn1, hc] at hlo
    rw [hn1, hc, show (j + 1 + 1 : Rat) = j + 2 by ring, hs]
    rcases selects_eq_or rm neg 1 ((j + 1) * u) x ((j + 2) * u) with h1 | h1
    · simp [h1]
    · have hne : ¬ x ≤ (j + 1) * u := fun h => by
        rw [le_antisymm h hlo, selects_same] at h1
        exact absurd h1 (by decide)
      simp [h1, hne]
  · have hle : x ≤ (j + 1) * u := by
      have h : (n : Rat) ≤ j := by exact_mod_cast (by omega : n ≤ j)
      exact hhi.le.trans (mul_le_mul_of_nonneg_right (by linarith) hu.le)
    have hne : ¬ selects rm neg n (n * u) x ((n + 1) * u) = j + 2 := by
      have := selects_eq_or rm neg n (n * u) x ((n + 1) * u)
      omega
    rw [decide_eq_true hle, decide_eq_false hne, Bool.true_or, Bool.not_false]

/-- A magnitude is tiny as the model has it where its rounding at its own exponent stays below the smallest normal value. -/
theorem tiny_eq {f : Fmt} (hf : 1 ≤ f.fb) (rm : Rm) (neg : Bool) {x : Rat} (hx : 0 < x) :
    (decide (log2Rat x < 1 - (f.bias : Int)) && !(decide (log2Rat x = 1 - (f.bias : Int) - 1) &&
      decide ((roundAt rm neg x (log2Rat x - f.fb)).1 = 2 ^ (f.fb + 1)))) = tinyRounded f rm neg x := by
  have hlt := log2Rat_lt_iff hx (1 - (f.bias : Int))
  obtain ⟨n, nlo, nhi, hr⟩ := roundAt_eq rm neg hx (log2Rat x - f.fb)
  have hu := pow2_pos (-(f.bias : Int) - f.fb)
  obtain ⟨j, hj, hN⟩ : ∃ j, j % 2 = 0 ∧ 2 ^ (f.fb + 1) = j + 2 := by
    obtain ⟨m, hm⟩ := Nat.exists_eq_add_of_le hf
    have := Nat.two_pow_pos m
    exact ⟨2 ^ (f.fb + 1) - 2, by rw [hm, pow_succ]; omega, by rw [hm, pow_succ, Nat.add_comm 1 m, pow_succ]; omega⟩
  have hnormal : pow2 (1 - (f.bias : Int)) = ((j : Rat) + 2) * pow2 (-(f.bias : Int) - f.fb) := by
    rw [show ((j : Rat) + 2) = ((2 ^ (f.fb + 1) : Nat) : Rat) by rw [hN]; push_cast; rfl, Nat.cast_pow, Nat.cast_two, ← pow2_natCast,
      ← pow2_add]
    congr 1
    push_cast
    ring
  have hlast : pow2 (1 - (f.bias : Int)) - pow2 (-(f.bias : Int) - f.fb) = ((j : Rat) + 1) * pow2 (-(f.bias : Int) - f.fb) := by
    rw [hnormal]
    ring
  rw [hr, hN]
  unfold tinyRounded
  dsimp only
  rw [hlast]
  by_cases hb : log2Rat x < 1 - (f.bias : Int)
  swap
  · rw [decide_eq_false hb, decide_eq_false (mt hlt.mpr hb), Bool.false_and, Bool.false_and]
  have hxn := hlt.mp hb
  rw [decide_eq_true hb, decide_eq_true hxn, Bool.true_and, Bool.true_and]
  rw [hnormal] at hxn ⊢
  by_cases he : log2Rat x = 1 - (f.bias : Int) - 1
  · rw [decide_eq_true he, Bool.true_and]
    rw [show log2Rat x - f.fb = -(f.bias : Int) - f.fb by omega] at nlo nhi ⊢
    exact selects_reaches rm neg hj hu nlo nhi hxn
  · have hhalf := (log2Rat_lt_iff hx (1 - (f.bias : Int) - 1)).mp (by omega)
    have h2 : pow2 (1 - (f.bias : Int) - 1 + 1) = pow2 (1 - (f.bias : Int) - 1) * 2 := pow2_add _ 1
    rw [sub_add_cancel, hnormal] at h2
    have hle : x ≤ (j + 1) * pow2 (-(f.bias : Int) - f.fb) := by nlinarith
    rw [decide_eq_false he, decide_eq_true hle]
    rfl

/-! Rounding once. -/

theorem roundF_zero (f : Fmt) (rm : Rm) (m : Bool) : roundF f rm m 0 = ⟨signBits f m, 0⟩ := if_pos rfl

/-- A positive magnitude becomes the neighbour that the mode selects, or overflows (R120 to R122). -/
theorem roundF_grid {f : Fmt} (hf : 1 ≤ f.fb) (rm : Rm) (m : Bool) {x : Rat} {k j : Nat} (hx : 0 < x) (hlo : gridValue f k ≤ x)
    (hhi : x < gridValue f (k + 1)) (hj : j = selects rm m k (gridValue f k) x (gridValue f (k + 1))) :
    roundF f rm m x = if maxCode f < j then ⟨overflowBits f rm m, flOF ||| flNX⟩
      else ⟨signBits f m + j, flIf (decide (x ≠ gridValue f k)) flNX ||| flIf (decide (x ≠ gridValue f k) && tinyRounded f rm m x) flUF⟩ := by
  obtain ⟨h1, h2⟩ := roundAt_grid hf rm m hx hlo hhi rfl
  rw [roundF, if_neg hx.ne', ← tiny_eq hf rm m hx]
  dsimp only
  rw [h2, show (1 : Int) - f.bias - f.fb = gridBottom f from rfl, h1, ← hj]

/-- The value selected is the magnitude itself exactly where that is a value of the format. -/
theorem gridValue_selects_eq_iff (f : Fmt) (rm : Rm) (m : Bool) {x : Rat} {k : Nat} (hhi : x < gridValue f (k + 1)) :
    gridValue f (selects rm m k (gridValue f k) x (gridValue f (k + 1))) = x ↔ x = gridValue f k := by
  constructor
  · intro h
    rcases selects_eq_or rm m k (gridValue f k) x (gridValue f (k + 1)) with hs | hs
    · rw [← h, hs]
    · rw [hs] at h
      exact absurd h hhi.ne'
  · intro h
    conv_lhs => rw [← h, selects_same, ← h]

end Sys2Proof.Proofs
end

section
/-! PROOF. Sums, products, NaNs, infinities, minima and predicates (R123 to R125, R130, R131, R353, R361, Table 11-7) by the kind of
value, and the obligation on exact results. -/

namespace Sys2Proof.Proofs

open Sys2Proof.Machine Sys2Proof.Safety Sys2Proof.Laws

/-! The formats. -/

/-- The magnitudes of the finite codes of a format stand on its grid (R113). -/
theorem decodeF_signBits_add {f : Fmt} (hf : f ∈ [f64, f32, f16, bf16, e5m2, e4m3, e2m1]) (m : Bool) {k : Nat} (hk : k ≤ maxCode f) :
    decodeF f (signBits f m + k) = .fin m (gridValue f k) := by
  have hlt : k < 2 ^ (f.eb + f.fb) := by
    simp only [List.mem_cons, List.not_mem_nil, or_false] at hf
    rcases hf with rfl | rfl | rfl | rfl | rfl | rfl | rfl <;> exact Nat.lt_of_le_of_lt hk (by decide)
  have hp : 0 < 2 ^ f.fb := Nat.two_pow_pos _
  have hneg : (bitsOf (signBits f m + k) (f.eb + f.fb) 1 == 1) = m := by
    rw [bitsOf, Nat.shiftRight_eq_div_pow]
    cases m
    · simp [signBits, Nat.div_eq_of_lt hlt]
    · rw [signBits, if_pos rfl, Nat.add_div_left _ (Nat.two_pow_pos _), Nat.div_eq_of_lt hlt]
      rfl
  have hexp : bitsOf (signBits f m + k) f.fb f.eb = k / 2 ^ f.fb := by
    have hk2 : k / 2 ^ f.fb < 2 ^ f.eb := Nat.div_lt_of_lt_mul (by rwa [← pow_add, Nat.add_comm])
    rw [bitsOf, Nat.shiftRight_eq_div_pow]
    cases m
    · simp [signBits, Nat.mod_eq_of_lt hk2]
    · rw [signBits, if_pos rfl, pow_add, Nat.add_comm, Nat.add_mul_div_right _ _ hp, Nat.add_mod_right, Nat.mod_eq_of_lt hk2]
  have hfrac : bitsOf (signBits f m + k) 0 f.fb = k % 2 ^ f.fb := by
    rw [bitsOf, Nat.shiftRight_zero]
    cases m
    · simp [signBits]
    · rw [signBits, if_pos rfl, pow_add, Nat.add_comm, Nat.add_mul_mod_self_right]
  have hfin : (if k / 2 ^ f.fb = 0 then FVal.fin m (((k % 2 ^ f.fb : Nat) : Rat) * pow2 (1 - (f.bias : Int) - f.fb))
      else .fin m (((2 ^ f.fb + k % 2 ^ f.fb : Nat) : Rat) * pow2 ((k / 2 ^ f.fb : Nat) - (f.bias : Int) - f.fb))) =
        .fin m (gridValue f k) := by
    unfold gridValue
    dsimp only
    split
    · rename_i h
      rw [Nat.mod_eq_of_lt (by have := (Nat.div_eq_zero_iff_lt hp).mp h; exact this)]
    · rfl
  have hspec : (f.kind = .ieee → k / 2 ^ f.fb ≠ 2 ^ f.eb - 1) ∧ (f.kind = .e4m3 → ¬ (k / 2 ^ f.fb = 15 ∧ k % 2 ^ f.fb = 7)) := by
    simp only [List.mem_cons, List.not_mem_nil, or_false] at hf
    rcases hf with rfl | rfl | rfl | rfl | rfl | rfl | rfl
    all_goals simp only [maxCode, f64, f32, f16, bf16, e5m2, e4m3, e2m1, reduceCtorEq, false_implies, true_and, and_true,
      true_implies] at hk hlt ⊢
    all_goals omega
  unfold decodeF
  simp only [hneg, hexp, hfrac, hfin]
  cases hkind : f.kind
  · exact if_neg (hspec.1 hkind)
  · exact if_neg (hspec.2 hkind)
  · rfl

theorem fb_pos_of_format {f : Fmt} (hf : f ∈ [f64, f32, f16, bf16, e5m2, e4m3, e2m1]) : 1 ≤ f.fb := by
  simp only [List.mem_cons, List.not_mem_nil, or_false] at hf
  rcases hf with rfl | rfl | rfl | rfl | rfl | rfl | rfl <;> decide

/-- Table 4-4: E4M3 and E2M1 have no infinity to overflow to, and the others stop at their largest value where the mode rounds towards zero. -/
theorem overflowBits_eq {f : Fmt} (hf : f ∈ [f64, f32, f16, bf16, e5m2, e4m3, e2m1]) (rm : Rm) (m : Bool) : overflowBits f rm m =
    if f = e4m3 ∨ f = e2m1 ∨ rm = .tz ∨ (rm = .up ∧ m = true) ∨ (rm = .dn ∧ m = false) then signBits f m + maxCode f else infBits f m := by
  simp only [List.mem_cons, List.not_mem_nil, or_false] at hf
  rcases hf with rfl | rfl | rfl | rfl | rfl | rfl | rfl <;> cases rm <;> cases m <;> rfl

/-! Sums and products of finite values (R120, R353, R361). -/

/-- The signed rational of a sign and a magnitude. -/
theorem toRat_fin (m : Bool) (x : Rat) : (FVal.fin m x).toRat = if m then -x else x := rfl

theorem roundSigned_eq (f : Fmt) (rm : Rm) (z : Bool) (e : Rat) : roundSigned f rm z e =
    if e = 0 then ⟨signBits f z, 0⟩ else roundF f rm (decide (e < 0)) (if e < 0 then -e else e) := rfl

/-- Rounding a rational asks for the sign of a zero only where it is one. -/
theorem roundSigned_congr {f : Fmt} {rm : Rm} {z z' : Bool} {e : Rat} (h : e = 0 → z = z') :
    roundSigned f rm z e = roundSigned f rm z' e := by
  by_cases he : e = 0
  · rw [h he]
  · rw [roundSigned_eq, roundSigned_eq, if_neg he, if_neg he]

/-- Two signed magnitudes of one sign cancel only where both are zero. -/
theorem zeros_of_signed_sum {m : Bool} {x y : Rat} (hx : 0 ≤ x) (hy : 0 ≤ y)
    (h : (if m then -x else x) + (if m then -y else y) = 0) : x = 0 ∧ y = 0 := by
  cases m <;> simp at h <;> constructor <;> linarith

/-- The sign of an exact zero of a sum: that of both operands, else minus under round-down only. -/
theorem zeroSign_eq {f : Fmt} {rm : Rm} {m n pz : Bool} {x y : Rat} (hx : 0 ≤ x) (hy : 0 ≤ y) (hpz : pz = true ↔ x = 0) :
    roundSigned f rm (if pz && (y == 0) && m == n then m else rm == .dn) ((if m then -x else x) + (if n then -y else y)) =
      roundSigned f rm (if m = n then m else decide (rm = .dn)) ((if m then -x else x) + (if n then -y else y)) := by
  refine roundSigned_congr (fun h => ?_)
  by_cases hmn : m = n
  · subst hmn
    obtain ⟨h1, h2⟩ := zeros_of_signed_sum hx hy h
    simp [hpz.mpr h1, h2]
  · simp only [hmn, beq_eq_false_iff_ne.mpr hmn, Bool.and_false, Bool.false_eq_true, if_false]
    rfl

section Finite

variable (f : Fmt) (rm : Rm) (m n k : Bool) {x y z : Rat} (hx : 0 ≤ x) (hy : 0 ≤ y)
include hx hy

theorem addF_fin : addF f rm (.fin m x) (.fin n y) =
    roundSigned f rm (if m = n then m else decide (rm = .dn)) ((if m then -x else x) + (if n then -y else y)) :=
  zeroSign_eq hx hy beq_iff_eq

theorem mulF_fin : mulF f rm (.fin m x) (.fin n y) = roundF f rm (m != n) (x * y) := by
  have hp : (FVal.fin m x).toRat * (FVal.fin n y).toRat = if m != n then -(x * y) else x * y := by
    cases m <;> cases n <;> simp [FVal.toRat]
  have h : mulF f rm (.fin m x) (.fin n y) = roundSigned f rm (m != n) ((FVal.fin m x).toRat * (FVal.fin n y).toRat) := by
    simp [mulF, firstNaN, FVal.isInf, FVal.neg]
  rw [h, hp]
  rcases (mul_nonneg hx hy).eq_or_lt with h0 | h0
  · rw [← h0, roundF_zero]
    simp [roundSigned]
  · exact roundSigned_fin f rm _ _ h0

theorem fmaF_fin (hz : 0 ≤ z) : fmaF f rm (.fin m x) (.fin n y) (.fin k z) =
    roundSigned f rm (if (m != n) = k then k else decide (rm = .dn)) ((if m != n then -(x * y) else x * y) + (if k then -z else z)) := by
  have hp : (FVal.fin m x).toRat * (FVal.fin n y).toRat = if m != n then -(x * y) else x * y := by
    cases m <;> cases n <;> simp [FVal.toRat]
  have hk : (if (m != n) = k then k else decide (rm = .dn)) = if (m != n) = k then (m != n) else decide (rm = .dn) := by
    split <;> simp_all
  rw [hk, ← zeroSign_eq (pz := x == 0 || y == 0) (mul_nonneg hx hy) hz (by simp), ← hp, ← toRat_fin k z]
  simp [fmaF, firstNaN, FVal.isInf, FVal.neg, FVal.isZero]

end Finite

/-! NaNs and infinities (R123 to R125, R361). -/

theorem isNaN_iff {a : FVal} : a.isNaN = true ↔ ∃ m q p, a = .nan m q p := by
  cases a <;> simp [FVal.isNaN]

theorem isInf_iff {a : FVal} : a.isInf = true ↔ ∃ m, a = .inf m := by
  cases a <;> simp [FVal.isInf]

@[simp] theorem isNaN_inf (m : Bool) : (FVal.inf m).isNaN = false := rfl
@[simp] theorem isNaN_fin (m : Bool) (x : Rat) : (FVal.fin m x).isNaN = false := rfl
@[simp] theorem isNaN_nan (m q : Bool) (p : Nat) : (FVal.nan m q p).isNaN = true := rfl
@[simp] theorem isSNaN_nan (m q : Bool) (p : Nat) : (FVal.nan m q p).isSNaN = !q := rfl

theorem isSNaN_eq_false {a : FVal} (h : a.isNaN = false) : a.isSNaN = false := by
  cases a <;> simp_all [FVal.isNaN, FVal.isSNaN]

theorem firstNaN_cons {a : FVal} (f : Fmt) (l : List FVal) (h : a.isNaN = false) : firstNaN f (a :: l) = firstNaN f l := by
  cases a <;> simp_all [FVal.isNaN, firstNaN]

theorem firstNaN_none {f : Fmt} {l : List FVal} (h : ∀ a ∈ l, a.isNaN = false) : firstNaN f l = none := by
  induction l with
  | nil => rfl
  | cons a r ih =>
    rw [firstNaN_cons f r (h a List.mem_cons_self)]
    exact ih (fun b hb => h b (List.mem_cons_of_mem _ hb))

/-- A NaN among the first two operands decides every operation. -/
theorem nan_operand (f : Fmt) (rm : Rm) (a b c : FVal) (h : a.isNaN = true ∨ b.isNaN = true) :
    ∃ n, firstNaN f [a, b] = some n ∧ addF f rm a b = ⟨n, snanFlag [a, b]⟩ ∧
      subF f rm a b = ⟨n, snanFlag [a, b]⟩ ∧ mulF f rm a b = ⟨n, snanFlag [a, b]⟩ ∧ fmaF f rm a b c = ⟨n, snanFlag [a, b, c]⟩ := by
  obtain ⟨n, h2, h3⟩ : ∃ n, firstNaN f [a, b] = some n ∧ firstNaN f [a, b, c] = some n := by
    by_cases ha : a.isNaN = true
    · obtain ⟨m, q, p, rfl⟩ := isNaN_iff.mp ha
      exact ⟨_, rfl, rfl⟩
    · obtain ⟨m, q, p, rfl⟩ := isNaN_iff.mp (h.resolve_left ha)
      rw [firstNaN_cons f _ (Bool.eq_false_iff.mpr ha), firstNaN_cons f _ (Bool.eq_false_iff.mpr ha)]
      exact ⟨_, rfl, rfl⟩
  have hi : ((a.isInf && b.isZero) || (a.isZero && b.isInf)) = false := by
    rcases h with h | h <;> obtain ⟨m, q, p, rfl⟩ := isNaN_iff.mp h <;> simp [FVal.isInf, FVal.isZero]
  refine ⟨n, h2, ?_⟩
  simp only [addF, subF, mulF, fmaF, h2, h3, hi]
  simp [flIf]

/-- A NaN that only the third operand of a fused sum is (R123). -/
theorem fmaF_nan (f : Fmt) (rm : Rm) {a b : FVal} (m q : Bool) (p : Nat) (ha : a.isNaN = false) (hb : b.isNaN = false) :
    fmaF f rm a b (.nan m q p) =
      ⟨nanBits f m p, if q = false ∨ (a.isInf = true ∧ b.isZero = true) ∨ (a.isZero = true ∧ b.isInf = true) then flNV else 0⟩ := by
  have hn : firstNaN f [a, b, .nan m q p] = some (nanBits f m p) := by
    rw [firstNaN_cons f _ ha, firstNaN_cons f _ hb]
    rfl
  have hs : snanFlag [a, b, .nan m q p] = flIf (!q) flNV := by
    simp [snanFlag, isSNaN_eq_false ha, isSNaN_eq_false hb]
  simp only [fmaF, hn, hs]
  congr 1
  cases q <;> cases a.isInf <;> cases b.isZero <;> cases a.isZero <;> cases b.isInf <;> rfl

/-- A product of which a factor is an infinity and none a zero, in a fused sum. -/
theorem fmaF_infinite (f : Fmt) (rm : Rm) {u v c : FVal} (hu : u.isNaN = false) (hv : v.isNaN = false) (hc : c.isNaN = false)
    (hi : u.isInf = true ∨ v.isInf = true) (hu0 : u.isZero = false) (hv0 : v.isZero = false) :
    fmaF f rm u v c = if c = .inf (!(u.neg != v.neg)) then ⟨genNaN f 3, flNV⟩ else ⟨infBits f (u.neg != v.neg), 0⟩ := by
  have hn : firstNaN f [u, v, c] = none := firstNaN_none (by simp [hu, hv, hc])
  have hi2 : (u.isInf || v.isInf) = true := by simpa using hi
  simp only [fmaF, hn, hu0, hv0, hi2, Bool.and_false, Bool.false_and, Bool.or_self, Bool.false_eq_true, if_false, if_true]
  generalize (u.neg != v.neg) = s
  cases c with
  | nan => exact absurd hc (by simp)
  | inf m => cases m <;> cases s <;> rfl
  | fin m x => rfl

/-- Zero times infinity, in a fused sum with a value that is not a NaN. -/
theorem fmaF_zero_inf (f : Fmt) (rm : Rm) (a n : Bool) {c : FVal} (hc : c.isNaN = false) :
    fmaF f rm (.inf a) (.fin n 0) c = ⟨genNaN f 4, flNV⟩ ∧ fmaF f rm (.fin n 0) (.inf a) c = ⟨genNaN f 4, flNV⟩ := by
  have h1 : firstNaN f [.inf a, .fin n 0, c] = none := firstNaN_none (by simp [hc])
  have h2 : firstNaN f [.fin n 0, .inf a, c] = none := firstNaN_none (by simp [hc])
  simp only [fmaF, h1, h2]
  exact ⟨rfl, rfl⟩

/-- An infinity times a finite value. -/
theorem mulF_inf_fin (f : Fmt) (rm : Rm) (a n : Bool) (y : Rat) :
    mulF f rm (.inf a) (.fin n y) = (if y = 0 then ⟨genNaN f 4, flNV⟩ else ⟨infBits f (a != n), 0⟩) ∧
      mulF f rm (.fin n y) (.inf a) = (if y = 0 then ⟨genNaN f 4, flNV⟩ else ⟨infBits f (a != n), 0⟩) := by
  by_cases hy : y = 0
  · subst hy
    exact ⟨rfl, rfl⟩
  · cases a <;> cases n <;> simp [mulF, firstNaN, FVal.isInf, FVal.isZero, FVal.neg, hy]

/-! Minimum and maximum (R130, R131). -/

theorem ltTotal_irrefl (a : FVal) : ltTotal a a = false := by
  cases a with
  | nan => simp [ltTotal, FVal.toRat, FVal.isZero]
  | inf m => cases m <;> rfl
  | fin m x => cases m <;> simp [ltTotal, FVal.neg]

theorem ltTotal_asymm {a b : FVal} (h : ltTotal a b = true) : ltTotal b a = false := by
  cases a <;> cases b <;> simp only [ltTotal, FVal.toRat, FVal.isZero, FVal.neg] at h ⊢ <;> grind

theorem minmaxFlag_left {a b : FVal} (hb : b.isNaN = false) : minmaxFlag a b = snanFlag [a] := by
  simp [minmaxFlag, snanFlag, hb, isSNaN_eq_false hb, flIf]

theorem minmaxFlag_right {a b : FVal} (ha : a.isNaN = false) : minmaxFlag a b = snanFlag [b] := by
  simp [minmaxFlag, snanFlag, ha, isSNaN_eq_false ha, flIf]

/-- The minimum and the maximum where neither operand is a NaN: one of them, with nothing beyond it. -/
theorem minmaxF_ordered (f : Fmt) {x y : Nat} (ha : (decodeF f x).isNaN = false) (hb : (decodeF f y).isNaN = false) :
    minmaxF f true x y = (if ltTotal (decodeF f x) (decodeF f y) = true then y else x) ∧
      minmaxF f false x y = if ltTotal (decodeF f y) (decodeF f x) = true then y else x := by
  simp only [minmaxF, ha, hb]
  exact ⟨rfl, rfl⟩

/-- Nothing lies beyond the minimum or the maximum. -/
theorem minmaxF_extreme (f : Fmt) (mx : Bool) {x y : Nat} (ha : (decodeF f x).isNaN = false) (hb : (decodeF f y).isNaN = false) :
    (minmaxF f mx x y = x ∨ minmaxF f mx x y = y) ∧
      (mx = true → ltTotal (decodeF f (minmaxF f mx x y)) (decodeF f x) = false ∧ ltTotal (decodeF f (minmaxF f mx x y)) (decodeF f y) = false) ∧
      (mx = false → ltTotal (decodeF f x) (decodeF f (minmaxF f mx x y)) = false ∧
        ltTotal (decodeF f y) (decodeF f (minmaxF f mx x y)) = false) := by
  obtain ⟨hmax, hmin⟩ := minmaxF_ordered f ha hb
  cases mx
  · rw [hmin]
    split
    · rename_i h
      exact ⟨.inr rfl, by simp, fun _ => ⟨ltTotal_asymm h, ltTotal_irrefl _⟩⟩
    · rename_i h
      exact ⟨.inl rfl, by simp, fun _ => ⟨ltTotal_irrefl _, Bool.eq_false_iff.mpr h⟩⟩
  · rw [hmax]
    split
    · rename_i h
      exact ⟨.inr rfl, fun _ => ⟨ltTotal_asymm h, ltTotal_irrefl _⟩, by simp⟩
    · rename_i h
      exact ⟨.inl rfl, fun _ => ⟨ltTotal_irrefl _, Bool.eq_false_iff.mpr h⟩, by simp⟩

/-! Predicates (Table 11-7). -/

/-- The predicate `k` of two values that are not NaNs, from whether one is below, equal to or above the other. -/
def orderPred (lt eq gt : Bool) (k : Nat) : Bool :=
  if k = 0 then eq else if k = 1 then !eq else if k = 2 then lt else if k = 3 then lt || eq else if k = 4 then gt
  else if k = 5 then gt || eq else decide (k = 7)

theorem fcmpPred_ordered {a b : FVal} {k : Nat} (hk : k < 8) (ha : a.isNaN = false) (hb : b.isNaN = false) :
    fcmpPred k a b = (orderPred (ltF a b) (eqF a b) (ltF b a) k, 0) := by
  simp only [fcmpPred, ha, hb]
  interval_cases k <;> rfl

theorem fcmpPred_nan {a b : FVal} (k : Nat) (h : a.isNaN = true ∨ b.isNaN = true) :
    fcmpPred k a b = (decide (k = 1 ∨ k = 6), if 2 ≤ k ∧ k ≤ 5 then flNV else snanFlag [a, b]) := by
  have hn : (a.isNaN || b.isNaN) = true := by simpa using h
  simp only [fcmpPred, hn, if_true, snanFlag, flIf]
  by_cases hk : 2 ≤ k ∧ k ≤ 5 <;> simp [hk, Bool.decide_or]
  all_goals rfl

/-- Settles O29: the neighbours of a magnitude are multiples of its step, and the operations by the kind of value. -/
theorem floatExact : Obligations.FloatExact := by
  refine ⟨fun f hf rm m x => ⟨exists_gridValue f, roundF_zero f rm m, fun k hk => decodeF_signBits_add hf m hk, ?_⟩,
    ⟨rfl, rfl, rfl, rfl, rfl, rfl, rfl, fun _ _ => rfl⟩, fun f rm m n k x y z hx hy hz => ⟨?_, rfl, ?_, ?_⟩,
    fun f rm a b c => ⟨nan_operand f rm a b c, ?_⟩, fun f rm a b n y c hc hy => ?_, by decide, ?_, ?_, fun a b k h _ => ?_⟩
  · rintro k j hx hlo hhi hj
    have hne : gridValue f j = x ↔ x = gridValue f k := hj ▸ gridValue_selects_eq_iff f rm m hhi
    rw [roundF_grid (fb_pos_of_format hf) rm m hx hlo hhi hj, ← overflowBits_eq hf]
    refine ⟨fun hle => ?_, fun hlt => if_pos hlt⟩
    rw [if_neg (Nat.not_lt.mpr hle)]
    congr 1
    by_cases h : x = gridValue f k
    · rw [decide_eq_false (not_not.mpr h), if_pos (hne.mpr h), if_neg (not_and.mpr fun c => absurd (hne.mpr h) c)]
      rfl
    · rw [decide_eq_true h, if_neg (mt hne.mp h)]
      simp [mt hne.mp h, flIf]
  · exact addF_fin f rm m n hx hy
  · exact mulF_fin f rm m n hx hy
  · exact fmaF_fin f rm m n k hx hy hz
  · rintro m q p ha hb rfl
    exact fmaF_nan f rm m q p ha hb
  · obtain ⟨hmul, hmul'⟩ := mulF_inf_fin f rm a n y
    obtain ⟨hfma, hfma'⟩ := fmaF_zero_inf f rm a n hc
    refine ⟨rfl, ?_, rfl, rfl, rfl, rfl, rfl, hmul, hmul', hfma, hfma', fun u v hu hv hi hu0 hv0 => fmaF_infinite f rm hu hv hc hi hu0 hv0,
      fun m x => by simp [fmaF, firstNaN, FVal.isInf]⟩
    cases a <;> cases b <;> rfl
  · rintro f mx x y _ _ rfl rfl
    refine ⟨fun ha hb => ?_, fun ha hb => ⟨?_, minmaxFlag_left hb⟩, fun ha hb => ⟨?_, minmaxFlag_right ha⟩, fun ha hb => ?_⟩
    · rw [minmaxF, minmaxFlag, ha, hb]
      refine ⟨rfl, ?_⟩
      rw [snanFlag]
      cases List.any [decodeF f x, decodeF f y] FVal.isSNaN <;> rfl
    · rw [minmaxF, ha, hb]
      rfl
    · rw [minmaxF, ha, hb]
      rfl
    · obtain ⟨hor, hmax, hmin⟩ := minmaxF_extreme f mx ha hb
      refine ⟨?_, hor, ?_⟩
      · rw [minmaxFlag_left hb]
        simp [snanFlag, isSNaN_eq_false ha, flIf]
      · rintro _ rfl
        exact ⟨hmax, hmin⟩
  · intro P hP k m n a b x y hk _ _
    have hP' : P = orderPred := by
      funext lt eq gt k
      exact hP lt eq gt k
    subst hP'
    exact ⟨fcmpPred_ordered hk rfl rfl, fcmpPred_ordered hk rfl rfl, fcmpPred_ordered hk rfl rfl, fcmpPred_ordered hk rfl rfl⟩
  · rw [fcmpPred_nan k h]
    exact ⟨rfl, rfl⟩

end Sys2Proof.Proofs
end

section
/-! PROOF. FCVT (R127 to R129, R357): the element that PART names, its conversion by the kind of value (Tables 4-7 and 4-8), and the bits
of vD that it replaces. -/

namespace Sys2Proof.Proofs

open Sys2Proof.Machine Sys2Proof.Safety Sys2Proof.Laws

/-! Fields of words. -/

/-- The bits of a word of which one field is replaced. -/
theorem testBit_replaced (old y p w k : Nat) :
    (old % 2 ^ p + y % 2 ^ w * 2 ^ p + old / 2 ^ (p + w) * 2 ^ (p + w)).testBit k =
      if p ≤ k ∧ k < p + w then y.testBit (k - p) else old.testBit k := by
  have hlow : old % 2 ^ p < 2 ^ p := Nat.mod_lt _ (Nat.two_pow_pos p)
  have hy : y % 2 ^ w < 2 ^ w := Nat.mod_lt _ (Nat.two_pow_pos w)
  rw [show old % 2 ^ p + y % 2 ^ w * 2 ^ p + old / 2 ^ (p + w) * 2 ^ (p + w) =
      2 ^ p * (2 ^ w * (old / 2 ^ (p + w)) + y % 2 ^ w) + old % 2 ^ p by ring, Nat.testBit_two_pow_mul_add _ hlow,
    Nat.testBit_two_pow_mul_add _ hy]
  by_cases h1 : k < p
  · rw [if_pos h1, if_neg (by omega), Nat.testBit_mod_two_pow, decide_eq_true h1, Bool.true_and]
  by_cases h2 : k < p + w
  · rw [if_neg h1, if_pos (by omega), if_pos (by omega), Nat.testBit_mod_two_pow, decide_eq_true (by omega), Bool.true_and]
  · rw [if_neg h1, if_neg (by omega), if_neg (by omega), Nat.testBit_div_two_pow]
    congr 1
    omega

theorem toNat_pair64 (lo hi : W32) : (pair64 lo hi).toNat = lo.toNat + hi.toNat * 2 ^ 32 := by
  rw [pair64, BitVec.toNat_append, ← Nat.shiftLeft_add_eq_or_of_lt lo.isLt, Nat.shiftLeft_eq, Nat.add_comm]

/-! The formats of FCVT (Table 3-7). -/

theorem cvtFmt_float {c : Nat} (h2 : 2 ≤ c) (h8 : c ≤ 8) : cvtFmt c =
    some (if c = 2 then f64 else if c = 3 then f32 else if c = 4 then f16 else if c = 5 then bf16 else if c = 6 then e4m3
      else if c = 7 then e5m2 else e2m1) := by
  interval_cases c <;> rfl

theorem cvtFmt_integer {c : Nat} (h : c < 2) : cvtFmt c = none := by
  interval_cases c <;> rfl

theorem cvtCount_eq {c : Nat} (h : c ≤ 8) : cvtCount c = if c = 4 ∨ c = 5 then 2 else if c = 6 ∨ c = 7 then 4 else if c = 8 then 8 else 1 := by
  interval_cases c <;> rfl

theorem cvtWidth_eq {c : Nat} (h : c ≤ 8) (h2 : c ≠ 2) : cvtWidth c = 32 / cvtCount c := by
  revert h2
  interval_cases c <;> decide

/-! One element (R128, R129). -/

theorem convertElem_toFmt {src dst : Nat} {f d : Fmt} (hs : cvtFmt src = some f) (hd : cvtFmt dst = some d) (rm : Rm) (x : Nat) :
    convertElem src dst rm x = toFmt d rm (decodeF f x) := by
  simp only [convertElem, hs, hd]

theorem convertElem_ofInt {src dst : Nat} {d : Fmt} (hs : cvtFmt src = none) (hd : cvtFmt dst = some d) (rm : Rm) (x : Nat) :
    convertElem src dst rm x = toFmt d rm (.fin (decide ((if src = 0 then sextNat 32 x else ((x % 2 ^ 32 : Nat) : Int)) < 0))
      (((if src = 0 then sextNat 32 x else ((x % 2 ^ 32 : Nat) : Int)).natAbs : Nat) : Rat)) := by
  simp only [convertElem, hs, hd]

theorem convertElem_toInt {src dst : Nat} {f : Fmt} (hs : cvtFmt src = some f) (hd : cvtFmt dst = none) (rm : Rm) (x : Nat) :
    convertElem src dst rm x = toInt32 (dst == 0) rm (decodeF f x) := by
  simp only [convertElem, hs, hd]

/-- A finite value is rounded once, whatever the format. -/
theorem toFmt_fin (d : Fmt) (rm : Rm) (m : Bool) (a : Rat) : toFmt d rm (.fin m a) = roundF d rm m a := by
  unfold toFmt
  cases d.kind <;> rfl

/-- An integer source read as signed or unsigned (R127). -/
theorem integerSource_eq (src : Nat) {x : Nat} (hx : x < 2 ^ 32) :
    (if src = 0 then sextNat 32 x else ((x % 2 ^ 32 : Nat) : Int)) =
      if src = 0 ∧ 2 ^ 31 ≤ x then (x : Int) - (2 : Int) ^ 32 else (x : Int) := by
  have h31 : (2 : Nat) ^ (32 - 1) = 2 ^ 31 := rfl
  rw [sextNat, Nat.mod_eq_of_lt hx, h31]
  split_ifs <;> omega

/-- A nonnegative magnitude under a sign rounds to the integer that the mode selects, with that sign (R129). -/
theorem roundInt_signed (rm : Rm) (m : Bool) {a : Rat} {k : Nat} (hlo : (k : Rat) ≤ a) (hhi : a < k + 1) : roundInt rm (if m then -a else a) =
    (if m then -((selects rm m k k a (k + 1) : Nat) : Int) else ((selects rm m k k a (k + 1) : Nat) : Int), decide (a ≠ (k : Rat))) := by
  rcases (hlo.trans' (Nat.cast_nonneg k)).eq_or_lt with h0 | h0
  · subst h0
    obtain rfl : k = 0 := by exact_mod_cast hlo.antisymm (Nat.cast_nonneg k)
    have h : roundInt rm 0 = (0, false) := by cases rm <;> rfl
    simp [h, selects]
  · have hq : a.num.natAbs / a.den = k := by
      rw [← natAbs_num_div_den h0.le] at hlo hhi
      rw [le_div_iff₀ (Nat.cast_pos.mpr a.pos)] at hlo
      rw [div_lt_iff₀ (Nat.cast_pos.mpr a.pos)] at hhi
      refine Nat.div_eq_of_lt_le ?_ ?_
      · exact_mod_cast hlo
      · exact_mod_cast hhi
    have hr := roundQuot_eq rm m a.num.natAbs a.pos
    rw [natAbs_num_div_den h0.le, hq] at hr
    have hneg : decide ((if m then -a else a) < 0) = m := by cases m <;> simp [h0, h0.le]
    have hnum : (if m then -a else a).num.natAbs = a.num.natAbs := by cases m <;> simp
    have hden : (if m then -a else a).den = a.den := by cases m <;> simp
    rw [roundInt, hneg, hnum, hden, hr]

theorem nanBits_true (f : Fmt) (p : Nat) : nanBits f true p = nanBits f false p + 2 ^ (f.width - 1) := by
  rw [show f.width - 1 = f.eb + f.fb by rw [Fmt.width]; omega]
  simp only [nanBits, signBits, if_true, Bool.false_eq_true, if_false]
  omega

/-- A finite value between two integers becomes the one that the mode selects, within the range (Table 4-8). -/
theorem toInt32_fin {rm : Rm} {m : Bool} {a : Rat} {k : Nat} (hlo : (k : Rat) ≤ a) (hhi : a < k + 1) (signed : Bool) {v lo hi : Int}
    (hv : v = if m then -((selects rm m k k a (k + 1) : Nat) : Int) else ((selects rm m k k a (k + 1) : Nat) : Int))
    (hl : lo = if signed then -2 ^ 31 else 0) (hh : hi = if signed then 2 ^ 31 - 1 else 2 ^ 32 - 1) :
    toInt32 signed rm (.fin m a) = if hi < v then ⟨(hi % 2 ^ 32).toNat, flNV⟩ else if v < lo then ⟨(lo % 2 ^ 32).toNat, flNV⟩
      else ⟨(v % 2 ^ 32).toNat, if a = (k : Rat) then 0 else flNX⟩ := by
  have hr := roundInt_signed rm m hlo hhi
  rw [← hv] at hr
  have hfl : flIf (decide (a ≠ (k : Rat))) flNX = if a = (k : Rat) then 0 else flNX := by
    by_cases h : a = k <;> simp [flIf, h]
  simp only [toInt32, toRat_fin, hr, hfl, hl, hh]
  cases signed <;> rfl

/-- A lane of FCVT to a narrow format: vD with the element that PART names replaced, and the flags (R127). -/
def replacedLane (s : State) (o : Opnd) (src dst part i : Nat) : List Nat × Fl :=
  let r := convertElem src dst (gmRM s.g.gmode) (cvtSource s o src dst part i)
  let w := cvtWidth dst
  let old := (laneOf (keptV s o.d.toNat) i).toNat
  ([old % 2 ^ (part * w) + r.bits % 2 ^ w * 2 ^ (part * w) + old / 2 ^ (part * w + w) * 2 ^ (part * w + w)], r.fl)

theorem testBit_replacedLane (s : State) (o : Opnd) (src dst part i k : Nat) : ((replacedLane s o src dst part i).1.getD 0 0).testBit k =
    if part * cvtWidth dst ≤ k ∧ k < (part + 1) * cvtWidth dst then
      (convertElem src dst (gmRM s.g.gmode) (cvtSource s o src dst part i)).bits.testBit (k - part * cvtWidth dst)
    else (laneOf (keptV s o.d.toNat) i).getLsbD k := by
  rw [Nat.succ_mul]
  exact testBit_replaced _ _ _ _ _

/-- Settles O31: the element that PART names, its conversion by the kind of value, and the bits of vD that it replaces. -/
theorem floatConvert : Obligations.FloatConvert := by
  refine ⟨?_, ?_, ?_, ?_⟩
  · rintro o s src dst part i _ _ count hc hs hd rfl rfl
    have hcount : ∀ c, c ≤ 8 → cvtCount c = count c := fun c h => (cvtCount_eq h).trans (hc c).symm
    refine ⟨fun h => ?_, fun h => ?_⟩
    · rw [cvtSource, if_pos h, toNat_pair64]
    · rw [cvtSource, if_neg h, cvtWidth_eq hs h, hcount src hs, hcount dst hd, bitsOf, Nat.shiftRight_eq_div_pow]
  · rintro src dst x rm f d fmt hfmt hs hd2 hd8 rfl rfl
    rw [hfmt src, hfmt dst]
    have hdst := cvtFmt_float hd2 hd8
    refine ⟨fun m a h2 h => ?_, fun v h2 hx hv => ?_, fun m q p h2 h => ?_, fun m h2 h => ?_, ?_, rfl, rfl⟩
    · rw [convertElem_toFmt (cvtFmt_float h2 hs) hdst, h, toFmt_fin]
    · rw [convertElem_ofInt (cvtFmt_integer h2) hdst, integerSource_eq src hx, ← hv, toFmt_fin]
    · rw [convertElem_toFmt (cvtFmt_float h2 hs) hdst, h]
      interval_cases dst <;> cases m <;> cases q <;> rfl
    · rw [convertElem_toFmt (cvtFmt_float h2 hs) hdst, h]
      interval_cases dst <;> cases m <;> rfl
    · exact nanBits_true _ 3
  · rintro src dst x rm f fmt lo hi hfmt h2 h8 hd rfl rfl rfl
    rw [hfmt src]
    have he := convertElem_toInt (cvtFmt_float h2 h8) (cvtFmt_integer (Nat.lt_succ_of_le hd)) rm x
    refine ⟨fun m q p h => ?_, fun m h => ?_, fun m a k v h hlo hhi hv => ?_⟩
    · rw [he, h]
      rfl
    · rw [he, h]
      interval_cases dst <;> cases m <;> rfl
    · rw [he, h]
      refine toInt32_fin hlo hhi (dst == 0) hv ?_ ?_
      · simp
      · simp
  · rintro o s src dst part hr rfl hsrc hpart
    have hs : ((parOf o).val.extractLsb' 0 4).toNat = src := by
      rw [hsrc, BitVec.extractLsb'_toNat, Nat.shiftRight_zero]
    have hp : ((parOf o).val.extractLsb' 4 3).toNat = part := by
      rw [hpart, BitVec.extractLsb'_toNat, Nat.shiftRight_eq_div_pow]
    have hlive := fun l et r => (postLanes_live l et o.d.toNat r s.g).trans (ready_live hr)
    refine ⟨fun hc => completes_of_body rfl hr ?_ (hlive _ _ _) rfl, fun hc => ⟨replacedLane s o src (parOf o).sel.toNat part,
      completes_of_body rfl hr ?_ (hlive _ _ _) rfl, fun i => ⟨rfl, rfl, fun k _ => ?_⟩⟩⟩
    · simp only [hs, hp, if_neg (Nat.not_lt.mpr hc)]
    · have h2 : (parOf o).sel.toNat ≠ 2 := fun h => by simp [h, cvtCount] at hc
      simp only [hs, hp, if_pos hc, h2, or_false, if_false]
      rfl
    · exact testBit_replacedLane s o src _ part i k

end Sys2Proof.Proofs
end

section
/-! PROOF. Folds over lanes with their flags (R427): the combinations of VRED and VSCAN, exact sums, and what VRED writes. -/

namespace Sys2Proof.Proofs

open Sys2Proof.Machine Sys2Proof.Safety Sys2Proof.Laws

/-! Folds with flags. -/

/-- One more lane value is combined, and the flags of that step join. -/
def foldStep (c : W32 → W32 → W32 × Fl) (z : W32 × Fl) (y : W32) : W32 × Fl := ((c z.1 y).1, z.2 ||| (c z.1 y).2)

/-- The left fold over lane values; over none, the identity without flags. -/
def foldLanes (ident : W32) (c : W32 → W32 → W32 × Fl) : List W32 → W32 × Fl
  | [] => (ident, 0)
  | x :: r => r.foldl (foldStep c) (x, 0)

theorem zero_or_fl (f : Fl) : 0 ||| f = f := BitVec.zero_or
theorem or_zero_fl (f : Fl) : f ||| 0 = f := BitVec.or_zero

theorem flAll_cons (f : Fl) (l : List Fl) : flAll (f :: l) = f ||| flAll l := by
  have h : ∀ (l : List Fl) (a b : Fl), l.foldl (fun x y => x ||| y) (a ||| b) = a ||| l.foldl (fun x y => x ||| y) b := by
    intro l
    induction l with
    | nil => intro a b; rfl
    | cons g r ih =>
      intro a b
      rw [List.foldl_cons, List.foldl_cons, BitVec.or_assoc, ih]
  have h0 := h l f 0
  simp only [flAll, List.foldl_cons, ← h0, or_zero_fl, zero_or_fl]

/-- Flags that are there before a fold are there after it, and change no value. -/
theorem foldl_foldStep (c : W32 → W32 → W32 × Fl) (l : List W32) (a : W32) (f : Fl) :
    l.foldl (foldStep c) (a, f) = ((l.foldl (foldStep c) (a, 0)).1, f ||| (l.foldl (foldStep c) (a, 0)).2) := by
  induction l generalizing a f with
  | nil => simp
  | cons y r ih =>
    rw [List.foldl_cons, List.foldl_cons, foldStep, ih, foldStep, ih _ (0 ||| _), zero_or_fl, BitVec.or_assoc]

/-! The combinations (R427). -/

theorem slt_eq (a b : W32) : a.slt b = decide (a.toInt < b.toInt) := rfl
theorem ult_eq (a b : W32) : a.ult b = decide (a.toNat < b.toNat) := rfl

/-- The combinations of the statements are those of the model. -/
theorem combine_eq {et op : Nat} {rm : Rm} {step : W32 → W32 → W32 × Fl}
    (h : ∀ a b, step a b =
      (if op = 0 then (if et = 4 then (BitVec.ofNat 32 (addF f32 rm (decodeF f32 a.toNat) (decodeF f32 b.toNat)).bits,
          (addF f32 rm (decodeF f32 a.toNat) (decodeF f32 b.toNat)).fl) else (a + b, 0))
       else if op = 1 ∨ op = 2 then
        (if et = 4 then (BitVec.ofNat 32 (minmaxF f32 (op == 2) a.toNat b.toNat), minmaxFlag (decodeF f32 a.toNat) (decodeF f32 b.toNat))
         else if et = 0 then ((if op = 1 then (if b.toInt < a.toInt then b else a) else (if a.toInt < b.toInt then b else a)), 0)
         else ((if op = 1 then (if b.toNat < a.toNat then b else a) else (if a.toNat < b.toNat then b else a)), 0))
       else if op = 3 then (a &&& b, 0) else if op = 4 then (a ||| b, 0) else (a ^^^ b, 0))) : step = combine et rm op := by
  funext a b
  rw [h]
  match op with
  | 0 => rfl
  | 1 => simp [combine, slt_eq, ult_eq, v32]
  | 2 => simp [combine, slt_eq, ult_eq, v32]
  | 3 => rfl
  | 4 => rfl
  | n + 5 => simp [combine]

/-- The identities of the statements are those of the model. -/
theorem scanIdentity_eq (et op : Nat) : scanIdentity et op =
    if op = 0 then (if et = 4 then 0x8000_0000 else 0)
    else if op = 1 then (if et = 4 then 0x7F80_0000 else if et = 0 then 0x7FFF_FFFF else 0xFFFF_FFFF)
    else if op = 2 then (if et = 4 then 0xFF80_0000 else if et = 0 then 0x8000_0000 else 0)
    else if op = 3 then 0xFFFF_FFFF else 0 := by
  match op with
  | 0 | 1 | 2 | 3 => rfl
  | n + 4 => simp [scanIdentity]

theorem reduce_eq (et : Nat) (rm : Rm) (op : Nat) (ident : W32) {xs : List W32} (h : xs ≠ []) :
    reduce et rm op xs = foldLanes ident (combine et rm op) xs := by
  cases xs with
  | nil => exact absurd rfl h
  | cons x r => rfl

/-! Exact sums. -/

theorem foldl_signExtend (l : List W32) (a : W64) :
    l.foldl (fun a x => a + extendLane 0 x) a = a + BitVec.ofInt 64 (l.map (fun x => x.toInt)).sum := by
  induction l generalizing a with
  | nil => simp
  | cons x r ih =>
    have hx : extendLane 0 x = BitVec.ofInt 64 x.toInt := rfl
    rw [List.foldl_cons, ih, hx, List.map_cons, List.sum_cons, BitVec.ofInt_add, add_assoc]

theorem foldl_zeroExtend (l : List W32) (a : W64) :
    l.foldl (fun a x => a + extendLane 1 x) a = a + BitVec.ofNat 64 (l.map (fun x => x.toNat)).sum := by
  induction l generalizing a with
  | nil => simp
  | cons x r ih =>
    have hx : extendLane 1 x = BitVec.ofNat 64 x.toNat := (BitVec.ofNat_toNat 64 x).symm
    rw [List.foldl_cons, ih, hx, List.map_cons, List.sum_cons, BitVec.ofNat_add, add_assoc]

/-- What VRED writes (R427), for the operations and the element types that the instruction takes. -/
theorem vredValue_eq {et op : Nat} (het : et = 0 ∨ et = 1 ∨ et = 4) (rm : Rm) (ident : W32) (xs : List W32) :
    vredValue et rm op xs = if xs = [] then (0, 0)
      else if op = 0 ∧ et = 0 then (BitVec.ofInt 64 (xs.map (fun x => x.toInt)).sum, 0)
      else if op = 0 ∧ et = 1 then (BitVec.ofNat 64 (xs.map (fun x => x.toNat)).sum, 0)
      else ((if (op = 1 ∨ op = 2) ∧ et = 0 then (foldLanes ident (combine et rm op) xs).1.signExtend 64
          else (foldLanes ident (combine et rm op) xs).1.setWidth 64), (foldLanes ident (combine et rm op) xs).2) := by
  by_cases hx : xs = []
  · subst hx
    simp [vredValue]
  · rw [if_neg hx, vredValue, List.isEmpty_eq_false_iff.mpr hx, reduce_eq et rm op ident hx]
    by_cases h0 : op = 0
    · rcases het with rfl | rfl | rfl
      · rw [if_pos ⟨h0, by decide⟩, if_pos ⟨h0, rfl⟩, foldl_signExtend, zero_add]
      · rw [if_pos ⟨h0, by decide⟩, if_neg (by simp), if_pos ⟨h0, rfl⟩, foldl_zeroExtend, zero_add]
      · simp [h0]
    · simp only [h0, false_and, if_false, Bool.false_eq_true]
      by_cases h12 : op = 1 ∨ op = 2
      · simp [h12, extendLane]
      · simp [h12]

end Sys2Proof.Proofs
end

section
/-! PROOF. VSCAN (R427): a running value is the fold over the lanes up to it, and the obligation on both reductions. -/

namespace Sys2Proof.Proofs

open Sys2Proof.Machine Sys2Proof.Safety Sys2Proof.Laws

/-! Running folds. -/

/-- The fold over lane values that goes on from what the lanes below gave, if there are any. -/
def foldFrom (ident : W32) (c : W32 → W32 → W32 × Fl) : Option W32 → List W32 → W32 × Fl
  | none, l => foldLanes ident c l
  | some a, l => l.foldl (foldStep c) (a, 0)

/-- The value that joins one more lane, with the flags of the step. -/
def joinLane (c : W32 → W32 → W32 × Fl) : Option W32 → W32 → W32 × Fl
  | none, x => (x, 0)
  | some a, x => c a x

theorem foldFrom_cons (ident : W32) (c : W32 → W32 → W32 × Fl) (acc : Option W32) (x : W32) (l : List W32) :
    foldFrom ident c acc (x :: l) = ((foldFrom ident c (some (joinLane c acc x).1) l).1,
      (joinLane c acc x).2 ||| (foldFrom ident c (some (joinLane c acc x).1) l).2) := by
  cases acc with
  | none => simp [foldFrom, foldLanes, joinLane]
  | some a =>
    simp only [foldFrom, joinLane, List.foldl_cons, foldStep, zero_or_fl]
    exact foldl_foldStep c l _ _

theorem foldFrom_nil (ident : W32) (c : W32 → W32 → W32 × Fl) (acc : Option W32) : foldFrom ident c acc [] = (acc.getD ident, 0) := by
  cases acc <;> rfl

section Scan

variable (et : Nat) (rm : Rm) (op : Nat) (ex : Bool)

theorem scanFrom_cons (acc : Option W32) (i : Nat) (x : W32) (r : List (Nat × W32)) : scanFrom et rm op ex acc ((i, x) :: r) =
    (i, if ex then acc.getD (scanIdentity et op) else (joinLane (combine et rm op) acc x).1,
      if ex && r.isEmpty then 0 else (joinLane (combine et rm op) acc x).2) ::
      scanFrom et rm op ex (some (joinLane (combine et rm op) acc x).1) r := by
  cases acc <;> rfl

/-- The running value of a lane is the fold over the lanes up to it, or over those below it. -/
theorem scanFrom_find {pre post : List (Nat × W32)} {i : Nat} {x : W32} (acc : Option W32) (hi : ∀ e ∈ pre, e.1 ≠ i) :
    ((scanFrom et rm op ex acc (pre ++ (i, x) :: post)).find? (fun r => r.1 == i)).map (fun r => r.2.1) =
      some (foldFrom (scanIdentity et op) (combine et rm op) acc ((if ex then pre else pre ++ [(i, x)]).map (·.2))).1 := by
  induction pre generalizing acc with
  | nil =>
    rw [List.nil_append, scanFrom_cons, List.find?_cons_of_pos (by simp)]
    cases ex
    · simp [foldFrom_cons, foldFrom_nil]
    · simp [foldFrom_nil]
  | cons e r ih =>
    obtain ⟨j, y⟩ := e
    rw [List.cons_append, scanFrom_cons, List.find?_cons_of_neg (by simpa using hi (j, y) List.mem_cons_self),
      ih _ (fun e he => hi e (List.mem_cons_of_mem _ he))]
    cases ex <;> simp [foldFrom_cons]

/-- The flags of a scan are those of the steps that its results need. -/
theorem scanFrom_flags (acc : Option W32) (l : List (Nat × W32)) : flAll ((scanFrom et rm op ex acc l).map (fun r => r.2.2)) =
    (foldFrom (scanIdentity et op) (combine et rm op) acc (if ex then (l.map (·.2)).dropLast else l.map (·.2))).2 := by
  induction l generalizing acc with
  | nil => cases acc <;> cases ex <;> rfl
  | cons e r ih =>
    obtain ⟨i, x⟩ := e
    rw [scanFrom_cons, List.map_cons, flAll_cons, ih]
    cases ex with
    | false => simp [foldFrom_cons]
    | true =>
      cases r with
      | nil => simp [foldFrom_nil]
      | cons e' r' => simp [foldFrom_cons]

end Scan

/-! Lanes in order. -/

/-- The active lanes up to one of them, and those below it. -/
theorem activeLanes_split {m : W64} {i : Nat} (h : i ∈ activeLanes m) : ∃ pre post, activeLanes m = pre ++ i :: post ∧ (∀ j ∈ pre, j ≠ i) ∧
    (activeLanes m).filter (fun j => decide (j < i)) = pre ∧ (activeLanes m).filter (fun j => decide (j ≤ i)) = pre ++ [i] := by
  obtain ⟨pre, post, hs⟩ := List.mem_iff_append.mp h
  have hp : (activeLanes m).Pairwise (· < ·) := List.pairwise_lt_range.filter _
  rw [hs, List.pairwise_append, List.pairwise_cons] at hp
  obtain ⟨-, ⟨hpost, -⟩, hpre⟩ := hp
  have hlt : ∀ j ∈ pre, j < i := fun j hj => hpre j hj i List.mem_cons_self
  have h1 : pre.filter (fun j => decide (j < i)) = pre := List.filter_eq_self.mpr (by simpa using hlt)
  have h2 : pre.filter (fun j => decide (j ≤ i)) = pre := List.filter_eq_self.mpr (by simpa using fun j hj => (hlt j hj).le)
  have h3 : post.filter (fun j => decide (j < i)) = [] := List.filter_eq_nil_iff.mpr (by simpa using fun j hj => (hpost j hj).le)
  have h4 : post.filter (fun j => decide (j ≤ i)) = [] := List.filter_eq_nil_iff.mpr (by simpa using hpost)
  refine ⟨pre, post, hs, fun j hj => (hlt j hj).ne, ?_, ?_⟩
  · rw [hs, List.filter_append, h1, List.filter_cons_of_neg (by simp), h3, List.append_nil]
  · rw [hs, List.filter_append, h2, List.filter_cons_of_pos (by simp), h4]

theorem masked_congr {m : W64} {f g : Nat → W32} (h : ∀ i ∈ activeLanes m, f i = g i) : masked m f = masked m g := by
  refine List.map_congr_left (fun i hi => ?_)
  by_cases hm : m.getLsbD i = true
  · rw [if_pos hm, if_pos hm, h i (List.mem_filter.mpr ⟨hi, hm⟩)]
  · rw [if_neg hm, if_neg hm]

/-- What VSCAN writes to its lanes (R427). -/
theorem scan_lanes (et : Nat) (rm : Rm) (op : Nat) (ex : Bool) (m : W64) (v : Nat → W32) :
    masked m (fun i => (((scanFrom et rm op ex none ((activeLanes m).map (fun i => (i, v i)))).find? (fun r => r.1 == i)).map
      (fun r => r.2.1)).getD 0) =
    masked m (fun i => (foldLanes (scanIdentity et op) (combine et rm op) (((activeLanes m).filter (fun j =>
      if ex then decide (j < i) else decide (j ≤ i))).map v)).1) := by
  refine masked_congr (fun i hi => ?_)
  obtain ⟨pre, post, hs, hne, hlt, hle⟩ := activeLanes_split hi
  have hfind := scanFrom_find et rm op ex (pre := pre.map (fun i => (i, v i))) (post := post.map (fun i => (i, v i))) (x := v i) none
    (fun e he => by obtain ⟨j, hj, rfl⟩ := List.mem_map.mp he; exact hne j hj)
  have hl : (activeLanes m).map (fun i => (i, v i)) = pre.map (fun i => (i, v i)) ++ (i, v i) :: post.map (fun i => (i, v i)) := by
    rw [hs, List.map_append, List.map_cons]
  rw [hl, hfind]
  cases ex
  · simp [foldFrom, hle, Function.comp_def]
  · simp [foldFrom, hlt, Function.comp_def]

/-! The instructions. -/

/-- The element types of VRED and VSCAN (R427). -/
theorem reduction_type {s : State} {i : Instr} {o : Opnd} (hi : i = .vred o ∨ i = .vscan o) (hr : ready i s = true) :
    etOf s = 0 ∨ etOf s = 1 ∨ etOf s = 4 := by
  have hb := bad05_of_legal (ready_legal hr)
  rcases hi with rfl | rfl
  all_goals
    simp only [bad05, Bool.or_eq_false_iff, Bool.not_eq_false', decide_eq_true_eq] at hb
    exact hb.2

theorem ok05_of_legal {s : State} {i : Instr} (h : illegalSub s i = none) : ok05 i = true := by
  unfold illegalSub at h
  split_ifs at h with h05
  simp_all

theorem fieldB_of_ok05 {i : Instr} (h : ok05 i = true) : clsOk05 (bClass i) (opnd i).b = true := by
  simp only [ok05, Bool.and_eq_true] at h
  obtain ⟨⟨⟨⟨-, hb⟩, -⟩, -⟩, -⟩ := h
  exact hb

/-- A word whose form has no broadcast does not name one (R84). -/
theorem bsc_of_ok05 {i : Instr} {k : K01} (h : ok05 i = true) (hx : (opnd i).x = .bro k) (hf : (form i).bsc = false) : k.bsc = false := by
  simp only [ok05, hx, broOk, hf, Bool.and_eq_true] at h
  obtain ⟨-, ⟨⟨⟨-, hb⟩, -⟩, -⟩, -⟩ := h
  simpa using hb

/-- The operations of VRED (R427), whatever its extension word. -/
theorem vred_operation {s : State} {o : Opnd} (hr : ready (.vred o) s = true) : o.b.toNat ≤ 5 := by
  have h := ok05_of_legal (ready_legal hr)
  have hc : bClass (.vred o) = .x 5 := by
    cases hx : o.x with
    | bro k => simp [bClass, opnd, hx, bsc_of_ok05 h hx rfl, form, opForm, opcode]
    | none | imm | par => simp [bClass, opnd, hx, immReplacesB, form, opForm, opcode]
  have hb := fieldB_of_ok05 h
  rw [hc] at hb
  exact of_decide_eq_true hb

/-- Settles O33: VRED's value by its operation and type, and VSCAN's lanes and flags as folds over the lanes in order. -/
theorem reductions : Obligations.Reductions := by
  rintro o s xs op ident step fold rfl rfl hstep rfl hnil hcons
  have hfold : ∀ l, fold l = foldLanes (scanIdentity (etOf s) (o.b.toNat % 16)) (combine (etOf s) (gmRM s.g.gmode) (o.b.toNat % 16)) l := by
    rw [← combine_eq hstep, scanIdentity_eq]
    rintro (_ | ⟨x, l⟩)
    · exact hnil
    · exact hcons x l
  simp only [hfold]
  have hlive := fun (e : Effect) => (put_live e s.g)
  refine ⟨?_, ?_⟩
  · rintro hr r hv
    have h16 : o.b.toNat % 16 = o.b.toNat := Nat.mod_eq_of_lt (Nat.lt_of_le_of_lt (vred_operation hr) (by decide))
    rw [h16, ← vredValue_eq (reduction_type (.inl rfl) hr)] at hv
    rw [hv]
    exact completes_of_body rfl hr rfl ((put_live _ _).trans (ready_live hr)) rfl
  · rintro hr ex fl hex hfl
    have hx : ex = (o.b.toNat / 16 % 2 == 1) := by
      rw [hex, BitVec.getLsbD, Nat.testBit_eq_decide_div_mod_eq]
      rfl
    rw [hfl, hx, ← scan_lanes]
    refine completes_of_body rfl hr ?_ ((put_live _ _).trans (ready_live hr)) rfl
    dsimp only
    rw [scanFrom_flags, List.map_map]
    rfl

end Sys2Proof.Proofs
end

section
/-! PROOF. The operations of Table 11-3 (R130, R340): minimum and maximum by the order of the values, and the operations on integers and
bits. -/

namespace Sys2Proof.Proofs

open Sys2Proof.Machine Sys2Proof.Safety Sys2Proof.Laws

/-! Values in order (R130). -/

/-- Magnitudes are never negative. -/
theorem decodeF_nonneg {f : Fmt} {x : Nat} {m : Bool} {a : Rat} (h : decodeF f x = .fin m a) : 0 ≤ a := by
  have hp : ∀ (k : Nat) (e : Int), 0 ≤ (k : Rat) * pow2 e := fun k e => mul_nonneg (Nat.cast_nonneg k) (pow2_pos e).le
  unfold decodeF at h
  dsimp only at h
  split at h <;> split_ifs at h
  all_goals
    obtain ⟨-, rfl⟩ := FVal.fin.inj h
    exact hp _ _

/-- A value is not above another: the statement of Table 11-3, with minus zero below plus zero. -/
def NotAbove (lower upper : FVal) : Prop :=
  (∃ m n a b, lower = .fin m a ∧ upper = .fin n b ∧
      ((if m then -a else a) < (if n then -b else b) ∨ ((if m then -a else a) = (if n then -b else b) ∧ (m = true ∨ n = false)))) ∨
    (lower = .inf true ∧ upper.isNaN = false) ∨ (upper = .inf false ∧ lower.isNaN = false)

/-- Of two values of a format in order, the upper one is never below, and the lower one is below unless they are one value. -/
theorem NotAbove.order {f : Fmt} {x y : Nat} {lower upper : FVal} (h : NotAbove lower upper) (hx : lower = decodeF f x)
    (hy : upper = decodeF f y) : ltTotal upper lower = false ∧ (ltTotal lower upper = true ∨ lower = upper) := by
  rcases h with ⟨m, n, a, b, rfl, rfl, h⟩ | ⟨rfl, hn⟩ | ⟨rfl, hn⟩
  · have ha := decodeF_nonneg hx.symm
    have hb := decodeF_nonneg hy.symm
    cases m <;> cases n <;> simp only [ltTotal, FVal.toRat, FVal.isZero, FVal.neg] at h ⊢ <;> grind
  · cases upper with
    | nan => exact absurd hn (by simp)
    | inf b => cases b <;> decide
    | fin n b => exact ⟨rfl, .inl rfl⟩
  · cases lower with
    | nan => exact absurd hn (by simp)
    | inf b => cases b <;> decide
    | fin n b => exact ⟨rfl, .inl rfl⟩

/-- Values in order are no NaNs. -/
theorem NotAbove.not_nan {lower upper : FVal} (h : NotAbove lower upper) : lower.isNaN = false ∧ upper.isNaN = false := by
  rcases h with ⟨m, n, a, b, rfl, rfl, -⟩ | ⟨rfl, hn⟩ | ⟨rfl, hn⟩
  · exact ⟨rfl, rfl⟩
  · exact ⟨rfl, hn⟩
  · exact ⟨hn, rfl⟩

/-- The minimum is the lower of two codes and the maximum the upper, in either order of the operands. -/
theorem minmaxF_of_order {f : Fmt} {x y : Nat} {lower upper : FVal} (h : NotAbove lower upper)
    (hv : (lower = decodeF f x ∧ upper = decodeF f y) ∨ (lower = decodeF f y ∧ upper = decodeF f x)) :
    decodeF f (minmaxF f false x y) = lower ∧ decodeF f (minmaxF f true x y) = upper := by
  obtain ⟨hl, hu⟩ := h.not_nan
  rcases hv with ⟨rfl, rfl⟩ | ⟨rfl, rfl⟩
  · obtain ⟨h1, h2⟩ := h.order rfl rfl
    obtain ⟨hmax, hmin⟩ := minmaxF_ordered f hl hu
    rw [hmax, hmin, h1]
    refine ⟨rfl, ?_⟩
    split
    · rfl
    · exact h2.resolve_left ‹_›
  · obtain ⟨h1, h2⟩ := h.order rfl rfl
    obtain ⟨hmax, hmin⟩ := minmaxF_ordered f hu hl
    rw [hmax, hmin, h1]
    refine ⟨?_, rfl⟩
    split
    · rfl
    · exact (h2.resolve_left ‹_›).symm

theorem minmaxF_nans (f : Fmt) (mx : Bool) (x y : Nat) :
    ((decodeF f x).isNaN = true → (decodeF f y).isNaN = true → minmaxF f mx x y = genNaN f 1) ∧
    ((decodeF f x).isNaN = true → (decodeF f y).isNaN = false → minmaxF f mx x y = y) ∧
    ((decodeF f x).isNaN = false → (decodeF f y).isNaN = true → minmaxF f mx x y = x) := by
  refine ⟨fun ha hb => ?_, fun ha hb => ?_, fun ha hb => ?_⟩ <;> rw [minmaxF, ha, hb] <;> rfl

/-- The minimum and the maximum are operands, unless both operands are NaNs. -/
theorem minmaxF_operand (f : Fmt) (mx : Bool) (x y : Nat) : minmaxF f mx x y = x ∨ minmaxF f mx x y = y ∨
    ((decodeF f x).isNaN = true ∧ (decodeF f y).isNaN = true) := by
  obtain ⟨-, h2, h3⟩ := minmaxF_nans f mx x y
  by_cases ha : (decodeF f x).isNaN = true <;> by_cases hb : (decodeF f y).isNaN = true
  · exact .inr (.inr ⟨ha, hb⟩)
  · exact .inr (.inl (h2 ha (Bool.eq_false_iff.mpr hb)))
  · exact .inl (h3 (Bool.eq_false_iff.mpr ha) hb)
  · exact (minmaxF_extreme f mx (Bool.eq_false_iff.mpr ha) (Bool.eq_false_iff.mpr hb)).1.imp_right .inl

/-! What the operations give (Table 11-3). -/

/-- A stored value read as signed. -/
theorem sextNat_eq {w x : Nat} (h : x < 2 ^ w) : sextNat w x = if x < 2 ^ (w - 1) then (x : Int) else (x : Int) - 2 ^ w := by
  rw [sextNat, Nat.mod_eq_of_lt h]
  norm_cast

theorem rmwValue_min (n : Nat) (sx : Bool) (old x : Nat) : rmwValue n 1 sx old x =
    if (if sx then decide (sextNat (8 * n) x < sextNat (8 * n) old) else decide (x < old)) = true then x else old := rfl

theorem rmwValue_max (n : Nat) (sx : Bool) (old x : Nat) : rmwValue n 2 sx old x =
    if (if sx then decide (sextNat (8 * n) old < sextNat (8 * n) x) else decide (old < x)) = true then x else old := rfl

/-- What the operations on bits and integers give at both sizes. -/
theorem rmwValue_integer {n old x : Nat} {S : Nat → Int} (ho : old < 2 ^ (8 * n)) (hx : x < 2 ^ (8 * n))
    (hS : ∀ y, S y = if y < 2 ^ (8 * n - 1) then (y : Int) else (y : Int) - 2 ^ (8 * n)) :
    rmwValue n 1 false old x = min old x ∧ rmwValue n 2 false old x = max old x ∧
    S (rmwValue n 1 true old x) = min (S old) (S x) ∧ S (rmwValue n 2 true old x) = max (S old) (S x) ∧
    (rmwValue n 1 true old x = old ∨ rmwValue n 1 true old x = x) ∧ (rmwValue n 2 true old x = old ∨ rmwValue n 2 true old x = x) := by
  have h1 : sextNat (8 * n) old = S old := (sextNat_eq ho).trans (hS old).symm
  have h2 : sextNat (8 * n) x = S x := (sextNat_eq hx).trans (hS x).symm
  simp only [rmwValue_min, rmwValue_max, h1, h2, if_true, Bool.false_eq_true, if_false, decide_eq_true_eq]
  refine ⟨?_, ?_, ?_, ?_, ?_, ?_⟩ <;> split_ifs <;> omega

end Sys2Proof.Proofs
end

section
/-! PROOF. ATOM, CAS and RED (R339 to R341, R347, R392, R393): what they capture, and their one run over the lanes at the home. -/

namespace Sys2Proof.Proofs

open Sys2Proof.Machine Sys2Proof.Safety Sys2Proof.Laws

/-! What an atomic captures. -/

/-- Issuing leaves the group's context. -/
theorem ctx_begun (i : Instr) (s : State) : (begun i s).g.ctx = s.g.ctx := by
  obtain ⟨v, sc, gm, tc, fp, h⟩ := foldEff_frame ((enqueue i s).g.pend.filter (fun p => decide (p.left ≤ 1 + (opnd i).st.toNat)))
    { (enqueue i s).g with pc := (enqueue i s).g.pc + BitVec.ofNat 64 (instrLen i) }
  simp only [begun, onG_g, advance, retire, Option.getD_none]
  rw [h]
  rfl

theorem size_eq_three_iff (k : K10) : k.size = 3 ↔ sizeOf_ k = 8 := by
  rw [sizeOf_]
  generalize k.size = z
  revert z
  decide

/-- The vector registers that an atomic captures: its data, and then the index. -/
theorem captureV_atomic (o : Opnd) (s : State) :
    captureV (.atom o) s = (List.range (dataRegs o)).map (fun j => rdV s (o.d.toNat + j)) ++ [rdV s o.b.toNat] ∧
    captureV (.red o) s = (List.range (dataRegs o)).map (fun j => rdV s (o.d.toNat + j)) ++ [rdV s o.b.toNat] ∧
    captureV (.cas o) s = (List.range (2 * dataRegs o)).map (fun j => rdV s (o.d.toNat + j)) ++ [rdV s o.b.toNat] := by
  have hd : (if (parOf o).size = 3 then 2 else 1) = dataRegs o := by
    simp only [dataRegs, size_eq_three_iff]
  rw [← hd]
  exact ⟨rfl, rfl, rfl⟩

theorem captureS_atomic (o : Opnd) (s : State) : captureS (.atom o) s = [rdS s o.a.toNat] ∧ captureS (.red o) s = [rdS s o.a.toNat] ∧
    captureS (.cas o) s = [rdS s o.a.toNat] := ⟨rfl, rfl, rfl⟩

/-- The data of a lane in `n` bytes of the vector registers from `r` up. -/
def vectorData (s : State) (n r k : Nat) : Nat :=
  (laneOf (rdV s r) k).toNat + (if n = 8 then (laneOf (rdV s (r + 1)) k).toNat * 2 ^ 32 else 0)

section Captured

variable {o : Opnd} {s : State} {e : InFlight} {c : Nat}

/-- The captured index register of an atomic. -/
theorem capV_index (h : e.vecs = (List.range c).map (fun j => rdV s (o.d.toNat + j)) ++ [rdV s o.b.toNat]) : capV e c = rdV s o.b.toNat := by
  rw [capV, h]
  simp [List.getD]

theorem capV_data (h : e.vecs = (List.range c).map (fun j => rdV s (o.d.toNat + j)) ++ [rdV s o.b.toNat]) {j : Nat} (hj : j < c) :
    capV e j = rdV s (o.d.toNat + j) := by
  rw [capV, h]
  simp [List.getD, List.getElem?_append_left, hj]

theorem laneData_eq {n : Nat} (h : e.vecs = (List.range c).map (fun j => rdV s (o.d.toNat + j)) ++ [rdV s o.b.toNat]) {j : Nat} (hj : j < c)
    (h8 : n = 8 → j + 1 < c) : laneData e j n = vectorData s n (o.d.toNat + j) := by
  funext k
  rw [laneData, vectorData, capV_data h hj]
  by_cases hn : n = 8
  · rw [if_pos hn, if_pos hn, capV_data h (h8 hn), Nat.add_assoc]
  · rw [if_neg hn, if_neg hn]

end Captured

/-! What is performed. -/

/-- The bits that say whether an atomic releases and whether it acquires. -/
theorem order_eq {k : BitVec 2} {b : Bool} {x y : BitVec 2} (h : b = true ↔ k = x ∨ k = y) : (k == x || k == y) = b := by
  rw [Bool.eq_iff_iff, h, Bool.or_eq_true, beq_iff_eq, beq_iff_eq]

section Run

variable {o : Opnd} {e : InFlight} {n : Nat} {idx : Lanes} {f : Nat → Nat → Option Nat} {fin : List (Nat × Nat) → Group → Group} {t s1 : State}
  {ps : List (Nat × Phys)} (hc : checkLanes t (whoOf t.g 0) t.g.ctx n n needRW (vecAddrs e o (capS e 0) idx) = .ok ps s1)
include hc

theorem atomRun_idle (h : ps = []) : atomRun o e n idx f fin t = .ok () s1 := by
  subst h
  simp only [atomRun, hc, Res.bind, List.isEmpty_nil, if_true]

/-- The lanes of an atomic are performed in order, between its release and its acquire. -/
theorem atomRun_checked {rel acq : Bool} (hr : rel = true ↔ (parOf o).order = 2 ∨ (parOf o).order = 3)
    (ha : acq = true ↔ (parOf o).order = 1 ∨ (parOf o).order = 3) (hne : ps ≠ []) {x : AtomAcc} {s3 s4 : State}
    (hf : ps.foldl (fun a lp => atomLane (whoOf t.g 0) n (parOf o).scope.toNat rel f lp a)
      (⟨[], 0, false, false⟩, if rel then (releasePart (parOf o).scope.toNat s1).2 else s1) = (x, s3))
    (h4 : s4 = onG (fin x.rets) (if x.dep then onG (clearPending (parOf o).scope.toNat) s3 else s3)) :
    atomRun o e n idx f fin t = .ok () (if acq then acquirePart (parOf o).scope.toNat (if x.all then fullSwatch else x.sw) s4 else s4) := by
  have hr' := order_eq hr
  have ha' := order_eq ha
  simp only [atomRun, hc, Res.bind, List.isEmpty_eq_false_iff.mpr hne, Bool.false_eq_true, if_false, hr', ha', hf, h4]

end Run

/-- An instruction that is performed as an atomic of `n` bytes, with a lane function and with what it does with the old values. -/
structure IsAtomic (i : Instr) (o : Opnd) (s : State) (n : Nat) (f : Nat → Nat → Option Nat) (fin : List (Nat × Nat) → Group → Group) : Prop where
  replay : isReplay i = true
  memory : exec i s = runMem i s
  base : capS (entryOf i s) 0 = rdS s o.a.toNat
  runs : ∃ perf : InFlight → State → Res Unit, (∀ e n t, decode e.word e.ext = .instr i n → performEntry e t = perf e t) ∧
    ∀ t, perf (entryOf i s) t = atomRun o (entryOf i s) n (rdV s o.b.toNat) f fin t

theorem isAtomic_atom (o : Opnd) (s : State) {n : Nat} (hn : n = sizeOf_ (parOf o)) : IsAtomic (.atom o) o s n
    (fun k old => some (rmwValue n (parOf o).sel.toNat (parOf o).sx old (vectorData s n o.d.toNat k))) (putLoaded o.d.toNat n false) := by
  subst hn
  have h8 : sizeOf_ (parOf o) = 8 → 0 + 1 < dataRegs o := fun h => by simp [dataRegs, h]
  have h0 : 0 < dataRegs o := by rw [dataRegs]; split <;> decide
  have hv := (captureV_atomic o s).1
  refine ⟨rfl, rfl, rfl, perfAtom o, fun e n t hd => by rw [performEntry, hd], fun t => ?_⟩
  have hi : capV (entryOf (.atom o) s) (dataRegs o) = rdV s o.b.toNat := capV_index hv
  have hdata : laneData (entryOf (.atom o) s) 0 (sizeOf_ (parOf o)) = vectorData s (sizeOf_ (parOf o)) o.d.toNat := laneData_eq hv h0 h8
  simp only [perfAtom, hi, hdata]

theorem isAtomic_red (o : Opnd) (s : State) {n : Nat} (hn : n = sizeOf_ (parOf o)) : IsAtomic (.red o) o s n
    (fun k old => some (rmwValue n (parOf o).sel.toNat (parOf o).sx old (vectorData s n o.d.toNat k))) (fun _ g => g) := by
  subst hn
  have h8 : sizeOf_ (parOf o) = 8 → 0 + 1 < dataRegs o := fun h => by simp [dataRegs, h]
  have h0 : 0 < dataRegs o := by rw [dataRegs]; split <;> decide
  have hv := (captureV_atomic o s).2.1
  refine ⟨rfl, rfl, rfl, perfRed o, fun e n t hd => by rw [performEntry, hd], fun t => ?_⟩
  have hi : capV (entryOf (.red o) s) (dataRegs o) = rdV s o.b.toNat := capV_index hv
  have hdata : laneData (entryOf (.red o) s) 0 (sizeOf_ (parOf o)) = vectorData s (sizeOf_ (parOf o)) o.d.toNat := laneData_eq hv h0 h8
  simp only [perfRed, hi, hdata]

theorem isAtomic_cas (o : Opnd) (s : State) {n : Nat} (hn : n = sizeOf_ (parOf o)) : IsAtomic (.cas o) o s n
    (fun k old => if old = vectorData s n o.d.toNat k then some (vectorData s n (o.d.toNat + dataRegs o) k) else none)
    (putLoaded o.d.toNat n false) := by
  subst hn
  have h8 : sizeOf_ (parOf o) = 8 → dataRegs o = 2 := fun h => by simp [dataRegs, h]
  have h0 : 0 < dataRegs o := by rw [dataRegs]; split <;> decide
  have hv := (captureV_atomic o s).2.2
  refine ⟨rfl, rfl, rfl, perfCas o, fun e n t hd => by rw [performEntry, hd], fun t => ?_⟩
  have hi : capV (entryOf (.cas o) s) (2 * dataRegs o) = rdV s o.b.toNat := capV_index hv
  have hdata : laneData (entryOf (.cas o) s) 0 (sizeOf_ (parOf o)) = vectorData s (sizeOf_ (parOf o)) o.d.toNat :=
    laneData_eq hv (by omega) (fun h => by omega)
  have hnew : laneData (entryOf (.cas o) s) (dataRegs o) (sizeOf_ (parOf o)) = vectorData s (sizeOf_ (parOf o)) (o.d.toNat + dataRegs o) :=
    laneData_eq hv (by omega) (fun h => by have := h8 h; omega)
  simp only [perfCas, hi, hdata, hnew]

/-- Settles O35: the operations by kind, and ATOM, CAS and RED as one run over their lanes. -/
theorem atomicsComplete : Obligations.AtomicsComplete := by
  refine ⟨?_, ?_⟩
  · rintro n old x sx S f hn ho hx hS rfl
    obtain ⟨hmin, hmax, hsmin, hsmax, hor, hor'⟩ := rmwValue_integer ho hx hS
    have hf : (if n = 8 then f64 else f32) = if n = 4 then f32 else f64 := by
      rcases hn with rfl | rfl <;> rfl
    have h7 : rmwValue n 7 sx old x = (addF (if n = 4 then f32 else f64) .ne (decodeF (if n = 4 then f32 else f64) old)
        (decodeF (if n = 4 then f32 else f64) x)).bits := by
      rw [← hf]; rfl
    have h89 : ∀ op r, op = 8 ∨ op = 9 → r = rmwValue n op sx old x → r = minmaxF (if n = 4 then f32 else f64) (op == 9) old x := by
      rintro op r (rfl | rfl) rfl <;> rw [← hf] <;> rfl
    have hgen : genNaN (if n = 4 then f32 else f64) 1 = if n = 4 then 0x7FC0_0001 else 0x7FF8_0000_0000_0001 := by
      rcases hn with rfl | rfl <;> rfl
    refine ⟨rfl, hmin, hmax, hsmin, hsmax, hor, hor', rfl, rfl, rfl, rfl, h7, fun op r hop hr => ?_⟩
    obtain ⟨h1, h2, h3⟩ := minmaxF_nans (if n = 4 then f32 else f64) (op == 9) old x
    rw [h89 op r hop hr, ← hgen]
    refine ⟨h1, h2, h3, fun lower upper hv ho => ?_, minmaxF_operand _ _ old x⟩
    obtain ⟨hlow, hup⟩ := minmaxF_of_order ho hv
    rcases hop with rfl | rfl
    · exact hlow
    · exact hup
  · rintro o s s1 ps n nv rel acq i f fin data hn hnv hrel hacq hdata hcase hg hc
    have hd : data = vectorData s n := by
      funext r k
      exact hdata r k
    have hnv' : nv = dataRegs o := by rw [hnv, hn, dataRegs]
    subst hd
    have hat : IsAtomic i o s n f fin := by
      rcases hcase with ⟨rfl, rfl, rfl⟩ | ⟨rfl, rfl, rfl⟩ | ⟨rfl, rfl, rfl⟩
      · exact isAtomic_atom o s hn
      · exact isAtomic_red o s hn
      · rw [hnv']
        exact isAtomic_cas o s hn
    obtain ⟨hr, hx, hbase, perf, hperf, hrun⟩ := hat
    rw [← whoOf_begun i, ← ctx_begun i s, ← hbase] at hc
    refine ⟨fun hnil => performs_by hx hg hr hperf ((hrun _).trans (atomRun_idle hc hnil)), fun hne x s3 hfold s4 h4 => ?_⟩
    rw [← whoOf_begun i] at hfold
    exact performs_by hx hg hr hperf ((hrun _).trans (atomRun_checked hc hrel hacq hne hfold h4))

end Sys2Proof.Proofs
end

section
/-! PROOF. CPY, CPYWP and QNT as they issue (R135, R137, R138, R230, R231, R233): the checks of a descriptor, its ranges and its barrier,
and acceptance. -/

namespace Sys2Proof.Proofs

open Sys2Proof.Machine Sys2Proof.Safety Sys2Proof.Laws

/-! The checks at issue. -/

theorem rangeFault_none {lo n : Nat} {s : State} (h : lo + n ≤ scrBytes s.g.part) : rangeFault lo n s = none :=
  if_neg (Nat.not_lt.mpr h)

theorem copyRange_none {lo n : Nat} {s : State} (h : lo + n ≤ scrBytes s.g.part) : copyRange lo n s = none := by
  rw [copyRange, rangeFault_none h]
  rfl

/-- A check that is made under a condition. -/
theorem checked_none {b : Bool} {x : Option TrapInfo} (h : b = true → x = none) : (if b = true then x else none) = none := by
  split
  · exact h ‹_›
  · rfl

theorem firstTrap_none {l : List (Option TrapInfo)} {s : State} (h : ∀ x ∈ l, x = none) : firstTrap l s = .ok () s := by
  have hn : l.findSome? id = none := List.findSome?_eq_none_iff.mpr h
  rw [firstTrap, hn]

theorem capturePhase_open {off q : Nat} {s : State} (h : nextPhase (readPbar s s.g.panel off) (fld s.g.gid 0 4) = some q) :
    capturePhase off s = .ok (some (off, q)) s := by
  simp only [capturePhase, h]

/-- With room in its queue and no tack in the way a command is accepted. -/
theorem tryAccept_room {depth len : Nat} {k : CmdKind} {bar : Option (Nat × Nat)} {s : State} (hl : len < depth)
    (ht : tacksWait s s.g.core ((acceptCmd k bar s).cmds.getLast?.elim [] (cmdTacks (acceptCmd k bar s))) = false) :
    tryAccept depth len k bar s = .ok none (acceptCmd k bar s) := by
  have hnew : (match (acceptCmd k bar s).cmds.getLast? with | some c => cmdTacks (acceptCmd k bar s) c | none => []) =
      (acceptCmd k bar s).cmds.getLast?.elim [] (cmdTacks (acceptCmd k bar s)) := by
    cases (acceptCmd k bar s).cmds.getLast? <;> rfl
  rw [← hnew] at ht
  unfold tryAccept
  dsimp only
  rw [if_neg (Nat.not_le.mpr hl)]
  exact if_neg (Bool.eq_false_iff.mp ht)

/-- A copy of which the descriptor, the ranges and the barrier pass is accepted (R230, R231). -/
theorem cpyBody_accepts {o : Opnd} {s : State} {c : CopyDesc} {ch : Nat} {bar : Option (Nat × Nat)} (hch : ch = (parOf o).sel.toNat)
    (hc : c = copyDesc (rdS s o.a.toNat) (rdS s (o.a.toNat + 1)) (rdS s (o.a.toNat + 2)) (rdS s (o.a.toNat + 3)))
    (hbad : copyBad (rdS s o.a.toNat) (rdS s (o.a.toNat + 1)) (rdS s (o.a.toNat + 2)) c = false) (hno : c.nobar = true → bar = none)
    (hbar : c.nobar = false → c.bar + 32 ≤ scrBytes s.g.part ∧
      ∃ q, nextPhase (readPbar s s.g.panel c.bar) (fld s.g.gid 0 4) = some q ∧ bar = some (c.bar, q))
    (hsrc : c.ssp = true → c.src + (c.nrows - 1) * c.sstr + c.rowlen ≤ scrBytes s.g.part)
    (hdst : c.dsp = true → c.dst + (c.nrows - 1) * c.dstr + c.rowlen ≤ scrBytes s.g.part)
    (hlen : (s.cmds.filter (fun x => x.core == s.g.core && (match x.kind with | .copy k .. => k == ch | _ => false))).length < 4)
    (ht : tacksWait s s.g.core ((acceptCmd (.copy ch c.ssp c.dsp c.src c.dst c.rowlen c.nrows c.sstr c.dstr) bar s).cmds.getLast?.elim []
      (cmdTacks (acceptCmd (.copy ch c.ssp c.dsp c.src c.dst c.rowlen c.nrows c.sstr c.dstr) bar s))) = false) :
    cpyBody o s = .ok none (acceptCmd (.copy ch c.ssp c.dsp c.src c.dst c.rowlen c.nrows c.sstr c.dstr) bar s) := by
  have hfirst : firstTrap [if c.ssp then copyRange c.src ((c.nrows - 1) * c.sstr + c.rowlen) s else none,
      if c.dsp then copyRange c.dst ((c.nrows - 1) * c.dstr + c.rowlen) s else none,
      if c.nobar then none else copyRange c.bar 32 s] s = .ok () s := by
    refine firstTrap_none ?_
    rw [List.forall_mem_cons, List.forall_mem_cons, List.forall_mem_singleton]
    refine ⟨checked_none (fun h => copyRange_none ?_), checked_none (fun h => copyRange_none ?_), ?_⟩
    · rw [← Nat.add_assoc]; exact hsrc h
    · rw [← Nat.add_assoc]; exact hdst h
    · split
      · rfl
      · exact copyRange_none (hbar (Bool.eq_false_iff.mpr ‹_›)).1
  have hphase : (if c.nobar then .ok none s else capturePhase c.bar s) = (.ok bar s : Res (Option (Nat × Nat))) := by
    split
    · rw [hno ‹_›]
    · obtain ⟨-, q, hq, rfl⟩ := hbar (Bool.eq_false_iff.mpr ‹_›)
      exact capturePhase_open hq
  subst hch
  unfold cpyBody
  dsimp only
  rw [← hc, if_neg (Bool.eq_false_iff.mp hbad), hfirst]
  simp only [Res.bind]
  rw [hphase]
  exact tryAccept_room hlen ht

/-- A quantisation of which the descriptor, the ranges and the barrier pass is accepted (R137, R138). -/
theorem qntBody_accepts {o : Opnd} {s : State} {d0 d1 d2 d3 : W64} {fmt q : Nat} (h0 : d0 = rdS s o.a.toNat) (h1 : d1 = rdS s (o.a.toNat + 1))
    (h2 : d2 = rdS s (o.a.toNat + 2)) (h3 : d3 = rdS s (o.a.toNat + 3)) (hf : fmt = (parOf o).sel.toNat) (hbad : qntBad fmt d0 d1 d2 d3 = false)
    (hsrc : bit d0 63 = true →
      descAddr d0 + ((fld d3 0 12 - 1) * fld d3 24 20 + fld d3 12 12 * (if fld d3 44 2 = 0 then 4 else 2)) ≤ scrBytes s.g.part)
    (hdst : bit d1 63 = true → descAddr d1 + fld d3 0 12 * fld d3 12 12 * qntBits fmt / 8 ≤ scrBytes s.g.part ∧
      fld d2 0 57 + qntScaleBytes fmt (fld d3 0 12) (fld d3 12 12) ≤ scrBytes s.g.part)
    (hbar : 32 * fld d3 48 16 + 32 ≤ scrBytes s.g.part) (hq : nextPhase (readPbar s s.g.panel (32 * fld d3 48 16)) (fld s.g.gid 0 4) = some q)
    (hlen : (s.cmds.filter (fun x => x.core == s.g.core && (match x.kind with | .qnt .. => true | _ => false))).length < 8)
    (ht : tacksWait s s.g.core ((acceptCmd (.qnt fmt d0 d1 d2 d3) (some (32 * fld d3 48 16, q)) s).cmds.getLast?.elim []
      (cmdTacks (acceptCmd (.qnt fmt d0 d1 d2 d3) (some (32 * fld d3 48 16, q)) s))) = false) :
    qntBody o s = .ok none (acceptCmd (.qnt fmt d0 d1 d2 d3) (some (32 * fld d3 48 16, q)) s) := by
  have hfirst : firstTrap
      [if bit d0 63 then rangeFault (descAddr d0) ((fld d3 0 12 - 1) * fld d3 24 20 + fld d3 12 12 * (if fld d3 44 2 = 0 then 4 else 2)) s else none,
      if bit d1 63 then rangeFault (descAddr d1) (fld d3 0 12 * fld d3 12 12 * qntBits fmt / 8) s else none,
      if bit d1 63 then rangeFault (fld d2 0 57) (qntScaleBytes fmt (fld d3 0 12) (fld d3 12 12)) s else none,
      rangeFault (32 * fld d3 48 16) 32 s] s = .ok () s := by
    refine firstTrap_none ?_
    rw [List.forall_mem_cons, List.forall_mem_cons, List.forall_mem_cons, List.forall_mem_singleton]
    exact ⟨checked_none (fun h => rangeFault_none (hsrc h)), checked_none (fun h => rangeFault_none (hdst h).1),
      checked_none (fun h => rangeFault_none (hdst h).2), rangeFault_none hbar⟩
  unfold qntBody
  dsimp only
  rw [← h0, ← h1, ← h2, ← h3, ← hf, if_neg (Bool.eq_false_iff.mp hbad), hfirst]
  simp only [Res.bind]
  rw [capturePhase_open hq]
  exact tryAccept_room hlen ht

/-- Settles O44: a descriptor is refused, or passes each check and is accepted, and what accepting adds. -/
theorem enginesAccept : Obligations.EnginesAccept := by
  refine ⟨?_, ?_, fun k bar s => ⟨_, rfl, rfl, rfl, rfl, rfl, rfl, rfl, rfl, rfl, rfl, rfl, ⟨rfl, rfl⟩, rfl⟩⟩
  · rintro o s c ch bar rfl rfl
    refine ⟨fun hr hbad hno hbar hsrc hdst hlen k hk htack => ?_, fun hr hbad => ?_, fun hr => ?_⟩
    · subst hk
      exact completes_of_body rfl hr (cpyBody_accepts rfl rfl hbad hno hbar hsrc hdst hlen htack) (ready_live hr) rfl
    · exact ends_of_trap rfl hr (if_pos hbad)
    · exact completes_of_body rfl hr rfl ((put_live _ _).trans (ready_live hr)) rfl
  · rintro o s _ _ _ _ _ q rfl rfl rfl rfl rfl hr
    refine ⟨fun hbad => ends_of_trap rfl hr (if_pos hbad), fun hbad hsrc hdst hbar hq hlen t ht htack => ?_⟩
    subst ht
    exact completes_of_body rfl hr (qntBody_accepts rfl rfl rfl rfl rfl hbad hsrc hdst hbar hq hlen htack) (ready_live hr) rfl

end Sys2Proof.Proofs
end

section
/-! PROOF. Scratchpad bytes after a write, and commands that run and complete. -/

namespace Sys2Proof.Proofs

open Sys2Proof.Machine Sys2Proof.Safety Sys2Proof.Laws

/-! Scratchpad bytes after a write. -/

theorem scrKey_inj {p q i j : Nat} (hi : i < 2 ^ 21) (hj : j < 2 ^ 21) : scrKey p i = scrKey q j ↔ p = q ∧ i = j := by
  unfold scrKey
  omega

theorem scrRead_eq_map (s : State) (p k n : Nat) :
    scrRead s p k n = (List.range n).map (fun i => cget zero s.scratch (scrKey p (k + i))) := by
  induction n generalizing k with
  | zero => rfl
  | succ n ih => simp [scrRead, ih, List.range_succ_eq_map, Function.comp_def, Nat.add_comm, Nat.add_left_comm]

theorem scrRead_congr {s t : State} {p q k l n : Nat}
    (h : ∀ i, i < n → cget zero s.scratch (scrKey p (k + i)) = cget zero t.scratch (scrKey q (l + i))) : scrRead s p k n = scrRead t q l n := by
  simp only [scrRead_eq_map]
  exact List.map_congr_left (fun i hi => h i (List.mem_range.mp hi))

/-- A write to scratchpad changes nothing else. -/
theorem scrWrite_frame (bs : List Byte) (p k : Nat) (s : State) : ∃ m, scrWrite s p k bs = { s with scratch := m } := by
  induction bs generalizing k s with
  | nil => exact ⟨s.scratch, rfl⟩
  | cons b r ih => exact ih (k + 1) _

/-- A write to scratchpad leaves every cell that it does not name. -/
theorem cget_scrWrite_other (bs : List Byte) (s : State) {p k x : Nat} (h : ∀ i, i < bs.length → scrKey p (k + i) ≠ x) :
    cget zero (scrWrite s p k bs).scratch x = cget zero s.scratch x := by
  induction bs generalizing k s with
  | nil => rfl
  | cons b r ih =>
    rw [scrWrite, ih _ fun i hi => by
      rw [Nat.add_assoc, Nat.add_comm 1 i]
      exact h (i + 1) (Nat.succ_lt_succ hi)]
    exact cget_cset_other zero _ b (h 0 (Nat.succ_pos _))

theorem cget_scrWrite_outside (bs : List Byte) (s : State) {p q k j : Nat} (hk : k + bs.length ≤ 2 ^ 21) (hj : j < 2 ^ 21)
    (h : q ≠ p ∨ j < k ∨ k + bs.length ≤ j) :
    cget zero (scrWrite s p k bs).scratch (scrKey q j) = cget zero s.scratch (scrKey q j) :=
  cget_scrWrite_other bs s fun i hi he => by
    have := (scrKey_inj (by omega) hj).mp he
    omega

theorem cget_scrWrite_inside (bs : List Byte) (s : State) {p k i : Nat} (hi : i < bs.length) :
    cget zero (scrWrite s p k bs).scratch (scrKey p (k + i)) = bs[i] := by
  induction bs generalizing k s i with
  | nil => simp at hi
  | cons b r ih =>
    rw [scrWrite]
    cases i with
    | zero =>
      rw [cget_scrWrite_other r _ fun i _ => by unfold scrKey; omega]
      exact cget_cset_same zero _ _ b
    | succ i =>
      rw [show k + (i + 1) = k + 1 + i by omega, ih _ (Nat.lt_of_succ_lt_succ hi)]
      rfl

theorem scrRead_scrWrite_same (bs : List Byte) (s : State) (p k : Nat) {n : Nat} (hn : n = bs.length) :
    scrRead (scrWrite s p k bs) p k n = bs := by
  subst hn
  rw [scrRead_eq_map]
  refine List.ext_getElem (by simp) fun i h1 h2 => ?_
  simp only [List.getElem_map, List.getElem_range]
  exact cget_scrWrite_inside bs s h2

theorem scrRead_scrWrite_apart (bs : List Byte) (s : State) {p q k l n : Nat} (hk : k + bs.length ≤ 2 ^ 21) (hl : l + n ≤ 2 ^ 21)
    (h : q ≠ p ∨ l + n ≤ k ∨ k + bs.length ≤ l) : scrRead (scrWrite s p k bs) q l n = scrRead s q l n :=
  scrRead_congr fun i hi => cget_scrWrite_outside bs s hk (by omega) (by omega)

/-! A command that completes. -/

/-- A command runs by itself: it is not paused, has lost no request, and waits for no command before it. -/
theorem waits_eq_false {s : State} {c : Cmd} (hp : c.paused = none) (hl : c.lost = false) (hh : atHead s c = true)
    (ha : awaitsEarlier s c = false) : waits s c = false := by
  simp [waits, hp, hl, hh, ha]

theorem cmdOf_id {s : State} {id : Nat} {c : Cmd} (h : cmdOf s id = some c) : c.id = id := by
  simpa using List.find?_some h

theorem runCmdIf_of_cmdOf {p : CmdKind → Bool} {bytes id : Nat} {s : State} {c : Cmd} (h : cmdOf s id = some c) (hp : p c.kind = true) :
    runCmdIf p bytes id s = runCmd bytes c s := by
  rw [runCmdIf, h]
  exact if_pos hp

theorem countCmd_none {c : Cmd} (h : c.bar = none) (n : Nat) (s : State) : countCmd c n s = s := by
  rw [countCmd, h]

/-- A command that completes is gone from the queues. -/
theorem finishCmd_gone (c : Cmd) (x : Swatch) (s : State) : ∀ y ∈ (finishCmd c x s).cmds, y.id ≠ c.id := by
  intro y hy
  simpa using (List.mem_filter.mp hy).2

end Sys2Proof.Proofs
end

section
/-! PROOF. Copies (R232): one word, a copy within scratchpad that moves all its rows, and any other one. -/

namespace Sys2Proof.Proofs

open Sys2Proof.Machine Sys2Proof.Safety Sys2Proof.Laws

/-! Copies (R232): one word, then all of them. -/

/-- The address of byte `q` of a span: of its row, and within it. -/
def spanAt (start n stride q : Nat) : Nat := start + q / n * stride + q % n

/-- One word is read at its source and written at its destination. -/
theorem copyWords_succ {w : Who} {panel src dst n sstr dstr total k pos : Nat} {ssp dsp : Bool} {sw x : Swatch} {bs : List Byte}
    {s s1 s2 : State} (hp : pos < total) (hr : engRead w panel ssp 4 (spanAt src n sstr pos % 2 ^ 64) s = .ok bs s1)
    (hw : engWrite w panel dsp (spanAt dst n dstr pos % 2 ^ 64) bs s1 = .ok x s2) :
    copyWords w panel ssp dsp src dst n sstr dstr total (k + 1) pos sw s =
      copyWords w panel ssp dsp src dst n sstr dstr total k (pos + 4) (sw ||| x) s2 := by
  have hb : (if dsp then engWrite w panel true (spanAt dst n dstr pos % 2 ^ 64) bs s1
      else engWrite w panel false (spanAt dst n dstr pos % 2 ^ 64) bs s1) = .ok x s2 := by
    cases dsp <;> exact hw
  rw [copyWords, if_neg (by omega)]
  change (match (engRead w panel ssp 4 (spanAt src n sstr pos % 2 ^ 64) s).bind fun bs s1 =>
      if dsp then engWrite w panel true (spanAt dst n dstr pos % 2 ^ 64) bs s1
      else engWrite w panel false (spanAt dst n dstr pos % 2 ^ 64) bs s1 with
    | .ok x s1 => copyWords w panel ssp dsp src dst n sstr dstr total k (pos + 4) (sw ||| x) s1
    | .pause va s1 => ((pos, sw), .pause va s1)
    | .fatal k b va s1 => ((pos, sw), .fatal k b va s1)) = _
  rw [hr, Eng.bind, hb]

/-- What a copy command that may run leaves, from the words that it has moved. -/
theorem runCopy_of_copyWords {bytes ch src dst n rows sstr dstr p : Nat} {ssp dsp : Bool} {x : Swatch} {c : Cmd} {s s1 s2 : State}
    (hk : c.kind = .copy ch ssp dsp src dst n rows sstr dstr) (hw : waits s c = false)
    (hs : ssp = true ∨ dsp = true ∨ sharesStorage (cmdWho s c) s src dst n rows sstr dstr = false)
    (hc : copyWords (cmdWho s c) c.panel ssp dsp src dst n sstr dstr (n * rows) (bytes / 4) c.done c.lines s = ((p, x), .ok () s1))
    (h2 : s2 = addWptr c.panel ch (p - c.done) (onCmd c.id (fun y => { y with done := p, lines := x, before := c.before }) s1)) :
    runCopy c bytes s = if n * rows ≤ p then countCmd c (p - c.done) (finishCmd c x s2) else countCmd c (p - c.done) s2 := by
  have hn : (!ssp && !dsp && sharesStorage (cmdWho s c) s src dst n rows sstr dstr) = false := by
    rcases hs with h | h | h <;> simp [h]
  subst h2
  simp only [runCopy, hk, hw, hn, hc, Bool.false_eq_true, if_false]

/-- How far a copy within scratchpad has come: the first `pos` bytes are moved, and no other byte of scratchpad, nor anything else, has
changed. -/
structure Copied (panel src dst n sstr dstr total pos : Nat) (s t : State) : Prop where
  frame : ∃ m, t = { s with scratch := m }
  moved : ∀ q, q < pos → cget zero t.scratch (scrKey panel (spanAt dst n dstr q)) = cget zero s.scratch (scrKey panel (spanAt src n sstr q))
  kept : ∀ p j, j < 2 ^ 21 → (p = panel → ∀ q, q < total → j ≠ spanAt dst n dstr q) →
    cget zero t.scratch (scrKey p j) = cget zero s.scratch (scrKey p j)

theorem Copied.start (panel src dst n sstr dstr total : Nat) (s : State) : Copied panel src dst n sstr dstr total 0 s s :=
  ⟨⟨s.scratch, rfl⟩, fun _ h => absurd h (Nat.not_lt_zero _), fun _ _ _ _ => rfl⟩

section
variable {panel src dst n rows sstr dstr : Nat}

/-- Rows of whole words are whole words together. -/
theorem rows_mod_four (rows : Nat) (hn : n % 4 = 0) : n * rows % 4 = 0 := by
  rw [Nat.mul_mod, hn, Nat.zero_mul, Nat.zero_mod]

theorem spanAt_row (start stride : Nat) {r k : Nat} (hk : k < n) : spanAt start n stride (r * n + k) = start + r * stride + k := by
  rw [spanAt, Nat.mul_comm r n, Nat.mul_add_div (by omega), Nat.div_eq_of_lt hk, Nat.mul_add_mod, Nat.mod_eq_of_lt hk, Nat.add_zero]

/-- A word does not straddle rows. -/
theorem spanAt_word (start stride : Nat) (hn : n % 4 = 0) {pos i : Nat} (hp : pos % 4 = 0) (hi : i < 4) (hn0 : 0 < n) :
    spanAt start n stride (pos + i) = spanAt start n stride pos + i := by
  have hm : pos % n + i < n := by
    have h4 : pos % n % 4 = 0 := by rw [Nat.mod_mod_of_dvd pos (Nat.dvd_of_mod_eq_zero hn), hp]
    have := Nat.mod_lt pos hn0
    omega
  have he : pos + i = pos / n * n + (pos % n + i) := by
    have := Nat.div_add_mod' pos n
    omega
  rw [he, spanAt_row start stride hm, spanAt]
  omega

/-- Every byte of a span lies below the end of its last row. -/
theorem spanAt_lt (start stride : Nat) (hn0 : 0 < n) {q : Nat} (hq : q < n * rows) :
    start ≤ spanAt start n stride q ∧ spanAt start n stride q < start + (rows - 1) * stride + n := by
  have hr : q / n < rows := Nat.div_lt_of_lt_mul hq
  have := Nat.mul_le_mul_right stride (show q / n ≤ rows - 1 by omega)
  have := Nat.mod_lt q hn0
  unfold spanAt
  omega

theorem spanAt_inj (start stride : Nat) (hn0 : 0 < n) (hs : rows = 1 ∨ n ≤ stride) {q q' : Nat} (hq : q < n * rows) (hq' : q' < n * rows)
    (h : spanAt start n stride q = spanAt start n stride q') : q = q' := by
  have hm := Nat.mod_lt q hn0
  have hm' := Nat.mod_lt q' hn0
  have hd : q / n = q' / n := by
    have hr : q / n < rows := Nat.div_lt_of_lt_mul hq
    have hr' : q' / n < rows := Nat.div_lt_of_lt_mul hq'
    rcases hs with rfl | hs
    · rw [Nat.lt_one_iff.mp hr, Nat.lt_one_iff.mp hr']
    · unfold spanAt at h
      rcases Nat.lt_trichotomy (q / n) (q' / n) with hlt | he | hlt
      · have := Nat.mul_le_mul_right stride (show q / n + 1 ≤ q' / n by omega)
        rw [Nat.add_mul] at this
        omega
      · exact he
      · have := Nat.mul_le_mul_right stride (show q' / n + 1 ≤ q / n by omega)
        rw [Nat.add_mul] at this
        omega
  unfold spanAt at h
  rw [hd] at h
  rw [← Nat.div_add_mod q n, ← Nat.div_add_mod q' n, hd]
  omega

variable (hn0 : 0 < n) (hn : n % 4 = 0) (hs : rows = 1 ∨ n ≤ dstr) (hsrc : src + (rows - 1) * sstr + n ≤ 2 ^ 21)
  (hdst : dst + (rows - 1) * dstr + n ≤ 2 ^ 21) (hd : src + (rows - 1) * sstr + n ≤ dst ∨ dst + (rows - 1) * dstr + n ≤ src)
include hn0 hn hs hsrc hdst hd

/-- One more word is moved. -/
theorem Copied.word {pos : Nat} {s t : State} (h : Copied panel src dst n sstr dstr (n * rows) pos s t) (hp : pos % 4 = 0)
    (hlt : pos < n * rows) : Copied panel src dst n sstr dstr (n * rows) (pos + 4) s
      (scrWrite t panel (spanAt dst n dstr pos) (scrRead t panel (spanAt src n sstr pos) 4)) := by
  have h4 : pos + 4 ≤ n * rows := by
    have := rows_mod_four rows hn
    omega
  have hl : (scrRead t panel (spanAt src n sstr pos) 4).length = 4 := scrRead_length t _ _ 4
  have hend : spanAt dst n dstr pos + (scrRead t panel (spanAt src n sstr pos) 4).length ≤ 2 ^ 21 := by
    have := spanAt_lt dst dstr hn0 (show pos + 3 < n * rows by omega)
    rw [spanAt_word dst dstr hn hp (by omega) hn0] at this
    omega
  obtain ⟨m, hm⟩ := h.frame
  refine ⟨?_, fun q hq => ?_, fun p j hj hne => ?_⟩
  · obtain ⟨m', hm'⟩ := scrWrite_frame (scrRead t panel (spanAt src n sstr pos) 4) panel (spanAt dst n dstr pos) t
    exact ⟨m', by rw [hm', hm]⟩
  · rcases Nat.lt_or_ge q pos with hlo | hhi
    · rw [cget_scrWrite_outside _ t hend (by have := spanAt_lt dst dstr hn0 (show q < n * rows by omega); omega) ?_]
      · exact h.moved q hlo
      · refine Or.inr ((Nat.lt_or_ge (spanAt dst n dstr q) (spanAt dst n dstr pos)).imp id fun hge => ?_)
        refine Nat.le_of_not_lt fun hin => ?_
        have he : spanAt dst n dstr q = spanAt dst n dstr (pos + (spanAt dst n dstr q - spanAt dst n dstr pos)) := by
          rw [spanAt_word dst dstr hn hp (by omega) hn0]
          omega
        have := spanAt_inj dst dstr hn0 hs (by omega) (by omega) he
        omega
    · obtain ⟨i, rfl⟩ : ∃ i, q = pos + i := ⟨q - pos, by omega⟩
      have hi : i < 4 := by omega
      rw [spanAt_word dst dstr hn hp hi hn0, cget_scrWrite_inside _ t (by omega)]
      simp only [scrRead_eq_map, List.getElem_map, List.getElem_range]
      rw [← spanAt_word src sstr hn hp hi hn0]
      have hb := spanAt_lt src sstr hn0 (show pos + i < n * rows by omega)
      refine h.kept panel _ (by omega) fun _ q' hq' heq => ?_
      have := spanAt_lt dst dstr hn0 hq'
      omega
  · rw [cget_scrWrite_outside _ t hend hj ?_]
    · exact h.kept p j hj hne
    · rcases Decidable.em (p = panel) with hpp | hpp
      · refine Or.inr ((Nat.lt_or_ge j (spanAt dst n dstr pos)).imp id fun hge => Nat.le_of_not_lt fun hin => ?_)
        refine hne hpp (pos + (j - spanAt dst n dstr pos)) (by omega) ?_
        rw [spanAt_word dst dstr hn hp (by omega) hn0]
        omega
      · exact Or.inl hpp

/-- A copy within scratchpad that may deliver all its bytes moves them all. -/
theorem copyWords_scratch (w : Who) (k pos : Nat) (sw : Swatch) {s t : State} (hp : pos % 4 = 0) (hk : n * rows ≤ pos + 4 * k)
    (hpn : pos ≤ n * rows) (h : Copied panel src dst n sstr dstr (n * rows) pos s t) :
    ∃ x t1, copyWords w panel true true src dst n sstr dstr (n * rows) k pos sw t = ((n * rows, x), .ok () t1) ∧
      Copied panel src dst n sstr dstr (n * rows) (n * rows) s t1 := by
  induction k generalizing pos sw t with
  | zero =>
    obtain rfl : pos = n * rows := by omega
    exact ⟨sw, t, rfl, h⟩
  | succ k ih =>
    rcases Nat.lt_or_ge pos (n * rows) with hlt | hge
    · have hrow := rows_mod_four rows hn
      have hbs := spanAt_lt src sstr hn0 hlt
      have hbd := spanAt_lt dst dstr hn0 hlt
      obtain ⟨x, t1, he, hc⟩ := ih (pos + 4) (sw ||| 0) (by omega) (by omega) (by omega) (h.word hn0 hn hs hsrc hdst hd hp hlt)
      refine ⟨x, t1, ?_, hc⟩
      rw [← he]
      refine copyWords_succ (bs := scrRead t panel (spanAt src n sstr pos) 4) (s1 := t) hlt ?_ ?_
      · rw [Nat.mod_eq_of_lt (by omega)]
        rfl
      · rw [Nat.mod_eq_of_lt (by omega)]
        rfl
    · obtain rfl : pos = n * rows := by omega
      exact ⟨sw, t, by rw [copyWords, if_pos (Nat.le_refl _)], h⟩

end

/-- COPY_COMMAND_COMPLETE runs its command. -/
theorem copy_event {id bytes ch src dst n rows sstr dstr : Nat} {ssp dsp : Bool} {c : Cmd} {s : State} (hc : cmdOf s id = some c)
    (hk : c.kind = .copy ch ssp dsp src dst n rows sstr dstr) : Happens (.copyCommandComplete id bytes) s (runCopy c bytes s) :=
  happens_of_event rfl ((runCmdIf_of_cmdOf hc (by rw [hk])).trans (by rw [runCmd, hk]))

/-- R232: a copy within scratchpad that may deliver all its rows moves their bytes, and counts them into the channel's write pointer. -/
theorem copy_moves_rows {id bytes ch src dst n rows sstr dstr : Nat} {c : Cmd} {s : State} (hc : cmdOf s id = some c)
    (hk : c.kind = .copy ch true true src dst n rows sstr dstr) (hw : waits s c = false) (hdone : c.done = 0) (hbar : c.bar = none)
    (hn0 : 0 < n) (hn : n % 4 = 0) (hbytes : n * rows ≤ bytes) (hs : rows = 1 ∨ n ≤ dstr)
    (hsrc : src + (rows - 1) * sstr + n ≤ 2 ^ 21) (hdst : dst + (rows - 1) * dstr + n ≤ 2 ^ 21)
    (hd : src + (rows - 1) * sstr + n ≤ dst ∨ dst + (rows - 1) * dstr + n ≤ src) :
    ∃ s2, Happens (.copyCommandComplete id bytes) s s2 ∧
      (∀ r k, r < rows → k < n → cget zero s2.scratch (scrKey c.panel (dst + r * dstr + k)) =
        cget zero s.scratch (scrKey c.panel (src + r * sstr + k))) ∧
      (∀ p j, j < 2 ^ 21 → p ≠ c.panel ∨ (∀ r, r < rows → j < dst + r * dstr ∨ dst + r * dstr + n ≤ j) →
        cget zero s2.scratch (scrKey p j) = cget zero s.scratch (scrKey p j)) ∧
      cget zero s2.wptr (wptrKey c.panel ch) = cget zero s.wptr (wptrKey c.panel ch) + BitVec.ofNat 64 (n * rows) ∧
      (∀ x ∈ s2.cmds, x.id ≠ id) ∧ StoresNothing s s2 := by
  have hrows := rows_mod_four rows hn
  obtain ⟨x, t, hcw, ⟨m, hm⟩, hmoved, hkept⟩ := copyWords_scratch hn0 hn hs hsrc hdst hd (cmdWho s c) (bytes / 4) c.done c.lines
    (by rw [hdone]) (by omega) (by omega) (hdone ▸ Copied.start c.panel src dst n sstr dstr (n * rows) s)
  have hrun := runCopy_of_copyWords hk hw (.inl rfl) hcw rfl
  rw [if_pos (Nat.le_refl _), countCmd_none hbar, hdone, Nat.sub_zero] at hrun
  refine ⟨_, hrun ▸ copy_event hc hk, fun r k hr hkn => ?_, fun p j hj hne => ?_, ?_,
    cmdOf_id hc ▸ finishCmd_gone c x _, ?_⟩
  · have hq : r * n + k < n * rows := by
      have := Nat.mul_le_mul_left n (show r + 1 ≤ rows by omega)
      rw [Nat.mul_add, Nat.mul_comm n r] at this
      omega
    have := hmoved (r * n + k) hq
    rwa [spanAt_row dst dstr hkn, spanAt_row src sstr hkn] at this
  · refine hkept p j hj fun hp q hq he => ?_
    have hrow : q / n < rows := Nat.div_lt_of_lt_mul hq
    have hmod := Nat.mod_lt q hn0
    rcases hne with h | h
    · exact h hp
    · have := h (q / n) hrow
      unfold spanAt at he
      omega
  · subst hm
    exact cget_cset_same zero _ _ _
  · subst hm
    exact ⟨rfl, rfl⟩

/-- R232: any other copy goes as its words go. -/
theorem copy_goes_on {id bytes ch src dst n rows sstr dstr p : Nat} {ssp dsp : Bool} {x : Swatch} {c : Cmd} {s s1 s2 : State}
    (hc : cmdOf s id = some c) (hk : c.kind = .copy ch ssp dsp src dst n rows sstr dstr) (hw : waits s c = false)
    (hs : ssp = true ∨ dsp = true ∨ sharesStorage (cmdWho s c) s src dst n rows sstr dstr = false)
    (hcw : copyWords (cmdWho s c) c.panel ssp dsp src dst n sstr dstr (n * rows) (bytes / 4) c.done c.lines s = ((p, x), .ok () s1))
    (h2 : s2 = addWptr c.panel ch (p - c.done) (onCmd c.id (fun y => { y with done := p, lines := x, before := c.before }) s1)) :
    (n * rows ≤ p → Happens (.copyCommandComplete id bytes) s (countCmd c (p - c.done) (finishCmd c x s2))) ∧
    (p < n * rows → Happens (.copyCommandComplete id bytes) s (countCmd c (p - c.done) s2)) := by
  have hrun := runCopy_of_copyWords hk hw hs hcw h2
  constructor
  · exact fun h => (hrun.trans (if_pos h)) ▸ copy_event hc hk
  · exact fun h => (hrun.trans (if_neg (by omega))) ▸ copy_event hc hk

end Sys2Proof.Proofs
end

section
/-! PROOF. QNT as it runs (R136, R138), and the event of an engine that pauses (R236). -/

namespace Sys2Proof.Proofs

open Sys2Proof.Machine Sys2Proof.Safety Sys2Proof.Laws

/-! QNT as it runs (R136, R138), and an engine that pauses (R236). -/

/-- QNT_COMMAND_COMPLETE runs its command. -/
theorem qnt_event {id fmt : Nat} {d0 d1 d2 d3 : W64} {c : Cmd} {s : State} (hc : cmdOf s id = some c)
    (hk : c.kind = .qnt fmt d0 d1 d2 d3) : Happens (.qntCommandComplete id) s (runQnt c s) :=
  happens_of_event rfl ((runCmdIf_of_cmdOf hc (by rw [hk])).trans (by rw [runCmd, hk]))

/-- A QNT that has read its source and can write all its outputs ends, with its flags in the group. -/
theorem runQnt_completes {fmt pos : Nat} {d0 d1 d2 d3 : W64} {c c1 : Cmd} {sw : Swatch} {s s1 s2 : State}
    (hk : c.kind = .qnt fmt d0 d1 d2 d3) (hw : waits s c = false) (hr : qntRead c fmt d0 d1 d2 d3 s = (c1, .ok () s1))
    (hs : qntStore (cmdWho s c) c.panel (bit d1 63) c1.outs c.done c.done c.lines s1 = ((pos, sw), .ok () s2)) :
    runQnt c s = countCmd c (pos - c.done) (onGroup c.grp (fun g => { g with fpstat := g.fpstat ||| c1.flags }) (finishCmd c sw s2)) := by
  simp only [runQnt, hk, hw, hr, hs, Bool.false_eq_true, if_false]

/-- A QNT that a pause found with its source read does not read it again. -/
theorem qntRead_read (c : Cmd) (fmt : Nat) (d0 d1 d2 d3 : W64) (s : State)
    (h : c.read = fld d3 0 12 * fld d3 12 12 * (if fld d3 44 2 = 0 then 4 else 2)) : qntRead c fmt d0 d1 d2 d3 s = (c, .ok () s) := by
  rw [qntRead]
  exact if_pos h

/-- A QNT that has read nothing reads all its elements, and settles what it writes. -/
theorem qntRead_fresh {c : Cmd} {fmt : Nat} {d0 d1 d2 d3 : W64} {l : List Nat} {s s1 : State} (hread : c.read = 0) (hsrcs : c.srcs = [])
    (h0 : 0 ≠ fld d3 0 12 * fld d3 12 12 * (if fld d3 44 2 = 0 then 4 else 2))
    (he : qntElems (cmdWho s c) c.panel (bit d0 63) (if fld d3 44 2 = 0 then 4 else 2) (fld d3 12 12) (descAddr d0) (fld d3 24 20)
      (fld d3 0 12 * fld d3 12 12) 0 s = (l, .ok () s1)) :
    qntRead c fmt d0 d1 d2 d3 s =
      ({ c with
          read := fld d3 0 12 * fld d3 12 12 * (if fld d3 44 2 = 0 then 4 else 2), srcs := []
          outs := (qntPlan fmt d1 d2 d3 (chunksOf (fld d3 12 12) (fld d3 0 12)
            (l.map (decodeF (if fld d3 44 2 = 0 then f32 else if fld d3 44 2 = 1 then f16 else bf16))))).1
          flags := (qntPlan fmt d1 d2 d3 (chunksOf (fld d3 12 12) (fld d3 0 12)
            (l.map (decodeF (if fld d3 44 2 = 0 then f32 else if fld d3 44 2 = 1 then f16 else bf16))))).2 }, .ok () s1) := by
  rw [qntRead]
  simp only [hread, hsrcs, h0, if_false, List.length_nil, Nat.sub_zero, he, List.nil_append]

/-- R138, R236: a QNT that has read its source goes on with its writes. -/
theorem qnt_writes {id fmt pos : Nat} {d0 d1 d2 d3 : W64} {c : Cmd} {sw : Swatch} {s s2 : State} (hc : cmdOf s id = some c)
    (hk : c.kind = .qnt fmt d0 d1 d2 d3) (hw : waits s c = false)
    (hread : c.read = fld d3 0 12 * fld d3 12 12 * (if fld d3 44 2 = 0 then 4 else 2))
    (hs : qntStore (cmdWho s c) c.panel (bit d1 63) c.outs c.done c.done c.lines s = ((pos, sw), .ok () s2)) :
    Happens (.qntCommandComplete id) s (countCmd c (pos - c.done)
      (onGroup c.grp (fun g => { g with fpstat := g.fpstat ||| c.flags }) (finishCmd c sw s2))) :=
  runQnt_completes hk hw (qntRead_read c fmt d0 d1 d2 d3 s hread) hs ▸ qnt_event hc hk

/-- R136: a QNT whose elements can be read and whose outputs can be written. -/
theorem qnt_quantises {id fmt rows cols esz pos : Nat} {d0 d1 d2 d3 : W64} {f : Fmt} {c : Cmd} {l : List Nat}
    {out : List Byte × List Byte × List Nat × Fl} {scl : Nat} {sw : Swatch} {s s1 s2 : State} (hc : cmdOf s id = some c)
    (hk : c.kind = .qnt fmt d0 d1 d2 d3) (hw : waits s c = false) (hread : c.read = 0) (hsrcs : c.srcs = [])
    (hrows : rows = fld d3 0 12) (hcols : cols = fld d3 12 12)
    (hf : f = (if fld d3 44 2 = 0 then f32 else if fld d3 44 2 = 1 then f16 else bf16)) (hesz : esz = (if fld d3 44 2 = 0 then 4 else 2))
    (hr0 : rows ≠ 0) (hc0 : cols ≠ 0)
    (he : qntElems (cmdWho s c) c.panel (bit d0 63) esz cols (descAddr d0) (fld d3 24 20) (rows * cols) 0 s = (l, .ok () s1))
    (ho : out = qntOutput fmt cols (chunksOf cols rows (l.map (decodeF f))))
    (hscl : scl = (if bit d1 63 then fld d2 0 57 else (sext57 (fld d2 0 57)).toNat))
    (hs : qntStore (cmdWho s c) c.panel (bit d1 63) [(descAddr d1, out.1), (scl, out.2.1),
      (scl + (rows * cols / 8 + 1) / 2 * 2, out.2.2.1.flatMap (fun b => bytesOf 2 b))] c.done c.done c.lines s1 = ((pos, sw), .ok () s2)) :
    Happens (.qntCommandComplete id) s (countCmd c (pos - c.done)
      (onGroup c.grp (fun g => { g with fpstat := g.fpstat ||| out.2.2.2 }) (finishCmd c sw s2))) := by
  subst hrows hcols hf hesz ho hscl
  have h0 : 0 ≠ fld d3 0 12 * fld d3 12 12 * (if fld d3 44 2 = 0 then 4 else 2) :=
    (Nat.mul_ne_zero (Nat.mul_ne_zero hr0 hc0) (by split <;> omega)).symm
  exact runQnt_completes hk hw (qntRead_fresh hread hsrcs h0 he) hs ▸ qnt_event hc hk

/-- R236: ENGINE_TRANSLATION_FAULT is the event of an engine that pauses, and of no other. -/
theorem engine_pauses {id : Nat} {c : Cmd} {s : State} (hc : cmdOf s id = some c) :
    (∀ d s1, c.paused = none → c.lost = false → runCmd (cmdBytes c) c s = s1 → cmdOf s1 id = some d →
      (d.paused.isSome = true → Happens (.engineTranslationFault id) s s1) ∧ (d.paused = none → Happens (.engineTranslationFault id) s s)) ∧
    (c.paused.isSome = true ∨ c.lost = true → Happens (.engineTranslationFault id) s s) := by
  constructor
  · intro d s1 hp hl hrun hd
    have hfault : faultCmd id s = if d.paused.isSome then s1 else s := by
      simp [faultCmd, hc, hp, hl, hrun, hd]
    constructor
    · exact fun h => happens_of_event rfl (hfault.trans (if_pos h))
    · exact fun h => happens_of_event rfl (hfault.trans (if_neg (by simp [h])))
  · intro h
    refine happens_of_event rfl ?_
    simp only [faultCmd, hc]
    exact if_pos (by simpa using h)

end Sys2Proof.Proofs
end

section
/-! PROOF. BATCH_COMPLETE (R151, R152): the oldest batch of the current group completes, with the one operation that is left of it. -/

namespace Sys2Proof.Proofs

open Sys2Proof.Machine Sys2Proof.Safety Sys2Proof.Laws

/-! Batches (R151, R152). -/

/-- No other live group has the current group's id. -/
def OnlyCurrent (s : State) : Prop := s.g.live = true ∧ ∀ g ∈ s.others, g.live = true → g.id ≠ s.g.id

theorem find_current {s : State} (h : s.g.live = true) : (allGroups s).find? (fun g => g.live && g.id == s.g.id) = some s.g := by
  simp [allGroups, h]

/-- An update of the current group by its id touches no other group. -/
theorem onGroup_current (f : Group → Group) {s : State} (h : OnlyCurrent s) : onGroup s.g.id f s = { s with g := f s.g } := by
  obtain ⟨hl, ho⟩ := h
  have hmap : s.others.map (fun g => if g.live && g.id == s.g.id then f g else g) = s.others := by
    refine (List.map_congr_left fun g hg => ?_).trans (List.map_id _)
    by_cases hg1 : g.live = true
    · simp [ho g hg hg1]
    · simp [hg1]
  simp only [onGroup, mapGroups, hmap, hl, beq_self_eq_true, Bool.and_self, if_true]

theorem needsOps_current (p : MatOp → Bool) {s : State} (h : OnlyCurrent s) :
    needsOps p s.g.id s = (allOps s.g).any (fun m => !m.done && p m) := by
  obtain ⟨hl, ho⟩ := h
  have hno : s.others.any (fun g => g.live && g.id == s.g.id && (allOps g).any (fun m => !m.done && p m)) = false := by
    rw [List.any_eq_false]
    intro g hg
    by_cases hg1 : g.live = true
    · simp [ho g hg hg1]
    · simp [hg1]
  simp only [needsOps, allGroups, List.any_cons, hno, hl, beq_self_eq_true, Bool.true_and, Bool.or_false]

/-- The first batch completes when its operations are done, and the batches behind it stay where they have operations. -/
theorem completeBatches_first {b : Batch} {r : List Batch} (g : Group) (hd : ∀ m ∈ b.ops, m.done = true) (hr : ∀ x ∈ r, x.ops ≠ []) :
    completeBatches true (b :: r) g = { landBatch b g with batches := r } := by
  have hb : (b.ops.isEmpty || (true && b.ops.all (·.done))) = true := by
    have : b.ops.all (·.done) = true := by simpa using hd
    simp [this]
  rw [completeBatches, if_pos hb]
  cases r with
  | nil => rfl
  | cons c r =>
    have hc : c.ops ≠ [] := hr c (by simp)
    rw [completeBatches, if_neg (by simp [hc])]

/-- The current group's first batch completes. -/
theorem onGroup_completeBatches {b : Batch} {r : List Batch} {s : State} (h : OnlyCurrent s) (hb : s.g.batches = b :: r)
    (hd : ∀ m ∈ b.ops, m.done = true) (hr : ∀ x ∈ r, x.ops ≠ []) :
    onGroup s.g.id (fun g => completeBatches true g.batches g) s = { s with g := { landBatch b s.g with batches := r } } := by
  rw [onGroup_current _ h, hb, completeBatches_first _ hd hr]

/-- A batch whose operations are all performed completes (R152). -/
theorem runBatch_performed {b : Batch} {r : List Batch} {s : State} (h : OnlyCurrent s) (hb : s.g.batches = b :: r)
    (hr : ∀ x ∈ r, x.ops ≠ []) (hd : ∀ m ∈ allOps s.g, m.done = true) :
    runBatch s.g.id s = { s with g := { landBatch b s.g with batches := r } } := by
  have hn : needsOps allDue s.g.id s = false := by
    rw [needsOps_current allDue h, List.any_eq_false]
    intro m hm
    simp [hd m hm]
  have hw : runWhile allDue s.g.id b.ops.length s = s := by
    cases b.ops.length with
    | zero => rfl
    | succ n => rw [runWhile, hn]; rfl
  have hbd : ∀ m ∈ b.ops, m.done = true := fun m hm => hd m (by simp [allOps, hb, hm])
  rw [runBatch, find_current h.1]
  simp only [hb, hw]
  exact onGroup_completeBatches h hb hbd hr

/-- Where no other group of the panel is live, none has a turn first. -/
theorem firstTurns_alone {s : State} (m : MatOp) (h : ∀ x ∈ s.others, x.live = true → x.panel ≠ s.g.panel) : firstTurns s.g m s = s := by
  have hno : (allGroups s).filter (fun x => x.live && x.panel == s.g.panel && x.id != s.g.id) = [] := by
    rw [List.filter_eq_nil_iff]
    intro x hx
    rcases List.mem_cons.mp hx with rfl | hx
    · simp
    · by_cases hx1 : x.live = true
      · simp [h x hx hx1]
      · simp [hx1]
  rw [firstTurns, hno]
  rfl

/-- The one operation that is left of the oldest batch is performed. -/
theorem onNextOp_only {g : Group} {b : Batch} {r : List Batch} {m : MatOp} (f : MatOp → MatOp) (hb : g.batches = b :: r) (ho : b.ops = [m])
    (hd : m.done = false) : onNextOp f g = { g with batches := { b with ops := [f m] } :: r } := by
  have hs : setFirstBatch f (b :: r) = some ({ b with ops := [f m] } :: r) := by
    simp [setFirstBatch, ho, setFirst, hd]
  rw [onNextOp, hb, hs]

/-- The arrays perform the one operation that is left of the current group's oldest batch. -/
theorem runOne_only {b : Batch} {r : List Batch} {m m1 : MatOp} {s s1 : State} (hl : s.g.live = true) (hb : s.g.batches = b :: r)
    (ho : b.ops = [m]) (hd : m.done = false) (hp : m.paused = none) (ha : awaitsEngine s s.g m = false)
    (halone : ∀ x ∈ s.others, x.live = true → x.panel ≠ s.g.panel)
    (hop : performOp (cmdWho s (opCmd s.g m)) s.g m (elementLeft m) s = (m1, .ok () s1)) :
    runOne s.g.id s = (true, answered (.arrays s.g.id) (onGroup s.g.id (onNextOp (fun _ => { m1 with done := true })) s1)) := by
  have hready : readyOp s s.g = some m := by
    simp [readyOp, nextOp, allOps, hb, ho, hd, hp, ha]
  rw [runOne, find_current hl]
  simp only [hready, firstTurns_alone m halone, hop]

/-- A batch whose one operation is performed now completes (R152). -/
theorem runBatch_performs {b : Batch} {r : List Batch} {m m1 : MatOp} {s s1 : State} (h : OnlyCurrent s) (hb : s.g.batches = b :: r)
    (hr : ∀ x ∈ r, x.ops ≠ []) (ho : b.ops = [m]) (hd : m.done = false) (hp : m.paused = none) (ha : awaitsEngine s s.g m = false)
    (halone : ∀ x ∈ s.others, x.live = true → x.panel ≠ s.g.panel)
    (hop : performOp (cmdWho s (opCmd s.g m)) s.g m (elementLeft m) s = (m1, .ok () s1)) (hg : s1.g = s.g) (hos : s1.others = s.others) :
    runBatch s.g.id s = { answered (.arrays s.g.id) s1 with
      g := { landBatch { b with ops := [{ m1 with done := true }] } s.g with batches := r } } := by
  have hn : needsOps allDue s.g.id s = true := by
    rw [needsOps_current allDue h]
    simp [allOps, hb, ho, hd, allDue]
  have h1 : OnlyCurrent s1 := by rw [OnlyCurrent, hg, hos]; exact h
  have hstep : onGroup s.g.id (onNextOp (fun _ => { m1 with done := true })) s1 =
      { s1 with g := { s.g with batches := { b with ops := [{ m1 with done := true }] } :: r } } := by
    rw [← hg, onGroup_current _ h1, onNextOp_only _ (hg ▸ hb) ho hd]
  have hw : runWhile allDue s.g.id b.ops.length s =
      answered (.arrays s.g.id) { s1 with g := { s.g with batches := { b with ops := [{ m1 with done := true }] } :: r } } := by
    simp only [ho, List.length_singleton, runWhile, hn, if_true, runOne_only h.1 hb ho hd hp ha halone hop, hstep]
  have h2 : OnlyCurrent (answered (.arrays s.g.id)
      { s1 with g := { s.g with batches := { b with ops := [{ m1 with done := true }] } :: r } }) := by
    obtain ⟨hl, hoth⟩ := h
    exact ⟨hl, fun g hgm => hoth g (hos ▸ hgm)⟩
  rw [runBatch, find_current h.1]
  simp only [hb, hw]
  exact onGroup_completeBatches h2 rfl (by simp) hr

/-- R152: BATCH_COMPLETE of the oldest batch of the current group. -/
theorem batch_completes (b : Batch) (r : List Batch) (s : State) (hl : s.g.live = true)
    (hid : ∀ g ∈ s.others, g.live = true → g.id ≠ s.g.id) (hb : s.g.batches = b :: r) (hr : ∀ x ∈ r, x.ops ≠ []) :
    ((∀ m ∈ allOps s.g, m.done = true) →
      ∃ s2, Happens (.batchComplete s.g.id) s s2 ∧ s2.g.batches = r ∧ s2.g.mstat = b.ops.foldl (fun a m => a ||| m.mstat) s.g.mstat ∧
        s2.g.slstat = b.ops.foldl (fun a m => a ||| m.slst) s.g.slstat ∧ s2.g.openSet = s.g.openSet ∧ s2.others = s.others ∧
        StoresNothing s s2) ∧
    (∀ m m1 s1, b.ops = [m] → m.done = false → m.paused = none → awaitsEngine s s.g m = false →
      (∀ x ∈ s.others, x.live = true → x.panel ≠ s.g.panel) →
      performOp (cmdWho s (opCmd s.g m)) s.g m (elementLeft m) s = (m1, .ok () s1) → s1.g = s.g → s1.others = s.others →
      ∃ s2, Happens (.batchComplete s.g.id) s s2 ∧ s2.g.batches = r ∧ s2.g.mstat = s.g.mstat ||| m1.mstat ∧
        s2.g.slstat = s.g.slstat ||| m1.slst ∧ s2.g.openSet = s.g.openSet ∧ s2.frames = s1.frames ∧ s2.scratch = s1.scratch ∧
        s2.others = s.others ∧ s2.wr = s1.wr) := by
  have h : OnlyCurrent s := ⟨hl, hid⟩
  constructor
  · intro hd
    exact ⟨_, happens_of_event rfl (runBatch_performed h hb hr hd), rfl, rfl, rfl, rfl, rfl, rfl, rfl⟩
  · intro m m1 s1 ho hd hp ha halone hop hg hos
    exact ⟨_, happens_of_event rfl (runBatch_performs h hb hr ho hd hp ha halone hop hg hos), rfl, rfl, rfl, rfl, rfl, rfl, hos, rfl⟩

end Sys2Proof.Proofs
end

section
/-! PROOF. Rays (R303 to R305): triangles by Cramer's rule, the nearest hit, and the delivery of a record. -/

namespace Sys2Proof.Proofs

open Sys2Proof.Machine Sys2Proof.Safety Sys2Proof.Laws

/-! Triangles (R303): Cramer's rule. -/

/-- The point of a ray at `t` is the point of a triangle's plane at `u` and `v`. -/
def Meets (r : Ray) (a b c : Vec3) (t u v : Rat) : Prop :=
  r.o.x + t * r.d.x = a.x + u * (b.x - a.x) + v * (c.x - a.x) ∧ r.o.y + t * r.d.y = a.y + u * (b.y - a.y) + v * (c.y - a.y) ∧
    r.o.z + t * r.d.z = a.z + u * (b.z - a.z) + v * (c.z - a.z)

/-- The determinant that the rule divides by is the ray's direction along the triangle's normal, negated. -/
theorem triple_eq_neg (d e f : Vec3) : dot3 e (cross3 d f) = -dot3 d (cross3 e f) := by
  simp only [dot3, cross3]
  ring

/-- A ray that does not lie along the plane meets it in one point. -/
theorem meets_iff {r : Ray} {a b c : Vec3} {D : Rat} (hD : D = dot3 (vsub3 b a) (cross3 r.d (vsub3 c a))) (h0 : D ≠ 0) (t u v : Rat) :
    Meets r a b c t u v ↔ u = dot3 (vsub3 r.o a) (cross3 r.d (vsub3 c a)) / D ∧
      v = dot3 r.d (cross3 (vsub3 r.o a) (vsub3 b a)) / D ∧ t = dot3 (vsub3 c a) (cross3 (vsub3 r.o a) (vsub3 b a)) / D := by
  simp only [Meets, dot3, cross3, vsub3] at hD ⊢
  constructor
  · rintro ⟨hx, hy, hz⟩
    refine ⟨(eq_div_iff h0).mpr ?_, (eq_div_iff h0).mpr ?_, (eq_div_iff h0).mpr ?_⟩
    · rw [hD]
      linear_combination (r.d.z * (c.y - a.y) - r.d.y * (c.z - a.z)) * hx + (r.d.x * (c.z - a.z) - r.d.z * (c.x - a.x)) * hy +
        (r.d.y * (c.x - a.x) - r.d.x * (c.y - a.y)) * hz
    · rw [hD]
      linear_combination (r.d.y * (b.z - a.z) - r.d.z * (b.y - a.y)) * hx + (r.d.z * (b.x - a.x) - r.d.x * (b.z - a.z)) * hy +
        (r.d.x * (b.y - a.y) - r.d.y * (b.x - a.x)) * hz
    · rw [hD]
      linear_combination ((b.z - a.z) * (c.y - a.y) - (b.y - a.y) * (c.z - a.z)) * hx +
        ((b.x - a.x) * (c.z - a.z) - (b.z - a.z) * (c.x - a.x)) * hy + ((b.y - a.y) * (c.x - a.x) - (b.x - a.x) * (c.y - a.y)) * hz
  · rintro ⟨rfl, rfl, rfl⟩
    refine ⟨mul_left_cancel₀ h0 ?_, mul_left_cancel₀ h0 ?_, mul_left_cancel₀ h0 ?_⟩ <;>
    · field_simp
      rw [hD]
      ring

/-- The hit at given coordinates is taken where they lie in the triangle and within the ray's limits. -/
theorem hitWithin_iff {r : Ray} {w : Nat} {T U V : Rat} {below : Bool} (hb : below = true ↔ ∀ x, r.hi = some x → T ≤ x) (h : RayHit) :
    (if 0 ≤ U ∧ 0 ≤ V ∧ U + V ≤ 1 ∧ r.lo ≤ T ∧ below = true then some (⟨T, U, V, w⟩ : RayHit) else none) = some h ↔
      h.w = w ∧ (h.u = U ∧ h.v = V ∧ h.t = T) ∧ 0 ≤ h.u ∧ 0 ≤ h.v ∧ h.u + h.v ≤ 1 ∧ r.lo ≤ h.t ∧ ∀ x, r.hi = some x → h.t ≤ x := by
  rw [Option.ite_none_right_eq_some, Option.some.injEq]
  constructor
  · rintro ⟨⟨hu, hv, huv, hlo, hhi⟩, rfl⟩
    exact ⟨rfl, ⟨rfl, rfl, rfl⟩, hu, hv, huv, hlo, hb.mp hhi⟩
  · rintro ⟨hw, ⟨rfl, rfl, rfl⟩, hu, hv, huv, hlo, hhi⟩
    exact ⟨⟨hu, hv, huv, hlo, hb.mpr hhi⟩, by rw [← hw]⟩

/-- R303: a triangle is hit exactly where the ray meets its plane inside it and within its limits, unless it is culled. -/
theorem triHit_iff (r : Ray) (cull : Bool) (a b c : Vec3) (w : Nat) {dn : Rat} (hdn : dn = dot3 r.d (cross3 (vsub3 b a) (vsub3 c a)))
    (h : RayHit) : triHit r cull a b c w = some h ↔
      h.w = w ∧ dn ≠ 0 ∧ (cull = true → dn ≤ 0) ∧ Meets r a b c h.t h.u h.v ∧ 0 ≤ h.u ∧ 0 ≤ h.v ∧ h.u + h.v ≤ 1 ∧ r.lo ≤ h.t ∧
      ∀ x, r.hi = some x → h.t ≤ x := by
  rw [triHit]
  simp only [← hdn]
  by_cases hcull : dn = 0 ∨ (cull = true ∧ 0 < dn)
  · rw [if_pos hcull]
    refine iff_of_false (by simp) fun ⟨_, h0, hc, _⟩ => ?_
    rcases hcull with h | ⟨h, hp⟩
    · exact h0 h
    · exact absurd (hc h) (not_le.mpr hp)
  · rw [if_neg hcull]
    obtain ⟨h0, hc⟩ := not_or.mp hcull
    have hD : dot3 (vsub3 b a) (cross3 r.d (vsub3 c a)) ≠ 0 := by
      rw [triple_eq_neg, ← hdn]
      exact neg_ne_zero.mpr h0
    have hcull' : cull = true → dn ≤ 0 := fun hb => not_lt.mp fun hp => hc ⟨hb, hp⟩
    rw [meets_iff rfl hD]
    refine (hitWithin_iff (by cases r.hi <;> simp) h).trans ?_
    exact ⟨fun ⟨hw, hin⟩ => ⟨hw, h0, hcull', hin⟩, fun ⟨hw, _, _, hin⟩ => ⟨hw, hin⟩⟩

/-! Rays (R303 to R305). -/

/-- A hit is no farther than another, and of equal ones not of a larger word 3. -/
def Nearest (k m : RayHit) : Prop := k.t < m.t ∨ (k.t = m.t ∧ k.w ≤ m.w)

theorem nearestHit_spec {hits : List RayHit} (h : hits ≠ []) : ∃ k ∈ hits, nearestHit hits = some k ∧ ∀ m ∈ hits, Nearest k m := by
  induction hits with
  | nil => exact absurd rfl h
  | cons x r ih =>
    rcases eq_or_ne r [] with rfl | hr
    · exact ⟨x, by simp, rfl, by simp [Nearest]⟩
    · obtain ⟨k, hk, hn, hb⟩ := ih hr
      rw [nearestHit, hn]
      by_cases hlt : k.t < x.t ∨ (k.t = x.t ∧ k.w < x.w)
      · refine ⟨k, List.mem_cons_of_mem x hk, if_pos hlt, fun m hm => ?_⟩
        rcases List.mem_cons.mp hm with rfl | hm
        · exact hlt.imp id fun ⟨he, hw⟩ => ⟨he, hw.le⟩
        · exact hb m hm
      · refine ⟨x, List.mem_cons_self, if_neg hlt, fun m hm => ?_⟩
        obtain ⟨ht, hw⟩ := not_or.mp hlt
        have hxk : Nearest x k := by
          rcases lt_or_eq_of_le (not_lt.mp ht) with h | h
          · exact .inl h
          · exact .inr ⟨h, not_lt.mp fun h' => hw ⟨h.symm, h'⟩⟩
        rcases List.mem_cons.mp hm with rfl | hm
        · exact .inr ⟨rfl, le_refl _⟩
        · rcases hxk, hb m hm with ⟨h1 | ⟨h1, w1⟩, h2 | ⟨h2, w2⟩⟩
          · exact .inl (h1.trans h2)
          · exact .inl (h2 ▸ h1)
          · exact .inl (h1 ▸ h2)
          · exact .inr ⟨h1.trans h2, w1.trans w2⟩

/-- A ray with hits delivers one of them, without ANYHIT the nearest. -/
theorem chooseHit_spec (any : Bool) {hits : List RayHit} (s : State) (h : hits ≠ []) :
    ∃ k ∈ hits, chooseHit any hits s = some k ∧ (any = false → ∀ m ∈ hits, Nearest k m) := by
  cases any with
  | true =>
    have hlt : Config.choose s.free 0 % hits.length < hits.length := Nat.mod_lt _ (List.length_pos_iff.mpr h)
    exact ⟨_, List.getElem_mem hlt, List.getElem?_eq_getElem hlt, by simp⟩
  | false =>
    obtain ⟨k, hk, hn, hb⟩ := nearestHit_spec h
    exact ⟨k, hk, hn, fun _ => hb⟩

theorem chooseHit_nil (any : Bool) (s : State) : chooseHit any [] s = none := by
  cases any <;> rfl

theorem rayRecord_length (h : Option RayHit) (user : List W32) : (rayRecord h user).length = 32 := by
  cases h <;> rfl

/-- The hits of a ray of a command and the state in which they are known: none for a ray that cannot hit, else those of the leaves that it
comes to. -/
def RayFinds (c : Cmd) (d : List W64) (r : RayLane) (s : State) (hits : List RayHit) (s1 : State) : Prop :=
  (rayOf r.ray = none ∧ hits = [] ∧ s1 = bump s) ∨
  ∃ ray, rayOf r.ray = some ray ∧
    visitTree (cmdWho (bump s) c) c.panel ray (bit (d.getD 3 0) 39) (2 ^ 57) [((d.getD 0 0).toNat, true)] [] [] (bump s) = .ok hits s1

/-- The state after the delivery of the only ray of a command whose results go to scratchpad. -/
def rayDelivered (c : Cmd) (d : List W64) (r : RayLane) (hits : List RayHit) (s : State) : State :=
  cleanBins (dropRay c.id 0 (bump (scrWrite s c.panel (fld (d.getD 3 0) 0 21 + 32 * r.lane)
    (rayRecord (chooseHit (bit (d.getD 3 0) 38) hits s) r.user))))

theorem castRays_one {c : Cmd} {d : List W64} {r : RayLane} {hits : List RayHit} {s s1 : State} (hl : raysLeft c.id s = [r])
    (hb : c.bar = none) (hf : RayFinds c d r s hits s1) : castRays c false d 1 s = .ok () (rayDelivered c d r hits s1) := by
  rw [castRays, hl]
  simp only [List.length_singleton, Nat.mod_one, List.getD_cons_zero]
  rcases hf with ⟨hr, rfl, rfl⟩ | ⟨ray, hr, hv⟩
  · rw [hr]
    simp only [Eng.bind, deliverRay, Bool.not_false, if_true, castRays, countCmd_none hb]
    rfl
  · rw [hr]
    dsimp only
    rw [hv]
    simp only [Eng.bind, deliverRay, Bool.not_false, if_true, castRays, countCmd_none hb]
    rfl

theorem rayDelivered_storesNothing {c : Cmd} {d : List W64} {r : RayLane} {hits : List RayHit} {s s1 : State} (h : StoresNothing s s1) :
    StoresNothing s (rayDelivered c d r hits s1) := by
  obtain ⟨m, hm⟩ := scrWrite_frame (rayRecord (chooseHit (bit (d.getD 3 0) 38) hits s1) r.user) c.panel
    (fld (d.getD 3 0) 0 21 + 32 * r.lane) s1
  rw [rayDelivered, hm]
  exact h

theorem scrRead_of_scratch {s t : State} (h : s.scratch = t.scratch) (p k n : Nat) : scrRead s p k n = scrRead t p k n :=
  scrRead_congr fun _ _ => by rw [h]

theorem rayDelivered_record (c : Cmd) (d : List W64) (r : RayLane) (hits : List RayHit) (s : State) :
    scrRead (rayDelivered c d r hits s) c.panel (fld (d.getD 3 0) 0 21 + 32 * r.lane) 32 =
      rayRecord (chooseHit (bit (d.getD 3 0) 38) hits s) r.user := by
  have hs : (rayDelivered c d r hits s).scratch = (scrWrite s c.panel (fld (d.getD 3 0) 0 21 + 32 * r.lane)
    (rayRecord (chooseHit (bit (d.getD 3 0) 38) hits s) r.user)).scratch := rfl
  rw [scrRead_of_scratch hs]
  exact scrRead_scrWrite_same _ _ _ _ (rayRecord_length _ _).symm

theorem endedRays_storesNothing (c : Cmd) (x : Swatch) {s t : State} (h : StoresNothing s t) :
    StoresNothing s (cleanBins (finishCmd c x t)) := h

theorem endedRays_scrRead (c : Cmd) (x : Swatch) (t : State) (p k n : Nat) :
    scrRead (cleanBins (finishCmd c x t)) p k n = scrRead t p k n :=
  scrRead_of_scratch (s := cleanBins (finishCmd c x t)) (t := t) rfl p k n

/-- R304, R305: a command of one ray delivers its record to scratchpad, and is gone. -/
theorem ray_delivers {id : Nat} {c : Cmd} {d : List W64} {r : RayLane} {hits : List RayHit} {s s1 : State} (hc : cmdOf s id = some c)
    (hk : c.kind = .ray false d [r]) (hw : waits s c = false) (hb : c.bar = none) (hf : RayFinds c d r s hits s1) :
    ∃ s2, Happens (.rayqCommandComplete id) s s2 ∧ (∀ x ∈ s2.cmds, x.id ≠ id) ∧ (StoresNothing s s1 → StoresNothing s s2) ∧
      scrRead s2 c.panel (fld (d.getD 3 0) 0 21 + 32 * r.lane) 32 = rayRecord (chooseHit (bit (d.getD 3 0) 38) hits s1) r.user := by
  have hid := cmdOf_id hc
  have hl : raysLeft c.id s = [r] := by
    have hfind : s.cmds.find? (fun x => x.id == c.id) = some c := hid ▸ hc
    rw [raysLeft, hfind]
    simp only [hk]
  have hrun : runCmdIf (fun k => match k with | .ray .. => true | _ => false) 0 id s =
      cleanBins (finishCmd c ((((rayDelivered c d r hits s1).cmds.find? (fun x => x.id == c.id)).map (·.lines)).getD 0)
        (rayDelivered c d r hits s1)) := by
    rw [runCmdIf_of_cmdOf hc (by rw [hk]), runCmd, hk]
    simp only [runRays, hk, hw, Bool.false_eq_true, if_false, List.length_singleton, castRays_one hl hb hf]
  refine ⟨_, happens_of_event rfl hrun, hid ▸ finishCmd_gone c _ _, ?_, ?_⟩
  · exact fun h => endedRays_storesNothing c _ (rayDelivered_storesNothing h)
  · exact (endedRays_scrRead c _ _ _ _ _).trans (rayDelivered_record c d r hits s1)

end Sys2Proof.Proofs
end

section
/-! PROOF. What a run over distinct places leaves at one of them, exact sums of finite values, and float matrix products (R132, R145,
R146). -/

namespace Sys2Proof.Proofs

open Sys2Proof.Machine Sys2Proof.Safety Sys2Proof.Laws

/-! What a run over distinct places leaves at one of them. -/

section
variable {σ ι α : Type}

/-- Steps that leave an observation alone do so one after another. -/
theorem foldl_untouched {step : σ → ι → σ} {obs : σ → α} {l : List ι} (h : ∀ z, ∀ e ∈ l, obs (step z e) = obs z) (z : σ) :
    obs (l.foldl step z) = obs z := by
  induction l generalizing z with
  | nil => rfl
  | cons e r ih => rw [List.foldl_cons, ih fun z x hx => h z x (List.mem_cons_of_mem e hx), h z e List.mem_cons_self]

/-- Where one step alone changes an observation, it is changed once. -/
theorem foldl_once {step : σ → ι → σ} {obs : σ → α} {f : α → α} {l : List ι} {i : ι} (hd : l.Nodup) (hi : i ∈ l)
    (ho : ∀ z, ∀ e ∈ l, e ≠ i → obs (step z e) = obs z) (hf : ∀ z, obs (step z i) = f (obs z)) (z : σ) :
    obs (l.foldl step z) = f (obs z) := by
  induction l generalizing z with
  | nil => exact absurd hi List.not_mem_nil
  | cons e r ih =>
    obtain ⟨hne, hr⟩ := List.nodup_cons.mp hd
    have ho' : ∀ z, ∀ x ∈ r, x ≠ i → obs (step z x) = obs z := fun z x hx => ho z x (List.mem_cons_of_mem e hx)
    rw [List.foldl_cons]
    rcases List.mem_cons.mp hi with rfl | hir
    · rw [foldl_untouched fun z x hx => ho' z x hx fun h => hne (h ▸ hx), hf]
    · rw [ih hr hir ho', ho z e List.mem_cons_self fun h => hne (h ▸ hir)]

/-- The same over the places of a grid, row by row. -/
theorem foldl_grid_once {step : σ → Nat → Nat → σ} {obs : σ → α} {f : α → α} {m n i j : Nat} (hi : i < m) (hj : j < n)
    (ho : ∀ z r c, r < m → c < n → (r ≠ i ∨ c ≠ j) → obs (step z r c) = obs z) (hf : ∀ z, obs (step z i j) = f (obs z)) (z : σ) :
    obs ((List.range m).foldl (fun z r => (List.range n).foldl (fun z c => step z r c) z) z) = f (obs z) := by
  refine foldl_once List.nodup_range (List.mem_range.mpr hi) (fun z r hr hne => ?_) (fun z => ?_) z
  · exact foldl_untouched (fun z c hc => ho z r c (List.mem_range.mp hr) (List.mem_range.mp hc) (.inl hne)) z
  · refine foldl_once (step := fun z c => step z i c) List.nodup_range (List.mem_range.mpr hj) (fun z c hc hne => ?_) hf z
    exact ho z i c hi (List.mem_range.mp hc) (.inr hne)

end

/-! FiniteAs values without rounding. -/

/-- A finite value with its rational. -/
def FiniteAs (x : FVal) (z : Rat) : Prop := ∃ n m, 0 ≤ m ∧ x = .fin n m ∧ x.toRat = z

theorem finite_xrat (z : Rat) : FiniteAs (xrat z) z := by
  refine ⟨_, _, ?_, rfl, xrat_toRat z⟩
  split <;> linarith

/-- A finite value that is not zero is its rational's. -/
theorem FiniteAs.eq_xrat {x : FVal} {z : Rat} (h : FiniteAs x z) (h0 : x.isZero = false) : x = xrat z := by
  obtain ⟨n, m, hm, rfl, rfl⟩ := h
  have hpos : 0 < m := lt_of_le_of_ne hm fun h => by simp [FVal.isZero, ← h] at h0
  cases n with
  | false => simp [xrat, FVal.toRat, not_lt.mpr hm]
  | true => simp [xrat, FVal.toRat, hpos]

theorem FiniteAs.zero {x : FVal} {z : Rat} (h : FiniteAs x z) (h0 : x.isZero = true) : z = 0 := by
  obtain ⟨n, m, -, rfl, rfl⟩ := h
  obtain rfl : m = 0 := by simpa [FVal.isZero] using h0
  simp [FVal.toRat]

theorem FiniteAs.xmul {x y : FVal} {a b : Rat} (hx : FiniteAs x a) (hy : FiniteAs y b) : FiniteAs (xmul x y) (a * b) := by
  obtain ⟨n, m, hm, rfl, rfl⟩ := hx
  obtain ⟨k, l, hl, rfl, rfl⟩ := hy
  have hml : 0 ≤ m * l := mul_nonneg hm hl
  refine ⟨n != k, _, ?_, rfl, ?_⟩
  · dsimp only
    split <;> linarith
  · cases n <;> cases k <;> simp [Machine.xmul, FVal.toRat, FVal.isNaN, FVal.isInf, FVal.neg] <;> intro <;> linarith

theorem FiniteAs.xadd {x y : FVal} {a b : Rat} (hx : FiniteAs x a) (hy : FiniteAs y b) : FiniteAs (xadd x y) (a + b) := by
  obtain ⟨n, m, hm, rfl, rfl⟩ := hx
  obtain ⟨k, l, hl, rfl, rfl⟩ := hy
  have he : Machine.xadd (.fin n m) (.fin k l) = if ((FVal.fin n m).isZero && (FVal.fin k l).isZero && n && k) = true then .fin true 0
    else xrat ((FVal.fin n m).toRat + (FVal.fin k l).toRat) := rfl
  rw [he]
  split
  · rename_i hz
    simp only [FVal.isZero, Bool.and_eq_true, beq_iff_eq] at hz
    obtain ⟨⟨⟨rfl, rfl⟩, -⟩, -⟩ := hz
    exact ⟨true, 0, le_rfl, rfl, by simp [FVal.toRat]⟩
  · exact finite_xrat _

theorem finite_foldl {f : Nat → FVal} {z : Nat → Rat} {l : List Nat} (h : ∀ j ∈ l, FiniteAs (f j) (z j)) {x : FVal} {a : Rat}
    (hx : FiniteAs x a) : FiniteAs ((l.map f).foldl xadd x) (a + (l.map z).sum) := by
  induction l generalizing x a with
  | nil => simpa using hx
  | cons j r ih =>
    rw [List.map_cons, List.foldl_cons, List.map_cons, List.sum_cons, ← add_assoc]
    exact ih (fun i hi => h i (List.mem_cons_of_mem j hi)) (hx.xadd (h j List.mem_cons_self))

/-- The sum of a chunk's products (R132, R146). -/
theorem chunkSum_finite {f h : Nat → FVal} {a b : Nat → Rat} {l : List Nat} (hf : ∀ j ∈ l, FiniteAs (f j) (a j))
    (hh : ∀ j ∈ l, FiniteAs (h j) (b j)) : chunkSum (l.map f) (l.map h) = xrat (l.map (fun j => a j * b j)).sum := by
  have hp := finite_foldl (fun j hj => (hf j hj).xmul (hh j hj)) (finite_xrat 0)
  rw [zero_add] at hp
  simp only [chunkSum, List.zipWith_map, List.zipWith_self]
  split
  · rename_i hz
    rw [hp.zero hz]
  · rename_i hz
    exact hp.eq_xrat (Bool.not_eq_true _ ▸ hz)

/-! Accumulation in FP32 (R145, R146). -/

/-- A chunk's sum is added with one rounding; a NaN stays. -/
def addChunk (c : Nat) (x : Rat) : Nat := if (decodeF f32 c).isNaN then c else (sumF f32 .ne (decodeF f32 c) (xrat x)).bits

theorem accFp_xrat (c : Nat × BitVec 3) (x : Rat) : (accFp c (xrat x)).1 = addChunk c.1 x := by
  simp only [accFp, addChunk]
  split <;> rfl

theorem foldl_accFp (f : Nat → Rat) (l : List Nat) (c : Nat × BitVec 3) :
    ((l.map (fun q => xrat (f q))).foldl accFp c).1 = l.foldl (fun c q => addChunk c (f q)) c.1 := by
  rw [List.foldl_map]
  exact (List.foldl_hom Prod.fst (fun c q => (accFp_xrat c (f q)).symm)).symm

/-! The operands (R132, R145). -/

theorem finite_decodeF {f : Fmt} {code : Nat} {z : Rat} (h : ∃ n x, decodeF f code = .fin n x ∧ z = if n then -x else x) :
    FiniteAs (decodeF f code) z := by
  obtain ⟨n, x, hx, rfl⟩ := h
  exact ⟨n, x, decodeF_nonneg hx, hx, by rw [hx]; rfl⟩

/-- An element of a float operand without scales. -/
theorem sideElem_float {g : Group} {s : State} {x : MatSide} {f : Fmt} {z : Rat} (band : FVal) {r k : Nat} (hs : x.sel = 0)
    (hf : ttFmt x.tt = some f)
    (h : FiniteAs (decodeF f (if x.kRow then tileElem g x.tile x.tt k r else tileElem g x.tile x.tt r k)) z) :
    FiniteAs (sideElem g s x band r k) z := by
  have he : sideElem g s x band r k = decodeF f (if x.kRow then tileElem g x.tile x.tt k r else tileElem g x.tile x.tt r k) := by
    obtain ⟨n, m, -, hx, -⟩ := h
    simp [sideElem, hs, hf, hx, asCause, FVal.isNaN]
  exact he ▸ h

/-- Row `r` of an operand, cut into chunks along K. -/
def sideRow (g : Group) (s : State) (x : MatSide) (band : FVal) (n r : Nat) : List (List FVal) :=
  (List.range ((x.k + n - 1) / n)).map (fun q =>
    ((List.range n).filter (fun j => decide (q * n + j < x.k))).map (fun j => sideElem g s x band r (q * n + j)))

theorem sideRows_eq (g : Group) (s : State) (x : MatSide) : ∃ band, sideRows g s x = (List.range x.rows).map (sideRow g s x band (chunkLen x.tt)) :=
  ⟨if x.sel = 2 then bandOf s g.panel x else xrat 1, rfl⟩

/-- The exact sum of the products of chunk `q` of two rows. -/
def chunkProduct (a b : Nat → Rat) (n k q : Nat) : Rat :=
  (((List.range n).filter (fun j => decide (q * n + j < k))).map (fun j => a (q * n + j) * b (q * n + j))).sum

/-- Accumulating two rows of finite elements chunk by chunk. -/
theorem foldl_sideRows {g : Group} {s : State} {x y : MatSide} {bx by_ : FVal} {n i j : Nat} {a b : Nat → Rat} (hk : x.k = y.k)
    (ha : ∀ k, k < x.k → FiniteAs (sideElem g s x bx i k) (a k)) (hb : ∀ k, k < x.k → FiniteAs (sideElem g s y by_ j k) (b k))
    (c : Nat × BitVec 3) :
    ((List.zipWith chunkSum (sideRow g s x bx n i) (sideRow g s y by_ n j)).foldl accFp c).1 =
      (List.range ((x.k + n - 1) / n)).foldl (fun c q => addChunk c (chunkProduct a b n x.k q)) c.1 := by
  rw [sideRow, sideRow, ← hk, List.zipWith_map, List.zipWith_self, ← foldl_accFp]
  congr 3
  funext q
  refine chunkSum_finite (fun k hk => ha _ ?_) (fun k hk => hb _ ?_) <;>
  · simpa using (List.mem_filter.mp hk).2

/-! The frame elements. -/

/-- The operand that gives the rows of the result, and the one that gives its columns. -/
def sideA (m : MatOp) : MatSide := ⟨m.a, tcTT m.tctlA, false, m.sel, fld m.scale 0 21, tcRows m.tctlA, tcCols m.tctlA⟩
def sideB (m : MatOp) : MatSide :=
  ⟨m.b, tcTT m.tctlB, m.kind = .mmax, m.sel, fld m.scale 32 21, if m.kind = .mmax then tcCols m.tctlB else tcRows m.tctlB, tcCols m.tctlA⟩

/-- What a float operation does at one element, with the flags so far: nothing, or the accumulation of its chunks. -/
def addFloat (g : Group) (m : MatOp) (p : Nat → Bool) (ra rb : Nat → List (List FVal)) (z : BitVec 3 × State) (i j : Nat) : BitVec 3 × State :=
  if !p (64 * i + j) then z else
  let c := (List.zipWith chunkSum (ra i) (rb j)).foldl accFp
    (if m.kind = .mmaz then 0 else (frameGet z.2 g.panel m.d (64 * i + j)).toNat, z.1)
  (c.2, frameSet g.panel m.d (64 * i + j) (BitVec.ofNat 32 c.1) z.2)

theorem performMma_float {g : Group} {m : MatOp} {f : Fmt} (p : Nat → Bool) (s : State) (hs : m.sel = 0) (hf : ttFmt (tcTT m.tctlA) = some f) :
    ∃ bx by_, (performMma g m p s).2 = ((List.range (sideA m).rows).foldl (fun z i => (List.range (sideB m).rows).foldl (fun z j =>
      addFloat g m p (sideRow g s (sideA m) bx (chunkLen (sideA m).tt)) (sideRow g s (sideB m) by_ (chunkLen (sideB m).tt)) z i j) z)
      (m.mstat, s)).2 := by
  obtain ⟨bx, ha⟩ := sideRows_eq g s (sideA m)
  obtain ⟨by_, hb⟩ := sideRows_eq g s (sideB m)
  have hacc : intFrame (tcTT m.tctlA) m.sel = false := by
    have h0 : tcTT m.tctlA ≠ 0 := fun h => by simp [h, ttFmt] at hf
    simp [intFrame, hs, h0]
  refine ⟨bx, by_, ?_⟩
  simp only [sideA, sideB] at ha hb ⊢
  simp only [performMma, ha, hb, indexed_map_range, List.foldl_map, hacc, Bool.false_eq_true, if_false, addFloat]

/-- One element of a float operation. -/
theorem frameGet_addFloat {g : Group} {m : MatOp} {p : Nat → Bool} {ra rb : Nat → List (List FVal)} {i j : Nat} (z : BitVec 3 × State)
    (hp : p (64 * i + j) = true) : frameGet (addFloat g m p ra rb z i j).2 g.panel m.d (64 * i + j) =
      BitVec.ofNat 32 ((List.zipWith chunkSum (ra i) (rb j)).foldl accFp
        (if m.kind = .mmaz then 0 else (frameGet z.2 g.panel m.d (64 * i + j)).toNat, z.1)).1 := by
  simp only [addFloat, hp, Bool.not_true, Bool.false_eq_true, if_false]
  rw [frameGet_frameSet, if_pos rfl]

theorem frameGet_addFloat_other {g : Group} {m : MatOp} {p : Nat → Bool} {ra rb : Nat → List (List FVal)} {i j r c : Nat}
    (z : BitVec 3 × State) (hc : c < 64) (hj : j < 64) (h : r ≠ i ∨ c ≠ j) :
    frameGet (addFloat g m p ra rb z r c).2 g.panel m.d (64 * i + j) = frameGet z.2 g.panel m.d (64 * i + j) := by
  unfold addFloat
  split
  · rfl
  · rw [frameGet_frameSet, if_neg fun hk => ?_]
    have := frameKey_injective hk
    omega

/-- R145: each selected element of a float operation on finite elements has its chunks added in turn. -/
theorem performMma_element {g : Group} {m : MatOp} {p : Nat → Bool} {s : State} {fa fb : Fmt} {a b : Nat → Nat → Rat} {i j : Nat}
    (hs : m.sel = 0) (hfa : ttFmt (tcTT m.tctlA) = some fa) (hfb : ttFmt (tcTT m.tctlB) = some fb)
    (hlen : chunkLen (tcTT m.tctlB) = chunkLen (tcTT m.tctlA)) (hcols : (sideB m).rows ≤ 64)
    (ha : ∀ k, k < tcCols m.tctlA → FiniteAs (decodeF fa (tileElem g m.a (tcTT m.tctlA) i k)) (a i k))
    (hb : ∀ k, k < tcCols m.tctlA → FiniteAs (decodeF fb (if m.kind = .mmax then tileElem g m.b (tcTT m.tctlB) k j
      else tileElem g m.b (tcTT m.tctlB) j k)) (b j k))
    (hi : i < (sideA m).rows) (hj : j < (sideB m).rows) (hp : p (64 * i + j) = true) :
    frameGet (performMma g m p s).2 g.panel m.d (64 * i + j) =
      BitVec.ofNat 32 ((List.range ((tcCols m.tctlA + chunkLen (tcTT m.tctlA) - 1) / chunkLen (tcTT m.tctlA))).foldl
        (fun c q => addChunk c (chunkProduct (a i) (b j) (chunkLen (tcTT m.tctlA)) (tcCols m.tctlA) q))
        (if m.kind = .mmaz then 0 else (frameGet s g.panel m.d (64 * i + j)).toNat)) := by
  obtain ⟨bx, by_, hm⟩ := performMma_float p s hs hfa
  have hea : ∀ k, k < (sideA m).k → FiniteAs (sideElem g s (sideA m) bx i k) (a i k) := fun k hk =>
    sideElem_float bx hs hfa (by simpa [sideA] using ha k hk)
  have heb : ∀ k, k < (sideB m).k → FiniteAs (sideElem g s (sideB m) by_ j k) (b j k) := fun k hk =>
    sideElem_float by_ hs hfb (by simpa [sideB] using hb k hk)
  have hsum := fun c => foldl_sideRows (n := chunkLen (tcTT m.tctlA)) (show (sideA m).k = (sideB m).k from rfl) hea heb c
  have hrb : sideRow g s (sideB m) by_ (chunkLen (sideB m).tt) = sideRow g s (sideB m) by_ (chunkLen (tcTT m.tctlA)) :=
    congrArg (sideRow g s (sideB m) by_) hlen
  rw [hm, hrb]
  refine foldl_grid_once (obs := fun z => frameGet z.2 g.panel m.d (64 * i + j))
    (f := fun x => BitVec.ofNat 32 ((List.range ((tcCols m.tctlA + chunkLen (tcTT m.tctlA) - 1) / chunkLen (tcTT m.tctlA))).foldl
        (fun c q => addChunk c (chunkProduct (a i) (b j) (chunkLen (tcTT m.tctlA)) (tcCols m.tctlA) q))
        (if m.kind = .mmaz then 0 else x.toNat))) hi hj (fun z r c _ hc hne => ?_) (fun z => ?_) (m.mstat, s)
  · exact frameGet_addFloat_other z (by omega) (by omega) hne
  · exact (frameGet_addFloat z hp).trans (congrArg (BitVec.ofNat 32) (hsum _))

end Sys2Proof.Proofs
end

section
/-! PROOF. Block exponents (R155): what the elements of a vector have shown, the range of exponents, and XSCAN of a scratchpad source. -/

namespace Sys2Proof.Proofs

open Sys2Proof.Machine Sys2Proof.Safety Sys2Proof.Laws

/-! Block exponents (R155). -/

/-- What the first `n` elements of a vector have shown. -/
structure Scanned (x : Nat → FVal) (n : Nat) (a : ScanAcc) : Prop where
  bad : a.bad = true ↔ ∃ k, k < n ∧ ((x k).isNaN = true ∨ (x k).isInf = true)
  above : ∀ k m y, k < n → x k = .fin m y → y ≠ 0 → ∃ e, a.e = some e ∧ log2Rat y ≤ e
  met : ∀ e, a.e = some e → ∃ j m y, j < n ∧ x j = .fin m y ∧ y ≠ 0 ∧ log2Rat y = e

/-- The accumulator over the first `n` elements. -/
def scanned (x : Nat → FVal) (n : Nat) : ScanAcc := (List.range n).foldl (fun a k => scanElem (x k) a) ⟨none, false⟩

theorem scanElem_zero (m : Bool) (a : ScanAcc) : scanElem (.fin m 0) a = a := by
  simp [scanElem]

theorem scanElem_fin (m : Bool) {y : Rat} (h : y ≠ 0) (a : ScanAcc) : ∃ e, scanElem (.fin m y) a = { a with e := some e } ∧
    log2Rat y ≤ e ∧ (∀ e0, a.e = some e0 → e0 ≤ e) ∧ (e = log2Rat y ∨ a.e = some e) := by
  obtain ⟨e, b⟩ := a
  cases e with
  | none => exact ⟨log2Rat y, if_neg h, le_rfl, by simp, .inl rfl⟩
  | some z =>
    refine ⟨max z (log2Rat y), if_neg h, le_max_right _ _, by simp, ?_⟩
    rcases max_choice z (log2Rat y) with h | h <;> simp [h]

theorem scanElem_nonfinite {v : FVal} (h : v.isNaN = true ∨ v.isInf = true) (a : ScanAcc) : scanElem v a = { a with bad := true } := by
  cases v with
  | fin m y => simp [FVal.isNaN, FVal.isInf] at h
  | inf m => rfl
  | nan m q p => rfl

theorem Scanned.zero (x : Nat → FVal) : Scanned x 0 ⟨none, false⟩ := ⟨by simp, by simp, by simp⟩

theorem fin_or_nonfinite (v : FVal) : (∃ m y, v = .fin m y) ∨ (v.isNaN = true ∨ v.isInf = true) := by
  cases v <;> simp [FVal.isNaN, FVal.isInf]

theorem Scanned.succ {x : Nat → FVal} {n : Nat} {a : ScanAcc} (h : Scanned x n a) : Scanned x (n + 1) (scanElem (x n) a) := by
  have hbad : (∃ k, k < n + 1 ∧ ((x k).isNaN = true ∨ (x k).isInf = true)) ↔ a.bad = true ∨ ((x n).isNaN = true ∨ (x n).isInf = true) := by
    rw [h.bad]
    constructor
    · rintro ⟨k, hk, hx⟩
      rcases Nat.lt_succ_iff_lt_or_eq.mp hk with hk | rfl
      · exact .inl ⟨k, hk, hx⟩
      · exact .inr hx
    · rintro (⟨k, hk, hx⟩ | hx)
      · exact ⟨k, by omega, hx⟩
      · exact ⟨n, by omega, hx⟩
  rcases fin_or_nonfinite (x n) with ⟨m, y, hx⟩ | hx
  · have hfin : ¬((x n).isNaN = true ∨ (x n).isInf = true) := by simp [hx, FVal.isNaN, FVal.isInf]
    by_cases h0 : y = 0
    · subst h0
      rw [hx, scanElem_zero]
      refine ⟨by rw [hbad, or_iff_left hfin], fun k m' y' hk hxk hy => ?_, fun e he => ?_⟩
      · rcases Nat.lt_succ_iff_lt_or_eq.mp hk with hk | rfl
        · exact h.above k m' y' hk hxk hy
        · exact absurd (FVal.fin.inj (hx.symm.trans hxk)).2.symm hy
      · obtain ⟨j, m', y', hj, hr⟩ := h.met e he
        exact ⟨j, m', y', by omega, hr⟩
    · obtain ⟨e, he, hle, hmax, hor⟩ := scanElem_fin m h0 a
      rw [hx, he]
      refine ⟨by rw [hbad, or_iff_left hfin], fun k m' y' hk hxk hy => ⟨e, rfl, ?_⟩, fun e' he' => ?_⟩
      · rcases Nat.lt_succ_iff_lt_or_eq.mp hk with hk | rfl
        · obtain ⟨e0, he0, hle0⟩ := h.above k m' y' hk hxk hy
          exact hle0.trans (hmax e0 he0)
        · obtain ⟨-, rfl⟩ := FVal.fin.inj (hx.symm.trans hxk)
          exact hle
      · obtain rfl := Option.some.inj he'
        rcases hor with rfl | hold
        · exact ⟨n, m, y, by omega, hx, h0, rfl⟩
        · obtain ⟨j, m', y', hj, hr⟩ := h.met e hold
          exact ⟨j, m', y', by omega, hr⟩
  · rw [scanElem_nonfinite hx]
    refine ⟨by rw [hbad]; simp [hx], fun k m' y' hk hxk hy => ?_, fun e he => ?_⟩
    · rcases Nat.lt_succ_iff_lt_or_eq.mp hk with hk | rfl
      · exact h.above k m' y' hk hxk hy
      · simp [hxk, FVal.isNaN, FVal.isInf] at hx
    · obtain ⟨j, m', y', hj, hr⟩ := h.met e he
      exact ⟨j, m', y', by omega, hr⟩

theorem scanned_spec (x : Nat → FVal) (n : Nat) : Scanned x n (scanned x n) := by
  induction n with
  | zero => exact Scanned.zero x
  | succ n ih =>
    rw [scanned, List.range_succ, List.foldl_append]
    exact ih.succ

/-! The range of exponents. -/

/-- The finite codes of a format that are not zero lie within its exponents. -/
theorem decodeF_bounds {f : Fmt} {code : Nat} {n : Bool} {y : Rat} (h : decodeF f code = .fin n y) (h0 : y ≠ 0) :
    pow2 (1 - (f.bias : Int) - f.fb) ≤ y ∧ y < pow2 ((2 ^ f.eb : Nat) - (f.bias : Int) + 1) := by
  have key : ∀ (k : Nat) (q : Int), y = k * pow2 q → k < 2 ^ (f.fb + 1) → 1 - (f.bias : Int) - f.fb ≤ q →
      q + f.fb ≤ (2 ^ f.eb : Nat) - (f.bias : Int) → pow2 (1 - (f.bias : Int) - f.fb) ≤ y ∧ y < pow2 ((2 ^ f.eb : Nat) - (f.bias : Int) + 1) := by
    intro k q hy hk hlo hhi
    have hk1 : 1 ≤ k := Nat.one_le_iff_ne_zero.mpr fun hk0 => h0 (by rw [hy, hk0, Nat.cast_zero, zero_mul])
    have hkr : (1 : Rat) ≤ k := by exact_mod_cast hk1
    have hkf : (k : Rat) < pow2 ((f.fb + 1 : Nat) : Int) := by
      rw [pow2_natCast]
      exact_mod_cast hk
    rw [hy]
    constructor
    · calc pow2 (1 - (f.bias : Int) - f.fb) ≤ pow2 q := pow2_le_pow2.mpr hlo
        _ = 1 * pow2 q := (one_mul _).symm
        _ ≤ k * pow2 q := mul_le_mul_of_nonneg_right hkr (pow2_pos q).le
    · calc k * pow2 q < pow2 ((f.fb + 1 : Nat) : Int) * pow2 q := mul_lt_mul_of_pos_right hkf (pow2_pos q)
        _ = pow2 ((f.fb + 1 : Nat) + q) := (pow2_add _ _).symm
        _ ≤ pow2 ((2 ^ f.eb : Nat) - (f.bias : Int) + 1) := pow2_le_pow2.mpr (by push_cast at hhi ⊢; omega)
  have he : bitsOf code f.fb f.eb < 2 ^ f.eb := Nat.mod_lt _ (Nat.two_pow_pos _)
  have hm : bitsOf code 0 f.fb < 2 ^ f.fb := Nat.mod_lt _ (Nat.two_pow_pos _)
  have hp : 2 ^ (f.fb + 1) = 2 ^ f.fb + 2 ^ f.fb := by rw [Nat.pow_succ]; omega
  unfold decodeF at h
  dsimp only at h
  split at h <;> split_ifs at h
  all_goals
    obtain ⟨-, rfl⟩ := FVal.fin.inj h
    exact key _ _ rfl (by omega) (by omega) (by omega)

theorem log2Rat_code {f : Fmt} (hf : f = f32 ∨ f = f64) {code : Nat} {n : Bool} {y : Rat} (h : decodeF f code = .fin n y) (h0 : y ≠ 0) :
    -32768 ≤ log2Rat y ∧ log2Rat y < 32768 := by
  obtain ⟨hlo, hhi⟩ := decodeF_bounds h h0
  have hy : 0 < y := (pow2_pos _).trans_le hlo
  obtain ⟨hs1, hs2⟩ := log2Rat_spec hy
  have h1 := pow2_lt_pow2.mp (hlo.trans_lt hs2)
  have h2 := pow2_lt_pow2.mp (hs1.trans_lt hhi)
  rcases hf with rfl | rfl <;> simp only [f32, f64] at h1 h2 <;> norm_num at h1 h2 <;> omega

theorem sextNat_emod {e : Int} (h1 : -32768 ≤ e) (h2 : e < 32768) : sextNat 16 (e % 65536).toNat = e := by
  unfold sextNat
  split <;> omega

/-- R155: the block exponent of a vector of FP32 or FP64 elements. -/
theorem scanResult_spec {f : Fmt} (hf : f = f32 ∨ f = f64) {x : Nat → FVal} {n : Nat} (hx : ∀ k, k < n → ∃ code, x k = decodeF f code) {e : Nat}
    (he : e = scanResult (scanned x n)) : e < 65536 ∧
      ((∃ k, k < n ∧ ((x k).isNaN = true ∨ (x k).isInf = true)) → e = 0x7FFF) ∧
      ((∀ k, k < n → ∃ m, x k = .fin m 0) → e = 0xFBCE) ∧
      ((∀ k, k < n → ∃ m y, x k = .fin m y) → ∀ k m y, k < n → x k = .fin m y → y ≠ 0 →
        y < pow2 (sextNat 16 e + 1) ∧ ∃ j m1 y1, j < n ∧ x j = .fin m1 y1 ∧ pow2 (sextNat 16 e) ≤ y1) := by
  obtain ⟨hbad, habove, hmet⟩ := scanned_spec x n
  have hgood : (∀ k, k < n → ∃ m y, x k = .fin m y) → (scanned x n).bad = false := fun h => Bool.eq_false_iff.mpr fun hb => by
    obtain ⟨k, hk, hnf⟩ := hbad.mp hb
    obtain ⟨m, y, hy⟩ := h k hk
    simp [hy, FVal.isNaN, FVal.isInf] at hnf
  have hpos : ∀ k m y, k < n → x k = .fin m y → y ≠ 0 → 0 < y := fun k m y hk hxk hy => by
    obtain ⟨code, hc⟩ := hx k hk
    exact lt_of_le_of_ne (decodeF_nonneg (hc.symm.trans hxk)) hy.symm
  refine ⟨?_, fun h => ?_, fun h => ?_, fun h k m y hk hxk hy => ?_⟩
  · rw [he, scanResult]
    split
    · omega
    · split <;> omega
  · rw [he, scanResult, if_pos (hbad.mpr h)]
  · have hnone : (scanned x n).e = none := Option.eq_none_iff_forall_ne_some.mpr fun e' he' => by
      obtain ⟨j, m, y, hj, hxj, hy, -⟩ := hmet e' he'
      obtain ⟨m', hz⟩ := h j hj
      exact hy (FVal.fin.inj (hxj.symm.trans hz)).2
    rw [he, scanResult, hgood fun k hk => (h k hk).imp fun m hm => ⟨0, hm⟩, hnone]
    rfl
  · obtain ⟨e', he', hle⟩ := habove k m y hk hxk hy
    obtain ⟨j, m1, y1, hj, hxj, hy1, hlog⟩ := hmet e' he'
    have hs : sextNat 16 e = e' := by
      obtain ⟨code, hc⟩ := hx j hj
      obtain ⟨h1, h2⟩ := log2Rat_code hf (hc.symm.trans hxj) hy1
      rw [he, scanResult, hgood h, he']
      exact sextNat_emod (hlog ▸ h1) (hlog ▸ h2)
    rw [hs]
    refine ⟨(log2Rat_lt_iff (hpos k m y hk hxk hy) _).mp (by omega), j, m1, y1, hj, hxj, ?_⟩
    rw [← hlog]
    exact (log2Rat_spec (hpos j m1 y1 hj hxj hy1)).1

/-! XSCAN of a scratchpad source (R155). -/

/-- A vector in scratchpad is read through. -/
theorem scanVec_scratch (w : Who) (panel : Nat) (ft : Bool) (step : Nat) (s : State) (n addr k : Nat) (acc : ScanAcc) :
    scanVec w panel true ft step n addr k acc s =
      (((List.range n).foldl (fun a i => scanElem (decodeF (if ft then f32 else f64)
        (natOf (scrRead s panel ((addr + i * step) % 2 ^ 64) (if ft then 4 else 8)))) a) acc, k + n), .ok () s) := by
  induction n generalizing addr k acc with
  | zero => rfl
  | succ n ih =>
    have ha : ∀ i, addr + step + i * step = addr + (i + 1) * step := fun i => by
      rw [Nat.add_one_mul]
      omega
    rw [scanVec, List.range_succ_eq_map, show k + (n + 1) = k + 1 + n by omega]
    simp only [engRead, if_true, ih, List.foldl_cons, List.foldl_map, Nat.zero_mul, Nat.add_zero, ha]

section
variable {panel klen vstep estep src dst esz count : Nat} {ft : Bool} {x : Nat → Nat → FVal}

/-- The elements of the vectors, where scratchpad holds them. -/
def Holds (panel klen vstep estep src count : Nat) (ft : Bool) (x : Nat → Nat → FVal) (s : State) : Prop :=
  ∀ v k, v < count → k < klen → x v k = decodeF (if ft then f32 else f64)
    (natOf (scrRead s panel ((src + v * vstep + k * estep) % 2 ^ 64) (if ft then 4 else 8)))

/-- The vectors from the one at which the operation stands: each leaves its block exponent. -/
theorem scanVecs_scratch (w : Who) (hdst : dst + 2 * count ≤ 2 ^ 21)
    (hapart : ∀ v k, v < count → k < klen → src + v * vstep + k * estep + (if ft then 4 else 8) ≤ 2 ^ 21 ∧
      (src + v * vstep + k * estep + (if ft then 4 else 8) ≤ dst ∨ dst + 2 * count ≤ src + v * vstep + k * estep))
    (n : Nat) (m : MatOp) (s : State) (he : m.elems = 0) (hb : m.big = none) (hbad : m.bad = false) (hn : m.vecs + n = count)
    (hx : Holds panel klen vstep estep src count ft x s) :
    ∃ m1 s1, scanVecs w panel true ft klen vstep estep src dst n m s = (m1, .ok () s1) ∧
      (∀ v, m.vecs ≤ v → v < count → scrRead s1 panel (dst + 2 * v) 2 = bytesOf 2 (scanResult (scanned (x v) klen))) ∧
      ∀ v, v < m.vecs → scrRead s1 panel (dst + 2 * v) 2 = scrRead s panel (dst + 2 * v) 2 := by
  induction n generalizing m s with
  | zero => exact ⟨m, s, rfl, fun v h1 h2 => by omega, fun v _ => rfl⟩
  | succ n ih =>
    have hlt : m.vecs < count := by omega
    have hacc : scanVec w panel true ft estep (klen - m.elems) (src + m.vecs * vstep + m.elems * estep) m.elems ⟨m.big, m.bad⟩ s =
        ((scanned (x m.vecs) klen, klen), .ok () s) := by
      rw [he, hb, hbad, scanVec_scratch, Nat.sub_zero, Nat.zero_mul, Nat.add_zero, Nat.zero_add, scanned]
      congr 2
      refine List.foldl_ext _ _ _ fun a k hk => ?_
      rw [hx m.vecs k hlt (List.mem_range.mp hk)]
    have hlen := bytesOf_length 2 (scanResult (scanned (x m.vecs) klen))
    have hkeep : ∀ a k, a + k ≤ dst + 2 * m.vecs ∨ dst + 2 * (m.vecs + 1) ≤ a → a + k ≤ 2 ^ 21 →
        scrRead (scrWrite s panel (dst + 2 * m.vecs) (bytesOf 2 (scanResult (scanned (x m.vecs) klen)))) panel a k = scrRead s panel a k :=
      fun a k hak hend => scrRead_scrWrite_apart _ s (by omega) hend (by omega)
    have hholds : Holds panel klen vstep estep src count ft x
        (scrWrite s panel (dst + 2 * m.vecs) (bytesOf 2 (scanResult (scanned (x m.vecs) klen)))) := fun v k hv hk => by
      obtain ⟨h1, h2⟩ := hapart v k hv hk
      rw [hx v k hv hk, hkeep _ _ (by rw [Nat.mod_eq_of_lt (by omega)]; omega) (by rw [Nat.mod_eq_of_lt (by omega)]; omega)]
    obtain ⟨m1, s1, hrun, hnew, hold⟩ := ih { m with vecs := m.vecs + 1, elems := 0, big := none, bad := false } _ rfl rfl rfl
      (by dsimp only; omega) hholds
    refine ⟨m1, s1, ?_, fun v h1 h2 => ?_, fun v hv => ?_⟩
    · rw [scanVecs, hacc]
      exact hrun
    · rcases Nat.lt_or_eq_of_le h1 with h1 | rfl
      · exact hnew v h1 h2
      · exact (hold _ (Nat.lt_succ_self _)).trans (scrRead_scrWrite_same _ s _ _ hlen.symm)
    · exact (hold v (Nat.lt_succ_of_lt hv)).trans (hkeep _ _ (by omega) (by omega))

end

/-- R155: XSCAN of a scratchpad source writes the block exponents of its vectors. -/
theorem performScan_scratch {w : Who} {g : Group} {m : MatOp} {s : State} {esz count klen dst : Nat} {at_ : Nat → Nat → Nat}
    {x : Nat → Nat → FVal} (hsp : bit (m.desc.getD 0 0) 63 = true) (hv : m.vecs = 0) (he : m.elems = 0) (hb : m.big = none)
    (hbad : m.bad = false) (hesz : esz = (if bit (m.desc.getD 2 0) 37 then 4 else 8)) (hcount : count = fld (m.desc.getD 2 0) 0 12)
    (hklen : klen = fld (m.desc.getD 2 0) 12 25) (hd : dst = fld (m.desc.getD 1 0) 0 21) (hdst : dst + 2 * count ≤ 2 ^ 21)
    (hat : ∀ v k, at_ v k = descAddr (m.desc.getD 0 0) + (if m.kind = .xscanRow then v * fld (m.desc.getD 3 0) 0 40 + k * esz
      else k * fld (m.desc.getD 3 0) 0 40 + v * esz))
    (hin : ∀ v k, v < count → k < klen → at_ v k + esz ≤ 2 ^ 21 ∧ (at_ v k + esz ≤ dst ∨ dst + 2 * count ≤ at_ v k))
    (hx : ∀ v k, x v k = decodeF (if esz = 4 then f32 else f64) (natOf (scrRead s g.panel (at_ v k) esz))) :
    ∃ m1 s1, performScan w g m s = (m1, .ok () s1) ∧
      ∀ v, v < count → scrRead s1 g.panel (dst + 2 * v) 2 = bytesOf 2 (scanResult (scanned (x v) klen)) := by
  have haddr : ∀ v k, descAddr (m.desc.getD 0 0) + v * (if m.kind = .xscanRow then fld (m.desc.getD 3 0) 0 40 else esz) +
      k * (if m.kind = .xscanRow then esz else fld (m.desc.getD 3 0) 0 40) = at_ v k := fun v k => by
    rw [hat]
    split <;> omega
  have hfmt : (if esz = 4 then f32 else f64) = if bit (m.desc.getD 2 0) 37 then f32 else f64 := by
    rw [hesz]
    cases bit (m.desc.getD 2 0) 37 <;> rfl
  have hholds : Holds g.panel klen (if m.kind = .xscanRow then fld (m.desc.getD 3 0) 0 40 else esz)
      (if m.kind = .xscanRow then esz else fld (m.desc.getD 3 0) 0 40) (descAddr (m.desc.getD 0 0)) count (bit (m.desc.getD 2 0) 37) x s :=
    fun v k hvc hk => by
      rw [haddr, ← hesz, ← hfmt, Nat.mod_eq_of_lt (by have := hin v k hvc hk; omega)]
      exact hx v k
  obtain ⟨m1, s1, hrun, hnew, -⟩ := scanVecs_scratch w hdst (fun v k hvc hk => by rw [haddr, ← hesz]; exact hin v k hvc hk) count m s he hb hbad
    (by omega) hholds
  refine ⟨m1, s1, ?_, fun v hvc => hnew v (by omega) hvc⟩
  rw [← hrun, performScan]
  simp only [hsp, hv, Nat.sub_zero, ← hcount, ← hklen, ← hd, ← hesz]

end Sys2Proof.Proofs
end

section
/-! PROOF. The wide register (R156, R159, R162): an element as it reads after it was stored, SLMM into it and WRND out of it. -/

namespace Sys2Proof.Proofs

open Sys2Proof.Machine Sys2Proof.Safety Sys2Proof.Laws

/-! The wide register (Table 5-8). -/

/-- The words of a wide tile lie one after another. -/
theorem wideKey (panel d i j : Nat) : frameKey panel (widePlace d i j).1 (widePlace d i j).2 = panel * 2 ^ 18 + d * 4096 + 8 * i + j := by
  simp only [frameKey, widePlace]
  omega

/-- Words written into a wide element from word `a` on. -/
theorem frameGet_setWords {panel d i i' j : Nat} (hj : j < 8) (l : List Nat) (a : Nat) (s : State) (ha : a + l.length ≤ 8) :
    frameGet ((indexed a l).foldl (fun z p => frameSet panel (widePlace d i p.1).1 (widePlace d i p.1).2 (BitVec.ofNat 32 p.2) z) s) panel
      (widePlace d i' j).1 (widePlace d i' j).2 =
      if i' = i ∧ a ≤ j ∧ j < a + l.length then BitVec.ofNat 32 (l.getD (j - a) 0)
      else frameGet s panel (widePlace d i' j).1 (widePlace d i' j).2 := by
  induction l generalizing a s with
  | nil =>
    rw [if_neg (by simp)]
    rfl
  | cons x r ih =>
    rw [List.length_cons] at ha
    rw [indexed, List.foldl_cons, ih (a + 1) _ (by omega), frameGet_frameSet, wideKey, wideKey, List.length_cons]
    by_cases hin : i' = i ∧ a + 1 ≤ j ∧ j < a + 1 + r.length
    · rw [if_pos hin, if_pos (by omega), show j - a = j - (a + 1) + 1 by omega, List.getD_cons_succ]
    · rw [if_neg hin]
      by_cases hja : i' = i ∧ j = a
      · obtain ⟨rfl, rfl⟩ := hja
        rw [if_pos rfl, if_pos (by omega), Nat.sub_self, List.getD_cons_zero]
      · rw [if_neg (by omega), if_neg (by omega)]

/-- The words that a wide element is stored as. -/
def wideWords (e : Wide) : List Nat :=
  (List.range 6).map (fun j => (e.w % (2 ^ 192 : Nat)).toNat / 2 ^ (32 * j)) ++
    [e.anch % 65536 + e.live.toNat * 2 ^ 16 + e.ev.toNat * 2 ^ 17 + e.nf.toNat * 2 ^ 18 + e.am.toNat * 2 ^ 19, e.bnd]

theorem frameGet_wideSet {panel d i i' j : Nat} (hj : j < 8) (e : Wide) (s : State) :
    frameGet (wideSet panel d i e s) panel (widePlace d i' j).1 (widePlace d i' j).2 =
      if i' = i then BitVec.ofNat 32 ((wideWords e).getD j 0) else frameGet s panel (widePlace d i' j).1 (widePlace d i' j).2 := by
  have hl : (wideWords e).length = 8 := rfl
  have h := frameGet_setWords (panel := panel) (d := d) (i := i) (i' := i') hj (wideWords e) 0 s (by rw [hl])
  rw [hl, Nat.sub_zero] at h
  exact h.trans (if_congr (by omega) rfl rfl)

/-- A wide element as it reads after it was stored. -/
def wideStored (e : Wide) : Wide :=
  { e with w := sextNat 192 (e.w % 2 ^ 192).toNat, anch := e.anch % 65536, bnd := bndRead (e.bnd % 2 ^ 32) }

/-- Six 32-bit words of a number of 192 bits are the number. -/
theorem sixWords {x : Nat} (hx : x < 2 ^ 192) :
    (List.range 6).foldr (fun j a => (BitVec.ofNat 32 (x / 2 ^ (32 * j))).toNat + 2 ^ 32 * a) 0 = x := by
  simp only [List.range_succ, List.range_zero, List.nil_append, List.foldr_append, List.foldr_cons, List.foldr_nil, BitVec.toNat_ofNat]
  norm_num at hx ⊢
  omega

theorem flagWord_fields (a : Nat) (l v n m : Bool) (f : Nat)
    (hf : f = a % 65536 + l.toNat * 2 ^ 16 + v.toNat * 2 ^ 17 + n.toNat * 2 ^ 18 + m.toNat * 2 ^ 19) :
    f < 2 ^ 32 ∧ f % 65536 = a % 65536 ∧ f.testBit 16 = l ∧ f.testBit 17 = v ∧ f.testBit 18 = n ∧ f.testBit 19 = m := by
  have hbit : ∀ (k : Nat) (b : Bool), f / 2 ^ k % 2 = b.toNat → f.testBit k = b := fun k b h => by
    rw [Nat.testBit_eq_decide_div_mod_eq, h]
    cases b <;> rfl
  have hl := Bool.toNat_le l
  have hv := Bool.toNat_le v
  have hn := Bool.toNat_le n
  have hm := Bool.toNat_le m
  exact ⟨by omega, by omega, hbit 16 l (by omega), hbit 17 v (by omega), hbit 18 n (by omega), hbit 19 m (by omega)⟩

theorem wideGet_wideSet_same (panel d i : Nat) (e : Wide) (s : State) : wideGet (wideSet panel d i e s) panel d i = wideStored e := by
  have hword : ∀ j, j < 8 → (frameGet (wideSet panel d i e s) panel (widePlace d i j).1 (widePlace d i j).2).toNat =
      (BitVec.ofNat 32 ((wideWords e).getD j 0)).toNat := fun j hj => by
    rw [frameGet_wideSet hj, if_pos rfl]
  have hx : (e.w % (2 ^ 192 : Nat)).toNat < 2 ^ 192 := by omega
  have hw : (List.range 6).foldr (fun j a => (frameGet (wideSet panel d i e s) panel (widePlace d i j).1 (widePlace d i j).2).toNat + 2 ^ 32 * a) 0 =
      (e.w % (2 ^ 192 : Nat)).toNat := by
    rw [← sixWords hx]
    refine List.foldr_ext _ _ _ fun j hj a => ?_
    have h6 := List.mem_range.mp hj
    rw [hword j (by omega)]
    interval_cases j <;> rfl
  obtain ⟨h32, ha, h16, h17, h18, h19⟩ := flagWord_fields e.anch e.live e.ev e.nf e.am _ rfl
  have hf : (frameGet (wideSet panel d i e s) panel (widePlace d i 6).1 (widePlace d i 6).2).toNat =
      e.anch % 65536 + e.live.toNat * 2 ^ 16 + e.ev.toNat * 2 ^ 17 + e.nf.toNat * 2 ^ 18 + e.am.toNat * 2 ^ 19 := by
    rw [hword 6 (by omega), BitVec.toNat_ofNat]
    exact Nat.mod_eq_of_lt h32
  have hb : (frameGet (wideSet panel d i e s) panel (widePlace d i 7).1 (widePlace d i 7).2).toNat = e.bnd % 2 ^ 32 := by
    rw [hword 7 (by omega), BitVec.toNat_ofNat]
    rfl
  rw [wideGet]
  simp only [hw, hf, hb, ha, h16, h17, h18, h19]
  rfl

theorem wideGet_congr {s t : State} {panel d i : Nat} (h : ∀ j, j < 8 → frameGet s panel (widePlace d i j).1 (widePlace d i j).2 =
    frameGet t panel (widePlace d i j).1 (widePlace d i j).2) : wideGet s panel d i = wideGet t panel d i := by
  have hw : (List.range 6).foldr (fun j a => (frameGet s panel (widePlace d i j).1 (widePlace d i j).2).toNat + 2 ^ 32 * a) 0 =
      (List.range 6).foldr (fun j a => (frameGet t panel (widePlace d i j).1 (widePlace d i j).2).toNat + 2 ^ 32 * a) 0 :=
    List.foldr_ext _ _ _ fun j hj a => by
      have h6 := List.mem_range.mp hj
      rw [h j (by omega)]
  rw [wideGet, wideGet]
  simp only [hw, h 6 (by omega), h 7 (by omega)]

theorem wideGet_wideSet_other {panel d i i' : Nat} (h : i' ≠ i) (e : Wide) (s : State) :
    wideGet (wideSet panel d i e s) panel d i' = wideGet s panel d i' :=
  wideGet_congr fun j hj => by rw [frameGet_wideSet hj, if_neg h]

theorem wideSet_scratch (panel d i : Nat) (e : Wide) (s : State) : (wideSet panel d i e s).scratch = s.scratch := by
  rw [wideSet]
  refine foldl_untouched (obs := State.scratch) (fun z p _ => ?_) s
  rfl

/-! SLMM (R159). -/

theorem sliceRows_eq (g : Group) (s : State) (tile : Nat) (tc : W64) (cols off k : Nat) :
    ∃ f, sliceRows g s tile tc cols off k = (List.range (tcRows tc)).map f := ⟨_, rfl⟩

theorem getElem?_map_range {α : Type} {f : Nat → α} {n i : Nat} {x : α} (h : ((List.range n).map f)[i]? = some x) : i < n ∧ f i = x := by
  simpa [List.getElem?_range, List.getElem?_eq_some_iff] using h

/-- What SLMM does at one element, with the flags so far. -/
def slmmStep (g : Group) (m : MatOp) (p : Nat → Bool) (ra rb : Nat → SliceRow) (z : BitVec 6 × State) (i j : Nat) : BitVec 6 × State :=
  if !p (32 * i + j) then z else
  let e := wideGet z.2 g.panel m.d (32 * i + j)
  let e1 := slmmElem m.k (tcCols m.tctlA) (ra i) (rb j) e
  (z.1 ||| gained e e1, wideSet g.panel m.d (32 * i + j) e1 z.2)

theorem slmmStep_state {g : Group} {m : MatOp} {p : Nat → Bool} (ra rb : Nat → SliceRow) (z : BitVec 6 × State) {i j : Nat}
    (hp : p (32 * i + j) = true) : (slmmStep g m p ra rb z i j).2 = wideSet g.panel m.d (32 * i + j)
      (slmmElem m.k (tcCols m.tctlA) (ra i) (rb j) (wideGet z.2 g.panel m.d (32 * i + j))) z.2 := by
  simp only [slmmStep, hp, Bool.not_true, Bool.false_eq_true, if_false]

theorem slmmStep_skips {g : Group} {m : MatOp} {p : Nat → Bool} (ra rb : Nat → SliceRow) (z : BitVec 6 × State) {i j : Nat}
    (hp : p (32 * i + j) = false) : slmmStep g m p ra rb z i j = z := by
  simp only [slmmStep, hp, Bool.not_false, if_true]

/-- SLMM accumulates into the selected element. -/
theorem performSlmm_element {g : Group} {m : MatOp} {p : Nat → Bool} {s : State} {i j : Nat} {a b : SliceRow} (hj : j < 32)
    (hp : p (32 * i + j) = true) (hrb : tcRows m.tctlB ≤ 32)
    (ha : (sliceRows g s m.a m.tctlA (tcCols m.tctlA) (fld m.scale 0 21) m.k)[i]? = some a)
    (hb : (sliceRows g s m.b m.tctlB (tcCols m.tctlA) (fld m.scale 32 21) m.k)[j]? = some b) :
    wideGet (performSlmm g m p s).2 g.panel m.d (32 * i + j) =
      wideStored (slmmElem m.k (tcCols m.tctlA) a b (wideGet s g.panel m.d (32 * i + j))) := by
  obtain ⟨ra, hra⟩ := sliceRows_eq g s m.a m.tctlA (tcCols m.tctlA) (fld m.scale 0 21) m.k
  obtain ⟨rb, hrb'⟩ := sliceRows_eq g s m.b m.tctlB (tcCols m.tctlA) (fld m.scale 32 21) m.k
  obtain ⟨hi, rfl⟩ := getElem?_map_range (hra ▸ ha)
  obtain ⟨hjr, rfl⟩ := getElem?_map_range (hrb' ▸ hb)
  have hperf : (performSlmm g m p s).2 = ((List.range (tcRows m.tctlA)).foldl (fun z i => (List.range (tcRows m.tctlB)).foldl
      (fun z j => slmmStep g m p ra rb z i j) z) (m.slst, s)).2 := by
    simp only [performSlmm, hra, hrb', indexed_map_range, List.foldl_map, slmmStep]
  rw [hperf]
  refine foldl_grid_once (step := slmmStep g m p ra rb) (obs := fun z => wideGet z.2 g.panel m.d (32 * i + j))
    (f := fun e => wideStored (slmmElem m.k (tcCols m.tctlA) (ra i) (rb j) e)) hi hjr (fun z r c _ hc hne => ?_) (fun z => ?_) (m.slst, s)
  · cases hpe : p (32 * r + c) with
    | false => rw [slmmStep_skips ra rb z hpe]
    | true => rw [slmmStep_state ra rb z hpe, wideGet_wideSet_other (by omega)]
  · rw [slmmStep_state ra rb z hp, wideGet_wideSet_same]

/-- R159 by cases: a non-finite row marks the element, else it takes the sum of the sliced products under the sum of the exponents. -/
theorem slmmElem_cases (k cols : Nat) (a b : SliceRow) (e : Wide) {sum : Int} (hs : sum = sextNat 16 a.e + sextNat 16 b.e) :
    (a.nf = true ∨ b.nf = true → slmmElem k cols a b e = { e with nf := true, live := true }) ∧
    (a.nf = false → b.nf = false → (slmmElem k cols a b e).live = true ∧ (slmmElem k cols a b e).nf = e.nf ∧
      (slmmElem k cols a b e).w = (if e.live then e.w else 0) + slicedDot k a.xs b.xs ∧
      (slmmElem k cols a b e).anch = (if e.live then e.anch else (sum % 65536).toNat) ∧
      (slmmElem k cols a b e).am = (e.am || (e.live && e.anch != (sum % 65536).toNat)) ∧
      (slmmElem k cols a b e).ev = (e.ev || a.xs.any (·.ev) || b.xs.any (·.ev))) := by
  subst hs
  constructor
  · intro h
    exact if_pos (by simpa using h)
  · intro ha hb
    have hne : ¬((a.nf || b.nf) = true) := by simp [ha, hb]
    rw [slmmElem, if_neg hne]
    cases e.live <;> simp

/-! WRND (R162). -/

/-- What one wide element gives. -/
theorem wrndElem_bits (f : Fmt) (rm : Rm) (e : Wide) : (wrndElem f rm e).1 = if e.live = false then 0 else if e.nf then genNaN f 6
    else (roundSigned f rm false ((e.w : Rat) * pow2 (sextNat 16 e.anch - 128))).bits := by
  rw [wrndElem]
  cases e.live <;> cases e.nf <;> rfl

/-- What WRND does at one element, with the flags and the bound so far. -/
def wrndStep (g : Group) (m : MatOp) (p : Nat → Bool) (f : Fmt) (sz : Nat) (z : (BitVec 6 × Option Nat) × State) (i : Nat) :
    (BitVec 6 × Option Nat) × State :=
  if !p i then z else
  let (y, fl, b) := wrndElem f (rmOf m.rm.toNat) (wideGet z.2 g.panel m.d i)
  let best := match z.1.2, b with
    | some x, some y => some (max x y)
    | none, y => y
    | x, none => x
  ((z.1.1 ||| fl, best), wideSet g.panel m.d i wideEmpty (scrWrite z.2 g.panel (m.off + i * sz) (bytesOf sz y)))

theorem wrndStep_state {g : Group} {m : MatOp} {p : Nat → Bool} (f : Fmt) (sz : Nat) (z : (BitVec 6 × Option Nat) × State) {i : Nat}
    (hp : p i = true) : (wrndStep g m p f sz z i).2 = wideSet g.panel m.d i wideEmpty (scrWrite z.2 g.panel (m.off + i * sz)
      (bytesOf sz (wrndElem f (rmOf m.rm.toNat) (wideGet z.2 g.panel m.d i)).1)) := by
  simp only [wrndStep, hp, Bool.not_true, Bool.false_eq_true, if_false]

theorem wrndStep_skips {g : Group} {m : MatOp} {p : Nat → Bool} (f : Fmt) (sz : Nat) (z : (BitVec 6 × Option Nat) × State) {i : Nat}
    (hp : p i = false) : wrndStep g m p f sz z i = z := by
  simp [wrndStep, hp]

theorem wideGet_scrWrite (bs : List Byte) (panel k d i : Nat) (p : Nat) (s : State) :
    wideGet (scrWrite s panel k bs) p d i = wideGet s p d i := by
  obtain ⟨x, hx⟩ := scrWrite_frame bs panel k s
  rw [hx]
  rfl

/-- R162: the selected element is rounded once into its place, and left empty. -/
theorem performWrnd_element {g : Group} {m : MatOp} {p : Nat → Bool} {s : State} {i sz : Nat} {f : Fmt}
    (hk : (m.kind = .wrndF64 ∧ f = f64 ∧ sz = 8) ∨ (m.kind = .wrndF32 ∧ f = f32 ∧ sz = 4)) (hoff : m.off + 1024 * sz ≤ 2 ^ 21)
    (hi : i < 1024) (hp : p i = true) :
    scrRead (performWrnd g m p s).2 g.panel (m.off + i * sz) sz =
      bytesOf sz (wrndElem f (rmOf m.rm.toNat) (wideGet s g.panel m.d i)).1 ∧
    wideGet (performWrnd g m p s).2 g.panel m.d i = wideEmpty := by
  have hperf : (performWrnd g m p s).2 = ((List.range 1024).foldl (wrndStep g m p f sz) ((m.slst, m.bound.map (·.toNat)), s)).2 := by
    rcases hk with ⟨hk, rfl, rfl⟩ | ⟨hk, rfl, rfl⟩ <;>
    · simp only [performWrnd, hk]
      rfl
  have hrun := foldl_once (step := wrndStep g m p f sz)
    (obs := fun z => (scrRead z.2 g.panel (m.off + i * sz) sz, wideGet z.2 g.panel m.d i))
    (f := fun o => (bytesOf sz (wrndElem f (rmOf m.rm.toNat) o.2).1, wideEmpty)) List.nodup_range (List.mem_range.mpr hi)
    (fun z e he hne => ?_) (fun z => ?_) ((m.slst, m.bound.map (·.toNat)), s)
  · rw [← hperf] at hrun
    exact Prod.mk.inj hrun
  · cases hpe : p e with
    | false => rw [wrndStep_skips f sz z hpe]
    | true =>
      have he' := List.mem_range.mp he
      have hlen := bytesOf_length sz (wrndElem f (rmOf m.rm.toNat) (wideGet z.2 g.panel m.d e)).1
      rw [wrndStep_state f sz z hpe, wideGet_wideSet_other (Ne.symm hne), wideGet_scrWrite, scrRead_of_scratch (wideSet_scratch _ _ _ _ _),
        scrRead_scrWrite_apart _ _ (by rw [hlen]; nlinarith) (by nlinarith) ?_]
      rw [hlen]
      rcases Nat.lt_or_gt_of_ne hne with h | h
      · exact .inr (.inr (by nlinarith))
      · exact .inr (.inl (by nlinarith))
  · have hlen := bytesOf_length sz (wrndElem f (rmOf m.rm.toNat) (wideGet z.2 g.panel m.d i)).1
    rw [wrndStep_state f sz z hp, wideGet_wideSet_same, scrRead_of_scratch (wideSet_scratch _ _ _ _ _), scrRead_scrWrite_same _ _ _ _ hlen.symm]
    rfl

end Sys2Proof.Proofs
end

section
/-! PROOF. Bytes at the homes after a write, and the halves DONE and ABORT of a descriptor's first word (R307, R309). -/

namespace Sys2Proof.Proofs

open Sys2Proof.Machine Sys2Proof.Safety Sys2Proof.Laws

/-! Bytes at the homes after a write. -/

theorem rb_wb (s : State) (k : Nat) (b : Byte) (j : Nat) : rb (wb s k b) j = if k = j then b else rb s j := by
  simp only [rb, wb, journalAt]
  split <;> rfl

theorem rb_wbs_other (bs : List Byte) {k j : Nat} (h : j < k ∨ k + bs.length ≤ j) (s : State) : rb (wbs s k bs) j = rb s j := by
  induction bs generalizing s k with
  | nil => rfl
  | cons b r ih =>
    rw [List.length_cons] at h
    rw [wbs, ih (by omega), rb_wb, if_neg (by omega)]

theorem rb_wbs_inside (bs : List Byte) {k i : Nat} (hi : i < bs.length) (s : State) : rb (wbs s k bs) (k + i) = bs[i] := by
  induction bs generalizing s k i with
  | nil => simp at hi
  | cons b r ih =>
    rw [wbs]
    cases i with
    | zero =>
      rw [rb_wbs_other r (by omega), rb_wb, if_pos (Nat.add_zero k).symm]
      rfl
    | succ i =>
      rw [show k + (i + 1) = k + 1 + i by omega, ih (Nat.lt_of_succ_lt_succ hi)]
      rfl

theorem rbs_eq_map (s : State) (k n : Nat) : rbs s k n = (List.range n).map (fun i => rb s (k + i)) := by
  induction n generalizing k with
  | zero => rfl
  | succ n ih => simp [rbs, ih, List.range_succ_eq_map, Function.comp_def, Nat.add_comm, Nat.add_left_comm]

theorem rbs_congr {s t : State} {k n : Nat} (h : ∀ i, i < n → rb s (k + i) = rb t (k + i)) : rbs s k n = rbs t k n := by
  rw [rbs_eq_map, rbs_eq_map]
  exact List.map_congr_left fun i hi => h i (List.mem_range.mp hi)

theorem tagWrite_none_wr (s : State) (k : Nat) : (tagWrite s k none).wr = s.wr := by
  unfold tagWrite
  split <;> rfl

theorem backInvalidate_wr (s : State) (k : Nat) : (backInvalidate s k).wr = s.wr := by
  unfold backInvalidate
  split <;> rfl

theorem wbs_wr_congr (bs : List Byte) (k : Nat) {s t : State} (h : s.wr = t.wr) : (wbs s k bs).wr = (wbs t k bs).wr := by
  induction bs generalizing s t k with
  | nil => exact h
  | cons b r ih => exact ih (k + 1) (congrArg ((k, b) :: ·) h)

/-- To a read, a write at the home is the store of its bytes. -/
theorem rb_homeWrite (s : State) (k : Nat) (bs : List Byte) (q a : BitVec 2) (j : Nat) :
    rb (homeWrite s k bs q a none) j = rb (wbs s k bs) j := by
  have hwr : (homeWrite s k bs q a none).wr = (wbs s k bs).wr := by
    unfold homeWrite
    extract_lets s1 ws s2 s3
    have h2 : s2.wr = s.wr := calc
      s2.wr = s1.wr := foldl_untouched (obs := State.wr) (fun z w _ => tagWrite_none_wr z w) s1
      _ = s.wr := (backInvalidate_wr _ k).trans (touch_wr s k q a true)
    have h3 : s3.wr = s.wr := by
      dsimp only [s3]
      split
      · refine (foldl_untouched (obs := State.wr) (fun z w _ => ?_) s2).trans h2
        rfl
      · exact h2
    exact wbs_wr_congr bs k h3
  have hh := homesOnly_homeWrite s k bs q a none
  have hb := homesOnly_wbs s k bs
  have him : (homeWrite s k bs q a none).image = (wbs s k bs).image :=
    (congrArg State.image hh).trans (congrArg State.image hb).symm
  have hmem : (homeWrite s k bs q a none).mem = (wbs s k bs).mem := by rw [homeWrite_mem, wbs_mem]
  rw [rb, rb, hwr, him, hmem]

theorem rbs_homeWrite_same (s : State) (k : Nat) (bs : List Byte) (q a : BitVec 2) {n : Nat} (hn : n = bs.length) :
    rbs (homeWrite s k bs q a none) k n = bs := by
  subst hn
  rw [rbs_eq_map]
  refine List.ext_getElem (by simp) fun i h1 h2 => ?_
  simp only [List.getElem_map, List.getElem_range]
  rw [rb_homeWrite, rb_wbs_inside bs h2]

theorem rbs_homeWrite_apart (s : State) {k : Nat} (bs : List Byte) (q a : BitVec 2) {j n : Nat} (h : j + n ≤ k ∨ k + bs.length ≤ j) :
    rbs (homeWrite s k bs q a none) j n = rbs s j n :=
  rbs_congr fun i hi => by rw [rb_homeWrite, rb_wbs_other bs (by omega)]

/-! The halves of a word of eight bytes. -/

theorem natOf_append (l r : List Byte) : natOf (l ++ r) = natOf l + 256 ^ l.length * natOf r := by
  induction l with
  | nil => simp [natOf]
  | cons b t ih =>
    rw [List.cons_append, natOf, natOf, ih, List.length_cons, Nat.pow_succ]
    ring

theorem natOf_bytesOf (n x : Nat) : natOf (bytesOf n x) = x % 256 ^ n := by
  induction n generalizing x with
  | zero => simp [bytesOf, natOf, Nat.mod_one]
  | succ n ih =>
    rw [bytesOf, natOf, ih, BitVec.toNat_ofNat, pow_succ' 256 n, Nat.mod_mul]

theorem rbs_add (s : State) (k m n : Nat) : rbs s k (m + n) = rbs s k m ++ rbs s (k + m) n := by
  simp only [rbs_eq_map, List.range_add, List.map_append, List.map_map, Function.comp_def, Nat.add_assoc]

theorem rw8_halves (s : State) (k : Nat) : (rw4 s k).toNat = (rw8 s k).toNat % 2 ^ 32 ∧ (rw4 s (k + 4)).toNat = (rw8 s k).toNat / 2 ^ 32 := by
  have hl := natOf_lt (rbs s k 4)
  have hh := natOf_lt (rbs s (k + 4) 4)
  have h := natOf_append (rbs s k 4) (rbs s (k + 4) 4)
  rw [← rbs_add] at h
  rw [rbs_length] at hl hh h
  simp only [rw4, rw8, BitVec.toNat_ofNat, h]
  omega

theorem rw4_congr {s t : State} {k : Nat} (h : rbs s k 4 = rbs t k 4) : rw4 s k = rw4 t k := by rw [rw4, rw4, h]

/-! DONE and ABORT (R307, R309). -/

theorem rw8_homeWrite_same (s : State) (k : Nat) (v : W64) : rw8 (homeWrite s k (bytesOf 8 v.toNat) 0 0 none) k = v := by
  apply BitVec.eq_of_toNat_eq
  rw [rw8, rbs_homeWrite_same s k _ 0 0 (bytesOf_length 8 _).symm, natOf_bytesOf, BitVec.toNat_ofNat]
  have := v.isLt
  omega

theorem toNat_setFld_upper (v : W64) : (setFld v 32 32 (fld v 32 32 + 1)).toNat = v.toNat % 2 ^ 32 + (v.toNat / 2 ^ 32 + 1) % 2 ^ 32 * 2 ^ 32 := by
  have hv := v.isLt
  simp only [setFld, fld, bitsOf, Nat.shiftRight_eq_div_pow, BitVec.toNat_ofNat]
  omega

theorem toNat_setFld_lower (v : W64) : (setFld v 0 32 (fld v 0 32 + 1)).toNat = (v.toNat % 2 ^ 32 + 1) % 2 ^ 32 + v.toNat / 2 ^ 32 * 2 ^ 32 := by
  have hv := v.isLt
  simp only [setFld, fld, bitsOf, Nat.shiftRight_eq_div_pow, BitVec.toNat_ofNat, Nat.pow_zero, Nat.div_one, Nat.mod_one, Nat.zero_add,
    Nat.mul_one]
  omega

/-- ABORT counts up, and DONE stays. -/
theorem countSeam_abort (key : Nat) (s : State) :
    rw4 (countSeam key true s) (key + 4) = rw4 s (key + 4) + 1 ∧ rw4 (countSeam key true s) key = rw4 s key := by
  obtain ⟨hl, hh⟩ := rw8_halves s key
  obtain ⟨hl', hh'⟩ := rw8_halves (countSeam key true s) key
  have h8 : rw8 (countSeam key true s) key = setFld (rw8 s key) 32 32 (fld (rw8 s key) 32 32 + 1) := by
    simp only [countSeam, rw8_homeWrite_same, if_true]
  have h1 : (1 : W32).toNat = 1 := rfl
  rw [h8, toNat_setFld_upper] at hl' hh'
  constructor <;> apply BitVec.eq_of_toNat_eq
  · rw [BitVec.toNat_add]
    omega
  · omega

/-- DONE counts up, and ABORT stays. -/
theorem countSeam_done (key : Nat) (s : State) :
    rw4 (countSeam key false s) key = rw4 s key + 1 ∧ rw4 (countSeam key false s) (key + 4) = rw4 s (key + 4) := by
  obtain ⟨hl, hh⟩ := rw8_halves s key
  obtain ⟨hl', hh'⟩ := rw8_halves (countSeam key false s) key
  have h8 : rw8 (countSeam key false s) key = setFld (rw8 s key) 0 32 (fld (rw8 s key) 0 32 + 1) := by
    simp only [countSeam, rw8_homeWrite_same, Bool.false_eq_true, if_false]
  have hv := (rw8 s key).isLt
  have h1 : (1 : W32).toNat = 1 := rfl
  rw [h8, toNat_setFld_lower] at hl' hh'
  constructor <;> apply BitVec.eq_of_toNat_eq
  · rw [BitVec.toNat_add]
    omega
  · omega

theorem countHere_of_hbm {key : Nat} (h : isHbm key = true) (abort : Bool) (s : State) : countHere key abort s = countSeam key abort s :=
  if_pos h

theorem homesOnly_countHere (key : Nat) (abort : Bool) (s : State) : HomesOnly s (countHere key abort s) :=
  homesOnly_ite (homesOnly_homeWrite s _ _ _ _ _) (homesOnly_refl s)

end Sys2Proof.Proofs
end

section
/-! PROOF. Composites (R307 to R309): one starts or is refused, its rounds and gathers, and its completion. -/

namespace Sys2Proof.Proofs

open Sys2Proof.Machine Sys2Proof.Safety Sys2Proof.Laws

/-! A composite starts, or is refused (R307). -/

/-- A participant as it starts. -/
def started (c : Cmd) : Cmd := onSeam (fun z => { z with started := true }) c

theorem started_id (c : Cmd) : (started c).id = c.id := by
  unfold started onSeam
  split <;> rfl

theorem started_started (c : Cmd) : started (started c) = started c := by
  obtain ⟨id, grp, panel, core, priv, kind⟩ := c
  cases kind <;> rfl

/-- The commands of a state with the participants of a list started. -/
def startAll (ps : List (Cmd × SeamInfo)) (l : List Cmd) : List Cmd := l.map (fun y => if ps.any (fun e => e.1.id == y.id) then started y else y)

theorem startAll_cons (e : Cmd × SeamInfo) (ps : List (Cmd × SeamInfo)) (l : List Cmd) :
    startAll ps (l.map (fun c => if c.id = e.1.id then started c else c)) = startAll (e :: ps) l := by
  rw [startAll, startAll, List.map_map]
  refine List.map_congr_left fun c _ => ?_
  simp only [Function.comp_apply, List.any_cons]
  by_cases hc : c.id = e.1.id
  · simp only [started_id, started_started, ite_self, hc, beq_self_eq_true, Bool.true_or, if_true]
  · simp only [if_neg hc, beq_eq_false_iff_ne.mpr (Ne.symm hc), Bool.false_or]

/-- Starting the participants one by one changes the commands only. -/
theorem foldl_start (ps : List (Cmd × SeamInfo)) (s : State) :
    ps.foldl (fun a e => onCmd e.1.id (onSeam (fun y => { y with started := true })) a) s = { s with cmds := startAll ps s.cmds } := by
  induction ps generalizing s with
  | nil => simp [startAll]
  | cons e r ih =>
    rw [List.foldl_cons, ih, ← startAll_cons]
    rfl

/-- A refused composite counts ABORT, and its commands are gone. -/
theorem refused_counts (key : Nat) (ps : List (Cmd × SeamInfo)) (s : State) {t : State}
    (ht : t = countHere key true { s with cmds := s.cmds.filter (fun y => !ps.any (fun e => e.1.id == y.id)) }) :
    t.g = s.g ∧ t.others = s.others ∧ (isHbm key = true → rw4 t (key + 4) = rw4 s (key + 4) + 1 ∧ rw4 t key = rw4 s key) ∧
      t.cmds = s.cmds.filter (fun y => !ps.any (fun e => e.1.id == y.id)) := by
  have hh := homesOnly_countHere key true { s with cmds := s.cmds.filter (fun y => !ps.any (fun e => e.1.id == y.id)) }
  rw [← ht] at hh
  refine ⟨hh.g_eq, hh.others_eq, fun hk => ?_, (congrArg State.cmds hh).trans rfl⟩
  rw [ht, countHere_of_hbm hk]
  exact countSeam_abort key _

section
variable {key : Nat} {c : Cmd} {x : SeamInfo} {l ps : List (Cmd × SeamInfo)} {s : State}

/-- The commands that may meet those of the oldest one: of its scope and with its participants. -/
def sameSeam (x : SeamInfo) (l : List (Cmd × SeamInfo)) : List (Cmd × SeamInfo) := l.filter (fun e => e.2.scope == x.scope && e.2.parts == x.parts)

/-- The targets of the participants are of one shape. -/
def shapesMatch (x : SeamInfo) (ps : List (Cmd × SeamInfo)) : Bool := ps.all (fun e => sameShape x.tgt e.2.tgt)

variable (hl : seamsOn key s = (c, x) :: l) (hs : ∀ e ∈ (c, x) :: l, e.2.started = false)
include hl hs

theorem none_started : (seamsOn key s).any (fun e => e.2.started) = false := by
  rw [hl, List.any_eq_false]
  intro e he
  simp [hs e he]

/-- Within a module: all participants have come. -/
theorem formComposite_near (h5 : x.scope ≠ 5) (hp : gatherRanks (sameSeam x ((c, x) :: l)) (List.range x.parts) = some ps) :
    formComposite key s = if shapesMatch x ps then { s with cmds := startAll ps s.cmds }
      else countHere key true { s with cmds := s.cmds.filter (fun y => !ps.any (fun e => e.1.id == y.id)) } := by
  have hn := none_started hl hs
  rw [hl] at hn
  rw [sameSeam] at hp
  simp only [formComposite, hl, hn, h5, hp, Bool.false_eq_true, if_false, foldl_start, shapesMatch]
  rfl

/-- At .SYS: a command of each die has come, and the other modules' participants count as come. -/
theorem formComposite_far (h5 : x.scope = 5) (hp : gatherDies (sameSeam x ((c, x) :: l)) (List.range 8) = some ps) :
    formComposite key s = bump (if shapesMatch x ps && routesListed x.mods s && Config.choose s.free 0 % 2 == 0
      then { s with cmds := startAll ps s.cmds }
      else countHere key true { s with cmds := s.cmds.filter (fun y => !ps.any (fun e => e.1.id == y.id)) }) := by
  have hn := none_started hl hs
  rw [hl] at hn
  rw [sameSeam, h5] at hp
  simp only [formComposite, hl, hn, h5, hp, Bool.false_eq_true, if_false, if_true, foldl_start, shapesMatch]
  rfl

/-- R307: once each rank has come, targets of one shape start, and others are refused. -/
theorem composite_forms (h5 : x.scope ≠ 5) (hp : gatherRanks (sameSeam x ((c, x) :: l)) (List.range x.parts) = some ps) :
    ((∀ e ∈ ps, sameShape x.tgt e.2.tgt = true) →
      ∃ s2, Happens (.seamComposite key) s s2 ∧ s2.g = s.g ∧ s2.others = s.others ∧ StoresNothing s s2 ∧ s2.cmds = startAll ps s.cmds) ∧
    ((∃ e ∈ ps, sameShape x.tgt e.2.tgt = false) →
      ∃ s2, Happens (.seamComposite key) s s2 ∧ s2.g = s.g ∧ s2.others = s.others ∧
        (isHbm key = true → rw4 s2 (key + 4) = rw4 s (key + 4) + 1 ∧ rw4 s2 key = rw4 s key) ∧
        s2.cmds = s.cmds.filter (fun y => !ps.any (fun e => e.1.id == y.id))) := by
  have hf := formComposite_near hl hs h5 hp
  constructor
  · intro hm
    have hm' : shapesMatch x ps = true := List.all_eq_true.mpr hm
    exact ⟨_, happens_of_event rfl (hf.trans (if_pos hm')), rfl, rfl, ⟨rfl, rfl⟩, rfl⟩
  · rintro ⟨e, he, hne⟩
    have hm' : ¬shapesMatch x ps = true := fun h => by
      rw [List.all_eq_true.mp h e he] at hne
      exact Bool.noConfusion hne
    exact ⟨_, happens_of_event rfl (hf.trans (if_neg hm')), refused_counts key ps s rfl⟩

/-- R307 at .SYS. -/
theorem composite_forms_far (h5 : x.scope = 5) (hp : gatherDies (sameSeam x ((c, x) :: l)) (List.range 8) = some ps) :
    ∃ s2, Happens (.seamComposite key) s s2 ∧ s2.g = s.g ∧ s2.others = s.others ∧
      ((StoresNothing s s2 ∧ (∀ e ∈ ps, sameShape x.tgt e.2.tgt = true) ∧ routesListed x.mods s = true ∧ s2.cmds = startAll ps s.cmds) ∨
       ((isHbm key = true → rw4 s2 (key + 4) = rw4 s (key + 4) + 1 ∧ rw4 s2 key = rw4 s key) ∧
        s2.cmds = s.cmds.filter (fun y => !ps.any (fun e => e.1.id == y.id)))) := by
  have hf := formComposite_far hl hs h5 hp
  by_cases hm : (shapesMatch x ps && routesListed x.mods s && Config.choose s.free 0 % 2 == 0) = true
  · rw [if_pos hm] at hf
    obtain ⟨⟨hshape, hroute⟩, -⟩ : (shapesMatch x ps = true ∧ routesListed x.mods s = true) ∧ _ := by simpa using hm
    exact ⟨_, happens_of_event rfl hf, rfl, rfl, .inl ⟨⟨rfl, rfl⟩, List.all_eq_true.mp hshape, hroute, rfl⟩⟩
  · rw [if_neg hm] at hf
    obtain ⟨hg, ho, hc, hr⟩ := refused_counts key ps s rfl
    exact ⟨_, happens_of_event rfl hf, hg, ho, .inr ⟨hc, hr⟩⟩

end

/-! Rounds and gathers (R308). -/

/-- SEAM_EXCHANGE runs its command. -/
theorem seam_event {id : Nat} {c : Cmd} {x : SeamInfo} {s : State} (hc : cmdOf s id = some c) (hx : seamOf c = some x) :
    Happens (.seamExchange id) s (runSeam c s) := by
  have hk : c.kind = .seam x := by
    unfold seamOf at hx
    split at hx
    · rename_i y hk
      rw [hk, Option.some.inj hx]
    · exact absurd hx (by simp)
  exact happens_of_event rfl ((runCmdIf_of_cmdOf hc (by rw [hk])).trans (by rw [runCmd, hk]))

/-- Within a module no participant belongs to another one, and none sends strips from there. -/
theorem strangeStrips_near {x : SeamInfo} (h : x.scope ≠ 5) (t : Target) : strangeStrips t x = [] := by
  have hf : (List.range x.parts).filter (foreign x) = [] := List.filter_eq_nil_iff.mpr fun r _ => by simp [foreign, h]
  rw [strangeStrips, hf]
  rfl

section
variable {c m : Cmd} {x y : SeamInfo} {t u : Target} {s s1 : State} (hx : seamOf c = some x) (hst : x.started = true)
  (hw : waits s c = false) (ht : targetOf x.tgt = some t)
include hx hst hw ht

/-- A round with a participant of this module. -/
theorem runSeam_round (hr : x.round < seamRounds x) (hf : foreign x (x.rank ^^^ 2 ^ x.round) = false)
    (hm : ((seamsOn x.key s).filter (fun e => e.2.started)).find? (fun e => e.2.rank == x.rank ^^^ 2 ^ x.round) = some (m, y))
    (hy : x.round ≤ y.round) (hu : targetOf y.tgt = some u)
    (hcarry : carryPixels c.id m c u t false (!x.rank.testBit x.round) ((keptPixels t x.parts x.rank x.round).drop c.done) s = .ok .done s1) :
    runSeam c s = onCmd c.id (fun z => { onSeam (fun i => { i with round := i.round + 1 }) z with done := 0 }) s1 := by
  simp only [runSeam, hx, hst, hw, ht, hr, hf, hm, hu, hcarry, endStretch, Nat.not_lt.mpr hy, Bool.not_true, Bool.or_self,
    Bool.false_eq_true, if_false, if_true]

/-- A round with a participant of another module. -/
theorem runSeam_far (hr : x.round < seamRounds x) (hf : foreign x (x.rank ^^^ 2 ^ x.round) = true)
    (hreach : reaches s x (x.rank ^^^ 2 ^ x.round) = true)
    (hrec : receivePixels c t false (!x.rank.testBit x.round) ((keptPixels t x.parts x.rank x.round).drop c.done) s = .ok .done s1) :
    runSeam c s = onCmd c.id (fun z => { onSeam (fun i => { i with round := i.round + 1 }) z with done := 0 }) s1 := by
  simp only [runSeam, hx, hst, hw, ht, hr, hf, hreach, hrec, farStretch, endStretch, Bool.not_true, Bool.or_self,
    Bool.false_eq_true, if_false, if_true]

variable (hr : seamRounds x ≤ x.round) (hg : x.gather = true) (hb : x.gathered = false)
include hr hg hb

/-- The gather at rank 0. -/
theorem runSeam_gathers (h0 : x.rank = 0) (hrec : receivePixels c t true true ((strangeStrips t x).drop c.done) s = .ok .done s1) :
    runSeam c s = onCmd c.id (fun z => { onSeam (fun i => { i with gathered := true }) z with done := 0 }) s1 := by
  simp only [runSeam, hx, hst, hw, ht, Nat.not_lt.mpr hr, hg, hb, h0, hrec, endStretch, Bool.not_true, Bool.not_false, Bool.or_self, Bool.and_self,
    Bool.false_eq_true, if_false, if_true]

/-- The gather of another rank's strip, into the target of rank 0. -/
theorem runSeam_brings (h0 : x.rank ≠ 0) (hf : foreign x 0 = false)
    (hm : ((seamsOn x.key s).filter (fun e => e.2.started)).find? (fun e => e.2.rank == 0) = some (m, y)) (hu : targetOf y.tgt = some u)
    (hcarry : carryPixels c.id c m t u true true ((stripPixels t x.parts x.rank).drop c.done) s = .ok .done s1) :
    runSeam c s = onCmd c.id (fun z => { onSeam (fun i => { i with gathered := true }) z with done := 0 }) s1 := by
  simp only [runSeam, hx, hst, hw, ht, Nat.not_lt.mpr hr, hg, hb, h0, hf, hm, hu, hcarry, endStretch, Bool.not_true, Bool.not_false, Bool.or_self,
    Bool.and_self, Bool.false_eq_true, if_false, if_true]

end

/-! Completion (R309). -/

/-- The lines that the participants have written. -/
def seamLines (l : List (Cmd × SeamInfo)) : Swatch := l.foldl (fun a e => a ||| e.1.lines) 0

/-- SWATCH as it stands at a descriptor's home. -/
def swatchAt (s : State) (key : Nat) : Swatch := BitVec.ofNat 448 (natOf (rbs s (key + 8) 56))

theorem swatchAt_written (s : State) (key : Nat) (v : Swatch) : swatchAt (homeWrite s (key + 8) (bytesOf 56 v.toNat) 0 0 none) key = v := by
  apply BitVec.eq_of_toNat_eq
  rw [swatchAt, rbs_homeWrite_same s (key + 8) _ 0 0 (bytesOf_length 56 _).symm, natOf_bytesOf, BitVec.toNat_ofNat]
  have := v.isLt
  omega

theorem swatchAt_countSeam (s : State) (key : Nat) (abort : Bool) : swatchAt (countSeam key abort s) key = swatchAt s key := by
  simp only [swatchAt, countSeam]
  rw [rbs_homeWrite_apart s _ 0 0 (by rw [bytesOf_length]; omega)]

theorem rw4_written (s : State) (key : Nat) (v : Swatch) {k : Nat} (hk : k + 4 ≤ key + 8) :
    rw4 (homeWrite s (key + 8) (bytesOf 56 v.toNat) 0 0 none) k = rw4 s k :=
  rw4_congr (rbs_homeWrite_apart s _ 0 0 (.inl hk))

/-- Commands that end change no byte at the homes. -/
theorem foldl_finishCmd (l : List (Cmd × SeamInfo)) (s : State) (key : Nat) :
    rw4 (l.foldl (fun a e => finishCmd e.1 e.1.lines a) s) key = rw4 s key ∧
    swatchAt (l.foldl (fun a e => finishCmd e.1 e.1.lines a) s) key = swatchAt s key ∧
    ∀ y ∈ (l.foldl (fun a e => finishCmd e.1 e.1.lines a) s).cmds, y ∈ s.cmds ∧ ∀ e ∈ l, y.id ≠ e.1.id := by
  induction l generalizing s with
  | nil => exact ⟨rfl, rfl, fun y hy => ⟨hy, by simp⟩⟩
  | cons e r ih =>
    obtain ⟨h4, hsw, hc⟩ := ih (finishCmd e.1 e.1.lines s)
    have hrb : ∀ k, rb (finishCmd e.1 e.1.lines s) k = rb s k := fun _ => rfl
    refine ⟨h4.trans (rw4_congr (rbs_congr fun i _ => hrb _)), hsw.trans ?_, fun y hy => ?_⟩
    · rw [swatchAt, swatchAt, rbs_congr fun i _ => hrb _]
    · obtain ⟨hm, hne⟩ := hc y hy
      refine ⟨(List.mem_filter.mp hm).1, fun e' he' => ?_⟩
      rcases List.mem_cons.mp he' with rfl | he'
      · exact finishCmd_gone e'.1 e'.1.lines s y hm
      · exact hne e' he'

theorem completeSeam_done {key : Nat} {l : List (Cmd × SeamInfo)} {s : State} (hl : l = (seamsOn key s).filter (fun e => e.2.started))
    (hne : l ≠ []) (hd : ∀ e ∈ l, seamRounds e.2 ≤ e.2.round ∧ (e.2.gather = true → e.2.gathered = true)) (hk : isHbm key = true)
    (h5 : ∀ e ∈ l, e.2.scope ≠ 5) :
    completeSeam key s = l.foldl (fun a e => finishCmd e.1 e.1.lines a)
      (countSeam key false (homeWrite s (key + 8) (bytesOf 56 (swatchAt s key ||| seamLines l).toNat) 0 0 none)) := by
  have hgo : (l.isEmpty || !l.all (fun e => decide (seamRounds e.2 ≤ e.2.round) && (!e.2.gather || e.2.gathered))) = false := by
    have hall : l.all (fun e => decide (seamRounds e.2 ≤ e.2.round) && (!e.2.gather || e.2.gathered)) = true := by
      rw [List.all_eq_true]
      intro e he
      obtain ⟨hr, hg⟩ := hd e he
      cases hgg : e.2.gather with
      | false => simp [hr]
      | true => simp [hr, hg hgg]
    simp [hne, hall]
  have hfar : l.any (fun e => e.2.scope == 5) = false := List.any_eq_false.mpr fun e he => by simp [h5 e he]
  simp only [completeSeam, ← hl, hgo, hfar, hk, countHere_of_hbm hk, Bool.false_eq_true, if_false, if_true]
  rfl

/-- R309: a composite whose participants are done counts DONE and gathers their lines into SWATCH. -/
theorem seam_completes {key : Nat} {l : List (Cmd × SeamInfo)} {s : State} (hl : l = (seamsOn key s).filter (fun e => e.2.started))
    (hne : l ≠ []) (hd : ∀ e ∈ l, seamRounds e.2 ≤ e.2.round ∧ (e.2.gather = true → e.2.gathered = true)) (hk : isHbm key = true)
    (h5 : ∀ e ∈ l, e.2.scope ≠ 5) :
    ∃ s2, Happens (.seamComplete key) s s2 ∧ rw4 s2 key = rw4 s key + 1 ∧ rw4 s2 (key + 4) = rw4 s (key + 4) ∧
      swatchAt s2 key = swatchAt s key ||| seamLines l ∧ ∀ e ∈ l, ∀ y ∈ s2.cmds, y.id ≠ e.1.id := by
  have hrun := completeSeam_done hl hne hd hk h5
  obtain ⟨hdone, habort⟩ := countSeam_done key (homeWrite s (key + 8) (bytesOf 56 (swatchAt s key ||| seamLines l).toNat) 0 0 none)
  obtain ⟨h4, hsw, hc⟩ := foldl_finishCmd l
    (countSeam key false (homeWrite s (key + 8) (bytesOf 56 (swatchAt s key ||| seamLines l).toNat) 0 0 none)) key
  obtain ⟨h4', -, -⟩ := foldl_finishCmd l
    (countSeam key false (homeWrite s (key + 8) (bytesOf 56 (swatchAt s key ||| seamLines l).toNat) 0 0 none)) (key + 4)
  refine ⟨_, happens_of_event rfl hrun, ?_, ?_, ?_, fun e he y hy => ?_⟩
  · rw [h4, hdone, rw4_written s key _ (by omega)]
  · rw [h4', habort, rw4_written s key _ (by omega)]
  · rw [hsw, swatchAt_countSeam, swatchAt_written]
  · obtain ⟨-, hne'⟩ := hc y hy
    exact hne' e he

end Sys2Proof.Proofs
end

section
/-! PROOF. The obligation on the events of the engines. -/

namespace Sys2Proof.Proofs

open Sys2Proof.Machine Sys2Proof.Safety Sys2Proof.Laws

/-- Settles O53: each clause is what its engine does, in the order of the statement. -/
theorem engineEvents : Obligations.EngineEvents := by
  refine ⟨?copy, ?words, ?word, ?quantises, ?writes, ?batch, ?noRay, ?ray, ?record, ?triangle, ?matrix, ?scan, ?slmm, ?slmmCases, ?wrnd,
    ?pauses, ?forms, ?formsFar, ?exchange, ?completes⟩
  case copy =>
    intro id bytes ch src dst n rows sstr dstr c s hc hk hp hl hd hb hh ha hn0 hn _ hbytes hs hsrc hdst hapart
    exact copy_moves_rows hc hk (waits_eq_false hp hl hh ha) hd hb hn0 hn hbytes hs hsrc hdst hapart
  case words =>
    intro id bytes ch src dst n rows sstr dstr p ssp dsp x c s s1 s2 hc hk hp hl hh ha hs hcw h2
    exact copy_goes_on hc hk (waits_eq_false hp hl hh ha) hs hcw h2
  case word =>
    intro w panel src dst n sstr dstr total k pos ssp dsp sw x bs s s1 s2 hlt hr hw
    exact copyWords_succ hlt hr hw
  case quantises =>
    intro id fmt rows cols esz pos d0 d1 d2 d3 f c l out scl sw s s1 s2 hc hk hp hl hread hsrcs hh ha hrows hcols hf hesz hr0 hc0 he ho hscl hs
    exact qnt_quantises hc hk (waits_eq_false hp hl hh ha) hread hsrcs hrows hcols hf hesz hr0 hc0 he ho hscl hs
  case writes =>
    intro id fmt pos d0 d1 d2 d3 c sw s s2 hc hk hp hl hread hh ha hs
    exact qnt_writes hc hk (waits_eq_false hp hl hh ha) hread hs
  case batch => exact fun b r s hl hid hb hr => batch_completes b r s hl hid hb hr
  case noRay =>
    intro id c d r s hc hk hp hl hh ha hb hr
    obtain ⟨s2, he, hgone, hst, hrec⟩ := ray_delivers hc hk (waits_eq_false hp hl hh ha) hb (.inl ⟨hr, rfl, rfl⟩)
    rw [chooseHit_nil] at hrec
    exact ⟨s2, he, hgone, hst ⟨rfl, rfl⟩, hrec⟩
  case ray =>
    intro id c d r ray hits s s1 hc hk hp hl hh ha hb hr hv
    obtain ⟨s2, he, hgone, -, hrec⟩ := ray_delivers hc hk (waits_eq_false hp hl hh ha) hb (.inr ⟨ray, hr, hv⟩)
    refine ⟨s2, _, he, hgone, hrec, fun h => ?_, fun h => ?_⟩
    · rw [h, chooseHit_nil]
    · exact chooseHit_spec _ s1 h
  case record => exact fun k user => rfl
  case triangle =>
    intro r cull a b c w dn meets hdn hmeets h
    rw [triHit_iff r cull a b c w hdn h, hmeets]
    rfl
  case matrix =>
    intro g m p s fa fb rows cols kk len a b code _ hs hfa hfb hlen hlenb hkk hrows hcols _ hc64 _ hcode ha hb i j hi hj hp
    subst hkk hrows hcols hlen
    refine performMma_element hs hfa hfb hlenb hc64 (fun k hk => finite_decodeF (ha i k hi hk)) (fun k hk => ?_) hi hj hp
    rw [← hcode]
    exact finite_decodeF (hb j k hj hk)
  case scan =>
    intro w g m s esz count klen dst at_ x _ hsp hv he hb hbad hesz hcount hklen hd hdst hat hin hx
    obtain ⟨m1, s1, hrun, hres⟩ := performScan_scratch hsp hv he hb hbad hesz hcount hklen hd hdst hat hin hx
    have hf : (if esz = 4 then f32 else f64) = f32 ∨ (if esz = 4 then f32 else f64) = f64 := by
      split
      · exact .inl rfl
      · exact .inr rfl
    exact ⟨m1, s1, hrun, fun v hvc => by
      obtain ⟨h16, hspec⟩ := scanResult_spec hf (x := x v) (n := klen) (fun k _ => ⟨_, hx v k⟩) rfl
      exact ⟨_, h16, hres v hvc, hspec⟩⟩
  case slmm =>
    intro g m p s i j a b e _ _ _ hj hp _ hrb ha hb he
    subst he
    exact performSlmm_element hj hp hrb ha hb
  case slmmCases =>
    intro k cols a b e x sum hx hsum
    subst hx
    exact slmmElem_cases k cols a b e hsum
  case wrnd =>
    intro g m p s i sz f e hk _ hoff hi hp he
    subst he
    rw [← wrndElem_bits]
    exact performWrnd_element hk hoff hi hp
  case pauses =>
    intro id c d s s1 hc
    obtain ⟨hgo, hstay⟩ := engine_pauses hc
    exact ⟨hgo d s1, hstay⟩
  case forms => exact fun key c x l ps s hl hs h5 hp => composite_forms hl hs h5 hp
  case formsFar => exact fun key c x l ps s hl hs h5 hp => composite_forms_far hl hs h5 hp
  case exchange =>
    intro id c m x y t u s s1 hc hx hst hp hl hh ha ht
    have hw := waits_eq_false hp hl hh ha
    refine ⟨fun hr hf hm hy hu hcarry => ?_, fun hr hf hreach hrec => ?_, fun hr hg hb => ⟨fun h0 hrec => ?_, fun h0 h5 => ?_,
      fun h0 hf hm hu hcarry => ?_⟩⟩
    · exact runSeam_round hx hst hw ht hr hf hm hy hu hcarry ▸ seam_event hc hx
    · exact runSeam_far hx hst hw ht hr hf hreach hrec ▸ seam_event hc hx
    · exact runSeam_gathers hx hst hw ht hr hg hb h0 hrec ▸ seam_event hc hx
    · rw [strangeStrips_near h5, List.drop_nil]
      rfl
    · exact runSeam_brings hx hst hw ht hr hg hb h0 hf hm hu hcarry ▸ seam_event hc hx
  case completes => exact fun key l s hl hne hd hk h5 => seam_completes hl hne hd hk h5

end Sys2Proof.Proofs
end

section
/-! PROOF. Matrix operations (R148, R149, R151 to R155, R374, R382, R406, R429, R430): acceptance once the checks pass, the closing of the
open set, the wait for closed batches, and the obligation. -/

namespace Sys2Proof.Proofs

open Sys2Proof.Machine Sys2Proof.Safety Sys2Proof.Laws

/-! Acceptance (R148, R149, R154). -/

theorem matFault_none {l : List (Nat × Bool)} (h : ∀ e ∈ l, e.2 = false) : matFault l = none := by
  have hn : l.find? (·.2) = none := List.find?_eq_none.mpr fun e he => by simp [h e he]
  rw [matFault, hn, Option.map_none]

/-- A range of an operation that lies in the partition meets no bounds fault. -/
theorem rangeFaults_none {m : MatOp} {s : State}
    (h : ∀ r ∈ matRanges m, r.off + (if r.rows = 0 then 0 else (r.rows - 1) * r.stride + r.len) ≤ scrBytes s.g.part) :
    ∀ x ∈ rangeFaults m s, x = none := by
  intro x hx
  obtain ⟨r, hr, rfl⟩ := List.mem_map.mp hx
  exact rangeFault_none (h r hr)

/-- An operation whose operands and ranges pass and for which there is room joins the open set. -/
theorem acceptOp_room {bad : List (Nat × Bool)} {m : MatOp} {s : State} (hbad : ∀ e ∈ bad, e.2 = false)
    (hrange : ∀ r ∈ matRanges m, r.off + (if r.rows = 0 then 0 else (r.rows - 1) * r.stride + r.len) ≤ scrBytes s.g.part)
    (hframe : frameInFlight s (framesOf m) = false) (hops : ((allOps s.g).filter (fun x => !x.done)).length < 16)
    (htacks : (tacksOf s s.g.core).length + (matRanges m).length ≤ 64) :
    acceptOp bad m s = .ok none (onG (fun g => { g with openSet := g.openSet ++ [m] }) s) := by
  have hchecks : firstTrap (matFault bad :: rangeFaults m s) s = .ok () s :=
    firstTrap_none (List.forall_mem_cons.mpr ⟨matFault_none hbad, rangeFaults_none hrange⟩)
  have hfull : opsFull s.g = false := decide_eq_false (Nat.not_le.mpr hops)
  have hroom : noTacks m s = false := decide_eq_false (Nat.not_lt.mpr htacks)
  simp only [acceptOp, hchecks, Res.bind, hframe, hfull, hroom, Bool.false_eq_true, if_false]

/-- An operation whose first check fails traps with its sub-code (Table 5-6). -/
theorem acceptOp_fault (n : Nat) (bad : List (Nat × Bool)) (m : MatOp) (s : State) :
    acceptOp ((n, true) :: bad) m s = .trap { cause := 9, sub := n } s := rfl

section Issue

variable {i : Instr} {s : State} {body : State → Res (Option W64)} {bad : List (Nat × Bool)} {m : MatOp}

/-- A matrix instruction whose operands meet Table 5-6 is accepted. -/
theorem accepts_of_body (hx : exec i s = runI i s body) (hp : settles i = false) (hr : ready i s = true)
    (hb : body s = acceptOp bad m s) (hbad : ∀ e ∈ bad, e.2 = false) : Accepts i s m := fun hrange hframe hops htacks =>
  completes_of_body hx hr (hb.trans (acceptOp_room hbad hrange hframe hops htacks)) (show s.g.live = true from ready_live hr) hp

/-- A matrix instruction whose first check fails ends in the matrix operand fault. -/
theorem ends_of_matFault {n : Nat} {b : Bool} (hx : exec i s = runI i s body) (hr : ready i s = true)
    (hb : body s = acceptOp ((n, b) :: bad) m s) (h : b = true) : Ends i s (takeTrap { cause := 9, sub := n } false s) := by
  subst h
  exact ends_of_trap hx hr (hb.trans (acceptOp_fault n bad m s))

end Issue

/-! The bodies (Table 5-6): what each checks. -/

section Bodies

variable {i : Instr} {kind : MatKind} {o : Opnd} {s : State}

/-- MMA, MMAX and MMAZ run one body. -/
theorem exec_product (h : (i = .mma o ∧ kind = .mma) ∨ (i = .mmax o ∧ kind = .mmax) ∨ (i = .mmaz o ∧ kind = .mmaz)) (s : State) :
    exec i s = runI i s (mmaBody kind o) ∧ settles i = false := by
  rcases h with ⟨rfl, rfl⟩ | ⟨rfl, rfl⟩ | ⟨rfl, rfl⟩ <;> exact ⟨rfl, rfl⟩

/-- WRND.F64 and WRND.F32 run one body. -/
theorem exec_rounding (h : (i = .wrnd o ∧ kind = .wrndF64) ∨ (i = .wrndF32 o ∧ kind = .wrndF32)) (s : State) :
    exec i s = runI i s (wrndBody kind o) ∧ settles i = false := by
  rcases h with ⟨rfl, rfl⟩ | ⟨rfl, rfl⟩ <;> exact ⟨rfl, rfl⟩

/-- Operands of which Table 5-2 lists no combination are refused before any other check (R382). -/
theorem product_unlisted (hx : exec i s = runI i s (mmaBody kind o)) (hr : ready i s = true)
    (hc : comboOk (tcTT (rdTctl s o.a.toNat)) (tcTT (rdTctl s o.b.toNat)) (parOf o).sel.toNat = false) :
    Ends i s (takeTrap { cause := 9, sub := 1 } false s) :=
  ends_of_matFault hx hr rfl (by rw [hc]; rfl)

/-- A listed combination of matching shapes and a clean scale descriptor is accepted (R139, R141, R143). -/
theorem product_accepts {ta tb sc : W64} {sel : Nat} (hx : exec i s = runI i s (mmaBody kind o)) (hp : settles i = false)
    (hr : ready i s = true) (ha : ta = rdTctl s o.a.toNat) (hb : tb = rdTctl s o.b.toNat) (hs : sel = (parOf o).sel.toNat)
    (hsc : sc = (if sel = 0 then 0 else rdS s ((parOf o).val.toNat % 64)))
    (hc : comboOk (tcTT ta) (tcTT tb) sel = true) (hk : tcCols ta = (if kind = .mmax then tcRows tb else tcCols tb))
    (hw : kind = .mmax → tcCols tb ≤ 64) (hz : sel ≠ 0 → fld sc 21 11 = 0 ∧ fld sc 53 11 = 0) :
    Accepts i s { opOf kind o s with tctlA := ta, tctlB := tb, sel := sel, scale := sc } := by
  subst ha hb hs hsc
  refine accepts_of_body hx hp hr rfl ?_
  simp only [List.forall_mem_cons, List.not_mem_nil, false_implies, implies_true, and_true]
  refine ⟨by rw [hc]; rfl, ?_, ?_, ?_⟩
  · simp [hk]
  · simpa using hw
  · simpa using hz

/-- XSCAN with a descriptor that meets R155 is accepted (R430). -/
theorem xscan_accepts {d0 d1 d2 d3 : W64} {esz : Nat} (hr : ready (.xscan o) s = true) (h0 : d0 = rdS s o.a.toNat)
    (h1 : d1 = rdS s (o.a.toNat + 1)) (h2 : d2 = rdS s (o.a.toNat + 2)) (h3 : d3 = rdS s (o.a.toNat + 3))
    (he : esz = (if bit d2 37 then 4 else 8))
    (hd : fld d0 57 6 = 0 ∧ fld d1 21 43 = 0 ∧ fld d2 38 26 = 0 ∧ fld d3 40 24 = 0 ∧ fld d2 0 12 ≠ 0 ∧ fld d2 12 25 ≠ 0 ∧
      fld d2 12 25 ≤ 2 ^ 24 ∧ fld d0 0 57 % esz = 0 ∧ fld d1 0 21 % 2 = 0 ∧ fld d3 0 40 % esz = 0) :
    Accepts (.xscan o) s { opOf (if (parOf o).sel = 0 then .xscanRow else .xscanCol) o s with desc := [d0, d1, d2, d3] } := by
  subst h0 h1 h2 h3 he
  refine accepts_of_body rfl rfl hr rfl ?_
  rw [List.forall_mem_singleton]
  obtain ⟨z0, z1, z2, z3, hcnt, hlen, hmax, a0, a1, a3⟩ := hd
  exact decide_eq_false (by simpa [z0, z1, z2, z3, hcnt, hlen, a0, a1, a3] using hmax)

/-- SLMM of sliced operands of matching shapes is accepted (R157, R406). -/
theorem slmm_accepts {ta tb se : W64} {v : Nat} (hr : ready (.slmm o) s = true) (ha : ta = rdTctl s o.a.toNat) (hb : tb = rdTctl s o.b.toNat)
    (hv : v = (parOf o).val.toNat) (hse : se = rdS s (v / 16 % 64)) (hta : 8 ≤ tcTT ta) (htb : 8 ≤ tcTT tb) (hc : tcCols tb = tcCols ta)
    (hra : tcRows ta ≤ 32) (hrb : tcRows tb ≤ 32) (hz : fld se 21 11 = 0 ∧ fld se 53 11 = 0) :
    Accepts (.slmm o) s { opOf .slmm o s with tctlA := ta, tctlB := tb, scale := se, k := v % 16 } := by
  subst ha hb hv hse
  refine accepts_of_body rfl rfl hr rfl ?_
  simp only [List.forall_mem_cons, List.not_mem_nil, false_implies, implies_true, and_true, decide_eq_false_iff_not]
  obtain ⟨z0, z1⟩ := hz
  refine ⟨by omega, by omega, by omega, by simp [z0, z1]⟩

/-- WRND of a misaligned offset is refused (R429). -/
theorem wrnd_misaligned (hx : exec i s = runI i s (wrndBody kind o)) (hr : ready i s = true)
    (h : (rdS s o.a.toNat + dispOf o).toNat % (if kind = .wrndF64 then 8 else 4) ≠ 0) :
    Ends i s (takeTrap { cause := 9, sub := 5 } false s) :=
  ends_of_matFault hx hr rfl (decide_eq_true h)

/-- WRND of an aligned offset is accepted (R162, R429). -/
theorem wrnd_accepts {off : Nat} (hx : exec i s = runI i s (wrndBody kind o)) (hp : settles i = false) (hr : ready i s = true)
    (ho : off = (rdS s o.a.toNat + dispOf o).toNat) (h : off % (if kind = .wrndF64 then 8 else 4) = 0) :
    Accepts i s { opOf kind o s with off := off, rm := BitVec.ofNat 3 (fld s.g.gmode 10 3) } := by
  subst ho
  refine accepts_of_body hx hp hr rfl ?_
  rw [List.forall_mem_singleton]
  exact decide_eq_false (not_not.mpr h)

end Bodies

/-! Closing the open set (R151, R152, R374). -/

/-- Batches that complete reach MSTAT, SLSTAT, SLBND and the list of batches only. -/
theorem completeBatches_frame (first : Bool) (l : List Batch) (g : Group) :
    ∃ ms ss sb bs, completeBatches first l g = { g with mstat := ms, slstat := ss, slbnd := sb, batches := bs } := by
  induction l generalizing first g with
  | nil => exact ⟨g.mstat, g.slstat, g.slbnd, [], rfl⟩
  | cons b r ih =>
    rw [completeBatches]
    split
    · obtain ⟨ms, ss, sb, bs, h⟩ := ih false (landBatch b g)
      exact ⟨ms, ss, sb, bs, h⟩
    · exact ⟨g.mstat, g.slstat, g.slbnd, b :: r, rfl⟩

/-- Batches with operations stay until the arrays have performed these. -/
theorem completeBatches_stay {l : List Batch} (g : Group) (h : ∀ b ∈ l, b.ops ≠ []) : completeBatches false l g = { g with batches := l } := by
  cases l with
  | nil => rfl
  | cons b r => rw [completeBatches, if_neg (by simp [h b List.mem_cons_self])]

/-- The group with its open set closed under the next number, before empty batches complete. -/
def withClosed (g : Group) : Group := { g with nb := g.nb + 1, batches := g.batches ++ [⟨g.nb + 1, g.openSet⟩], openSet := [] }

/-- MBATCH gives the number of the batch and completes batches that are empty. -/
theorem closeBatch_eq (d : Nat) (g : Group) :
    closeBatch d g = completeBatches false (withClosed g).batches (put (.sca d ((g.nb + 1).setWidth 64)) (withClosed g)) := by
  obtain ⟨v, s, gm, tc, fp, pd, h⟩ := put_frame (.sca d ((g.nb + 1).setWidth 64)) (withClosed g)
  have hb : (put (.sca d ((g.nb + 1).setWidth 64)) (withClosed g)).batches = (withClosed g).batches := by rw [h]
  rw [← hb]
  rfl

/-- What MBATCH leaves of the group: the number counts on, the open set is empty, and of the registers only the answer is new. -/
theorem closeBatch_fields (d : Nat) (g : Group) :
    (closeBatch d g).live = g.live ∧ (closeBatch d g).nb = g.nb + 1 ∧ (closeBatch d g).openSet = [] ∧ (closeBatch d g).v = g.v ∧
      cget zero (closeBatch d g).s d = (g.nb + 1).setWidth 64 := by
  obtain ⟨ms, ss, sb, bs, hc⟩ := completeBatches_frame false (withClosed g).batches (put (.sca d ((g.nb + 1).setWidth 64)) (withClosed g))
  obtain ⟨v, s, gm, tc, fp, pd, hp⟩ := put_frame (.sca d ((g.nb + 1).setWidth 64)) (withClosed g)
  rw [closeBatch_eq, hc]
  exact ⟨by rw [hp]; rfl, by rw [hp]; rfl, by rw [hp]; rfl, put_sca_v d _ (withClosed g), cget_put_sca_same d _ (withClosed g)⟩

/-- A batch with operations is the last of those to perform. -/
theorem closeBatch_queues {g : Group} (d : Nat) (h : ∀ b ∈ g.batches, b.ops ≠ []) (ho : g.openSet ≠ []) :
    (closeBatch d g).batches = g.batches ++ [⟨g.nb + 1, g.openSet⟩] := by
  have hall : ∀ b ∈ (withClosed g).batches, b.ops ≠ [] := by
    intro b hb
    rcases List.mem_append.mp hb with hb | hb
    · exact h b hb
    · rw [List.mem_singleton.mp hb]
      exact ho
  rw [closeBatch_eq, completeBatches_stay _ hall]
  rfl

/-- An empty batch with none before it completes at once. -/
theorem closeBatch_empty {g : Group} (d : Nat) (ho : g.openSet = []) (hb : g.batches = []) : (closeBatch d g).batches = [] := by
  have hl : (withClosed g).batches = [⟨g.nb + 1, []⟩] := by rw [withClosed, ho, hb]; rfl
  rw [closeBatch_eq, hl]
  rfl

/-- The answer of MBATCH in numbers. -/
theorem nextNumber_eq (n : W32) : (n + 1).setWidth 64 = BitVec.ofNat 64 ((n.toNat + 1) % 2 ^ 32) := by
  apply BitVec.eq_of_toNat_eq
  simp only [BitVec.toNat_setWidth, BitVec.toNat_add, BitVec.toNat_ofNat]
  rfl

/-! Waiting for closed batches (R152, R374). -/

theorem batchesLeft_iff (n : W32) (g : Group) : batchesLeft n g = true ↔ ∃ b ∈ g.batches, (n - b.num).toNat < 2 ^ 31 := by
  simp [batchesLeft]

/-- MBWAIT goes on when no batch is left that it waits for. -/
theorem mbwait_goes_on {o : Opnd} {s : State} (hr : ready (.mbwait o) s = true) (h : batchesLeft (lo32 (rdS s o.a.toNat)) s.g = false) :
    Completes (.mbwait o) s none s :=
  completes_of_body rfl hr (if_neg (Bool.eq_false_iff.mp h)) (ready_live hr) rfl

/-- Otherwise it stands at the blocking point of kind 6 with the number. -/
theorem mbwait_waits {o : Opnd} {s : State} (hr : ready (.mbwait o) s = true) (h : batchesLeft (lo32 (rdS s o.a.toNat)) s.g = true) :
    Ends (.mbwait o) s (onG (fun g => { g with block := some ⟨6, 0, (lo32 (rdS s o.a.toNat)).setWidth 64, 0⟩ }) s) :=
  ends_of_block rfl hr (if_pos h)

theorem lo32_number (x : W64) : (lo32 x).setWidth 64 = BitVec.ofNat 64 (x.toNat % 2 ^ 32) := by
  apply BitVec.eq_of_toNat_eq
  simp only [lo32, BitVec.toNat_setWidth, BitVec.toNat_ofNat]

/-- Settles O46: each operation is accepted or refused by its own checks, MBATCH closes the open set and MBWAIT asks for closed batches. -/
theorem matrixOperations : Obligations.MatrixOperations := by
  intro o s ta tb hta htb
  refine ⟨fun i kind sel sc hi hr hsel hsc => ?product, fun d0 d1 d2 d3 esz hr h0 h1 h2 h3 he z0 z1 z2 z3 hcnt hlen hmax a0 a1 a3 => ?scan,
    fun v se hr hv hse ha hb hc hra hrb z0 z1 => ?sliced, fun i kind off hi hr hoff => ?rounding, fun hr => ?mbatch, fun hr => ?mbwait⟩
  case product =>
    obtain ⟨hx, hp⟩ := exec_product hi s
    refine ⟨fun hc => ?_, product_accepts hx hp hr hta htb hsel hsc⟩
    rw [hta, htb, hsel] at hc
    exact product_unlisted hx hr hc
  case scan => exact xscan_accepts hr h0 h1 h2 h3 he ⟨z0, z1, z2, z3, hcnt, hlen, hmax, a0, a1, a3⟩
  case sliced => exact slmm_accepts hr hta htb hv hse ha hb hc hra hrb ⟨z0, z1⟩
  case rounding =>
    obtain ⟨hx, hp⟩ := exec_rounding hi s
    refine ⟨fun h => ?_, wrnd_accepts hx hp hr hoff⟩
    rw [hoff] at h
    exact wrnd_misaligned hx hr h
  case mbatch =>
    obtain ⟨hl, hn, ho, hv, hs⟩ := closeBatch_fields o.d.toNat s.g
    exact ⟨onG (closeBatch o.d.toNat) s, completes_of_body rfl hr rfl (hl.trans (ready_live hr)) rfl, hn, hs.trans (nextNumber_eq _), ho,
      closeBatch_queues _, closeBatch_empty _, hv, ⟨rfl, rfl⟩, rfl⟩
  case mbwait =>
    refine ⟨fun h => mbwait_goes_on hr ?_, fun h => ?_⟩
    · rw [Bool.eq_false_iff, Ne, batchesLeft_iff]
      rintro ⟨b, hb, hlt⟩
      exact absurd hlt (Nat.not_lt.mpr (h b hb))
    · rw [← lo32_number]
      exact mbwait_waits hr ((batchesLeft_iff _ _).mpr h)

end Sys2Proof.Proofs
end

section
/-! PROOF. LD, ST, SLD, SST and LDACQ (R188, R269, R367 to R370, R404, R405, R410, R411): what they capture, what they do when they are
performed, and a memory instruction that stays in flight. -/

namespace Sys2Proof.Proofs

open Sys2Proof.Machine Sys2Proof.Safety Sys2Proof.Laws

/-- Settles O3: each word decodes by evaluation. -/
theorem decodedWords : Obligations.DecodedWords := by
  unfold Obligations.DecodedWords
  decide

/-! Staying in flight (R269). -/

/-- A memory instruction that waits for no matrix operation has no meaning but to issue. -/
theorem exec_of_isReplay {i : Instr} (hr : isReplay i = true) (ht : ∀ o, i ≠ .tld o ∧ i ≠ .accld o ∧ i ≠ .accst o) (s : State) :
    exec i s = runMem i s := by
  unfold isReplay at hr
  split at hr
  case h_9 o => exact absurd rfl (ht o).1
  case h_11 o => exact absurd rfl (ht o).2.1
  case h_12 o => exact absurd rfl (ht o).2.2
  case h_21 => exact absurd hr Bool.false_ne_true
  all_goals rfl

/-- In a ready state the instruction that issues is the one in flight. -/
theorem begun_inflight {i : Instr} {s : State} (h : ready i s = true) : (begun i s).g.inflight = [entryOf i s] := by
  simp [begun, onG, enqueue, advance_inflight, ready_idle h, entryOf]

theorem advance_pc (i : Instr) (j : Option W64) (g : Group) : (advance i j g).pc = j.getD (g.pc + BitVec.ofNat 64 (instrLen i)) := by
  obtain ⟨v, sc, gm, tc, fp, h⟩ := foldEff_frame (g.pend.filter (fun p => decide (p.left ≤ 1 + (opnd i).st.toNat)))
    { g with pc := j.getD (g.pc + BitVec.ofNat 64 (instrLen i)) }
  simp only [advance, retire]
  rw [h]

/-- What the environment holds stays in flight, and nothing of its effect has happened. -/
theorem settle_stays {i : Instr} {s : State} (hr : isReplay i = true) (h : ready i s = true) (hh : s.holds.headD false = true) :
    settle i (onG (advance i none) (enqueue i s)) = begun i s := by
  have he : (onG (advance i none) (enqueue i s)).g.inflight = [entryOf i s] := begun_inflight h
  have h2 : (onG (advance i none) (enqueue i s)).holds.headD false = true := hh
  simp only [settle, he, List.isEmpty_cons, settles, hr, Bool.true_or, Bool.not_true, Bool.or_self, takeHold, h2, Bool.false_eq_true,
    if_false, if_true]
  rfl

/-- A memory instruction that is held has issued, and nothing more. -/
theorem held_in_flight {i : Instr} {s : State} (hr : isReplay i = true) (h : ready i s = true) (hh : s.holds.headD false = true)
    (hx : exec i s = runMem i s) : ∃ t, exec i s = .next t ∧ Follows (commit s (begun i s)) t := by
  have hl : (enqueue i s).g.live = true := (ready_live h : s.g.live = true)
  refine ⟨_, hx.trans (run_ready _ h), ?_⟩
  simp only [conclude, if_pos hl, settle_stays hr h hh]
  exact follows_commit _ (follows_spend _ _ _)

/-! What a load or store captures. -/

theorem captureV_store (o : Opnd) (s : State) :
    captureV (.st o) s = (List.range (dataRegs o)).map (fun j => rdV s (o.d.toNat + j)) ++ [rdV s o.b.toNat] := by
  have hd : (if (parOf o).size = 3 then 2 else 1) = dataRegs o := by
    simp only [dataRegs, size_eq_three_iff]
  rw [← hd]
  rfl

/-! What is performed. -/

section Perform

variable {o : Opnd} {e : InFlight} {t s1 : State} {n : Nat}

theorem perfLd_checked {ps : List (Nat × Phys)} (hn : n = sizeOf_ (parOf o))
    (h : checkLanes t (whoOf t.g (parOf o).ccls) t.g.ctx n n needR (vecAddrs e o (capS e 0) (capV e 0)) = .ok ps s1) :
    perfLd o e t = .ok () (onG (putLoaded o.d.toNat n (parOf o).sx (loadLanes (whoOf t.g (parOf o).ccls) n ps s1).1)
      (loadLanes (whoOf t.g (parOf o).ccls) n ps s1).2) := by
  subst hn
  simp only [perfLd, h, Res.bind]

theorem perfSt_checked {ps : List (Nat × Phys)} (hn : n = sizeOf_ (parOf o))
    (h : checkLanes t (whoOf t.g (parOf o).ccls) t.g.ctx n n needW (vecAddrs e o (capS e 0) (capV e (dataRegs o))) = .ok ps s1) :
    perfSt o e t = .ok () (bump (storeLanes (whoOf t.g (parOf o).ccls) n (laneData e 0 n) ps [] s1)) := by
  subst hn
  rw [dataRegs] at h
  simp only [perfSt, h, Res.bind]

theorem perfSld_checked {p : Nat × Phys} (hn : n = sizeOf_ (parOf o))
    (h : checkLanes t (whoOf t.g (parOf o).ccls) t.g.ctx n n needR [(0, scalarAddr (capS e 0) (capS e 1) (parOf o) (dispOf o))] = .ok [p] s1) :
    perfSld o e t = .ok () (onG (put (.sca o.d.toNat
      (if (parOf o).sx then w64 (sextNat (8 * n) (natOf (loadBytes s1 (whoOf t.g (parOf o).ccls) p.2 n).1))
        else BitVec.ofNat 64 (natOf (loadBytes s1 (whoOf t.g (parOf o).ccls) p.2 n).1))))
      (loadBytes s1 (whoOf t.g (parOf o).ccls) p.2 n).2) := by
  subst hn
  simp only [perfSld, h, Res.bind, loadLanes, List.head?_cons, Option.map_some, Option.getD_some]

theorem perfSst_checked {p : Nat × Phys} (hn : n = sizeOf_ (parOf o))
    (h : checkLanes t (whoOf t.g (parOf o).ccls) t.g.ctx n n needW [(0, scalarAddr (capS e 1) (capS e 2) (parOf o) (dispOf o))] = .ok [p] s1) :
    perfSst o e t = .ok () (bump (storeAt (whoOf t.g (parOf o).ccls) p.2 (bytesOf n (capS e 0).toNat) s1)) := by
  subst hn
  simp only [perfSst, h, Res.bind, storeLanes, List.contains_nil, Bool.false_and, Bool.false_eq_true, if_false]

theorem perfLdacq_checked {p : Nat × Phys} {ps : List (Nat × Phys)} {bs : List Byte} {s2 : State}
    (h : checkLanes t (whoOf t.g 2) t.g.ctx 8 8 needR [(0, capS e 0 + dispOf o)] = .ok (p :: ps) s1)
    (hb : loadBytes s1 (whoOf t.g 2) p.2 8 = (bs, s2)) :
    perfLdacq o e t = .ok () (acquirePart (parOf o).scope.toNat (if isSlot p.2 then slotSwatch s2 p.2 else fullSwatch)
      (onG (put (.sca o.d.toNat (BitVec.ofNat 64 (natOf bs)))) s2)) := by
  simp only [perfLdacq, h, Res.bind, hb]

end Perform

/-- The data of a lane of a store. -/
theorem laneData_store (o : Opnd) (s : State) {n : Nat} (hn : n = sizeOf_ (parOf o)) :
    laneData (entryOf (.st o) s) 0 n = vectorData s n o.d.toNat :=
  laneData_eq (e := entryOf (.st o) s) (captureV_store o s) (by rw [dataRegs]; split <;> decide) (fun h => by rw [dataRegs, if_pos (hn ▸ h)]; decide)

/-- Settles O34: what is held stays in flight, and each load and store is performed by its own meaning on what it captured. -/
theorem loadsAndStores : Obligations.LoadsAndStores := by
  refine ⟨fun i s hr h hh ht => ?held, fun o s s1 ps n hg hn hc => ?ld, fun o s s1 ps n hg hn hc => ?st,
    fun o s s1 p ps n w hn => ⟨fun hg hw hc => ?sld, fun hg hw hc => ?sst, fun hg hw hc bs s2 hb => ?ldacq⟩⟩
  case held =>
    obtain ⟨t, hx, hf⟩ := held_in_flight hr h hh (exec_of_isReplay hr ht s)
    exact ⟨t, hx, hf, begun_inflight h, rfl, advance_pc i none _⟩
  case ld =>
    refine performs_by rfl hg rfl (perf := perfLd o) (fun e n t hd => by rw [performEntry, hd]) ?_
    rw [← whoOf_begun (.ld o), ← ctx_begun (.ld o)] at hc
    rw [← whoOf_begun (.ld o)]
    exact perfLd_checked hn hc
  case st =>
    refine performs_by rfl hg rfl (perf := perfSt o) (fun e n t hd => by rw [performEntry, hd]) ?_
    rw [← whoOf_begun (.st o), ← ctx_begun (.st o), ← capV_index (e := entryOf (.st o) s) (captureV_store o s)] at hc
    have h := perfSt_checked (e := entryOf (.st o) s) hn hc
    rwa [laneData_store o s hn, whoOf_begun] at h
  case sld =>
    subst hw
    refine performs_by rfl hg rfl (perf := perfSld o) (fun e n t hd => by rw [performEntry, hd]) ?_
    rw [← whoOf_begun (.sld o), ← ctx_begun (.sld o)] at hc
    rw [← whoOf_begun (.sld o)]
    exact perfSld_checked hn hc
  case sst =>
    subst hw
    refine performs_by rfl hg rfl (perf := perfSst o) (fun e n t hd => by rw [performEntry, hd]) ?_
    rw [← whoOf_begun (.sst o), ← ctx_begun (.sst o)] at hc
    rw [← whoOf_begun (.sst o)]
    exact perfSst_checked hn hc
  case ldacq =>
    subst hw
    refine performs_by rfl hg rfl (perf := perfLdacq o) (fun e n t hd => by rw [performEntry, hd]) ?_
    rw [← whoOf_begun (.ldacq o), ← ctx_begun (.ldacq o)] at hc
    rw [← whoOf_begun (.ldacq o)] at hb
    exact perfLdacq_checked hc hb

end Sys2Proof.Proofs
end

section
/-! PROOF. MLINS, MLRES and MLRES.CLR (R296 to R300, R379 to R381): how an MLINS begins and pops its drawers, and the ways in which a resolve
ends. -/

namespace Sys2Proof.Proofs

open Sys2Proof.Machine Sys2Proof.Safety Sys2Proof.Laws

/-! MLINS. -/

/-- With its pages checked, and with what it needs in the pool or a target that degrades, an MLINS has its drawers. -/
theorem mlPop_takes {t : Target} {fs : List MlFrag} {s s1 : State} {want take : Nat}
    (hc : checkSpans s (ropWho s) s.g.ctx needRW (mlSpans t fs s) = .ok () s1) (hw : want = (served (planDrawers t fs s1)).length)
    (ht : take = min want (poolCount t s1))
    (hd : t.deg = true ∨ (want ≤ take ∧ ∀ x ∈ (planDrawers t fs s1).need, x.2.2 = true)) :
    mlPop t fs s = .ok (popped t take s1)
      (if take = 0 then s1 else storeVa (ropWho s1) 2 t.pool (bytesOf 8 (poolCount t s1 - take)) s1) := by
  have hn : ¬ (!t.deg && (decide (take < want) || (planDrawers t fs s1).need.any (fun x => !x.2.2))) = true := by
    rcases hd with h | ⟨h, hx⟩
    · simp [h]
    · simpa [Nat.not_lt.mpr h] using fun _ a b c hm => hx (a, b, c) hm
  subst hw ht
  simp only [mlPop, hc, Res.bind, if_neg hn]

section Begin

variable {o : Opnd} {e : InFlight} {s s1 : State} {bs : List Byte} (hn : e.done = false) (hm : e.mask ≠ 0) (hd : ropDesc e s = .ok bs s1)
include hn hm hd

/-- On a descriptor that is invalid or flat an MLINS does nothing. -/
theorem perfMlins_idle (h : (match targetOf bs with | some t => !t.ml | none => true) = true) : perfMlins o e s = .ok () s1 := by
  have hb : mlBegin e s = .ok none s1 := by
    simp only [mlBegin, hn, Bool.false_or, beq_iff_eq, if_neg hm, hd, Res.bind]
    split at h
    · simp only [*, if_true]
    · simp only [*]
  simp only [perfMlins, hb, Res.bind]

/-- On a layered one it inserts its fragments with the drawers that it has popped. -/
theorem perfMlins_inserts {t : Target} {ds : List Nat} {s2 : State} (ht : targetOf bs = some t) (hl : t.ml = true)
    (hp : mlPop t (mlFrags t e) s1 = .ok ds s2) : perfMlins o e s = .ok () (Machine.insertAll t (mlFrags t e) ds s2) := by
  have hb : mlBegin e s = .ok (some ⟨s.g.id, t, mlFrags t e, ds⟩) s2 := by
    simp only [mlBegin, hn, Bool.false_or, beq_iff_eq, if_neg hm, hd, Res.bind, ht, hl, hp, Bool.not_true, Bool.false_eq_true, if_false]
  simp only [perfMlins, hb, Res.bind]

end Begin

/-- With no other group's MLINS in flight the lanes come one after the other. -/
theorem insertAll_alone {s : State} (h : rivals s = []) (t : Target) (fs : List MlFrag) (ds : List Nat) :
    Machine.insertAll t fs ds s = giveBack t (fs.foldl (fun a f => insertOne t f a) (ds, s)) := by
  rw [Machine.insertAll, h, List.isEmpty_nil, if_pos rfl, insertLanes]

theorem performs_mlins {o : Opnd} {s s' : State} (hg : goes (.mlins o) s)
    (hp : perfMlins o (entryOf (.mlins o) s) (begun (.mlins o) s) = .ok () s') : Performs (.mlins o) s s' :=
  performs_by rfl hg rfl (perf := perfMlins o) (fun e n t hd => by rw [performEntry, hd]) hp

/-! MLRES and MLRES.CLR. -/

/-- Every pixel of every tile of a layered target is resolved into a flat one. -/
def resolveAll (t flat : Target) (s : State) : State :=
  (List.range (tileCount t)).foldl (fun a k => (tilePixels t k).foldl (fun b p => resolvePixel t flat p b) a) s

/-- Every tile of a layered target is emptied. -/
def clearAll (t : Target) (s : State) : State := (List.range (tileCount t)).foldl (fun a k => clearTile t k a) s

/-- The drawers that the chains of a layered target name. -/
def chainSpans (t : Target) (s : State) : List Span :=
  (List.range (tileCount t)).flatMap (fun k => ledTo (ropWho s) needR [⟨0, recordAddr t k, 320⟩, ⟨0, t.pool, 64⟩] (drawerSpans t 0 k) s)

/-- What a resolve reads: the records, the pool's header and the drawers. -/
def resolveReads (t : Target) (s : State) : List Span := [⟨0, t.cbase, 320 * tileCount t⟩, ⟨0, t.pool, 64⟩] ++ chainSpans t s

/-- What it writes: the planes of the flat target, and where it empties the tiles all that it has read, with the pool entries that it
pushes. -/
def resolveWrites (clr : Bool) (t flat : Target) (s : State) : List Span :=
  (planeSpans flat flat.cbase flat.bpp ++ (if flat.dbase = 0 then [] else planeSpans flat flat.dbase 4)) ++
    (if clr then resolveReads t s ++ ledTo (ropWho s) needR [⟨0, t.pool, 64⟩] (fun a => if clr && !(chainSpans t s).isEmpty then
      [⟨0, t.pool + BitVec.ofNat 64 (64 + 4 * poolCount t a), 4 * (chainSpans t s).length⟩] else []) s else [])

theorem exec_resolve {i : Instr} {o : Opnd} {clr : Bool} (hi : (i = .mlres o ∧ clr = false) ∨ (i = .mlresClr o ∧ clr = true)) (s : State) :
    exec i s = runI i s (mlresBody clr o) ∧ settles i = false := by
  rcases hi with ⟨rfl, rfl⟩ | ⟨rfl, rfl⟩ <;> exact ⟨rfl, rfl⟩

section Resolve

variable {clr : Bool} {o : Opnd} {s s1 s2 : State} {da db : List Byte} (ha : uniDesc (rdS s o.a.toNat) s = .ok da s1)
  (hb : uniDesc (rdS s o.b.toNat) s1 = .ok db s2)
include ha hb

theorem mlresBody_invalid (h : targetOf da = none ∨ targetOf db = none) : mlresBody clr o s = .ok none s2 := by
  simp only [mlresBody, alongside, ha, hb, Res.bind]
  rcases h with h | h
  · simp only [h]
  · cases targetOf da <;> simp only [h]

variable {t flat : Target} (ht : targetOf da = some t) (hf : targetOf db = some flat)
include ht hf

theorem mlresBody_unfit (h : t.ml = false ∨ flat.ml = true ∨ t.w ≠ flat.w ∨ t.h ≠ flat.h) : mlresBody clr o s = .ok none s2 := by
  have hu : (!t.ml || flat.ml || t.w != flat.w || t.h != flat.h) = true := by
    simpa [or_assoc] using h
  simp only [mlresBody, alongside, ha, hb, Res.bind, ht, hf, hu, if_true]

/-- On descriptors that fit, and with its spans checked, it resolves the target, and empties it where it is to. -/
theorem mlresBody_resolves {s4 : State} (hm : t.ml = true) (hfl : flat.ml = false) (hw : t.w = flat.w) (hh : t.h = flat.h)
    (hc : checkBoth (resolveReads t s2) (resolveWrites clr t flat s2) (ropWho s2) s2 = .ok () s4) :
    mlresBody clr o s = .ok none (if clr then clearAll t (resolveAll t flat s4) else resolveAll t flat s4) := by
  have hu : (!t.ml || flat.ml || t.w != flat.w || t.h != flat.h) = false := by
    simp [hm, hfl, hw, hh]
  have hb' : mlresBody clr o s = (checkBoth (resolveReads t s2) (resolveWrites clr t flat s2) (ropWho s2) s2).bind
      (fun _ s4 => .ok none (if clr then clearAll t (resolveAll t flat s4) else resolveAll t flat s4)) := by
    simp only [mlresBody, alongside, ha, hb, Res.bind, ht, hf, hu, Bool.false_eq_true, if_false]
    rfl
  rw [hb', hc, Res.bind]

end Resolve

/-- Settles O39: an MLINS by its descriptor and its pool, and a resolve by its two descriptors. -/
theorem layersComplete : Obligations.LayersComplete := by
  refine fun o s => ⟨fun bs s1 hg hmask hd => ⟨fun hidle => ?idle, fun t fs s3 s4 want take ht hl hfs hc hw htake hdeg h4 => ?inserts,
    fun t fs => rfl⟩, fun i clr da s1 db s2 hi hr ha hb hs => ?resolve⟩
  case idle => exact performs_mlins hg (perfMlins_idle rfl hmask hd hidle)
  case inserts =>
    subst hfs h4
    have hp := performs_mlins hg (perfMlins_inserts rfl hmask hd ht hl (mlPop_takes hc hw htake hdeg))
    exact ⟨hp, fun hriv => insertAll_alone hriv t _ _ ▸ hp⟩
  case resolve =>
    obtain ⟨hx, hset⟩ := exec_resolve hi s
    have hl : s2.g.live = true := hs ▸ ready_live hr
    refine ⟨fun h => completes_of_body hx hr (mlresBody_invalid ha hb h) hl hset,
      fun t flat ht hf h => completes_of_body hx hr (mlresBody_unfit ha hb ht hf h) hl hset, ?_⟩
    rintro t flat s4 recs planes drawers ht hf hm hfl hw hh rfl rfl rfl hc s5 rfl s6 rfl hlive
    exact completes_of_body hx hr (mlresBody_resolves ha hb ht hf hm hfl hw hh hc) hlive hset

end Sys2Proof.Proofs
end

section
/-! PROOF. TLBINV, HARVEST and CMAINT (R195 to R198, R348, R349, R365): what writing A and D leaves as it was, which entries and lines are in
scope, and when the pages of a range may be discarded. -/

namespace Sys2Proof.Proofs

open Sys2Proof.Machine Sys2Proof.Safety Sys2Proof.Laws

/-! Fields of words. -/

theorem toNat_setFld {v : W64} {lo n x : Nat} (h : lo + n ≤ 64) :
    (setFld v lo n x).toNat = 2 ^ lo * (2 ^ n * (v.toNat / 2 ^ (lo + n)) + x % 2 ^ n) + v.toNat % 2 ^ lo := by
  have hlo : v.toNat % 2 ^ lo < 2 ^ lo := Nat.mod_lt _ (Nat.two_pow_pos lo)
  have hx : x % 2 ^ n < 2 ^ n := Nat.mod_lt _ (Nat.two_pow_pos n)
  have hv : v.toNat / 2 ^ (lo + n) < 2 ^ (64 - (lo + n)) := by
    rw [Nat.div_lt_iff_lt_mul (Nat.two_pow_pos _), ← Nat.pow_add, Nat.sub_add_cancel h]
    exact v.isLt
  have hsum : v.toNat % 2 ^ lo + x % 2 ^ n * 2 ^ lo + v.toNat / 2 ^ (lo + n) * 2 ^ (lo + n) =
      2 ^ lo * (2 ^ n * (v.toNat / 2 ^ (lo + n)) + x % 2 ^ n) + v.toNat % 2 ^ lo := by
    rw [Nat.pow_add]
    ring
  rw [setFld, BitVec.toNat_ofNat, hsum, Nat.mod_eq_of_lt]
  calc 2 ^ lo * (2 ^ n * (v.toNat / 2 ^ (lo + n)) + x % 2 ^ n) + v.toNat % 2 ^ lo
      < 2 ^ lo * (2 ^ n * (v.toNat / 2 ^ (lo + n)) + x % 2 ^ n + 1) := by rw [Nat.mul_add_one]; omega
    _ ≤ 2 ^ lo * (2 ^ n * (v.toNat / 2 ^ (lo + n) + 1)) := Nat.mul_le_mul_left _ (by rw [Nat.mul_add_one]; omega)
    _ ≤ 2 ^ lo * (2 ^ n * 2 ^ (64 - (lo + n))) := Nat.mul_le_mul_left _ (Nat.mul_le_mul_left _ hv)
    _ = 2 ^ 64 := by rw [← Nat.pow_add, ← Nat.pow_add]; congr 1; omega

/-- A field that is replaced, bit by bit. -/
theorem bit_setFld {v : W64} {lo n x : Nat} (h : lo + n ≤ 64) (b : Nat) :
    bit (setFld v lo n x) b = if lo ≤ b ∧ b < lo + n then x.testBit (b - lo) else bit v b := by
  have hv : v.toNat = 2 ^ lo * (2 ^ n * (v.toNat / 2 ^ (lo + n)) + v.toNat / 2 ^ lo % 2 ^ n) + v.toNat % 2 ^ lo := by
    rw [Nat.pow_add, ← Nat.div_div_eq_div_mul, Nat.div_add_mod, Nat.div_add_mod]
  have hlo : v.toNat % 2 ^ lo < 2 ^ lo := Nat.mod_lt _ (Nat.two_pow_pos lo)
  have hx : x % 2 ^ n < 2 ^ n := Nat.mod_lt _ (Nat.two_pow_pos n)
  have hm : v.toNat / 2 ^ lo % 2 ^ n < 2 ^ n := Nat.mod_lt _ (Nat.two_pow_pos n)
  have hb : bit v b = (2 ^ lo * (2 ^ n * (v.toNat / 2 ^ (lo + n)) + v.toNat / 2 ^ lo % 2 ^ n) + v.toNat % 2 ^ lo).testBit b := by
    rw [← hv]
    rfl
  rw [hb, bit, BitVec.getLsbD, toNat_setFld h, Nat.testBit_two_pow_mul_add _ hlo, Nat.testBit_two_pow_mul_add _ hx,
    Nat.testBit_two_pow_mul_add _ hlo, Nat.testBit_two_pow_mul_add _ hm]
  by_cases h1 : b < lo
  · rw [if_pos h1, if_pos h1, if_neg (by omega)]
  · by_cases h2 : b - lo < n
    · rw [if_neg h1, if_pos h2, if_pos (by omega), Nat.testBit_mod_two_pow, decide_eq_true h2, Bool.true_and]
    · rw [if_neg h1, if_neg h1, if_neg h2, if_neg h2, if_neg (by omega)]

theorem pteAddr_setFld_ac (pte : W64) (x : Nat) : pteAddr (setFld pte 10 1 x) = pteAddr pte := by
  have h := toNat_setFld (v := pte) (lo := 10) (n := 1) (x := x) (by omega)
  simp only [pteAddr, fld, bitsOf, Nat.shiftRight_eq_div_pow, h]
  omega

/-! What the homes leave of the L1s. -/

theorem evictLine_l1 (s : State) (h : HomeLine) : (evictLine s h).l1 = s.l1 := by
  simp only [evictLine, dropTags, putMarks]
  repeat' split
  all_goals rfl

theorem touch_l1 (s : State) (k : Nat) (q a : BitVec 2) (w : Bool) : (touch s k q a w).l1 = s.l1 := by
  unfold touch
  split
  · exact Eq.refl s.l1
  · dsimp only
    split
    · exact Eq.refl s.l1
    · split
      · exact Eq.refl s.l1
      · dsimp only
        split
        · exact evictLine_l1 s _
        · exact Eq.refl s.l1

theorem tagWrite_none_l1 (s : State) (k : Nat) : (tagWrite s k none).l1 = s.l1 := by
  unfold tagWrite
  split <;> rfl

theorem backInvalidate_l1 (s : State) (k : Nat) : (backInvalidate s k).l1 = s.l1 := by
  unfold backInvalidate
  split <;> rfl

theorem wbs_l1 (bs : List Byte) (s : State) (k : Nat) : (wbs s k bs).l1 = s.l1 := by
  induction bs generalizing s k with
  | nil => rfl
  | cons b r ih => exact ih (wb s k b) (k + 1)

theorem homeWrite_l1 (s : State) (k : Nat) (bs : List Byte) (q a : BitVec 2) : (homeWrite s k bs q a none).l1 = s.l1 := by
  unfold homeWrite
  extract_lets s1 ws s2 s3
  have h2 : s2.l1 = s.l1 := calc
    s2.l1 = s1.l1 := foldl_untouched (obs := State.l1) (fun z w _ => tagWrite_none_l1 z w) s1
    _ = s.l1 := (backInvalidate_l1 _ k).trans (touch_l1 s k q a true)
  have h3 : s3.l1 = s2.l1 := by
    dsimp only [s3]
    split
    · refine foldl_untouched (obs := State.l1) (fun z w _ => ?_) s2
      rfl
    · rfl
  exact (wbs_l1 bs s3 k).trans (h3.trans h2)

/-! Writing A and D (R195). -/

/-- An entry that has gathered nothing writes nothing (R196). -/
theorem writeAd_nothing {s : State} {e : TlbEntry} (ha : e.a = false) (hd : e.d = false) : writeAd s e = s := by
  simp only [writeAd, ha, hd, Bool.or_self, Bool.not_false, if_true]

/-- Writing A and D reaches the homes and the list of errors only. -/
theorem writeAd_frame (s : State) (e : TlbEntry) : ∃ t l, HomesOnly s t ∧ t.l1 = s.l1 ∧ writeAd s e = { t with errors := l } := by
  unfold writeAd
  extract_lets s1 now new
  have h1 : HomesOnly s s1 := homesOnly_touch s _ _ _ _
  have hl : s1.l1 = s.l1 := touch_l1 s _ _ _ _
  split
  · exact ⟨s, s.errors, homesOnly_refl s, rfl, rfl⟩
  · split
    · exact ⟨s1, _, h1, hl, rfl⟩
    · split
      · exact ⟨s1, s1.errors, h1, hl, rfl⟩
      · have h2 := homesOnly_homeWrite s1 e.at_ (bytesOf 8 new.toNat) 0 0 none
        have hl2 := homeWrite_l1 s1 e.at_ (bytesOf 8 new.toNat) 0 0
        generalize homeWrite s1 e.at_ (bytesOf 8 new.toNat) 0 0 none = u at h2 hl2
        exact ⟨u, u.errors, homesOnly_trans h1 h2, hl2.trans hl, rfl⟩

theorem writeAd_g (s : State) (e : TlbEntry) : (writeAd s e).g = s.g := by
  obtain ⟨t, l, h, _, hw⟩ := writeAd_frame s e
  exact (congrArg State.g hw).trans h.g_eq

theorem writeAd_tlb (s : State) (e : TlbEntry) : (writeAd s e).tlb = s.tlb := by
  obtain ⟨t, l, h, _, hw⟩ := writeAd_frame s e
  exact (congrArg State.tlb hw).trans ((congrArg State.tlb h).trans rfl)

theorem writeAd_accs (s : State) (e : TlbEntry) : (writeAd s e).accs = s.accs := by
  obtain ⟨t, l, h, _, hw⟩ := writeAd_frame s e
  exact (congrArg State.accs hw).trans ((congrArg State.accs h).trans rfl)

theorem writeAd_l1 (s : State) (e : TlbEntry) : (writeAd s e).l1 = s.l1 := by
  obtain ⟨t, l, _, h, hw⟩ := writeAd_frame s e
  exact (congrArg State.l1 hw).trans h

theorem dropTlb_g (s : State) (p : TlbEntry → Bool) : (dropTlb s p).g = s.g :=
  foldl_untouched (obs := State.g) (fun z e _ => writeAd_g z e) s

theorem dropTlb_accs (s : State) (p : TlbEntry → Bool) : (dropTlb s p).accs = s.accs :=
  foldl_untouched (obs := State.accs) (fun z e _ => writeAd_accs z e) s

theorem dropTlb_tlb (s : State) (p : TlbEntry → Bool) : (dropTlb s p).tlb = s.tlb.filter (fun e => !p e) :=
  congrArg (List.filter (fun e => !p e)) (foldl_untouched (obs := State.tlb) (fun z e _ => writeAd_tlb z e) s)

/-! TLBINV (R197). -/

/-- A scope code of an instruction, core by core. -/
theorem coreInScope_code (g : Group) (k : BitVec 3) (core : Nat) : coreInScope g k.toNat core =
    (if k = 3 then core / 48 == g.core / 48 else if k = 4 then decide (core < 384) else true) := by
  have h3 : k.toNat = 3 ↔ k = 3 := by rw [← BitVec.toNat_inj]; rfl
  have h4 : k.toNat = 4 ↔ k = 4 := by rw [← BitVec.toNat_inj]; rfl
  simp only [coreInScope, coreDie, h3, h4]

theorem tlbinv_removes {o : Opnd} {s : State} (hr : ready (.tlbinv o) s = true)
    (h : (parOf o).val.getLsbD 0 = true ∨ canonical (rdS s o.a.toNat) = true) :
    Completes (.tlbinv o) s none (dropTlb s (fun e => e.ctx == fld s.g.vmctx 0 16 && coreInScope s.g (parOf o).scope.toNat e.core &&
      ((parOf o).val.getLsbD 0 ||
        decide (e.base ≤ (rdS s o.a.toNat).toNat % 2 ^ 57 ∧ (rdS s o.a.toNat).toNat % 2 ^ 57 < e.base + 2 ^ e.bits)))) := by
  refine completes_of_body rfl hr (if_neg ?_) ((congrArg Group.live (dropTlb_g s _)).trans (ready_live hr)) rfl
  rcases h with h | h <;> simp only [h, Bool.not_true, Bool.and_false, Bool.false_and, Bool.false_eq_true, not_false_eq_true]

/-- A trap of lane 0 alone. -/
theorem laneTrap_zero (c x : Nat) (a : W64) : laneTrap c x [(0, a)] = { cause := c, sub := x, mask := 1, fault := a } := by
  have hm : maskOf [0] = 1 := by decide
  simp only [laneTrap, List.map_cons, List.map_nil, hm, List.head?_cons, Option.map_some, Option.getD_some]

theorem tlbinv_traps {o : Opnd} {s : State} (hr : ready (.tlbinv o) s = true) (hv : (parOf o).val.getLsbD 0 = false)
    (hc : canonical (rdS s o.a.toNat) = false) :
    Ends (.tlbinv o) s (takeTrap { cause := 3, sub := 0, mask := 1, fault := rdS s o.a.toNat } false s) :=
by
  have ht : (!(parOf o).val.getLsbD 0 && !canonical (rdS s o.a.toNat)) = true := by
    rw [hv, hc]
    rfl
  rw [← laneTrap_zero]
  exact ends_of_trap rfl hr (if_pos ht)

/-! HARVEST (R196, R365). -/

/-- What an entry of the context is once its A and D are written. -/
def harvested (tag : Nat) (e : TlbEntry) : TlbEntry :=
  if e.ctx = tag then { e with aDone := e.aDone || e.a, dDone := e.dDone || e.d, a := false, d := false } else e

/-- The state once the A and D of a context's entries are written. -/
def harvest (tag : Nat) (s : State) : State :=
  let t := (s.tlb.filter (fun e => e.ctx == tag)).foldl writeAd s
  { t with tlb := t.tlb.map (harvested tag) }

theorem harvest_tlb (tag : Nat) (s : State) : (harvest tag s).tlb = s.tlb.map (harvested tag) :=
  congrArg (List.map (harvested tag)) (foldl_untouched (obs := State.tlb) (fun z e _ => writeAd_tlb z e) s)

theorem harvest_mem (tag : Nat) (s : State) : (harvest tag s).mem = s.mem := foldl_mem writeAd_mem _ s

theorem harvest_g (tag : Nat) (s : State) : (harvest tag s).g = s.g := foldl_untouched (obs := State.g) (fun z e _ => writeAd_g z e) s

theorem harvest_l1 (tag : Nat) (s : State) : (harvest tag s).l1 = s.l1 := foldl_untouched (obs := State.l1) (fun z e _ => writeAd_l1 z e) s

theorem harvest_completes {o : Opnd} {s : State} (hr : ready (.harvest o) s = true) :
    Completes (.harvest o) s none (harvest (fld s.g.vmctx 0 16) s) :=
  completes_of_body rfl hr rfl ((congrArg Group.live (harvest_g _ s)).trans (ready_live hr)) rfl

/-- An entry after an access is one before it, and a setting that it has written is not gathered again. -/
theorem mem_gather {s : State} {core tag va : Nat} {store : Bool} {e : TlbEntry} (h : e ∈ (gather s core tag va store).tlb) :
    ∃ f ∈ s.tlb, f.aDone = e.aDone ∧ f.dDone = e.dDone ∧ (f.aDone = true → e.a = f.a) ∧ (f.dDone = true → e.d = f.d) := by
  obtain ⟨f, hf, rfl⟩ := List.mem_map.mp h
  refine ⟨f, hf, ?_⟩
  split
  · exact ⟨rfl, rfl, fun ha => by simp [ha], fun hd => by simp [hd]⟩
  · exact ⟨rfl, rfl, fun _ => rfl, fun _ => rfl⟩

/-! CMAINT (R198, R348, R349). -/

/-- A page that a group may write may be discarded from. -/
theorem permSub_discard_none {w : Who} {pte : W64} (hw : bit pte 3 = true) (hu : bit pte 5 = true) (hr : pteAddr pte / 2 ^ 48 ≠ 3) :
    permSub w needW (setFld pte 10 1 0) = none := by
  have hk : ¬ (pteAddr pte / 2 ^ 48 = 3 ∧ w.priv = false) := fun h => hr h.1
  rw [permSub, pteAddr_setFld_ac, if_neg hk]
  simp [needW, bit_setFld, hw, hu]

/-- A page without W may not. -/
theorem permSub_discard_some {w : Who} {pte : W64} (hw : bit pte 3 = false) : (permSub w needW (setFld pte 10 1 0)).isSome = true := by
  rw [permSub]
  split
  · rfl
  · simp [needW, bit_setFld, hw]

/-- The page of a range that CMAINT may not discard from. -/
def deniedPage (o : Opnd) (s : State) (pages : List PageSpan) : Option PageSpan :=
  if !s.g.priv && ((parOf o).val.toNat % 4 == 1 || (parOf o).val.toNat % 4 == 2) then
    pages.find? (fun x => (permSub (whoOf s.g 0) needW (setFld x.pte 10 1 0)).isSome) else none

theorem deniedPage_none {o : Opnd} {s : State} {pages : List PageSpan}
    (h : s.g.priv = true ∨ ((parOf o).val.toNat % 4 ≠ 1 ∧ (parOf o).val.toNat % 4 ≠ 2) ∨
      (∀ p ∈ pages, bit p.pte 3 = true ∧ bit p.pte 5 = true ∧ pteAddr p.pte / 2 ^ 48 ≠ 3)) : deniedPage o s pages = none := by
  rw [deniedPage]
  split
  next hc =>
    simp only [Bool.and_eq_true, Bool.not_eq_true', Bool.or_eq_true, beq_iff_eq] at hc
    rw [List.find?_eq_none]
    intro p hp
    rcases h with h | h | h
    · simp [h] at hc
    · exact absurd hc.2 (by omega)
    · obtain ⟨hw, hu, hr⟩ := h p hp
      simp [permSub_discard_none hw hu hr]
  next => rfl

theorem deniedPage_some {o : Opnd} {s : State} {pages : List PageSpan} (hp : s.g.priv = false)
    (ho : (parOf o).val.toNat % 4 = 1 ∨ (parOf o).val.toNat % 4 = 2) (h : ∃ p ∈ pages, bit p.pte 3 = false) :
    ∃ x, deniedPage o s pages = some x := by
  obtain ⟨p, hm, hw⟩ := h
  have hc : (!s.g.priv && ((parOf o).val.toNat % 4 == 1 || (parOf o).val.toNat % 4 == 2)) = true := by
    simpa [hp] using ho
  rw [deniedPage, if_pos hc, ← Option.isSome_iff_exists, List.find?_isSome]
  exact ⟨p, hm, permSub_discard_some hw⟩

theorem homesOnly_maintain (op c : Nat) (p : Nat → Bool) (s : State) : HomesOnly s (maintain op c p s) := by
  unfold maintain
  split
  · exact homesOnly_writeBack s c p
  · exact homesOnly_with _ _ _ _ _ _ _ _ _ _
  · exact homesOnly_flush s c p
  · exact homesOnly_with _ _ _ _ _ _ _ _ _ _

/-- The clusters in scope with the lines of the pages maintained. -/
def maintainPages (o : Opnd) (pages : List PageSpan) (s : State) : State :=
  ((l1Clusters s).filter (fun c => coreInScope s.g (parOf o).scope.toNat (4 * c))).foldl
    (fun x c => maintain ((parOf o).val.toNat % 4) c (fun l => pages.any (fun p => spanLine p l)) x) s

theorem maintainPages_g (o : Opnd) (pages : List PageSpan) (s : State) : (maintainPages o pages s).g = s.g :=
  (homesOnly_foldl (fun a c => homesOnly_maintain _ c _ a) _ s).g_eq

/-- What CMAINT leaves: under .ICI the instruction caches in scope are discarded too. -/
def maintained (o : Opnd) (pages : List PageSpan) (s : State) : State :=
  let t := maintainPages o pages s
  if (parOf o).val.toNat % 4 = 3 then
    { t with icache := ckeep (fun x => !coreInScope t.g (parOf o).scope.toNat (x / 2 ^ 62)) t.icache } else t

theorem maintained_g (o : Opnd) (pages : List PageSpan) (s : State) : (maintained o pages s).g = s.g := by
  rw [maintained]
  split <;> exact maintainPages_g o pages s

section Cmaint

variable {o : Opnd} {s s1 : State} {e : Nat} {pages : List PageSpan} (hn : rdS s o.b.toNat ≠ 0) (hc : canonical (rdS s o.a.toNat) = true)
  (he : rangeEnd (rdS s o.a.toNat).toNat (rdS s o.b.toNat).toNat = .inl e)
  (hp : pagesOf (whoOf s.g 0) e ((rdS s o.b.toNat).toNat / 65536 + 2) ((rdS s o.a.toNat).toNat % 2 ^ 57) s = .ok pages s1)
include hn hc he hp

theorem cmaintBody_maintains (hd : deniedPage o s pages = none) : cmaintBody o s = .ok none (maintained o pages s1) := by
  have h0 : (rdS s o.b.toNat).toNat ≠ 0 := fun h => hn (BitVec.eq_of_toNat_eq h)
  rw [deniedPage] at hd
  simp only [cmaintBody, if_neg h0, hc, Bool.not_true, Bool.false_eq_true, if_false, he, hp, Res.bind, hd]
  rfl

theorem cmaintBody_denied {x : PageSpan} (hd : deniedPage o s pages = some x) :
    cmaintBody o s = .trap (laneTrap 0x06 1 [(0, sext57 (x.base + x.lo))]) s1 := by
  have h0 : (rdS s o.b.toNat).toNat ≠ 0 := fun h => hn (BitVec.eq_of_toNat_eq h)
  rw [deniedPage] at hd
  simp only [cmaintBody, if_neg h0, hc, Bool.not_true, Bool.false_eq_true, if_false, he, hp, Res.bind, hd]

end Cmaint

/-- Settles O19: the entries and lines that each of the three names, and the traps of TLBINV and CMAINT. -/
theorem translationMaintenance : Obligations.TranslationMaintenance := by
  refine ⟨fun o s hr => ⟨fun h => ?tlbinv, tlbinv_traps hr⟩, fun o s hr => ⟨_, harvest_completes hr, harvest_tlb _ s, harvest_mem _ s,
    harvest_g _ s, harvest_l1 _ s, rfl⟩, fun s e => writeAd_nothing, fun s core tag va store e => mem_gather,
    fun o s hr => ⟨fun h => ?empty, fun e pages s1 hn hc he hp hg => ⟨fun h => ?maintains, fun hpriv ho h => ?denied⟩⟩⟩
  case tlbinv =>
    have ht := tlbinv_removes hr h
    simpa only [coreInScope_code] using ht
  case empty => exact completes_of_body rfl hr (if_pos (by rw [h]; rfl)) (ready_live hr) rfl
  case maintains =>
    have hb := cmaintBody_maintains hn hc he hp (deniedPage_none h)
    refine ⟨_, completes_of_body rfl hr hb ((congrArg Group.live ((maintained_g o pages s1).trans hg)).trans (ready_live hr)) rfl, ?_⟩
    rintro s2 rfl
    rw [← hg]
    refine ⟨fun h3 => if_neg h3, fun h3 => ?_⟩
    have hm : maintained o pages s1 = { maintainPages o pages s1 with
        icache := ckeep (fun x => !coreInScope s1.g (parOf o).scope.toNat (x / 2 ^ 62)) (maintainPages o pages s1).icache } := by
      rw [maintained, ← maintainPages_g o pages s1]
      exact if_pos h3
    rw [hm]
    refine ⟨rfl, fun k => (cget_ckeep _ _ _ k).trans ?_⟩
    cases coreInScope s1.g (parOf o).scope.toNat (k / 2 ^ 62) <;> rfl
  case denied =>
    obtain ⟨x, hx⟩ := deniedPage_some hpriv ho h
    exact ⟨_, _, ends_of_trap rfl hr (cmaintBody_denied hn hc he hp hx), rfl, rfl⟩

end Sys2Proof.Proofs
end

section
/-! PROOF. MAPPG and ACCSN (R192, R194, R238, R338, R373): the frame of the frame pool, the two bodies answer by answer, and what setting AC
leaves in the leaves and in the translation buffers. -/

namespace Sys2Proof.Proofs

open Sys2Proof.Machine Sys2Proof.Safety Sys2Proof.Laws

/-! The frame pool (R192). -/

theorem homesOnly_dropWord (s : State) (c l i : Nat) : HomesOnly s (dropWord s c l i) :=
  homesOnly_trans (homesOnly_writeBackWord s c l i) (homesOnly_with _ _ _ _ _ _ _ _ _ _)

theorem homesOnly_dropWords (c l : Nat) (ws : List Nat) (s : State) : HomesOnly s (ws.foldl (fun a i => dropWord a c l i) s) :=
  homesOnly_foldl (fun a i => homesOnly_dropWord a c l i) ws s

theorem homesOnly_replicaWrite (s : State) (k : Nat) (bs : List Byte) (q a : BitVec 2) : HomesOnly s (replicaWrite s k bs q a) :=
  homesOnly_foldl (fun z r => homesOnly_homeWrite z r bs q a none) _ s

theorem homesOnly_homeRead (s : State) (w : Who) (p : Phys) (n : Nat) : HomesOnly s (homeRead s w p n).2 := by
  unfold homeRead
  split
  · exact homesOnly_logRefused s p.key .host
  · exact homesOnly_trans (homesOnly_trans (homesOnly_hostReady s _ p true) (homesOnly_dropWords _ _ _ _)) (homesOnly_touch _ _ _ _ _)

theorem homesOnly_storeHome (s : State) (w : Who) (p : Phys) (bs : List Byte) : HomesOnly s (storeHome s w p bs) := by
  unfold storeHome
  refine homesOnly_ite (homesOnly_logRefused s p.key .host) ?_
  exact homesOnly_trans (homesOnly_trans (homesOnly_hostReady s _ p true) (homesOnly_dropWords _ _ _ _))
    (homesOnly_ite (homesOnly_replicaWrite _ _ _ _ _) (homesOnly_homeWrite _ _ _ _ _ _))

theorem homesOnly_poolPush (w : Who) (p : Phys) (e : W64) (s : State) : HomesOnly s (poolPush w p e s) := by
  have h1 : HomesOnly s (homeRead s w p 8).2 := homesOnly_homeRead s w p 8
  have h2 : HomesOnly s (homeRead (homeRead s w p 8).2 w (p.plus 8) 8).2 := homesOnly_trans h1 (homesOnly_homeRead _ _ _ _)
  unfold poolPush
  exact homesOnly_ite h2 (homesOnly_trans h2 (homesOnly_trans (homesOnly_storeHome _ _ _ _) (homesOnly_homeWrite _ _ _ _ _ _)))

/-! MAPPG (R194, R373). -/

/-- What a walk of the tables leaves MAPPG to answer, and the state that it answers in. -/
def mapAnswer (w : Who) (p : Phys) (e tmpl : W64) (s : State) : MapSlot → Option (W64 × State)
  | .slot k => some (0, homeWrite s k (bytesOf 8 (newPte e tmpl).toNat) w.quota 0 none)
  | .mapped => some (1, poolPush w p e s)
  | .noSlot => some (3, poolPush w p e s)
  | _ => none

theorem mapAnswer_live {w : Who} {p : Phys} {e tmpl : W64} {s t : State} {q : MapSlot} {x : W64}
    (h : mapAnswer w p e tmpl s q = some (x, t)) : t.g.live = s.g.live := by
  cases q <;> simp only [mapAnswer, Option.some.injEq, Prod.mk.injEq, reduceCtorEq] at h <;> obtain ⟨-, rfl⟩ := h
  · exact congrArg Group.live (homesOnly_homeWrite s _ _ _ _ _).g_eq
  · exact congrArg Group.live (homesOnly_poolPush w p e s).g_eq
  · exact congrArg Group.live (homesOnly_poolPush w p e s).g_eq

/-- An interlocked answer completes the instruction. -/
theorem completes_of_put {i : Instr} {s s' : State} {body : State → Res (Option W64)} {e : Effect}
    (hx : exec i s = runI i s body) (hr : ready i s = true) (hb : body s = .ok none (onG (put e) s')) (hl : s'.g.live = true)
    (hp : settles i = false) : Completes i s none (onG (put e) s') :=
  completes_of_body hx hr hb ((put_live e s'.g).trans hl) hp

section Mappg

variable {o : Opnd} {s : State} (hc : canonical (rdS s o.a.toNat) = true)
include hc

theorem mappgBody_badTemplate (ht : rdS s o.b.toNat &&& ~~~0x193C ≠ 0) : mappgBody o s = .ok none (onG (put (.sca o.d.toNat 4)) s) := by
  rw [mappgBody, hc]
  exact if_pos ht

variable (ht : rdS s o.b.toNat &&& ~~~0x193C = 0)
include ht

theorem mappgBody_noPool (hp : fld s.g.frpool 0 57 = 0) : mappgBody o s = .ok none (onG (put (.sca o.d.toNat 2)) s) := by
  simp only [mappgBody, hc, ht, hp, Bool.not_true, Bool.false_eq_true, ne_eq, not_true_eq_false, if_false, if_true]

variable {ws : List LaneWalk} {ps : List (Nat × Phys)} {s1 s2 : State} {p : Nat × Phys} (hp : fld s.g.frpool 0 57 ≠ 0)
  (hw : checkPerm s (whoOf s.g 0) 8 needRW [(0, sext57 (fld s.g.frpool 0 57))] = .ok ws s1)
  (hps : places (whoOf s.g 0) 16 needRW ws s1 = .ok (p :: ps) s2)
include hp hw hps

theorem mappgBody_emptyPool {s3 : State} (h : poolPop (whoOf s.g 0) p.2 s2 = (none, s3)) :
    mappgBody o s = .ok none (onG (put (.sca o.d.toNat 2)) s3) := by
  simp only [mappgBody, hc, ht, hp, hw, hps, h, Res.bind, Bool.not_true, Bool.false_eq_true, ne_eq, not_true_eq_false, if_false]

theorem mappgBody_walk {s3 s4 t : State} {e x : W64} {q : MapSlot} (h : poolPop (whoOf s.g 0) p.2 s2 = (some e, s3)) (hb : poolBad e = false)
    (hq : mapWalk ((rdS s o.a.toNat).toNat % 2 ^ 57) (psBits e) s.g.ccls levels (fld s.g.vmctx 17 35 * 2 ^ 17) s3 = (q, s4))
    (ha : mapAnswer (whoOf s.g 0) p.2 e (rdS s o.b.toNat) s4 q = some (x, t)) :
    mappgBody o s = .ok none (onG (put (.sca o.d.toNat x)) t) := by
  have hq' : mapWalk ((rdS s o.a.toNat).toNat % 2 ^ 57) (psBits e) (whoOf s.g 0).quota levels (whoOf s.g 0).root s3 = (q, s4) := hq
  simp only [mappgBody, hc, ht, hp, hw, hps, h, hb, hq', Res.bind, Bool.not_true, Bool.false_eq_true, ne_eq, not_true_eq_false, if_false]
  cases q <;> simp only [mapAnswer, Option.some.injEq, Prod.mk.injEq, reduceCtorEq] at ha <;> obtain ⟨rfl, rfl⟩ := ha <;> rfl

end Mappg

/-! ACCSN (R238, R338). -/

/-- The state in which an accession of pages stands recorded, its pages not yet marked. -/
def withRecord (o : Opnd) (s t : State) (pages : List PageSpan) (n : W64) : State :=
  { t with
    accCount := t.accCount + 1
    accs := ⟨n, s.g.ctx, rdS s o.a.toNat, fld (rdS s o.b.toNat) 0 63, pages.flatMap pagePieces⟩ :: t.accs }

/-- The record of a range, if there is one. -/
def recordOf (o : Opnd) (s : State) (l : List Accession) : Option Accession :=
  l.find? (fun x => x.ctx == s.g.ctx && x.base == rdS s o.a.toNat && x.len == fld (rdS s o.b.toNat) 0 63)

theorem recordOf_some {o : Opnd} {s : State} {l : List Accession}
    (h : ∃ x ∈ l, x.ctx = s.g.ctx ∧ x.base = rdS s o.a.toNat ∧ x.len = fld (rdS s o.b.toNat) 0 63) :
    ∃ x ∈ l, x.ctx = s.g.ctx ∧ x.base = rdS s o.a.toNat ∧ x.len = fld (rdS s o.b.toNat) 0 63 ∧
      x.num = ((recordOf o s l).map (·.num)).getD 0 := by
  obtain ⟨x, hx, hctx, hbase, hlen⟩ := h
  have hs : (recordOf o s l).isSome = true := List.find?_isSome.mpr ⟨x, hx, by simp [hctx, hbase, hlen]⟩
  obtain ⟨y, hy⟩ := Option.isSome_iff_exists.mp hs
  have hk := List.find?_some hy
  simp only [Bool.and_eq_true, beq_iff_eq] at hk
  exact ⟨y, List.mem_of_find?_eq_some hy, hk.1.1, hk.1.2, hk.2, by rw [hy]; rfl⟩

theorem recordOf_none {o : Opnd} {s : State} {l : List Accession}
    (h : ∀ x ∈ l, ¬ (x.ctx = s.g.ctx ∧ x.base = rdS s o.a.toNat ∧ x.len = fld (rdS s o.b.toNat) 0 63)) : recordOf o s l = none := by
  rw [recordOf, List.find?_eq_none]
  intro x hx hk
  simp only [Bool.and_eq_true, beq_iff_eq] at hk
  exact h x hx ⟨hk.1.1, hk.1.2, hk.2⟩

section Accsn

variable {o : Opnd} {s s1 : State} {e : Nat} {pages : List PageSpan} (hc : canonical (rdS s o.a.toNat) = true)
  (hn : fld (rdS s o.b.toNat) 0 63 ≠ 0) (he : rangeEnd (rdS s o.a.toNat).toNat (fld (rdS s o.b.toNat) 0 63) = .inl e)
  (hp : accPages (whoOf s.g 0) e (fld (rdS s o.b.toNat) 0 63 / 65536 + 1) ((rdS s o.a.toNat).toNat % 2 ^ 57) s = .ok pages s1)
include hc hn he hp

theorem accsnBody_unseals (hb : bit (rdS s o.b.toNat) 63 = true) (hg : s1.g = s.g) :
    accsnBody o s = .ok none (onG (put (.sca o.d.toNat (((recordOf o s s1.accs).map (·.num)).getD 0)))
      (setAc false (whoOf s.g 0) pages { s1 with accs := s1.accs.filter (fun x => !piecesMeet x.pieces (pages.flatMap pagePieces)) })) := by
  simp only [accsnBody, hc, hn, he, hp, hb, hg, Res.bind, Bool.not_true, Bool.false_eq_true, if_false, if_true]
  rfl

variable {s2 : State} (hb : bit (rdS s o.b.toNat) 63 = false)
  (h2 : s2 = (l1Clusters s1).foldl (fun x c => writeBack x c (fun l => pages.any (fun p => spanLine p l))) s1)
include hb h2

theorem accsnBody_full (hf : (pieceHomes (pages.flatMap pagePieces)).any (tableFull s2) = true) :
    accsnBody o s = .ok none (onG (put (.sca o.d.toNat 0)) s2) := by
  simp only [accsnBody, hc, hn, he, hp, hb, ← h2, hf, Res.bind, Bool.not_true, Bool.false_eq_true, if_false, if_true]

theorem accsnBody_records (hf : (pieceHomes (pages.flatMap pagePieces)).any (tableFull s2) = false) (hg : s2.g = s.g) {n : W64}
    (hnum : n = BitVec.ofNat 64 (fld (rdWin s2 modidOff) 0 16 * 2 ^ 48 + s2.accCount)) :
    accsnBody o s = .ok none (onG (put (.sca o.d.toNat n)) (setAc true (whoOf s.g 0) pages (withRecord o s s2 pages n))) := by
  simp only [accsnBody, hc, hn, he, hp, hb, ← h2, hf, congrArg Group.ctx hg, ← hnum, Res.bind, Bool.not_true, Bool.false_eq_true, if_false]
  rfl

end Accsn

/-! AC in the leaves. -/

/-- A page's leaf with its AC set or cleared. -/
def markLeaf (ac : Bool) (q : BitVec 2) (s : State) (x : PageSpan) : State :=
  homeWrite s x.at_ (bytesOf 8 (setFld (rw8 s x.at_) 10 1 (if ac then 1 else 0)).toNat) q 0 none

/-- The pages' leaves, marked one after another. -/
def markLeaves (ac : Bool) (q : BitVec 2) (pages : List PageSpan) (s : State) : State := pages.foldl (markLeaf ac q) s

/-- The entries of the pages of an address space. -/
def ofPages (tag : Nat) (pages : List PageSpan) (e : TlbEntry) : Bool := e.ctx == tag && pages.any (fun x => x.base == e.base)

theorem setAc_eq (ac : Bool) (w : Who) (pages : List PageSpan) (s : State) :
    setAc ac w pages s = dropTlb (markLeaves ac w.quota pages s) (ofPages w.tag pages) := rfl

theorem homesOnly_markLeaves (ac : Bool) (q : BitVec 2) (pages : List PageSpan) (s : State) : HomesOnly s (markLeaves ac q pages s) :=
  homesOnly_foldl (fun z _ => homesOnly_homeWrite z _ _ _ _ _) pages s

theorem setAc_g (ac : Bool) (w : Who) (pages : List PageSpan) (s : State) : (setAc ac w pages s).g = s.g :=
  (dropTlb_g _ _).trans (homesOnly_markLeaves ac w.quota pages s).g_eq

theorem setAc_accs (ac : Bool) (w : Who) (pages : List PageSpan) (s : State) : (setAc ac w pages s).accs = s.accs :=
  (dropTlb_accs _ _).trans ((congrArg State.accs (homesOnly_markLeaves ac w.quota pages s)).trans rfl)

/-- No translation of a page is left. -/
theorem setAc_drops {ac : Bool} {w : Who} {pages : List PageSpan} {s : State} {e : TlbEntry} (he : e ∈ (setAc ac w pages s).tlb)
    (hctx : e.ctx = w.tag) {x : PageSpan} (hx : x ∈ pages) : x.base ≠ e.base := by
  rw [setAc_eq, dropTlb_tlb, List.mem_filter] at he
  intro hb
  have hp : ofPages w.tag pages e = true := by
    rw [ofPages, Bool.and_eq_true, List.any_eq_true]
    exact ⟨beq_iff_eq.mpr hctx, x, hx, beq_iff_eq.mpr hb⟩
  simp [hp] at he

/-- Removing entries that have gathered nothing writes nothing. -/
theorem rw8_dropTlb_idle {s : State} {p : TlbEntry → Bool} (h : ∀ e ∈ s.tlb, e.a = false ∧ e.d = false) (k : Nat) :
    rw8 (dropTlb s p) k = rw8 s k := by
  have hs : (s.tlb.filter p).foldl writeAd s = s := by
    refine foldl_untouched (obs := id) (fun z e he => ?_) s
    obtain ⟨ha, hd⟩ := h e (List.mem_of_mem_filter he)
    exact writeAd_nothing ha hd
  rw [dropTlb, hs]
  rfl

theorem rw8_markLeaf_same (ac : Bool) (q : BitVec 2) (s : State) (x : PageSpan) :
    rw8 (markLeaf ac q s x) x.at_ = setFld (rw8 s x.at_) 10 1 (if ac then 1 else 0) := by
  rw [markLeaf, rw8, rbs_homeWrite_same s _ _ q 0 (bytesOf_length 8 _).symm, natOf_bytesOf]
  exact BitVec.eq_of_toNat_eq (by rw [BitVec.toNat_ofNat, Nat.mod_mod_of_dvd _ (by decide), Nat.mod_eq_of_lt (BitVec.isLt _)])

theorem rw8_markLeaf_apart (ac : Bool) (q : BitVec 2) (s : State) {x : PageSpan} {j : Nat} (h : x.at_ + 8 ≤ j ∨ j + 8 ≤ x.at_) :
    rw8 (markLeaf ac q s x) j = rw8 s j := by
  rw [markLeaf, rw8, rbs_homeWrite_apart s _ q 0 (by rw [bytesOf_length]; omega)]
  rfl

theorem rw8_markLeaves_apart (ac : Bool) (q : BitVec 2) (pages : List PageSpan) (s : State) {j : Nat}
    (h : ∀ y ∈ pages, y.at_ + 8 ≤ j ∨ j + 8 ≤ y.at_) : rw8 (markLeaves ac q pages s) j = rw8 s j :=
  foldl_untouched (obs := fun z => rw8 z j) (fun z y hy => rw8_markLeaf_apart ac q z (h y hy)) s

/-- Leaves that do not overlap are marked each. -/
theorem rw8_markLeaves {ac : Bool} {q : BitVec 2} {pages : List PageSpan} {x : PageSpan}
    (hd : pages.Pairwise (fun x y => x.at_ + 8 ≤ y.at_ ∨ y.at_ + 8 ≤ x.at_)) (hx : x ∈ pages) (s : State) :
    rw8 (markLeaves ac q pages s) x.at_ = setFld (rw8 s x.at_) 10 1 (if ac then 1 else 0) := by
  induction pages generalizing s with
  | nil => exact absurd hx List.not_mem_nil
  | cons y r ih =>
    obtain ⟨hy, hr⟩ := List.pairwise_cons.mp hd
    rcases List.mem_cons.mp hx with rfl | hx
    · calc rw8 (markLeaves ac q r (markLeaf ac q s x)) x.at_
          = rw8 (markLeaf ac q s x) x.at_ := rw8_markLeaves_apart ac q r _ (fun z hz => (hy z hz).symm)
        _ = _ := rw8_markLeaf_same ac q s x
    · exact (ih hr hx (markLeaf ac q s y)).trans (by rw [rw8_markLeaf_apart ac q s (hy x hx)])

/-- Settles O20: each answer of MAPPG and ACCSN from its body, and what `setAc` leaves. -/
theorem pageInstructions : Obligations.PageInstructions := by
  refine ⟨fun o s hr hc => ⟨fun ht => ?template, fun ht hp => ?noPool, fun ws ps s1 s2 p r ht hp hw hps h => ?pool⟩,
    fun o s s1 e pages hr hc hn he hp hg => ⟨fun hb s2 h2 hg2 => ⟨fun hf => ?full, fun hf => ⟨_, rfl, ?records⟩⟩, fun hb => ?unseals⟩,
    fun ac w pages s => ⟨fun e he hctx x hx => setAc_drops he hctx hx, setAc_accs ac w pages s, setAc_g ac w pages s,
      fun hidle hd x hx b hb => ?bits⟩⟩
  case template => exact completes_of_put rfl hr (mappgBody_badTemplate hc ht) (ready_live hr) rfl
  case noPool => exact completes_of_put rfl hr (mappgBody_noPool hc ht hp) (ready_live hr) rfl
  case pool =>
    subst h
    refine ⟨fun s3 h hl => completes_of_put rfl hr (mappgBody_emptyPool hc ht hp hw hps h) hl rfl, fun s3 e q s4 h hb hq hl => ?_⟩
    have answers {x : W64} {t : State} (ha : mapAnswer (whoOf s.g 0) p.2 e (rdS s o.b.toNat) s4 q = some (x, t)) :
        Completes (.mappg o) s none (onG (put (.sca o.d.toNat x)) t) :=
      completes_of_put rfl hr (mappgBody_walk hc ht hp hw hps h hb hq ha) ((mapAnswer_live ha).trans hl) rfl
    exact ⟨fun k hk => answers (by rw [hk]; rfl), fun hk => answers (by rw [hk]; rfl), fun hk => answers (by rw [hk]; rfl)⟩
  case full => exact completes_of_put rfl hr (accsnBody_full hc hn he hp hb h2 hf) ((congrArg Group.live hg2).trans (ready_live hr)) rfl
  case records =>
    have hl (n : W64) := (setAc_g true (whoOf s.g 0) pages (withRecord o s s2 pages n)).trans hg2
    exact completes_of_put rfl hr (accsnBody_records hc hn he hp hb h2 hf hg2 rfl) ((congrArg Group.live (hl _)).trans (ready_live hr)) rfl
  case unseals =>
    have hl := (setAc_g false (whoOf s.g 0) pages
      { s1 with accs := s1.accs.filter (fun x => !piecesMeet x.pieces (pages.flatMap pagePieces)) }).trans hg
    exact ⟨_, completes_of_put rfl hr (accsnBody_unseals hc hn he hp hb hg) ((congrArg Group.live hl).trans (ready_live hr)) rfl,
      recordOf_some, fun h => by rw [recordOf_none h]; rfl⟩
  case bits =>
    have ht : (markLeaves ac w.quota pages s).tlb = s.tlb :=
      (congrArg State.tlb (homesOnly_markLeaves ac w.quota pages s)).trans rfl
    rw [setAc_eq, rw8_dropTlb_idle (ht ▸ hidle), rw8_markLeaves hd hx, bit_setFld (by omega)]
    by_cases h10 : b = 10
    · subst h10
      cases ac <;> rfl
    · rw [if_neg (by omega), if_neg h10]

end Sys2Proof.Proofs
end

section
/-! PROOF. Accesses of the host (R318, R328): a read fills lines of the home caches, a line that it evicts puts the marks it was filled with
back in storage, and the poison that the read answers is looked up after that. -/

namespace Sys2Proof.Proofs

open Sys2Proof.Machine Sys2Proof.Safety Sys2Proof.Laws

/-! States without poison. -/

/-- No word carries poison, and no home line has marks to put back. -/
def Unpoisoned (s : State) : Prop := s.poison = [] ∧ ∀ h ∈ s.lines, h.marks = []

theorem lineMarks_unpoisoned {s : State} (h : s.poison = []) (md off : Nat) : lineMarks s md off = [] := by
  rw [lineMarks, h]
  rfl

theorem evictLine_unpoisoned {s : State} {x : HomeLine} (h : Unpoisoned s) (hx : x.marks = []) : Unpoisoned (evictLine s x) := by
  have hp : (if x.old.isNone then putMarks s x.md x.off x.marks else s) = s := by
    rw [putMarks, lineMarks_unpoisoned h.1, hx]
    exact ite_self s
  rw [evictLine, hp]
  exact ⟨h.1, fun y hy => h.2 y (List.mem_of_mem_filter hy)⟩

theorem lruOf_mem {l : List HomeLine} {x : HomeLine} (h : lruOf l = some x) : x ∈ l := by
  rw [lruOf] at h
  split at h
  next y hy => exact Option.some.inj h ▸ List.mem_of_mem_filter (List.mem_of_getLast? hy)
  next => exact List.mem_of_getLast? h

theorem victimOf_mem {s : State} {c : BitVec 2} {l : List HomeLine} {n : Nat} {x : HomeLine} (h : victimOf s c l n = some x) : x ∈ l := by
  unfold victimOf at h
  extract_lets mine excess w at h
  split at h
  · exact List.mem_of_mem_filter (lruOf_mem h)
  · split at h
    · exact absurd h (by simp)
    · split at h
      · exact List.mem_of_mem_filter (lruOf_mem h)
      · exact List.mem_of_mem_filter (lruOf_mem h)

theorem touch_unpoisoned {s : State} (h : Unpoisoned s) (k : Nat) (q a : BitVec 2) (w : Bool) : Unpoisoned (touch s k q a w) := by
  unfold touch
  split
  · exact h
  extract_lets md off set inset s1 old
  split
  next x hx =>
    refine ⟨h.1, fun y hy => ?_⟩
    rcases List.mem_cons.mp hy with rfl | hy
    · exact h.2 x (List.mem_of_find?_eq_some hx)
    · exact h.2 y (List.mem_of_mem_filter hy)
  next =>
    split
    · exact h
    have h1 : Unpoisoned s1 := by
      dsimp only [s1]
      split
      next v hv => exact evictLine_unpoisoned h (h.2 v (List.mem_of_mem_filter (victimOf_mem hv)))
      next => exact h
    refine ⟨h1.1, fun y hy => ?_⟩
    rcases List.mem_cons.mp hy with rfl | hy
    · exact lineMarks_unpoisoned h1.1 md off
    · exact h1.2 y hy

theorem touches_unpoisoned (l : List Nat) {s : State} (h : Unpoisoned s) : Unpoisoned (l.foldl (fun a x => touch a (hdmKey x) 0 0 false) s) := by
  induction l generalizing s with
  | nil => exact h
  | cons x r ih => exact ih (touch_unpoisoned h _ _ _ _)

theorem hdmPoison_unpoisoned {s : State} (h : Unpoisoned s) (a n : Nat) : hdmPoison s a n = [] := by
  rw [hdmPoison, List.filter_eq_nil_iff, h.1]
  intro i _
  exact Bool.false_ne_true

/-! The state that refutes. -/

/-- A clean home line of memory die 0, filled before its first word was poisoned: the line's own marks name no word. -/
def staleLine : HomeLine := { md := 0, off := 32768, cls := 0, low := false, old := none, marks := [] }

/-- The device with one way for class 0, that line in its set, and the line's first word, of HDM offset 2 ^ 27, poisoned. -/
def stalePoison : State :=
  { State.reset with win := [(ccqReg 0, 1)], lines := [staleLine], poison := [(2 ^ 22 / 4, true)] }

theorem stalePoison_poisoned : poisonAt stalePoison (hdmKey (0 / 4 * 4 + 4 * 2 ^ 25)) = true := by decide

/-- Filling the line of HDM offset 0 evicts the stale line, and its marks replace the poison. -/
theorem touch_stalePoison : Unpoisoned (touch stalePoison (hdmKey 0) 0 0 false) := by
  refine ⟨by decide, ?_⟩
  decide

theorem hdmLines_zero (m : Nat) : ∃ r, hdmLines 0 (128 * m + 128) = 0 :: r := by
  have hm : (0 % 128 + (128 * m + 128) + 127) / 128 = m + 1 := by omega
  rw [hdmLines, if_neg (by omega), hm, List.range_succ_eq_map]
  exact ⟨_, rfl⟩

/-- A read of the host from offset 0 up reports no poison. -/
theorem hostRead_stalePoison (m : Nat) (h : 0 + (128 * m + 128) ≤ hdmSize) :
    ∃ os bs, (hostRead 0 (128 * m + 128) stalePoison).outputs = os ++ [.data bs []] := by
  obtain ⟨r, hr⟩ := hdmLines_zero m
  have ht : Unpoisoned (touchSpan 0 (128 * m + 128) stalePoison) := by
    rw [touchSpan, hr]
    exact touches_unpoisoned r touch_stalePoison
  rw [hostRead, if_neg (Nat.not_lt.mpr h)]
  refine ⟨(touchSpan 0 (128 * m + 128) stalePoison).outputs, hdmBytes (touchSpan 0 (128 * m + 128) stalePoison) 0 (128 * m + 128), ?_⟩
  rw [← hdmPoison_unpoisoned ht 0 (128 * m + 128)]
  rfl

/-- Refutes O55: HOST_MEM_READ does not answer the homes' poison where filling one of its lines evicts another that was filled before its
word was poisoned. -/
theorem not_homeAndHostEvents : ¬ Obligations.HomeAndHostEvents := by
  unfold Obligations.HomeAndHostEvents
  rintro ⟨-, -, -, -, -, -, -, -, -, hread, -⟩
  have hsize : 0 + (128 * 2 ^ 20 + 128) ≤ hdmSize := by decide
  obtain ⟨s2, bs, ps, hap, hout, -, -, hps, -⟩ := hread 0 (128 * 2 ^ 20 + 128) _ stalePoison (.inl rfl) hsize
  obtain ⟨os, bs', hr⟩ := hostRead_stalePoison (2 ^ 20) hsize
  have hn : commit stalePoison s2 = commit stalePoison (hostRead 0 (128 * 2 ^ 20 + 128) stalePoison) :=
    Host.Outcome.next.inj (hap.symm.trans (event_next _ _))
  have hs : s2.outputs = os ++ [.data bs' []] := (congrArg State.outputs hn).trans hr
  have hdata : [Output.data bs ps] = [.data bs' []] := List.append_inj_right' (hout.symm.trans hs) rfl
  have hnil : ps = [] := (Output.data.inj (List.head_eq_of_cons_eq hdata)).2
  have hmem := (hps (2 ^ 25)).mpr ⟨by decide, stalePoison_poisoned⟩
  rw [hnil] at hmem
  exact absurd hmem List.not_mem_nil

end Sys2Proof.Proofs
end

section
/-! PROOF. Panel barriers (R222, R225, R343): the slots of the object after a write, complete() and the order of phases, and the three
instructions. -/

namespace Sys2Proof.Proofs

open Sys2Proof.Machine Sys2Proof.Safety Sys2Proof.Laws

/-! The slots of an object. -/

theorem getElem?_indexed {α : Type} (l : List α) (n k : Nat) : (indexed n l)[k]? = l[k]?.map (fun x => (n + k, x)) := by
  induction l generalizing n k with
  | nil => rfl
  | cons x r ih =>
    cases k with
    | zero => rfl
    | succ k => simp only [indexed, List.getElem?_cons_succ, ih, Nat.add_assoc, Nat.add_comm 1 k]

theorem getElem?_putNth (l : List Nat) (i v k : Nat) : (putNth l i v)[k]? = l[k]?.map (fun x => if k = i then v else x) := by
  rw [putNth, List.getElem?_map, getElem?_indexed, Option.map_map, Nat.zero_add]
  rfl

theorem getD_putNth_same {l : List Nat} {i : Nat} (h : i < l.length) (v d : Nat) : (putNth l i v).getD i d = v := by
  rw [List.getD_eq_getElem?_getD, getElem?_putNth, List.getElem?_eq_getElem h, Option.map_some, if_pos rfl, Option.getD_some]

theorem getD_putNth_other {i k : Nat} (h : k ≠ i) (l : List Nat) (v d : Nat) : (putNth l i v).getD k d = l.getD k d := by
  rw [List.getD_eq_getElem?_getD, getElem?_putNth, List.getD_eq_getElem?_getD]
  simp only [if_neg h, Option.map_id']

/-! complete() and the order of phases (R225). -/

/-- An object whose current phase still lacks arrivals or bytes stays as it is. -/
theorem completePbar_open {b : Pbar} (n : Nat)
    (h : b.expect = 0 ∨ popNat 16 (b.arr.getD (b.phase % 4) 0) < b.expect ∨ b.bytes.getD (b.phase % 4) 0 ≠ 0) : completePbar n b = b := by
  cases n with
  | zero => rfl
  | succ n =>
    rw [completePbar, if_neg]
    rintro ⟨hexp, harr, hbytes⟩
    rcases h with h | h | h
    · exact absurd h (Nat.pos_iff_ne_zero.mp hexp)
    · exact absurd harr (Nat.not_le.mpr h)
    · exact h hbytes

/-- An object whose current phase is complete closes it. -/
theorem completePbar_closes {b : Pbar} (n : Nat) (hexp : 0 < b.expect) (harr : b.expect ≤ popNat 16 (b.arr.getD (b.phase % 4) 0))
    (hbytes : b.bytes.getD (b.phase % 4) 0 = 0) : completePbar (n + 1) b = completePbar n { b with
      phase := (b.phase + 1) % 2 ^ 32, arr := putNth b.arr (b.phase % 4) 0, bytes := putNth b.bytes (b.phase % 4) 0 } := by
  rw [completePbar]
  exact if_pos ⟨hexp, harr, hbytes⟩

theorem phaseDone_earlier {b : Pbar} (hb : b.phase < 2 ^ 32) {k : Nat} (h1 : 1 ≤ k) (hk : k ≤ 2 ^ 31) :
    phaseDone b ((b.phase + 2 ^ 32 - k) % 2 ^ 32) = true := by
  rw [phaseDone, decide_eq_true_eq]
  omega

theorem phaseDone_later {b : Pbar} (hb : b.phase < 2 ^ 32) {k : Nat} (hk : k < 2 ^ 31) : phaseDone b ((b.phase + k) % 2 ^ 32) = false := by
  rw [phaseDone, decide_eq_false_iff_not]
  omega

theorem phaseDone_current {b : Pbar} (hb : b.phase < 2 ^ 32) : phaseDone b b.phase = false := by
  rw [← phaseDone_later hb (k := 0) (by decide), Nat.add_zero, Nat.mod_eq_of_lt hb]

/-! The instructions. -/

theorem writePbar_g (b : Pbar) (panel off : Nat) (s : State) : (writePbar b panel off s).g = s.g := scrWrite_g _ _ _ _

theorem isDev_iff (o : Opnd) : isDev o = true ↔ (parOf o).sel = 1 := beq_iff_eq

section Panel

variable {o : Opnd} {s : State} {a : W64} {b : Pbar} (ha : a = rdS s o.a.toNat + dispOf o) (h32 : a.toNat % 32 = 0)
  (hin : a.toNat + 32 ≤ scrBytes s.g.part) (hb : b = readPbar s s.g.panel a.toNat)

include h32 hin in
theorem pnlCheck_passes : pnlCheck a s = .ok () s := by
  rw [pnlCheck, if_neg (not_not.mpr h32), if_neg (Nat.not_lt.mpr hin)]

include ha h32 hin hb

theorem initPnl_opens {x : Nat} (hx : x = (rdS s o.b.toNat).toNat) (h1 : 1 ≤ x) (h16 : x ≤ 16) :
    initPnl o s = .ok none (writePbar (if b.expect = 0 then completePbar 4 { b with expect := x }
      else { b with phase := 0, expect := x, arr := [0, 0, 0, 0], bytes := [0, 0, 0, 0] }) s.g.panel a.toNat s) := by
  have hlim : ¬ (x = 0 ∨ 16 < x) := by omega
  simp only [initPnl, barAddr, ← ha, pnlCheck_passes h32 hin, Res.bind, ← hx, if_neg hlim, ← hb]

section Arrive

variable {x : Nat} (hx : x = (rdS s o.d.toNat).toNat) (hlim : x < 2 ^ 31)
include hx hlim

theorem arrivePnl_closed (he : b.expect = 0) : arrivePnl o s = .block ⟨4, a, 0, 32⟩ s := by
  simp only [arrivePnl, barAddr, ← ha, pnlCheck_passes h32 hin, Res.bind, ← hx, if_neg (Nat.not_le.mpr hlim), ← hb, if_pos he]

theorem arrivePnl_full (he : b.expect ≠ 0) (hq : nextPhase b (fld s.g.gid 0 4) = none) :
    arrivePnl o s = .block ⟨3, a, BitVec.ofNat 64 b.phase, 32⟩ s := by
  simp only [arrivePnl, barAddr, ← ha, pnlCheck_passes h32 hin, Res.bind, ← hx, if_neg (Nat.not_le.mpr hlim), ← hb, if_neg he, hq]

theorem arrivePnl_enters (he : b.expect ≠ 0) {q : Nat} (hq : nextPhase b (fld s.g.gid 0 4) = some q) :
    arrivePnl o s = .ok none (onG (put (.sca o.d.toNat (BitVec.ofNat 64 q))) (writePbar (completePbar 4 { b with
      arr := putNth b.arr (q % 4) (b.arr.getD (q % 4) 0 ||| 2 ^ fld s.g.gid 0 4)
      bytes := putNth b.bytes (q % 4) ((b.bytes.getD (q % 4) 0 + x) % 2 ^ 32) }) s.g.panel a.toNat s)) := by
  simp only [arrivePnl, barAddr, ← ha, pnlCheck_passes h32 hin, Res.bind, ← hx, if_neg (Nat.not_le.mpr hlim), ← hb, if_neg he, hq]

end Arrive

theorem waitPnl_closed (he : b.expect = 0) : waitPnl o s = .block ⟨4, a, 0, 32⟩ s := by
  simp only [waitPnl, barAddr, ← ha, pnlCheck_passes h32 hin, Res.bind, ← hb, if_pos he]

theorem waitPnl_past (he : b.expect ≠ 0) (hd : phaseDone b ((rdS s o.b.toNat).toNat % 2 ^ 32) = true) : waitPnl o s = .ok none s := by
  simp only [waitPnl, barAddr, ← ha, pnlCheck_passes h32 hin, Res.bind, ← hb, if_neg he, if_pos hd]

theorem waitPnl_waits (he : b.expect ≠ 0) (hd : phaseDone b ((rdS s o.b.toNat).toNat % 2 ^ 32) = false) :
    waitPnl o s = .block ⟨1, a, BitVec.ofNat 64 ((rdS s o.b.toNat).toNat % 2 ^ 32), 32⟩ s := by
  simp only [waitPnl, barAddr, ← ha, pnlCheck_passes h32 hin, Res.bind, ← hb, if_neg he, if_neg (Bool.eq_false_iff.mp hd)]

end Panel

/-- Settles O42: each body answer by answer on an object that may be accessed, then complete() and the order of phases in numbers. -/
theorem panelBarriers : Obligations.PanelBarriers := by
  refine ⟨fun o s a b hsel ha h32 hin hb => ?_, fun b hp harr _ => ?_⟩
  · have hpnl : ¬ isDev o = true := fun h => hsel ((isDev_iff o).mp h)
    refine ⟨fun x hr hx h1 h16 => ?init, fun x hr hx hlim => ⟨fun he => ?closed, fun he hq => ?full, fun q he hq => ?enters⟩,
      fun hr => ⟨fun he => ?none, fun he hd => ?past, fun he hd => ?waits⟩⟩
    case init =>
      exact completes_of_body rfl hr ((if_neg hpnl).trans (initPnl_opens ha h32 hin hb hx h1 h16))
        ((congrArg Group.live (writePbar_g _ _ _ s)).trans (ready_live hr)) rfl
    case closed => exact ends_of_block rfl hr ((if_neg hpnl).trans (arrivePnl_closed ha h32 hin hb hx hlim he))
    case full => exact ends_of_block rfl hr ((if_neg hpnl).trans (arrivePnl_full ha h32 hin hb hx hlim he hq))
    case enters =>
      exact completes_of_put rfl hr ((if_neg hpnl).trans (arrivePnl_enters ha h32 hin hb hx hlim he hq))
        ((congrArg Group.live (writePbar_g _ _ _ s)).trans (ready_live hr)) rfl
    case none => exact ends_of_block rfl hr ((if_neg hpnl).trans (waitPnl_closed ha h32 hin hb he))
    case past => exact completes_of_body rfl hr ((if_neg hpnl).trans (waitPnl_past ha h32 hin hb he hd)) (ready_live hr) rfl
    case waits => exact ends_of_block rfl hr ((if_neg hpnl).trans (waitPnl_waits ha h32 hin hb he hd))
  · refine ⟨completePbar_open, fun hexp hall hdel => ?_, phaseDone_current hp, fun k => phaseDone_earlier hp, fun k => phaseDone_later hp⟩
    have hslot : b.phase % 4 < b.arr.length := by omega
    rw [completePbar_closes 0 hexp hall hdel]
    exact ⟨rfl, getD_putNth_same hslot 0 1, fun k _ hk => getD_putNth_other hk b.arr 0 0⟩

end Sys2Proof.Proofs
end

section
/-! PROOF. Device barriers (R228, R343): what each body answers on an object in a slot that may be accessed, and the obligation. -/

namespace Sys2Proof.Proofs

open Sys2Proof.Machine Sys2Proof.Safety Sys2Proof.Laws

/-! What writing a slot leaves alone. -/

theorem homesOnly_slotWrite (s : State) (w : Who) (p : Phys) (off : Nat) (bs : List Byte) : HomesOnly s (slotWrite s w p off bs) :=
  homesOnly_homeWrite s _ _ _ _ _

theorem homesOnly_setSlotSwatch (s : State) (w : Who) (p : Phys) (x : Swatch) : HomesOnly s (setSlotSwatch s w p x) :=
  homesOnly_slotWrite s w p 8 _

/-! The bodies. -/

/-- The VALUE of a device barrier after one more arrival in its phase: the last one that is expected starts the next phase, whose waiters are
yet to be seen (R228). -/
def arrivedValue (v : W64) : W64 :=
  if (dbArrived v + 1) % 2 ^ 11 = dbExpect v then setFld (setFld (setFld v 0 16 (dbPhase v + 1)) 27 11 0) 49 11 (dbWaiters v)
  else setFld v 27 11 (dbArrived v + 1)

section Device

variable {o : Opnd} {s s1 : State} {a v : W64} {p : Phys} (ha : a = rdS s o.a.toNat + dispOf o)
include ha

theorem initDev_writes {x : W64} (hp : slotPlace a (whoOf s.g 0) needW 0 s = .ok p s1) (hx : x = rdS s o.b.toNat) (he : fld x 0 11 ≠ 0)
    (h3 : 3 ≤ fld x 24 3) (h5 : fld x 24 3 ≤ 5) (hz : fld x 22 2 = 0) (hr : fld x 27 37 = 0) :
    initDev o s = .ok none (setSlotSwatch (slotWrite s1 (whoOf s.g 0) p 0
      (bytesOf 8 (fld x 0 11 * 2 ^ 16 + fld x 11 11 * 2 ^ 38 + fld x 24 3 * 2 ^ 60))) (whoOf s.g 0) p 0) := by
  have hok : ¬ (fld x 0 11 = 0 ∨ fld x 24 3 < 3 ∨ 5 < fld x 24 3 ∨ fld x 22 2 ≠ 0 ∨ fld x 27 37 ≠ 0) := by omega
  simp only [initDev, barAddr, ← ha, hp, Res.bind, ← hx, if_neg hok]

variable (hp : slotPlace a (whoOf s.g 0) needRW 0 s = .ok p s1) (hv : v = dbRead s1 p) (he : dbExpect v ≠ 0) (hok : dbValid v = true)
include hp hv he hok

theorem arriveDev_refused (hx : rdS s o.d.toNat = 0) (hu : 0 < dbUnseen v) : arriveDev o s =
    .ok none (onG (fun g => { put (.sca o.d.toNat 0x8000_0000_0000_0000) g with refused := some a }) s1) := by
  simp only [arriveDev, barAddr, ← ha, hp, Res.bind, hx, ne_eq, not_true_eq_false, if_false, ← hv, if_neg he, hok, Bool.not_true,
    Bool.false_eq_true, if_pos hu]

theorem arriveDev_counts (hx : rdS s o.d.toNat = 0) (hu : dbUnseen v = 0) {x : Swatch} {s2 : State}
    (hrel : releasePart (dbScope v) s1 = (x, s2)) : arriveDev o s =
    .ok none (onG (fun g => { clearPending (dbScope v) (put (.sca o.d.toNat (BitVec.ofNat 64 (dbPhase v))) g) with refused := none })
      (setSlotSwatch (slotWrite s2 (whoOf s.g 0) p 0 (bytesOf 8 (arrivedValue v).toNat)) (whoOf s.g 0) p
        (if dbArrived v = 0 then x else slotSwatch s2 p ||| x))) := by
  simp only [arriveDev, barAddr, ← ha, hp, Res.bind, hx, ne_eq, not_true_eq_false, if_false, ← hv, if_neg he, hok, Bool.not_true,
    Bool.false_eq_true, hu, Nat.lt_irrefl, hrel, arrivedValue]

theorem waitDev_waits (hd : dbDone v ((rdS s o.b.toNat).toNat % 2 ^ 16) = false) :
    waitDev o s = .block ⟨2, a, BitVec.ofNat 64 ((rdS s o.b.toNat).toNat % 2 ^ 32), 64⟩ s1 := by
  simp only [waitDev, barAddr, ← ha, hp, Res.bind, ← hv, if_neg he, hok, Bool.not_true, Bool.false_eq_true, if_false, hd, Bool.not_false,
    if_true]

variable (hd : dbDone v ((rdS s o.b.toNat).toNat % 2 ^ 16) = true)
include hd

theorem waitDev_passes (hs : ¬ (((rdS s o.b.toNat).toNat % 2 ^ 16 + 1) % 2 ^ 16 = dbPhase v ∧ 0 < dbUnseen v)) :
    waitDev o s = .ok none (acquirePart (dbScope v) fullSwatch s1) := by
  simp only [waitDev, barAddr, ← ha, hp, Res.bind, ← hv, if_neg he, hok, Bool.not_true, Bool.false_eq_true, if_false, hd, if_neg hs]

theorem waitDev_sees (hs : ((rdS s o.b.toNat).toNat % 2 ^ 16 + 1) % 2 ^ 16 = dbPhase v ∧ 0 < dbUnseen v) {s2 : State}
    (h2 : s2 = slotWrite s1 (whoOf s.g 0) p 0 (bytesOf 8 (setFld v 49 11 (dbUnseen v - 1)).toNat)) :
    waitDev o s = .ok none (acquirePart (dbScope v) (slotSwatch s2 p) s2) := by
  simp only [waitDev, barAddr, ← ha, hp, Res.bind, ← hv, if_neg he, hok, Bool.not_true, Bool.false_eq_true, if_false, hd, if_pos hs, ← h2]

end Device

/-- Settles O43: each body answer by answer; the group stays live, since slots, releases and acquires change the homes and the pending swatches
only. -/
theorem deviceBarriers : Obligations.DeviceBarriers := by
  intro o s s1 a v p hsel ha hg hv
  have hdev : isDev o = true := (isDev_iff o).mpr hsel
  have live {i : Instr} {t : State} (hr : ready i s = true) (ht : HomesOnly s1 t) : t.g.live = true := by
    rw [ht.g_eq, hg]
    exact ready_live hr
  refine ⟨fun x hr hp hx he h3 h5 hz hres => ?init,
    fun hr hp hx he hok => ⟨fun hu => ?refused, fun hu x s2 v1 hrel hv1 => ?counts⟩,
    fun hr hp he hok => ⟨fun hd => ?waits, fun hd hs => ?passes, fun hd hph hu s2 h2 => ?sees⟩⟩
  case init =>
    exact completes_of_body rfl hr ((if_pos hdev).trans (initDev_writes ha hp hx he h3 h5 hz hres))
      (live hr (homesOnly_trans (homesOnly_slotWrite _ _ _ _ _) (homesOnly_setSlotSwatch _ _ _ _))) rfl
  case refused =>
    exact completes_of_body rfl hr ((if_pos hdev).trans (arriveDev_refused ha hp hv he hok hx hu))
      ((put_live _ _).trans (live hr (homesOnly_refl s1))) rfl
  case counts =>
    subst hv1
    have h2 : HomesOnly s1 (releasePart (dbScope v) s1).2 := homesOnly_releasePart _ _
    rw [hrel] at h2
    exact completes_of_body rfl hr ((if_pos hdev).trans (arriveDev_counts ha hp hv he hok hx hu hrel)) ((put_live _ _).trans
      (live hr (homesOnly_trans (homesOnly_trans h2 (homesOnly_slotWrite _ _ _ _ _)) (homesOnly_setSlotSwatch _ _ _ _)))) rfl
  case waits => exact ends_of_block rfl hr ((if_pos hdev).trans (waitDev_waits ha hp hv he hok hd))
  case passes =>
    exact completes_of_body rfl hr ((if_pos hdev).trans (waitDev_passes ha hp hv he hok hd (by omega)))
      ((acquirePart_live _ _ _).trans (live hr (homesOnly_refl s1))) rfl
  case sees =>
    exact completes_of_body rfl hr ((if_pos hdev).trans (waitDev_sees ha hp hv he hok hd ⟨hph, hu⟩ h2))
      ((acquirePart_live _ _ _).trans (live hr (h2 ▸ homesOnly_slotWrite _ _ _ _ _))) rfl

end Sys2Proof.Proofs
end

section
/-! PROOF. YIELDPT and EXIT (R351, R352, R253, R431, R236). -/

namespace Sys2Proof.Proofs

open Sys2Proof.Machine Sys2Proof.Safety Sys2Proof.Laws

/-- An instruction whose body meets a fatal fault ends in it (Table 8-8). -/
theorem ends_of_fatal {i : Instr} {s s' : State} {body : State → Res (Option W64)} {c b : Nat} {va : W64}
    (hx : exec i s = runI i s body) (hr : ready i s = true) (hb : body s = .fatal c b va s') : Ends i s (fatalEnd c b va s') := by
  refine ⟨_, hx.trans (run_ready body hr), ?_⟩
  rw [hb, conclude]
  exact follows_commit _ (follows_spend _ _ _)

/-- The running fault of a command whose group exits is fatal to the panel (R236). -/
theorem fatalEnd_paused (va : W64) (s : State) : fatalEnd 0x24 4 va s = fatalPanel 0x24 4 va s := if_pos (.inr ⟨rfl, rfl⟩)

/-- EXIT of a group none of whose commands is paused leaves its identity and its matrix operations, and frees its reservations (R351). -/
theorem exit_completes {o : Opnd} {s : State} (hr : ready (.exit o) s = true) (hp : pausedAt s = none) :
    Completes (.exit o) s none (cleanBins (onG exitedGroup s)) :=
  completes_of_body rfl hr (by simp only [hp]) rfl rfl

/-- Settles O17: YIELDPT by whether its panel is targeted, EXIT by whether a command of the group is paused. -/
theorem yieldAndExit : Obligations.YieldAndExit := by
  refine fun o s => ⟨fun hr ht => ?nop, fun hr ht => ?yields, fun va hr hp => ?fatal, fun hr hp => ?exits⟩
  case nop => exact completes_of_body rfl hr (congrArg _ (if_neg (Bool.eq_false_iff.mp ht))) (ready_live hr) rfl
  case yields => exact completes_of_body rfl hr (congrArg _ (if_pos ht)) (show s.g.live = true from ready_live hr) rfl
  case fatal =>
    rw [← fatalEnd_paused]
    exact ends_of_fatal rfl hr (by rw [hp])
  case exits =>
    exact ⟨_, exit_completes hr hp, rfl, rfl, rfl, rfl, rfl, rfl, rfl, rfl, rfl, rfl, rfl, rfl, rfl, rfl, rfl, rfl, rfl, rfl, rfl, rfl,
      (binsOnly_cleanBins (onG exitedGroup s)).storesNothing, rfl, rfl, rfl, rfl⟩

end Sys2Proof.Proofs
end

section
/-! PROOF. STREL, FENCE, PFETCH and MWAIT (R216, R218, R358, R386, R389, R412): what a prefetch leaves alone, each instruction, and the
obligation. -/

namespace Sys2Proof.Proofs

open Sys2Proof.Machine Sys2Proof.Safety Sys2Proof.Laws

/-! What a prefetch leaves alone. -/

theorem homesOnly_walkFrom (va : Nat) (q : BitVec 2) (l : List (Nat × Nat × Nat)) (pa : Nat) (s : State) :
    HomesOnly s (walkFrom va q l pa s).2 := by
  induction l generalizing pa s with
  | nil => exact homesOnly_refl s
  | cons e r ih =>
    obtain ⟨sh, n, al⟩ := e
    simp only [walkFrom]
    have ht : HomesOnly s (touch s (tableKey pa + 8 * bitsOf va sh n) q 0 false) := homesOnly_touch _ _ _ _ _
    split
    · exact homesOnly_refl s
    repeat' split
    on_goal -1 => exact homesOnly_trans ht (ih _ _)
    all_goals exact ht

theorem xlate_g (s : State) (w : Who) (va : W64) : (xlate s w va).2.g = s.g := by
  have h : (walk s w.root w.quota va).2.g = s.g := (homesOnly_walkFrom _ _ _ _ _).g_eq
  unfold xlate
  dsimp only
  split
  · rfl
  · split
    · rename_i hw
      rw [hw] at h
      exact h
    · exact h

theorem fillLine_g (s : State) (w : Who) (p : Phys) : (fillLine s w p).g = s.g := by
  unfold fillLine
  exact (foldl_untouched (obs := State.g) (fun a _ _ => by split <;> rfl) _).trans (homesOnly_touch s _ _ _ _).g_eq

/-- A lane that is prefetched, or dropped, leaves the group as it was. -/
theorem prefetchLane_g {w : Who} {va : W64} {s s1 : State} (h : prefetchLane w va s = .ok () s1) : s1.g = s.g := by
  have hx := xlate_g s w va
  unfold prefetchLane at h
  split at h
  · cases h
    rfl
  generalize xlate s w va = r at hx h
  obtain ⟨_ | ⟨pte, base⟩ | _ | _, s2⟩ := r
  case fault =>
    cases h
    exact hx
  case format => cases h
  case poison => cases h
  case leaf =>
    dsimp only at h
    split at h
    · cases h
      exact hx
    split at h
    · cases h
    · cases h
    split at h
    · cases h
      exact hx
    split at h
    · cases h
      exact hx
    split at h <;> rw [← (Res.ok.inj h).2]
    · rw [(homesOnly_touch _ _ _ _ _).g_eq]
      exact hx
    · rw [fillLine_g, (homesOnly_hostReady _ _ _ _).g_eq]
      exact hx

theorem prefetchAll_g {w : Who} {l : List (Nat × W64)} {s s1 : State} (h : prefetchAll w l s = .ok () s1) : s1.g = s.g := by
  induction l generalizing s with
  | nil => cases h; rfl
  | cons e r ih =>
    rw [prefetchAll] at h
    cases hl : prefetchLane w e.2 s with
    | ok u s2 =>
      rw [hl] at h
      exact (ih h).trans (prefetchLane_g hl)
    | _ => rw [hl] at h; cases h

/-! STREL, FENCE and MWAIT. -/

/-- Of the two bits of ORDER the upper one releases and the lower one acquires (Table 7-4). -/
theorem order_releases : ∀ k : BitVec 2, k.getLsbD 1 = true ↔ k = 2 ∨ k = 3 := by decide

theorem order_acquires : ∀ k : BitVec 2, k.getLsbD 0 = true ↔ k = 1 ∨ k = 3 := by decide

theorem strel_completes {o : Opnd} {s s1 s2 s3 : State} {p : Phys} {x : Swatch} (hr : ready (.strel o) s = true)
    (hp : slotPlace (rdS s o.a.toNat + dispOf o) (whoOf s.g 0) needW 1 s = .ok p s1)
    (hrel : releasePart (parOf o).scope.toNat s1 = (x, s2)) (hg : s2.g = s.g)
    (h3 : s3 = setSlotSwatch s2 (whoOf s.g 0) p (if (parOf o).sel = 1 then x else slotSwatch s2 p ||| x)) :
    Completes (.strel o) s none (onG (clearPending (parOf o).scope.toNat)
      (slotWrite s3 (whoOf s.g 0) p 0 (bytesOf 8 (rdS s o.b.toNat).toNat))) := by
  have hg3 : s3.g = s.g := by rw [h3, (homesOnly_setSlotSwatch _ _ _ _).g_eq, hg]
  have hrd : rdS s3 o.b.toNat = rdS s o.b.toNat := by rw [rdS, rdS, hg3]
  refine completes_of_body rfl hr (by simp only [hp, Res.bind, hrel, ← h3, hrd]) ?_ rfl
  rw [onG_g, clearPending, onPending, (homesOnly_slotWrite _ _ _ _ _).g_eq, hg3]
  exact ready_live hr

theorem fence_completes {o : Opnd} {s s1 : State} (hr : ready (.fence o) s = true)
    (h1 : s1 = if (parOf o).order = 2 ∨ (parOf o).order = 3 then (releasePart (parOf o).scope.toNat s).2 else s) :
    Completes (.fence o) s none
      (if (parOf o).order = 1 ∨ (parOf o).order = 3 then acquirePart (parOf o).scope.toNat fullSwatch s1 else s1) := by
  have hg : s1.g = s.g := by
    rw [h1]
    exact (homesOnly_ite (homesOnly_releasePart _ s) (homesOnly_refl s)).g_eq
  have hl : s1.g.live = true := hg ▸ ready_live hr
  refine completes_of_body rfl hr (by simp only [order_releases, order_acquires, ← h1]) ?_ rfl
  split
  · rwa [acquirePart_live]
  · exact hl

section Mwait

variable {o : Opnd} {s s1 s2 s3 : State} {n v e : Nat} {a : W64} {ws : List LaneWalk} {ps : List (Nat × Phys)} (hr : ready (.mwait o) s = true)
  (hn : n = sizeOf_ (parOf o)) (ha : a = rdS s o.a.toNat + dispOf o) (hw : checkPerm s (whoOf s.g 2) n needR [(0, a)] = .ok ws s1)
  (hp : places (whoOf s.g 2) n needR ws s1 = .ok ps s2)
  (hv : watched (whoOf s.g 2) n a (gatherAll (whoOf s.g 2) needR [(0, a)] s2) = (v, s3)) (he : e = (rdS s o.b.toNat).toNat % 2 ^ (8 * n))
include hr hn ha hw hp hv he

theorem mwait_goes_on (hg : s3.g = s.g) (h : v ≠ e) : Completes (.mwait o) s none s3 := by
  subst hn
  exact completes_of_body rfl hr (by simp only [← ha, hw, hp, Res.bind, hv, ← he, if_neg h]) (hg ▸ ready_live hr) rfl

theorem mwait_waits (h : v = e) : Ends (.mwait o) s (onG (fun g => { g with block := some ⟨5, a, BitVec.ofNat 64 e, n⟩ }) s3) := by
  subst hn
  exact ends_of_block rfl hr (by simp only [← ha, hw, hp, Res.bind, hv, ← he, if_pos h])

end Mwait

/-- Settles O41: STREL, FENCE, PFETCH, which leaves the group as it was, and MWAIT by whether the word differs. -/
theorem syncComplete : Obligations.SyncComplete := by
  intro o s
  refine ⟨fun p s1 s2 x hr hp hrel hg s3 => strel_completes hr hp hrel hg, fun hr s1 => fence_completes hr, fun s1 hr hp => ?pfetch,
    fun n a ws s1 ps s2 v s3 e hr hn ha hw hp hv hg he =>
      ⟨mwait_goes_on hr hn ha hw hp hv he hg, mwait_waits hr hn ha hw hp hv he⟩⟩
  case pfetch =>
    have hg := prefetchAll_g hp
    exact ⟨completes_of_body rfl hr (by simp only [hp, Res.bind]) (hg ▸ ready_live hr) rfl, hg⟩

end Sys2Proof.Proofs
end

section
/-! PROOF. LAUNCH (R247, R366): the answers of its body once the record's bytes have been read, and the obligation. -/

namespace Sys2Proof.Proofs

open Sys2Proof.Machine Sys2Proof.Safety Sys2Proof.Laws

/-- After a check that passes its continuation goes on. -/
theorem bind_ok {α β : Type} {r : Res α} {a : α} {s : State} (h : r = .ok a s) (f : α → State → Res β) : r.bind f = f a s := by
  rw [h]
  rfl

section Launch

variable {o : Opnd} {s s1 s2 : State} {bs : List Byte} (hc : canonical (rdS s o.a.toNat) = true) (ha : (rdS s o.a.toNat).toNat % 8 = 0)
  (hs : checkSpans (releasePart 5 s).2 (whoOf s.g 0) (releasePart 5 s).2.g.ctx needR [⟨0, rdS s o.a.toNat, 128⟩] = .ok () s1)
  (hl : loadVas (whoOf s.g 0) 8 16 (rdS s o.a.toNat) s1 = (bs, s2))
include hc ha hs hl

/-- A queue that may not take a record from the group (R247). -/
theorem launchBody_denied (hq : launchOk s2 (rdS s o.d.toNat) = false) : launchBody o s = .ok none (onG (put (.sca o.d.toNat 2)) s2) := by
  rw [launchBody]
  extract_lets
  rw [if_neg (not_not.mpr ha), if_neg (by rw [hc]; decide), bind_ok hs, hl]
  exact if_pos (by rw [hq]; rfl)

section Queue

variable {dev : Who} {n : Nat} {pair : W64} {ws : List LaneWalk} {s3 s4 s5 : State} {tb hb : List Byte}
  (hdev : dev = { whoOf s.g 0 with alloc := 2 }) (hn : n = fld (rdS s o.d.toNat) 0 4) (hq : launchOk s2 (rdS s o.d.toNat) = true)
  (hpair : pair = ctlPair s2 n) (hp : checkPerm s2 dev 16 needRW [(0, pair)] = .ok ws s3) (ht : loadVa dev 8 pair s3 = (tb, s4))
  (hh : loadVa dev 8 (pair + 8) s4 = (hb, s5))
include hdev hn hq hpair hp ht hh

/-- A queue that may take the record does so when its ring has a free slot, whose checks come first (R247). -/
theorem launchBody_granted : launchBody o s =
    if 2 ^ ringLog s5 n ≤ (BitVec.ofNat 64 (natOf tb) - BitVec.ofNat 64 (natOf hb) : W64).toNat then
      .ok none (onG (put (.sca o.d.toNat 1)) s5)
    else
      (checkPerm s5 dev 128 needW [(0, ringSlot s5 n (natOf tb))]).bind fun _ s6 =>
      (checkSpans s6 dev s6.g.ctx needRW [⟨0, pair, 16⟩]).bind fun _ s7 =>
      (checkSpans s7 dev s7.g.ctx needW [⟨0, ringSlot s5 n (natOf tb), 128⟩]).bind fun _ s8 =>
      .ok none (onG (put (.sca o.d.toNat 0)) (putVa dev 1 pair (bytesOf 8 (natOf tb + 1)) (putVa dev 16 (ringSlot s5 n (natOf tb)) bs s8))) := by
  subst hdev hn hpair
  rw [launchBody]
  extract_lets
  rw [if_neg (not_not.mpr ha), if_neg (by rw [hc]; decide), bind_ok hs, hl]
  dsimp only
  rw [if_neg (by rw [hq]; decide), bind_ok hp, ht]
  dsimp only
  rw [hh]

end Queue

end Launch

/-- Settles O21: each answer is what the body comes to. -/
theorem launchRecords : Obligations.LaunchRecords := by
  intro o s s1 s2 bs hr hc ha hs hl hlive
  refine ⟨fun hq => ?denied, fun dev n pair ws s3 tb s4 hb s5 hdev hn hq hpair hp ht hh hlive5 => ?granted⟩
  case denied => exact completes_of_put rfl hr (launchBody_denied hc ha hs hl hq) hlive rfl
  case granted =>
    have hbody := launchBody_granted hc ha hs hl hdev hn hq hpair hp ht hh
    refine ⟨fun hf => ?full, fun ws2 s6 s7 s8 hf h6 h7 h8 hlive8 => ?places⟩
    case full => exact completes_of_put rfl hr (hbody.trans (if_pos hf)) hlive5 rfl
    case places =>
      rw [if_neg (Nat.not_le.mpr hf), bind_ok h6, bind_ok h7, bind_ok h8] at hbody
      exact completes_of_put rfl hr hbody hlive8 rfl

end Sys2Proof.Proofs
end

section
/-! PROOF. Records and kills of a fatal fault (R268, R273, R274), SVC and TRAP (R265, R414), and a handler that changes nothing (R264,
R266). -/

namespace Sys2Proof.Proofs

open Sys2Proof.Machine Sys2Proof.Safety Sys2Proof.Laws

/-! Records and kills. -/

/-- A record of a context that is not halted enters its die's buffer where an entry is free, the reserved one for a fatal one (R273). -/
theorem postRec_enters {r : EvRec} {s : State} (hh : halted s r.ctx = false) (hb : bufferFull s r.die = false) :
    postRec r s = { s with outbound := s.outbound ++ [r] } := by
  simp [postRec, hh, hb]

theorem postRec_drops {r : EvRec} {s : State} (hh : halted s r.ctx = false) (ht : r.type = 3) (hb : bufferFull s r.die = true) :
    postRec r s = dropFatal r.ctx s := by
  simp [postRec, hh, ht, hb]

/-- A kill leaves no live group and no panel of the context, and neither stores nor reports anything (R244). -/
theorem killCtx_leaves (c : Nat) (s : State) :
    (∀ g ∈ allGroups (killCtx c s), g.live = true → g.ctx ≠ c) ∧ (∀ p ∈ (killCtx c s).panels, p.ctx ≠ c) ∧
      (killCtx c s).outbound = s.outbound ∧ StoresNothing s (killCtx c s) := by
  obtain ⟨hg, -, hp, -, -, -, -, hm, hw, -, -, ho, -⟩ := killEndsContext c s _ _ rfl (fun _ => rfl)
  exact ⟨fun g h hl => (hg g h hl).1, hp, ho, hm, hw⟩

/-- A fault that is fatal to the context is reported, and the context killed (Table 8-8). -/
theorem fatalCtx_reported (cause sub : Nat) (addr : W64) {s : State} (hh : halted s s.g.ctx = false)
    (hb : bufferFull s (coreDie s.g.core) = false) :
    fatalCtx cause sub addr s = killCtx s.g.ctx { s with outbound := s.outbound ++ [groupRec s.g 3 cause sub 0 addr false] } :=
  congrArg (killCtx s.g.ctx) (postRec_enters (r := groupRec s.g 3 cause sub 0 addr false) hh hb)

/-- A trap in the handler leaves no live group and no panel of the context (R268). -/
theorem takeTrap_ends (t : TrapInfo) (own : Bool) {s : State} (hp : s.g.priv = true) :
    (∀ g ∈ allGroups (takeTrap t own s), g.live = true → g.ctx ≠ s.g.ctx) ∧ ∀ p ∈ (takeTrap t own s).panels, p.ctx ≠ s.g.ctx := by
  rw [takeTrap_priv t own s hp]
  obtain ⟨hg, hpan, -⟩ := killCtx_leaves s.g.ctx (postRec (groupRec s.g 3 0x26 0 0 t.fault false) s)
  exact ⟨hg, hpan⟩

/-- It is reported with cause 0x26 (R268). -/
theorem takeTrap_outbound (t : TrapInfo) (own : Bool) {s : State} (hp : s.g.priv = true) (hh : halted s s.g.ctx = false)
    (hb : bufferFull s (coreDie s.g.core) = false) :
    (takeTrap t own s).outbound = s.outbound ++ [groupRec s.g 3 0x26 0 0 t.fault false] := by
  rw [takeTrap_priv t own s hp, fatalCtx_reported 0x26 0 t.fault hh hb]
  obtain ⟨-, -, ho, -⟩ := killCtx_leaves s.g.ctx { s with outbound := s.outbound ++ [groupRec s.g 3 0x26 0 0 t.fault false] }
  exact ho

/-- A record of type 2 is posted where the die has room, and else waits to be; the group waits at kind 11 or 10 (R265, R273). -/
theorem postAndWait_spec (code : Nat) (inHandler : Bool) {s : State} (hh : halted s s.g.ctx = false) :
    ∃ b l, postAndWait code inHandler s = { onG (fun g => { g with block := some b }) s with outbound := l } ∧
      (roomFor s (coreDie s.g.core) = true → b = ⟨11, 0, 0, if inHandler then 1 else 0⟩ ∧
        l = s.outbound ++ [groupRec s.g 2 (if inHandler then 0x11 else fld s.g.tcause 0 8) (if inHandler then 0 else fld s.g.tcause 8 8) code
          s.g.tfault true]) ∧
      (roomFor s (coreDie s.g.core) = false → b = ⟨10, 0, BitVec.ofNat 64 code, if inHandler then 1 else 0⟩ ∧ l = s.outbound) := by
  cases hr : roomFor s (coreDie s.g.core) with
  | true =>
    refine ⟨_, _, ?_, fun _ => ⟨rfl, rfl⟩, fun h => nomatch h⟩
    simp only [postAndWait, hr, if_true]
    rw [postRec_posts (r := groupRec s.g 2 _ _ code s.g.tfault true) hh (Nat.succ_ne_self 2).symm]
    rfl
  | false =>
    refine ⟨_, _, ?_, fun h => (nomatch h), fun _ => ⟨rfl, rfl⟩⟩
    simp only [postAndWait, hr, Bool.false_eq_true, if_false]
    rfl

/-! SVC and TRAP (R265, R414). -/

/-- The trap that SVC or TRAP takes. -/
def callTrap (o : Opnd) (cause : Nat) (s : State) : TrapInfo := { cause := cause, sub := 0, code := o.b.toNat, first := some s.g.pc }

/-- The state in which the trap is taken, with the address that TPC gets. -/
def calling (next : W64) (stall : Nat) (s : State) : State := onG (fun g => { g with pc := next, stall := stall }) s

theorem svc_traps {o : Opnd} {s : State} (hr : ready (.svc o) s = true) :
    Ends (.svc o) s (takeTrap (callTrap o 0x10 s) false (calling (s.g.pc + 4) o.st.toNat s)) := ends_of_trap rfl hr rfl

theorem trap_traps {o : Opnd} {s : State} (hr : ready (.trap o) s = true) (hp : s.g.priv = false) :
    Ends (.trap o) s (takeTrap (callTrap o 0x11 s) false (calling s.g.pc s.g.stall s)) :=
  ends_of_trap rfl hr (if_neg (by rw [hp]; exact Bool.false_ne_true))

theorem applyEff_calling (next : W64) (stall : Nat) (g : Group) (e : Effect) :
    applyEff { g with pc := next, stall := stall } e = { applyEff g e with pc := next, stall := stall } := by
  cases e <;> rfl

/-- Pending writes do not depend on the program counter and STALL. -/
theorem foldEff_calling (next : W64) (stall : Nat) (l : List Pending) (g : Group) :
    l.foldl (fun a p => applyEff a p.eff) { g with pc := next, stall := stall } =
      { l.foldl (fun a p => applyEff a p.eff) g with pc := next, stall := stall } := by
  induction l generalizing g with
  | nil => rfl
  | cons p r ih => rw [List.foldl_cons, List.foldl_cons, applyEff_calling, ih]

/-- The group as SVC or TRAP leaves it before it goes to its handler or to the host. -/
theorem trapped_calling (t : TrapInfo) (next : W64) (stall : Nat) (s : State) : ∃ v sc gm tc fp, completeAll s.g =
      { s.g with v := v, s := sc, gmode := gm, tctl := tc, fpstat := fp, pend := [] } ∧
    trapped t (calling next stall s) = enterTrap t (t.first.getD next) [] { s.g with
      v := v, s := sc, gmode := gm, tctl := tc, fpstat := fp, pend := [], pc := next, stall := stall } := by
  obtain ⟨v, sc, gm, tc, fp, h⟩ := completeAll_frame s.g
  refine ⟨v, sc, gm, tc, fp, h, ?_⟩
  have hc : completeAll (calling next stall s).g = { completeAll s.g with pc := next, stall := stall } :=
    congrArg (fun g : Group => { g with pend := [] }) (foldEff_calling next stall s.g.pend s.g)
  rw [trapped, hc, h]
  rfl

theorem tcause_call (o : Opnd) {cause : Nat} (hc : cause < 256) (s : State) :
    tcauseOf (callTrap o cause s) 0 = BitVec.ofNat 64 (cause + o.b.toNat * 2 ^ 32) := by
  have hb : o.b.toNat < 128 := o.b.isLt
  refine congrArg (BitVec.ofNat 64) ?_
  simp only [callTrap]
  omega

/-- With the handler on, SVC and TRAP go to it. -/
theorem call_handled (o : Opnd) {cause : Nat} (next : W64) (stall : Nat) {s : State} (hc : cause < 256) (hi : s.g.inflight = [])
    (hp : s.g.priv = false) (hv : bit s.g.tvec 63 = true) (hr : partSR s.g.part = 3) :
    ∃ s', takeTrap (callTrap o cause s) false (calling next stall s) = s' ∧
      s'.g.pc = sext57 (fld s.g.tvec 0 57) ∧ s'.g.priv = true ∧ s'.g.gmode = 63 ∧ s'.g.tpc = next ∧
        s'.g.tfirst = s.g.pc ∧ s'.g.tcause = BitVec.ofNat 64 (cause + o.b.toNat * 2 ^ 32) ∧ s'.g.tgmode = (completeAll s.g).gmode ∧
        (∀ k, k ≠ 63 → cget zero s'.g.s k = cget zero (completeAll s.g).s k) ∧ s'.g.v = (completeAll s.g).v ∧
        StoresNothing s s' ∧ s'.others = s.others := by
  refine ⟨_, takeTrap_handler _ _ _ hi hp hv hr, ?_⟩
  obtain ⟨v, sc, gm, tc, fp, h, ht⟩ := trapped_calling (callTrap o cause s) next stall s
  rw [ht, h]
  exact ⟨rfl, rfl, rfl, rfl, rfl, tcause_call o hc s, rfl, fun k hk => cget_cset_other _ _ _ hk.symm, rfl, ⟨rfl, rfl⟩, rfl⟩

/-- Without a handler, or without s60 to s63, SVC and TRAP report to the host, or wait for room to. -/
theorem call_hosted (o : Opnd) {cause : Nat} (next : W64) (stall : Nat) {s : State} (hc : cause < 256) (hi : s.g.inflight = [])
    (hp : s.g.priv = false) (hv : bit s.g.tvec 63 = false ∨ partSR s.g.part ≠ 3) (hh : halted s s.g.ctx = false) :
    ∃ s', takeTrap (callTrap o cause s) false (calling next stall s) = s' ∧
      s'.g.priv = true ∧ s'.g.tpc = next ∧ s'.g.tfirst = s.g.pc ∧ s'.g.tcause = BitVec.ofNat 64 (cause + o.b.toNat * 2 ^ 32) ∧
      s'.g.tgmode = (completeAll s.g).gmode ∧ s'.g.gmode = (completeAll s.g).gmode ∧ s'.g.s = (completeAll s.g).s ∧
      s'.g.v = (completeAll s.g).v ∧ (partSR s.g.part ≠ 3 → s'.g.tsave = s.g.tsave) ∧ StoresNothing s s' ∧ s'.others = s.others ∧
      (roomFor s (coreDie s.g.core) = true → s'.g.block = some ⟨11, 0, 0, 0⟩ ∧ ∃ r, s'.outbound = s.outbound ++ [r] ∧ r.type = 2 ∧
        r.cause = cause ∧ r.sub = 0 ∧ r.code = o.b.toNat ∧ r.bid = s.g.bid ∧ r.die = coreDie s.g.core ∧ r.grp = some s.g.id) ∧
      (roomFor s (coreDie s.g.core) = false → s'.g.block = some ⟨10, 0, BitVec.ofNat 64 o.b.toNat, 0⟩ ∧ s'.outbound = s.outbound) := by
  have hoff : ¬ (bit s.g.tvec 63 = true ∧ partSR s.g.part = 3) := by
    rintro ⟨hb, hq⟩
    rcases hv with h | h
    · simp [hb] at h
    · exact h hq
  refine ⟨_, takeTrap_host _ _ _ hi hp hoff, ?_⟩
  obtain ⟨v, sc, gm, tc, fp, h, ht⟩ := trapped_calling (callTrap o cause s) next stall s
  rw [ht, h]
  obtain ⟨b, l, he, hroom, hnone⟩ := postAndWait_spec o.b.toNat false (s := onG (fun _ => enterTrap (callTrap o cause s) s.g.pc []
    { s.g with v := v, s := sc, gmode := gm, tctl := tc, fpstat := fp, pend := [], pc := next, stall := stall })
    (endSlotStall (calling next stall s))) hh
  obtain ⟨hcause, hsub⟩ := fld_tcauseOf (callTrap o cause s) 0
  simp only [Bool.false_eq_true, if_false] at hroom hnone
  rw [show (callTrap o cause s).code = o.b.toNat from rfl, show (callTrap o cause s).first.getD next = s.g.pc from rfl, he]
  refine ⟨rfl, rfl, rfl, tcause_call o hc s, rfl, rfl, rfl, rfl, fun hq => if_neg hq, ⟨rfl, rfl⟩, rfl, fun hr => ?_, fun hr => ?_⟩
  · obtain ⟨rfl, rfl⟩ := hroom hr
    exact ⟨rfl, _, rfl, rfl, hcause.trans (Nat.mod_eq_of_lt hc), hsub, rfl, rfl, rfl, rfl⟩
  · obtain ⟨rfl, rfl⟩ := hnone hr
    exact ⟨rfl, rfl⟩

/-- TRAP in the privileged view reports to the host and goes on after its answer (R265). -/
theorem trap_in_handler {o : Opnd} {s : State} (hr : ready (.trap o) s = true) (hp : s.g.priv = true) (hh : halted s s.g.ctx = false)
    (hroom : roomFor s (coreDie s.g.core) = true) :
    Completes (.trap o) s none (onG (fun g => { g with block := some ⟨11, 0, 0, 1⟩ })
      { s with outbound := s.outbound ++ [groupRec s.g 2 0x11 0 o.b.toNat s.g.tfault true] }) := by
  obtain ⟨b, l, he, hposts, -⟩ := postAndWait_spec o.b.toNat true hh
  obtain ⟨rfl, rfl⟩ := hposts hroom
  exact completes_of_body rfl hr ((if_pos hp).trans (congrArg _ he)) (ready_live hr) rfl

/-- Settles O14: the trap of each call, to its handler or to the host; in the privileged view SVC is fatal, and TRAP waits. -/
theorem systemCalls : Obligations.SystemCalls := by
  refine ⟨fun o s i cause next hi hr hp hv hh => ?hosted, fun o s hr => ⟨fun hp hv hq => ?svc, fun hp => ?fatal⟩,
    fun o s hr => ⟨fun hp hv hq => ?trap, fun hp hh hroom => trap_in_handler hr hp hh hroom⟩⟩
  case hosted =>
    obtain ⟨stall, hc, he⟩ : ∃ stall, cause < 256 ∧ Ends i s (takeTrap (callTrap o cause s) false (calling next stall s)) := by
      rcases hi with ⟨rfl, rfl, rfl⟩ | ⟨rfl, rfl, rfl⟩
      · exact ⟨_, by decide, svc_traps hr⟩
      · exact ⟨_, by decide, trap_traps hr hp⟩
    obtain ⟨s', hs, h⟩ := call_hosted o next stall hc (ready_idle hr) hp hv hh
    exact ⟨s', hs ▸ he, h⟩
  case svc =>
    obtain ⟨s', hs, h⟩ := call_handled o (s.g.pc + 4) o.st.toNat (cause := 0x10) (by decide) (ready_idle hr) hp hv hq
    exact ⟨s', hs ▸ svc_traps hr, h⟩
  case trap =>
    obtain ⟨s', hs, h⟩ := call_handled o s.g.pc s.g.stall (cause := 0x11) (by decide) (ready_idle hr) hp hv hq
    exact ⟨s', hs ▸ trap_traps hr hp, h⟩
  case fatal =>
    obtain ⟨hgone, -⟩ := takeTrap_ends (callTrap o 0x10 s) false (s := calling (s.g.pc + 4) o.st.toNat s) hp
    exact ⟨_, svc_traps hr, hgone, fun hh hb => ⟨_, takeTrap_outbound _ false (s := calling _ _ s) hp hh hb, rfl, rfl⟩⟩

/-! A handler that changes nothing. -/

/-- Every scalar comes back: s60 to s63 from TSAVE, the others from where they are (R264, R266). -/
theorem cget_leaveTrap_toHandler (t : TrapInfo) {s : State} (hr : partSR s.g.part = 3) (k : Nat) :
    cget zero (leaveTrap [] (toHandler (trapped t s))).s k = cget zero (completeAll s.g).s k := by
  by_cases hk : 60 ≤ k ∧ k < 64
  · obtain ⟨i, rfl⟩ := Nat.exists_eq_add_of_le hk.1
    have hi : i < 4 := by omega
    have hq : partSR (toHandler (trapped t s)).part = 3 := by
      obtain ⟨v, sc, gm, tc, fp, -, ht⟩ := trapped_eq t s
      rw [ht]
      exact hr
    exact (cget_leaveTrap_saved [] hq hi).trans (trapped_tsave t hr hi)
  · exact (cget_leaveTrap_other [] (by omega)).trans (cget_cset_other _ _ _ (by omega))

/-- Settles O13: the group that comes back is the one that the trap saved, register by register. -/
theorem trapThenReturn : Obligations.TrapThenReturn := by
  intro t s hi hp hv hr
  have hb : returnFromTrap (takeTrap t false s) = returned [] (onG (fun _ => toHandler (trapped t s)) (endSlotStall s)) := by
    rw [takeTrap_handler t false s hi hp hv hr]
    exact returnFromTrap_inl rfl
  rw [hb]
  have hs := cget_leaveTrap_toHandler t hr
  obtain ⟨v, sc, gm, tc, fp, hc, ht⟩ := trapped_eq t s
  rw [hc] at hs ⊢
  rw [ht] at hs ⊢
  exact ⟨rfl, rfl, rfl, rfl, rfl, hs, ⟨rfl, rfl⟩, rfl⟩

end Sys2Proof.Proofs
end

section
/-! PROOF. The events of one group (R252, R257, R258, R260, R261, R263, R386): what each does to the group that it acts on, as the current
one, and that the group that was current is current again. -/

namespace Sys2Proof.Proofs

open Sys2Proof.Machine Sys2Proof.Safety Sys2Proof.Laws

/-! Acting on one group. -/

theorem backTo_eq_refocus (s t : State) : backTo s t = refocus s t := by
  unfold backTo refocus
  split <;> rfl

/-- An event on one group acts on it as the current one. -/
theorem happensTo_of_focus {e : Instr} {id : Nat} {f : State → State} {s s1 s2 : State} (hx : exec e s = event (withGroup id f) s)
    (hf : focus (fun g => g.id == id) s = some s1) (h : f s1 = s2) : HappensTo e s s2 :=
  happens_of_event hx (by simp only [withGroup, hf, h, backTo_eq_refocus])

/-- The group that becomes current is the one that a search by number finds. -/
theorem focus_finds {id : Nat} {s s1 : State} (hf : focus (fun g => g.id == id) s = some s1) :
    (allGroups s).find? (fun g => g.live && g.id == id) = some s1.g := by
  unfold focus at hf
  split at hf
  · rename_i hc
    cases hf
    exact List.find?_cons_of_pos hc
  · rename_i hc
    split at hf
    · cases hf
    · rename_i g hg
      cases hf
      exact (List.find?_cons_of_neg (p := fun g : Group => g.live && g.id == id) hc).trans hg

theorem focus_current {id : Nat} {s s1 : State} (hf : focus (fun g => g.id == id) s = some s1) : s1.g.live = true ∧ s1.g.id = id := by
  simpa using List.find?_some (focus_finds hf)

/-! Held faults (R263). -/

/-- The trap of a fault that an engine has posted. -/
def heldTrap (h : HeldFault) : TrapInfo := { cause := h.cause, sub := h.sub, fault := h.addr, first := some 0 }

theorem deliverFault_taken {h : HeldFault} {r : List HeldFault} {s : State} (hh : s.g.held = h :: r) (hp : s.g.priv = false)
    (hres : s.g.resident = true) (hex : s.g.exited = false) (hhalt : s.g.halted = false) (hi : s.g.inflight = []) :
    deliverFault s = takeTrap (heldTrap h) false (onG (fun g => { offPoint g with held := r }) s) := by
  simp only [deliverFault, hh, hp, hres, hex, hhalt, drainAll_idle hi, Bool.not_true, Bool.or_self, Bool.false_eq_true, if_false]
  rfl

theorem deliverFault_none {s : State} (h : s.g.held = [] ∨ s.g.priv = true) : deliverFault s = s := by
  unfold deliverFault
  rcases h with h | h
  · rw [h]
  · split
    · rfl
    · simp only [h, Bool.true_or, if_true]

theorem tcause_held (h : HeldFault) : tcauseOf (heldTrap h) 0 = BitVec.ofNat 64 (h.cause % 256 + h.sub % 256 * 256) := by
  simp [tcauseOf, heldTrap]

theorem offPoint_runcnt {g : Group} {b : Block} (hb : g.block = some b) (h1 : 1 ≤ b.kind) (h7 : b.kind ≤ 7) : (offPoint g).runcnt = 0 := by
  simp [offPoint, hb, chargedKind, h1, h7]

/-! Blocking points that are left (R252). -/

section Leave

variable {s : State} {b : Block} (hb : s.g.block = some b)
include hb

theorem unblock_uncharged (hk : 7 < b.kind) : unblock s = onG (fun g => { g with block := none, waited := 0 }) s := by
  have hc : chargedKind b = false := decide_eq_false (by omega)
  simp only [unblock, hb, hc, Bool.false_eq_true, if_false]

theorem leavePoint_charged (h1 : 1 ≤ b.kind) (h7 : b.kind ≤ 7) :
    leavePoint s = onG (fun g => { g with block := none, waited := 0, runcnt := 0, wbudget := waitBudget s s.g }) s := by
  have hc : chargedKind b = true := decide_eq_true ⟨h1, h7⟩
  simp only [leavePoint, hb, unblock, hc, show b.kind ≠ 10 by omega, show b.kind ≠ 8 by omega, if_true, if_false, onG]

theorem leavePoint_overdue (hk : b.kind = 8) : leavePoint s = onG (fun g => { g with
    block := none, waited := 0, inflight := g.inflight.map (fun e => { e with overdue := false, lost := false }) }) s := by
  have hu := unblock_uncharged hb (by omega)
  simp only [leavePoint, hb, hk, hu, show (8 : Nat) ≠ 10 by decide, if_true, if_false]
  rfl

theorem leavePoint_yield (hk : b.kind = 9) : leavePoint s = onG (fun g => { g with block := none, waited := 0 }) s := by
  have hu := unblock_uncharged hb (by omega)
  simp only [leavePoint, hb, hk, hu, show (9 : Nat) ≠ 10 by decide, show (9 : Nat) ≠ 8 by decide, if_false]

theorem leavePoint_record (hk : b.kind = 10) :
    leavePoint s = postAndWait b.val.toNat (b.size == 1) (onG (fun g => { g with block := none, waited := 0 }) s) := by
  have hu := unblock_uncharged hb (by omega)
  simp only [leavePoint, hb, hk, hu, if_true]

theorem wakeMet_record (hk : b.kind = 10) : wakeMet s s.g = roomFor s (coreDie s.g.core) := by
  simp [wakeMet, hb, hk]

theorem wakeMet_watch (hk : b.kind = 5) :
    wakeMet s s.g = decide (natOf (objectBytes s s.g b.addr b.size) ≠ b.val.toNat % 2 ^ (8 * b.size)) := by
  simp [wakeMet, hb, hk]

/-- The record that waited for room is posted (R273). -/
theorem leavePoint_posts (hk : b.kind = 10) (hm : wakeMet s s.g = true) (hh : halted s s.g.ctx = false) :
    ∃ r, (leavePoint s).outbound = s.outbound ++ [r] ∧ r.type = 2 ∧ r.grp = some s.g.id ∧
      (leavePoint s).g.block = some ⟨11, 0, 0, if b.size = 1 then 1 else 0⟩ := by
  obtain ⟨c, l, he, hposts, -⟩ := postAndWait_spec b.val.toNat (b.size == 1) (s := onG (fun g => { g with block := none, waited := 0 }) s) hh
  obtain ⟨rfl, rfl⟩ := hposts ((wakeMet_record hb hk).symm.trans hm)
  rw [leavePoint_record hb hk, he]
  exact ⟨_, rfl, rfl, rfl, by simp⟩

end Leave

theorem wakeBlockedGroup_happens {id : Nat} {s s1 : State} {b : Block} (hf : focus (fun g => g.id == id) s = some s1) (hb : s1.g.block = some b)
    (hres : s1.g.resident = true) (hhalt : s1.g.halted = false) (hm : wakeMet s1 s1.g = true) :
    HappensTo (.wakeBlockedGroup id) s (leavePoint s1) :=
  happensTo_of_focus rfl hf (if_pos (by simp [hb, hres, hhalt, hm]))

/-! The watched word of a peer window (R386, R328). -/

/-- The word is read again where the group waits for it. -/
theorem peerWindowReread_happens {id : Nat} {s s1 : State} {b : Block} {p : Phys} (hf : focus (fun g => g.id == id) s = some s1)
    (hb : s1.g.block = some b) (hres : s1.g.resident = true) (hhalt : s1.g.halted = false) (hk : b.kind = 5)
    (hp : objectPlace s1 s1.g b.addr = some p) (hreg : p.region = 2) :
    HappensTo (.peerWindowReread id) s (watchAgain b (fun s => if wakeMet s s.g then leavePoint s else s) s1) := by
  refine happensTo_of_focus rfl hf ?_
  simp only [hb, hres, hhalt, hk, hp, hreg, Option.any_some, beq_self_eq_true, Bool.not_false, Bool.and_self, if_true]

theorem watchedError_eq {s : State} {b : Block} {p : Phys} (hk : b.kind = 5) (hp : objectPlace s s.g b.addr = some p) :
    watchedError s b = if homePoisoned s p b.size needR then some (homeSub s p.rkey) else none := by
  simp [watchedError, hk, hp]

/-! Absent registers and budgets. -/

/-- The value of an absent register comes back with a fetch that meets no poison (R258). -/
theorem fetchRegs_one {c : Nat} {s s2 : State} {p : Phys} (hp : recPlace s needR 8 (recordBase s) = (.inl p, s2))
    (hn : fetchPoison s2 = none) :
    fetchRegs [c] s = .ok () (onG (fun g => { g with absent := g.absent.filter (fun x => x != c) }) (touchRegister s2)) := by
  simp only [fetchRegs, hp, hn]

theorem registerMissFetch_happens {id c : Nat} {l : List Nat} {s s1 s2 : State} {p : Phys} (hf : focus (fun g => g.id == id) s = some s1)
    (hb : s1.g.block = none) (hres : s1.g.resident = true) (hex : s1.g.exited = false) (hm : nextMisses s1 = c :: l)
    (hp : recPlace s1 needR 8 (recordBase s1) = (.inl p, s2)) (hn : fetchPoison s2 = none) :
    HappensTo (.registerMissFetch id) s (onG (fun g => { g with absent := g.absent.filter (fun x => x != c) }) (touchRegister s2)) := by
  refine happensTo_of_focus rfl hf ?_
  simp only [hb, hres, hex, hm, fetchRegs_one hp hn, Option.isSome_none, Bool.not_true, Bool.or_self, Bool.false_eq_true, if_false]

/-- A run budget that is spent ends the context (R260). -/
theorem expireRun_ends {id : Nat} {s s1 : State} (hf : focus (fun g => g.id == id) s = some s1) (hres : s1.g.resident = true)
    (hex : s1.g.exited = false) (hhalt : s1.g.halted = false) (hr : runClocks (budOf s1 s1.g) ≤ s1.g.runcnt.toNat) :
    expireRun id s = fatalCtx 0x25 0 s1.g.tfault s1 := by
  simp only [expireRun, hf, runExpired, (focus_current hf).1, hres, hex, hhalt, decide_eq_true hr, Bool.not_false, Bool.and_self, if_true]
  rfl

theorem expireRun_left {id : Nat} {s s1 : State} (hf : focus (fun g => g.id == id) s = some s1)
    (hr : s1.g.runcnt.toNat < runClocks (budOf s1 s1.g)) : expireRun id s = s := by
  simp only [expireRun, hf, runExpired, decide_eq_false (Nat.not_le.mpr hr), Bool.and_false, Bool.false_eq_true, if_false]

/-- A waiting budget that is spent stops the context (R261). -/
theorem expireWait_stops {id : Nat} {s s1 : State} (hf : focus (fun g => g.id == id) s = some s1) (hres : s1.g.resident = true)
    (hex : s1.g.exited = false) (hhalt : s1.g.halted = false) (hc : charged s1.g = true) (hw : s1.g.wbudget = 0)
    (hs : bit (rdWin s (ctxReg s1.g.ctx 0x28)) 32 = false) : expireWait id s = stopCtx s1.g.ctx s := by
  simp only [expireWait, focus_finds hf, hres, hex, hhalt, hc, hw, hs, bne_self_eq_false, Bool.not_true, Bool.true_or, Bool.or_self,
    Bool.false_eq_true, if_true, if_false]

theorem expireWait_left {id : Nat} {s s1 : State} (hf : focus (fun g => g.id == id) s = some s1) (hw : s1.g.wbudget ≠ 0) :
    expireWait id s = s := by
  simp only [expireWait, focus_finds hf, bne_iff_ne.mpr hw, Bool.true_or, Bool.or_true, if_true]

theorem stopCtx_stops (c : Nat) (s : State) : bit (rdWin (stopCtx c s) (ctxReg c 0x28)) 32 = true ∧
    ∀ x, x ≠ ctxReg c 0x28 → rdWin (stopCtx c s) x = rdWin s x := by
  constructor
  · rw [stopCtx, rdWin_wrWin, if_pos rfl, bit_setFld (by decide)]
    rfl
  · intro x hx
    rw [stopCtx, rdWin_wrWin, if_neg hx.symm]

/-- Settles O49: each event by the one thing that it does to the group, or by the condition that fails. -/
theorem groupEvents : Obligations.GroupEvents := by
  intro id s s1 hf
  obtain ⟨-, hid⟩ := focus_current hf
  refine ⟨fun h r hh hp hres hex hhalt hi hv hr => ?delivers, fun h => ?holds, fun c l p s2 hb hres hex hm hp hn => ?misses,
    fun b hb hres hhalt hm => ⟨fun h1 h7 => ?wakes, fun hk => ?overdue, fun hk => ?yields, fun hk hh => ?posts⟩,
    fun hm => ?stays, fun b p hb hres hhalt hk hp hreg => ⟨fun hn hne => ?changed, fun hbad hh hfull => ?poisoned⟩, ?loads,
    fun hres hex hhalt hh hfull hr => ?runs, fun hr => ?running, fun hres hex hhalt hc hw hs => ?waits, fun hw => ?waiting⟩
  case delivers =>
    refine ⟨_, happensTo_of_focus rfl hf ((deliverFault_taken hh hp hres hex hhalt hi).trans (takeTrap_handler _ _ _ hi hp hv hr)), ?_⟩
    obtain ⟨v, sc, gm, tc, fp, -, ht⟩ := trapped_eq (heldTrap h) (onG (fun g => { offPoint g with held := r }) s1)
    rw [ht]
    exact ⟨hid, rfl, rfl, rfl, rfl, rfl, rfl, rfl, tcause_held h, rfl, rfl, fun b hb h1 h7 => offPoint_runcnt hb h1 h7, rfl, rfl, rfl⟩
  case holds => exact happensTo_of_focus rfl hf (deliverFault_none h)
  case misses => exact registerMissFetch_happens hf hb hres hex hm hp hn
  case wakes => exact leavePoint_charged hb h1 h7 ▸ wakeBlockedGroup_happens hf hb hres hhalt hm
  case overdue => exact leavePoint_overdue hb hk ▸ wakeBlockedGroup_happens hf hb hres hhalt hm
  case yields => exact leavePoint_yield hb hk ▸ wakeBlockedGroup_happens hf hb hres hhalt hm
  case posts =>
    obtain ⟨r, h⟩ := leavePoint_posts hb hk hm hh
    exact ⟨_, r, wakeBlockedGroup_happens hf hb hres hhalt hm, hid ▸ h⟩
  case stays => exact happensTo_of_focus rfl hf (if_neg (by simp [hm]))
  case changed =>
    have hm : wakeMet s1 s1.g = true := (wakeMet_watch hb hk).trans (decide_eq_true hne)
    have he := peerWindowReread_happens hf hb hres hhalt hk hp hreg
    rw [watchAgain, watchedError_eq hk hp, hn] at he
    simp only [Bool.false_eq_true, if_false, hm, if_true] at he
    rwa [leavePoint_charged hb (by omega) (by omega)] at he
  case poisoned =>
    have he := peerWindowReread_happens hf hb hres hhalt hk hp hreg
    rw [watchAgain, watchedError_eq hk hp, hbad, if_pos rfl] at he
    rw [← fatalCtx_reported 0x28 (homeSub s1 p.rkey) b.addr hh hfull]
    dsimp only at he
    rwa [fatalEnd, if_neg (by simp)] at he
  case loads => exact happensTo_of_focus rfl hf rfl
  case runs => exact happens_of_event rfl ((expireRun_ends hf hres hex hhalt hr).trans (fatalCtx_reported 0x25 0 _ hh hfull))
  case running => exact happens_of_event rfl (expireRun_left hf hr)
  case waits =>
    obtain ⟨hstop, hothers⟩ := stopCtx_stops s1.g.ctx s
    exact ⟨_, happens_of_event rfl (expireWait_stops hf hres hex hhalt hc hw hs), hstop, hothers,
      wrWin_g _ _ _, wrWin_others _ _ _, wrWin_panels _ _ _, wrWin_mem _ _ _, wrWin_wr _ _ _⟩
  case waiting => exact happens_of_event rfl (expireWait_left hf hw)

end Sys2Proof.Proofs
end

section
/-! PROOF. Records on their way to the event queue (R272 to R274), and what a write of the register window by the host sets off (R244,
R254, R261, R274, R311, R312). -/

namespace Sys2Proof.Proofs

open Sys2Proof.Machine Sys2Proof.Safety Sys2Proof.Laws

/-! Fields of words. -/

theorem fld_ofNat_low {x n : Nat} (hx : x < 2 ^ n) (hn : n ≤ 64) : fld (BitVec.ofNat 64 x) 0 n = x := by
  rw [fld, bitsOf, BitVec.toNat_ofNat, Nat.shiftRight_zero, Nat.mod_eq_of_lt (hx.trans_le (Nat.pow_le_pow_right Nat.two_pos hn)),
    Nat.mod_eq_of_lt hx]

/-- A command bit above a value of 32 bits is the only one of the upper half that is set. -/
theorem bit_command {x n k : Nat} (hx : x < 2 ^ 32) (hn : 32 ≤ n) (hk : 32 ≤ k) (h64 : k < 64) :
    bit (BitVec.ofNat 64 (x + 2 ^ n)) k = decide (k = n) := by
  have hxn : x < 2 ^ n := hx.trans_le (Nat.pow_le_pow_right Nat.two_pos hn)
  have hxk : x < 2 ^ k := hx.trans_le (Nat.pow_le_pow_right Nat.two_pos hk)
  rw [bit, BitVec.getLsbD_ofNat, decide_eq_true h64, Bool.true_and, show x + 2 ^ n = 2 ^ n * 1 + x by omega,
    Nat.testBit_two_pow_mul_add _ hxn]
  split
  · rw [Nat.testBit_lt_two_pow hxk, decide_eq_false (by omega)]
  · rw [← Nat.pow_zero 2, Nat.testBit_two_pow, decide_eq_decide]
    omega

/-- What a write leaves of a register, bit by bit (Table 0-4). -/
theorem getLsbD_written (r : Reg) (old v : W64) {k : Nat} (hk : k < 64) : (written r old v).getLsbD k =
    if (regRw r).getLsbD k then v.getLsbD k else old.getLsbD k && !(v.getLsbD k && (regW1c r).getLsbD k) := by
  simp only [written, BitVec.getLsbD_or, BitVec.getLsbD_and, BitVec.getLsbD_not, decide_eq_true hk, Bool.true_and]
  cases (regRw r).getLsbD k <;> simp

/-! Records (R272 to R274). -/

/-- A record that has been stored enters the queue. -/
theorem enterQueue_stored {r : EvRec} {s s1 : State}
    (hs : recordStore (recordWords s r (eventTail s)) (eventSlot s (eventTail s)) s = some s1) :
    ∃ s2, enterQueue r s = some s2 ∧ eventTail s2 = (eventTail s + 1) % 2 ^ 32 ∧ Output.msix 0 ∈ s2.outputs ∧ s2.wr = s1.wr ∧
      (∀ g, r.grp = some g → (eventTail s, g) ∈ s2.waiting) ∧ (r.type = 3 → bit (rdWin s2 eqStat) 0 = true) := by
  have htail : fld (BitVec.ofNat 64 ((eventTail s + 1) % 2 ^ 32)) 0 32 = (eventTail s + 1) % 2 ^ 32 :=
    fld_ofNat_low (Nat.mod_lt _ (by decide)) (by decide)
  have hw : ∀ g, r.grp = some g →
      (eventTail s, g) ∈ s1.waiting ++ (match r.grp with | some id => [(eventTail s, id)] | none => []) := fun g hg => by simp [hg]
  have hne : eqStat ≠ eqTail := by decide
  rw [enterQueue, hs]
  refine ⟨_, rfl, ?_⟩
  by_cases h3 : r.type = 3
  · simp only [if_pos h3]
    refine ⟨?_, by simp, rfl, hw, fun _ => ?_⟩
    · refine Eq.trans (congrArg (fun x => fld x 0 32) (cget_cset_other winReset _ _ hne)) ?_
      exact (congrArg (fun x => fld x 0 32) (cget_cset_same winReset _ eqTail _)).trans htail
    · refine Eq.trans (congrArg (fun x => bit x 0) (cget_cset_same winReset _ eqStat _)) ?_
      rw [bit_setFld (by decide)]
      rfl
  · simp only [if_neg h3]
    refine ⟨?_, by simp, rfl, hw, fun h => absurd h h3⟩
    exact (congrArg (fun x => fld x 0 32) (cget_cset_same winReset _ eqTail _)).trans htail

theorem rdWin_congr {s t : State} (h : t.win = s.win) (x : Nat) : rdWin t x = rdWin s x := congrArg (fun m => cget winReset m x) h

theorem rdWin_dropFatal (c x : Nat) (s : State) : rdWin (dropFatal c s) x =
    if ctxReg c 0x28 = x then setFld (rdWin (wrWin s eqStat (setFld (rdWin s eqStat) 1 1 1)) (ctxReg c 0x28)) 33 1 1
    else if eqStat = x then setFld (rdWin s eqStat) 1 1 1 else rdWin s x := by
  rw [dropFatal, haltCtx, rdWin_congr (mapGroups_win _ _), rdWin_wrWin, rdWin_wrWin s eqStat x]

/-- A fatal record that is dropped halts its context (R274). -/
theorem dropFatal_halts (c : Nat) (s : State) : (dropFatal c s).outbound = s.outbound ∧ StoresNothing s (dropFatal c s) ∧
    bit (rdWin (dropFatal c s) eqStat) 1 = true ∧ halted (dropFatal c s) c = true ∧
    ∀ g ∈ allGroups (dropFatal c s), g.live = true → g.ctx = c → g.halted = true := by
  have hne : ctxReg c 0x28 ≠ eqStat := by unfold ctxReg eqStat; omega
  refine ⟨?_, ⟨?_, ?_⟩, ?_, ?_, fun g hg hl hc => ?_⟩
  · rw [dropFatal, haltCtx, mapGroups_outbound, wrWin_outbound, wrWin_outbound]
  · rw [dropFatal, haltCtx, mapGroups_mem, wrWin_mem, wrWin_mem]
  · rw [dropFatal, haltCtx, mapGroups_wr, wrWin_wr, wrWin_wr]
  · rw [rdWin_dropFatal, if_neg hne, if_pos rfl, bit_setFld (by decide)]
    rfl
  · rw [halted, rdWin_dropFatal, if_pos rfl, bit_setFld (by decide)]
    rfl
  · obtain ⟨h, -, rfl⟩ := mem_mapGroups.mp hg
    split
    · rfl
    · rename_i hn
      rw [if_neg hn] at hl hc
      simp [hl, hc] at hn

section Post

variable {r : EvRec} {s : State} (hf : s.outbound.find? (fun x => x.die == r.die) = some r)
include hf

/-- A record for which the ring has room enters it once it is stored (R273). -/
theorem postOldest_enters {s2 : State} (h3 : r.type = 3 → bit (rdWin s eqStat) 0 = false ∧ 1 ≤ eventRoom s)
    (hn : r.type ≠ 3 → 2 ≤ eventRoom s) (he : enterQueue r { s with outbound := dropOldest r.die s.outbound } = some s2) :
    postOldest r.die s = s2 := by
  have hpend : ¬ (r.type = 3 ∧ bit (rdWin s eqStat) 0 = true) := fun ⟨ht, hb⟩ => by simp [(h3 ht).1] at hb
  have hroom : (r.type = 3 ∧ 1 ≤ eventRoom s) ∨ 2 ≤ eventRoom s := by
    by_cases ht : r.type = 3
    · exact .inl ⟨ht, (h3 ht).2⟩
    · exact .inr (hn ht)
  simp only [postOldest, hf, if_neg hpend, if_pos hroom, he, Option.getD_some]

theorem postOldest_drops (h3 : r.type = 3) (hp : bit (rdWin s eqStat) 0 = true) :
    postOldest r.die s = dropFatal r.ctx { s with outbound := dropOldest r.die s.outbound } := by
  simp only [postOldest, hf, if_pos (And.intro h3 hp)]

theorem postOldest_waits (h3 : r.type ≠ 3) (hr : eventRoom s < 2) : postOldest r.die s = s := by
  have hroom : ¬ ((r.type = 3 ∧ 1 ≤ eventRoom s) ∨ 2 ≤ eventRoom s) := by omega
  simp only [postOldest, hf, if_neg (fun h : r.type = 3 ∧ _ => h3 h.1), if_neg hroom]

end Post

/-- Both events post the oldest record of a die. -/
theorem happens_post {r : EvRec} {s s2 : State} {e : Instr}
    (he : e = .faultRecordPost r.die ∨ (e = .eventWriteRetry ∧ s.outbound.head? = some r)) (h : postOldest r.die s = s2) :
    Happens e s s2 := by
  rcases he with rfl | ⟨rfl, hr⟩
  · exact happens_of_event rfl h
  · refine happens_of_event rfl (Eq.trans ?_ h)
    obtain ⟨l, hl⟩ := List.head?_eq_some_iff.mp hr
    rw [retryPost, hl]

/-! Kills by the host. -/

theorem allGroups_wrWin (s : State) (o : Nat) (v : W64) : allGroups (wrWin s o v) = allGroups s :=
  congrArg₂ List.cons (wrWin_g s o v) (wrWin_others s o v)

/-- A kill by the host leaves nothing of the context either (R244). -/
theorem ctxKillNow_leaves (c : Nat) (s : State) : (∀ g ∈ allGroups (ctxKillNow c s), g.live = true → g.ctx ≠ c) ∧
    (∀ p ∈ (ctxKillNow c s).panels, p.ctx ≠ c) ∧ StoresNothing s (ctxKillNow c s) := by
  obtain ⟨hg, hp, -, hm, hw⟩ := killCtx_leaves c { s with snapped := s.snapped.filter (fun x => x != c) }
  rw [ctxKillNow, allGroups_wrWin]
  exact ⟨hg, fun p h => hp p (wrWin_panels _ _ _ ▸ h), (wrWin_mem _ _ _).trans hm, (wrWin_wr _ _ _).trans hw⟩

/-! The host's answers (R274). -/

/-- Which group becomes current depends on the groups only. -/
theorem focus_groups {p : Group → Bool} {s s1 u : State} (hf : focus p s = some s1) (hg : u.g = s.g) (ho : u.others = s.others) :
    focus p u = some { u with g := s1.g, others := s1.others } := by
  unfold focus at hf ⊢
  rw [hg, ho]
  split at hf
  · rename_i hc
    cases hf
    rw [if_pos hc, ← hg, ← ho]
  · rename_i hc
    rw [if_neg hc]
    split at hf
    · cases hf
    · cases hf
      rfl

theorem hostAnswer_eq {m act : Nat} {s : State} (hm : m < 2 ^ 32) (ha : act < 4) (hw : mayWrite s frespOff .host = true) :
    ∃ v, hostAnswer m act s = answer m act (wrWin s frespOff v) := by
  have hr : regAt frespOff = some (.eq 0x28) := by decide
  have hlow : fld (BitVec.ofNat 64 (m + act * 2 ^ 32)) 0 32 = m := by
    simp only [fld, bitsOf, BitVec.toNat_ofNat, Nat.shiftRight_eq_div_pow]
    omega
  have hact : fld (BitVec.ofNat 64 (m + act * 2 ^ 32)) 32 2 = act := by
    simp only [fld, bitsOf, BitVec.toNat_ofNat, Nat.shiftRight_eq_div_pow]
    omega
  rw [hostAnswer, Nat.mod_eq_of_lt hm, winWrite, hr]
  refine ⟨written (.eq 0x28) (rdWin s frespOff) (BitVec.ofNat 64 (m + act * 2 ^ 32)), (if_pos ⟨rfl, hw⟩).trans ?_⟩
  rw [writeEffects, if_pos rfl, hlow, hact]

/-- The state in which the answer finds its group: the record waits no more. -/
def answering (w : Nat × Nat) (v : W64) (s s1 : State) : State :=
  { wrWin s frespOff v with g := s1.g, others := s1.others, waiting := s.waiting.filter (fun x => !(x == w)) }

theorem answering_storesNothing (w : Nat × Nat) (v : W64) (s s1 : State) : StoresNothing s (answering w v s s1) := ⟨rfl, rfl⟩

section Answer

variable {m id : Nat} {s s1 : State} (hm : m < 2 ^ 32) (hw : mayWrite s frespOff .host = true)
  (hq : s.waiting.find? (fun w => w.1 == m) = some (m, id)) (hf : focus (fun g => g.id == id) s = some s1)
include hm hw hq hf

/-- FRESP_RESUME lets the group go on. -/
theorem frespResume_happens : ∃ v, HappensTo (.frespResume m) s (resumeGroup (answering (m, id) v s s1)) := by
  obtain ⟨v, hv⟩ := hostAnswer_eq (act := 0) hm (by decide) hw
  refine ⟨v, happens_of_event rfl (hv.trans ?_)⟩
  rw [answer, wrWin_waiting, hq]
  refine (if_pos rfl).trans ?_
  rw [withGroup, focus_groups (u := { wrWin s frespOff v with waiting := _ }) hf rfl rfl, backTo_eq_refocus]
  rfl

/-- FRESP_KILL kills its context. -/
theorem frespKill_happens : ∃ t, Happens (.frespKill m) s (ctxKillNow s1.g.ctx t) := by
  obtain ⟨v, hv⟩ := hostAnswer_eq (act := 1) hm (by decide) hw
  refine ⟨{ wrWin s frespOff v with waiting := s.waiting.filter (fun x => !(x == (m, id))) }, happens_of_event rfl (hv.trans ?_)⟩
  rw [answer, wrWin_waiting, hq]
  refine (if_neg (by decide)).trans ((if_pos rfl).trans ?_)
  rw [allGroups_wrWin, focus_finds hf]

end Answer

/-- Past its TRAP the group goes on in its handler. -/
theorem resumeGroup_after {s : State} {b : Block} (hb : s.g.block = some b) (hk : b.kind = 11) (hz : b.size ≠ 0) :
    resumeGroup s = onG (fun g => { g with block := none, waited := 0 }) s := by
  simp only [resumeGroup, hb, if_pos hk, if_neg hz]

/-- From its trap the group returns. -/
theorem resumeGroup_returns {s : State} {b : Block} (hb : s.g.block = some b) (hk : b.kind = 11) (hz : b.size = 0)
    (hv : ∀ r ∈ s.g.rplq, r.valid = false) : resumeGroup s = returned [] s := by
  simp only [resumeGroup, hb, if_pos hk, if_pos hz]
  exact returnFromTrap_inl (reload_none (indexed_valid hv 0) s)

/-! CTXMISC (R244, R254, R261). -/

/-- A command bit sets off its own operation and no other. -/
theorem hostCommand_eq {c n : Nat} {s : State} (hc : c < 16) (hn : 32 ≤ n) (hw : mayWrite s (ctxReg c 0x28) .host = true) :
    ∃ v, hostCommand c n s =
      (let s1 := if n = 32 then ctxResume c (wrWin s (ctxReg c 0x28) v) else wrWin s (ctxReg c 0x28) v
       let s2 := if n = 34 then ctxPreemptAll c s1 else s1
       if n = 35 then ctxKillNow c s2 else s2) := by
  have hx : fld (rdWin s (ctxReg c 0x28)) 0 32 < 2 ^ 32 := Nat.mod_lt _ (by decide)
  have hb : ∀ k, 32 ≤ k → k < 64 → (bit (BitVec.ofNat 64 (fld (rdWin s (ctxReg c 0x28)) 0 32 + 2 ^ n)) k = true) = (n = k) :=
    fun k h1 h2 => by rw [bit_command hx hn h1 h2, decide_eq_true_eq]; exact propext eq_comm
  rw [hostCommand, winWrite, regAt_ctx hc (by decide) (by decide)]
  refine ⟨written (.ctx c 0x28) (rdWin s (ctxReg c 0x28)) (BitVec.ofNat 64 (fld (rdWin s (ctxReg c 0x28)) 0 32 + 2 ^ n)),
    (if_pos ⟨rfl, hw⟩).trans ?_⟩
  simp only [writeEffects, hb 32 (by decide) (by decide), hb 34 (by decide) (by decide), hb 35 (by decide) (by decide), if_true]

/-- Every panel of a pre-empted context is targeted (R254). -/
theorem ctxPreemptAll_requests (c : Nat) (s : State) : ∀ p ∈ (ctxPreemptAll c s).panels, p.ctx = c → p.request = some .host := by
  intro p hp hc
  obtain ⟨q, -, rfl⟩ := List.mem_map.mp hp
  split
  · rfl
  · rename_i hn
    rw [if_neg hn] at hc
    simp [hc] at hn

/-- The waiting budget of a group depends on its panel's CTXBUD and on its context's. -/
theorem waitBudget_congr {s t : State} {g h : Group} (hp : t.panels = s.panels) (hpan : h.panel = g.panel) (hc : h.ctx = g.ctx)
    (hr : rdWin t (ctxReg g.ctx 8) = rdWin s (ctxReg g.ctx 8)) : waitBudget t h = waitBudget s g := by
  simp only [waitBudget, budOf, panelOf, hp, hpan, hc, hr]

theorem rdWin_ctxResume_other {c x : Nat} (hx : ctxReg c 0x28 ≠ x) (s : State) : rdWin (ctxResume c s) x = rdWin s x := by
  rw [ctxResume, rdWin_congr (mapGroups_win _ _), rdWin_wrWin, if_neg hx]
  exact rdWin_congr rfl x

theorem ctxResume_panels (c : Nat) (s : State) : (ctxResume c s).panels = s.panels := by
  rw [ctxResume, mapGroups_panels, wrWin_panels]

theorem ctxResume_storesNothing (c : Nat) (s : State) : StoresNothing s (ctxResume c s) := by
  refine ⟨?_, ?_⟩
  · rw [ctxResume, mapGroups_mem, wrWin_mem]
  · rw [ctxResume, mapGroups_wr, wrWin_wr]

/-- A context that resumes has its STOP cleared and its groups' waiting budgets filled (R261). -/
theorem ctxResume_fills (c : Nat) (s : State) : bit (rdWin (ctxResume c s) (ctxReg c 0x28)) 32 = false ∧
    ∀ g ∈ allGroups (ctxResume c s), g.live = true → g.ctx = c →
      ∃ g0 ∈ allGroups s, g = { g0 with wbudget := waitBudget (ctxResume c s) g } := by
  constructor
  · rw [ctxResume, rdWin_congr (mapGroups_win _ _), rdWin_wrWin, if_pos rfl, bit_setFld (by decide)]
    rfl
  · intro g hg hl hc
    obtain ⟨h, hh, rfl⟩ := mem_mapGroups.mp hg
    rw [allGroups_wrWin] at hh
    by_cases hlc : (h.live && h.ctx == c) = true
    · rw [if_pos hlc]
      refine ⟨h, hh, ?_⟩
      have hne : ctxReg c 0x28 ≠ ctxReg h.ctx 8 := by unfold ctxReg; omega
      have hw : waitBudget (ctxResume c s) { h with wbudget := waitBudget s h } = waitBudget s h :=
        waitBudget_congr (ctxResume_panels c s) rfl rfl (rdWin_ctxResume_other hne s)
      rw [hw]
    · rw [if_neg hlc] at hl hc
      simp [hl, hc] at hlc

/-! Registers (R311, R312). -/

/-- A register other than CTXMISC and FRESP holds what is written, and nothing else follows. -/
theorem writeEffects_plain {r : Reg} (hc : ∀ c, r ≠ .ctx c 0x28) (he : r ≠ .eq 0x28) (v : W64) (s : State) : writeEffects r v s = s := by
  cases r with
  | ctx c rr => exact if_neg fun h : rr = 0x28 => hc c (by rw [h])
  | eq rr => exact if_neg fun h : rr = 0x28 => he (by rw [h])
  | _ => rfl

theorem winWrite_allowed {o : Nat} {r : Reg} {v : W64} {s : State} (hr : regAt o = some r) (hw : mayWrite s o .host = true)
    (hc : ∀ c, r ≠ .ctx c 0x28) (he : r ≠ .eq 0x28) : winWrite o 8 v .host s = wrWin s o (written r (rdWin s o) v) := by
  rw [winWrite, hr]
  exact (if_pos ⟨rfl, hw⟩).trans (writeEffects_plain hc he v _)

theorem winWrite_refused {o n : Nat} {r : Reg} {v : W64} {s : State} (hr : regAt o = some r) (h : n ≠ 8 ∨ mayWrite s o .host = false) :
    winWrite o n v .host s = logRefused s o .host := by
  rw [winWrite, hr]
  refine if_neg fun ⟨h8, hw⟩ => ?_
  rcases h with h | h
  · exact h h8
  · simp [hw] at h

theorem hostWindowRead_answers {o : Nat} {r : Reg} (hr : regAt o = some r) (s : State) :
    hostWindowRead o 8 s = { s with outputs := s.outputs ++ [.data (bytesOf 8 (rdWin s o).toNat) []] } := by
  have h : windowRead o 8 .host s = (rdWin s o, s) := if_pos ⟨rfl, by rw [hr]; rfl⟩
  rw [hostWindowRead, h]
  rfl

/-- Settles O52: records by the room that they find, answers by ACT, commands by their bit, registers by their masks. -/
theorem hostAnswers : Obligations.HostAnswers := by
  refine ⟨fun r s e hf he => ⟨fun s1 h3 hn hs => ?enters, fun h3 hp => ?drops, fun h3 hr => ?held⟩,
    fun m id s s1 hm hw hq hf => ⟨fun b hb hk hz => ?goesOn, fun b hb hk hz hv => ?comesBack, ?kill⟩,
    fun c s hc hw => ⟨?preempt, ?killed, ?resume⟩,
    fun o n v r s hr => ⟨fun h8 hw hc hne => ?written, fun h => ?refused, fun h8 => ?read⟩, fun t own s _ _ hp hh hb => ?full⟩
  case enters =>
    obtain ⟨s2, h2, h⟩ := enterQueue_stored (s := { s with outbound := dropOldest r.die s.outbound }) hs
    exact ⟨s2, happens_post he (postOldest_enters hf h3 hn h2), h⟩
  case drops =>
    obtain ⟨ho, hst, hrest⟩ := dropFatal_halts r.ctx { s with outbound := dropOldest r.die s.outbound }
    exact ⟨_, happens_post he (postOldest_drops hf h3 hp), ho, hst, hrest⟩
  case held => exact happens_post he (postOldest_waits hf h3 hr)
  case goesOn =>
    obtain ⟨v, h⟩ := frespResume_happens hm hw hq hf
    rw [resumeGroup_after (s := answering (m, id) v s s1) hb hk hz] at h
    exact ⟨_, h, rfl, rfl, answering_storesNothing (m, id) v s s1⟩
  case comesBack =>
    obtain ⟨v, h⟩ := frespResume_happens hm hw hq hf
    rw [resumeGroup_returns (s := answering (m, id) v s s1) hb hk hz hv] at h
    exact ⟨_, h, rfl, rfl, rfl, rfl, rfl, rfl, answering_storesNothing (m, id) v s s1⟩
  case kill =>
    obtain ⟨t, h⟩ := frespKill_happens hm hw hq hf
    obtain ⟨hg, hp, -⟩ := ctxKillNow_leaves s1.g.ctx t
    exact ⟨_, h, hg, hp⟩
  case preempt =>
    obtain ⟨v, h⟩ := hostCommand_eq hc (n := 34) (by decide) hw
    exact ⟨ctxPreemptAll c (wrWin s (ctxReg c 0x28) v), happens_of_event rfl h, ctxPreemptAll_requests c _,
      wrWin_g s (ctxReg c 0x28) v, wrWin_others s (ctxReg c 0x28) v, wrWin_mem s (ctxReg c 0x28) v, wrWin_wr s (ctxReg c 0x28) v⟩
  case killed =>
    obtain ⟨v, h⟩ := hostCommand_eq hc (n := 35) (by decide) hw
    obtain ⟨hg, hp, hm, hwr⟩ := ctxKillNow_leaves c (wrWin s (ctxReg c 0x28) v)
    exact ⟨_, happens_of_event rfl h, hg, hp, hm.trans (wrWin_mem _ _ _), hwr.trans (wrWin_wr _ _ _)⟩
  case resume =>
    obtain ⟨v, h⟩ := hostCommand_eq hc (n := 32) (by decide) hw
    obtain ⟨hbit, hg⟩ := ctxResume_fills c (wrWin s (ctxReg c 0x28) v)
    obtain ⟨hm, hwr⟩ := ctxResume_storesNothing c (wrWin s (ctxReg c 0x28) v)
    rw [allGroups_wrWin] at hg
    exact ⟨_, happens_of_event rfl h, hbit, hg, (ctxResume_panels c _).trans (wrWin_panels _ _ _), hm.trans (wrWin_mem _ _ _),
      hwr.trans (wrWin_wr _ _ _)⟩
  case written =>
    subst h8
    refine ⟨_, happens_of_event rfl (winWrite_allowed hr hw hc hne), fun k hk => ?_, fun x hx => ?_,
      ⟨wrWin_mem _ _ _, wrWin_wr _ _ _⟩, wrWin_g _ _ _⟩
    · rw [rdWin_wrWin, if_pos rfl, getLsbD_written r _ v hk]
    · rw [rdWin_wrWin, if_neg hx.symm]
  case refused => exact happens_of_event rfl (winWrite_refused hr h)
  case read =>
    subst h8
    exact happens_of_event rfl (hostWindowRead_answers hr s)
  case full =>
    rw [takeTrap_priv t own s hp]
    exact congrArg (killCtx s.g.ctx) (postRec_drops (r := groupRec s.g 3 0x26 0 0 t.fault false) hh rfl hb)

end Sys2Proof.Proofs
end

section
/-! PROOF. The checks of an access and a load of bytes leave the current group as it was. -/

namespace Sys2Proof.Proofs

open Sys2Proof.Machine Sys2Proof.Safety Sys2Proof.Laws

/-! Checks (R191). -/

/-- Where an operation answers, the current group is that of `s`. -/
def KeepsGroup {α : Type} (s : State) (r : Res α) : Prop := ∀ a t, r = .ok a t → t.g = s.g

theorem keepsGroup_ok {α : Type} {s t : State} (a : α) (h : t.g = s.g) : KeepsGroup s (.ok a t) := by
  rintro _ _ ⟨⟩
  exact h

theorem keepsGroup_bind {α β : Type} {s : State} {r : Res α} {f : α → State → Res β} (h : KeepsGroup s r)
    (hf : ∀ a t, KeepsGroup t (f a t)) : KeepsGroup s (r.bind f) := by
  intro b u hu
  cases r with
  | ok a t => exact (hf a t b u hu).trans (h a t rfl)
  | _ => cases hu

theorem xlateAll_g (w : Who) (l : List (Nat × W64)) (s : State) : (xlateAll w l s).2.g = s.g := by
  induction l generalizing s with
  | nil => rfl
  | cons e r ih => exact (ih _).trans (xlate_g s w e.2)

theorem keepsGroup_checkWalks (s : State) (w : Who) (al : Nat) (l : List (Nat × W64)) : KeepsGroup s (checkWalks s w al l) := by
  intro ws t h
  have hx := xlateAll_g w l s
  unfold checkWalks at h
  dsimp only at h
  generalize xlateAll w l s = x at hx h
  split at h
  · cases h
  split at h
  · cases h
  split at h
  · cases h
  split at h
  · cases h
  split at h
  · cases h
  · cases h
    exact hx

theorem keepsGroup_checkPerm (s : State) (w : Who) (al : Nat) (need : Need) (l : List (Nat × W64)) :
    KeepsGroup s (checkPerm s w al need l) := by
  refine keepsGroup_bind (keepsGroup_checkWalks s w al l) fun ws t ws' u h => ?_
  dsimp only at h
  split at h
  · cases h
  · cases h
    rfl

theorem keepsGroup_places (w : Who) (n : Nat) (need : Need) (l : List LaneWalk) (s : State) : KeepsGroup s (places w n need l s) := by
  induction l generalizing s with
  | nil => exact keepsGroup_ok [] rfl
  | cons x r ih =>
    intro ps t h
    rw [places] at h
    split at h
    · split at h
      · cases h
      · split at h
        · cases h
        split at h
        · cases h
        · exact keepsGroup_bind (ih s) (fun qs u => keepsGroup_ok _ rfl) ps t h
    · cases h

theorem gatherAll_g (w : Who) (need : Need) (l : List (Nat × W64)) (s : State) : (gatherAll w need l s).g = s.g :=
  foldl_untouched (obs := State.g) (step := fun a (e : Nat × W64) => gather a w.core w.tag (e.2.toNat % 2 ^ 57) need.w) (fun _ _ _ => rfl) s

/-- Checking the lanes of an access leaves the group as it was. -/
theorem keepsGroup_checkLanes (s : State) (w : Who) (ctx n al : Nat) (need : Need) (l : List (Nat × W64)) :
    KeepsGroup s (checkLanes s w ctx n al need l) := by
  refine keepsGroup_bind (keepsGroup_checkPerm s w al need l) fun ws t ps u h => ?_
  dsimp only at h
  split at h
  · cases h
  · exact keepsGroup_bind (keepsGroup_places w n need ws t) (fun qs v => keepsGroup_ok _ (gatherAll_g w need l v)) ps u h

/-! Loads (R172, R175, R323). -/

theorem homesOnly_loadHome (s : State) (w : Who) (p : Phys) (n : Nat) : HomesOnly s (loadHome s w p n).2 :=
  homesOnly_trans (homesOnly_trans (homesOnly_hostReady s _ p false) (homesOnly_dropWords _ _ _ _)) (homesOnly_touch _ _ _ _ _)

theorem loadPeer_g (s : State) (w : Who) (p : Phys) (n : Nat) : (loadPeer s w p n).2.g = s.g := by
  unfold loadPeer
  extract_lets cl acc kept s1
  split
  · rfl
  split
  · rfl
  split
  · exact (fillLine_g (Machine.discard s cl (fun l => l == p.line)) w p).trans rfl
  · rfl

/-- Loading bytes leaves the group as it was. -/
theorem loadBytes_g (s : State) (w : Who) (p : Phys) (n : Nat) : (loadBytes s w p n).2.g = s.g := by
  unfold loadBytes
  extract_lets cl s0 s1
  have h0 : s0.g = s.g := (homesOnly_hostReady s cl p false).g_eq
  split
  · split
    · rfl
    · exact (homesOnly_logRefused s p.key .host).g_eq
  split
  · exact loadPeer_g s w p n
  split
  · exact (homesOnly_loadHome s w p n).g_eq
  · show s1.g = s.g
    dsimp only [s1]
    split
    · exact h0
    · exact (fillLine_g s0 w p).trans h0

end Sys2Proof.Proofs
end

section
/-! PROOF. TEXS and TEXF (R287 to R289, R416): the one run of the five instructions, and the obligation. -/

namespace Sys2Proof.Proofs

open Sys2Proof.Machine Sys2Proof.Safety Sys2Proof.Laws

/-! The run. -/

/-- With no lane there is no place. -/
theorem checkLanes_nil (s : State) (w : Who) (ctx n al : Nat) (need : Need) : checkLanes s w ctx n al need [] = .ok [] s := rfl

section Run

variable {o : Opnd} {e : InFlight} {rd : Tex → Nat → Reads} {s s1 s2 : State} {p : Nat × Phys} {ps : List (Nat × Phys)} {bs : List Byte}
  (hc : checkLanes s (whoOf s.g 0) s.g.ctx 64 64 needR ((activeLanes e.mask).map (fun k => (k, capS e 0))) = .ok (p :: ps) s1)
  (hb : loadBytes s1 (whoOf s.g 0) p.2 64 = (bs, s2))
include hc

/-- A descriptor that has been found is that of an active lane. -/
theorem isEmpty_activeLanes_of_place : (activeLanes e.mask).isEmpty = false := by
  cases h : activeLanes e.mask with
  | nil =>
    rw [h, List.map_nil, checkLanes_nil] at hc
    cases hc
  | cons => rfl

include hb

/-- A descriptor with an invalid field gives zeros (R287). -/
theorem texRun_invalid (ht : texOf bs = none) :
    texRun o e rd s = .ok () (onG (putRun o.d.toNat ((activeLanes e.mask).map (fun k => (k, [0, 0, 0, 0])))) s2) := by
  simp only [texRun, isEmpty_activeLanes_of_place hc, Bool.false_eq_true, if_false, hc, Res.bind, hb, ht]

/-- The descriptor is read in the group that reads the texels. -/
theorem group_of_descriptor : s2.g = s.g := by
  have h := loadBytes_g s1 (whoOf s.g 0) p.2 64
  rw [hb] at h
  exact h.trans (keepsGroup_checkLanes _ _ _ _ _ _ _ _ _ hc)

/-- A valid one with readable texels gives each active lane its sample (R288, R289). -/
theorem texRun_samples {t : Tex} {s3 : State} (ht : texOf bs = some t)
    (hs : checkSpans s2 (whoOf s.g 0) s.g.ctx needR ((activeLanes e.mask).flatMap (fun k =>
      (rd t k).map (fun r => ⟨k, texelAddr t r.1 r.2.1 r.2.2.1, texelBytes t⟩))) = .ok () s3) :
    texRun o e rd s = .ok () (onG (putRun o.d.toNat (sampleLanes (whoOf s.g 0) t (rd t) (activeLanes e.mask) s3).1)
      (sampleLanes (whoOf s.g 0) t (rd t) (activeLanes e.mask) s3).2) := by
  simp only [texRun, isEmpty_activeLanes_of_place hc, Bool.false_eq_true, if_false, hc, Res.bind, hb, ht, group_of_descriptor hc hb, hs]

end Run

/-! The instructions. -/

/-- An instruction that is performed as a texture access with the descriptor at sB and the texels that `rd` names. -/
structure IsTexture (i : Instr) (o : Opnd) (s : State) (rd : Tex → Nat → Reads) : Prop where
  replay : isReplay i = true
  memory : exec i s = runMem i s
  base : capS (entryOf i s) 0 = rdS s o.b.toNat
  runs : ∃ perf : InFlight → State → Res Unit, (∀ e n t, decode e.word e.ext = .instr i n → performEntry e t = perf e t) ∧
    ∀ t, perf (entryOf i s) t = texRun o (entryOf i s) rd t

/-- The five instructions: coordinates in vD and vD+1, the level of quad derivatives, of vA, or of those with a bias (R288, R416). -/
theorem isTexture_of {i : Instr} {o : Opnd} {s : State} {rd : Tex → Nat → Reads} {u v l : Lanes} (hu : u = rdV s o.d.toNat)
    (hv : v = rdV s (o.d.toNat + 1)) (hl : l = rdV s o.a.toNat)
    (hi : (i = .texs o ∧ rd = fun t => texsReads t u v (quadLambda t u v 0)) ∨
      (i = .texsL o ∧ rd = fun t => texsReads t u v (fun k => givenLambda (laneOf l k))) ∨
      (i = .texsB o ∧ rd = fun t => texsReads t u v (quadLambda t u v (sextNat 8 (parOf o).val.toNat))) ∨
      (i = .texf o ∧ rd = fun t => texfReads t u v (fun _ => 0)) ∨
      (i = .texfL o ∧ rd = fun t => texfReads t u v (fun k => (laneOf l k).toInt))) : IsTexture i o s rd := by
  subst hu hv hl
  rcases hi with ⟨rfl, rfl⟩ | ⟨rfl, rfl⟩ | ⟨rfl, rfl⟩ | ⟨rfl, rfl⟩ | ⟨rfl, rfl⟩
  · exact ⟨rfl, rfl, rfl, perfTexs o, fun e n t hd => by rw [performEntry, hd], fun t => rfl⟩
  · exact ⟨rfl, rfl, rfl, perfTexsL o, fun e n t hd => by rw [performEntry, hd], fun t => rfl⟩
  · exact ⟨rfl, rfl, rfl, perfTexsB o, fun e n t hd => by rw [performEntry, hd], fun t => rfl⟩
  · exact ⟨rfl, rfl, rfl, perfTexf o, fun e n t hd => by rw [performEntry, hd], fun t => rfl⟩
  · exact ⟨rfl, rfl, rfl, perfTexfL o, fun e n t hd => by rw [performEntry, hd], fun t => rfl⟩

/-- Settles O37: the five instructions are one run, which a descriptor ends in zeros or in each lane's sample. -/
theorem texturesComplete : Obligations.TexturesComplete := by
  intro o s s1 s2 i rd p ps bs u v l hu hv hl hi hg hc hb
  obtain ⟨hr, hx, hbase, perf, hperf, hrun⟩ := isTexture_of hu hv hl hi
  rw [← whoOf_begun i, ← ctx_begun i s, ← hbase] at hc
  rw [← whoOf_begun i] at hb
  refine ⟨fun ht => performs_by hx hg hr hperf ((hrun _).trans (texRun_invalid hc hb ht)), fun t s3 ht hs => ?_⟩
  rw [← whoOf_begun i, ← ctx_begun i s] at hs
  rw [← whoOf_begun i s 0]
  exact performs_by hx hg hr hperf ((hrun _).trans (texRun_samples hc hb ht hs))

end Sys2Proof.Proofs
end

section
/-! PROOF. RTST and RTLD (R290 to R293, R379, R397): how each ends on its descriptor, and the obligation. -/

namespace Sys2Proof.Proofs

open Sys2Proof.Machine Sys2Proof.Safety Sys2Proof.Laws

/-- The spans of the pixels of each lane: their colour, and their depth where the target has a depth plane (R290, R379). -/
def flatSpans (t : Target) (act : List Nat) (pix : Nat → List (Nat × Nat)) : List Span :=
  act.flatMap (fun k => (pix k).flatMap (fun p =>
    (if t.dbase = 0 then [] else [⟨k, depthAddr t p.1 p.2, 4⟩]) ++ [⟨k, colourAddr t p.1 p.2, t.bpp⟩]))

/-- The pixels that RTST covers in a lane, of the registers that it has captured (R292). -/
def storedPixels (t : Target) (e : InFlight) (k : Nat) : List (Nat × Nat) := coveredPixels t (laneOf (capV e 3) k) (laneOf (capV e 4) k)

/-- The pixel that RTLD names in a lane, where the target has it (R397). -/
def loadedPixels (t : Target) (e : InFlight) (k : Nat) : List (Nat × Nat) :=
  if (rtldPixel (laneOf (capV e 0) k)).1 < t.w ∧ (rtldPixel (laneOf (capV e 0) k)).2 < t.h then [rtldPixel (laneOf (capV e 0) k)] else []

section Descriptor

variable {o : Opnd} {e : InFlight} {s s1 : State} {bs : List Byte} (hm : e.mask ≠ 0) (hd : ropDesc e s = .ok bs s1)
include hm hd

/-- On a descriptor that is invalid or of a layered target RTST does nothing (R292, R379). -/
theorem perfRtst_idle (h : (match targetOf bs with | some t => t.ml | none => true) = true) : perfRtst o e s = .ok () s1 := by
  simp only [perfRtst, if_neg hm, hd, Res.bind]
  cases ht : targetOf bs with
  | none => rfl
  | some t =>
    rw [ht] at h
    exact if_pos h

/-- On such a descriptor RTLD gives zeros (R397). -/
theorem perfRtld_idle (h : (match targetOf bs with | some t => t.ml | none => true) = true) :
    perfRtld o e s = .ok () (onG (putRun o.d.toNat ((activeLanes e.mask).map (fun k => (k, [0, 0, 0, 0])))) s1) := by
  simp only [perfRtld, if_neg hm, hd, Res.bind]
  cases ht : targetOf bs with
  | none => rfl
  | some t =>
    rw [ht] at h
    exact if_pos h

variable {t : Target} {s2 : State} (ht : targetOf bs = some t) (hf : t.ml = false)
include ht hf

/-- On a flat one RTST stores the covered pixels, where no earlier fragment holds one of them (R292, R293). -/
theorem perfRtst_stores (hc : checkSpans s1 (ropWho s1) s1.g.ctx needRW (flatSpans t (activeLanes e.mask) (storedPixels t e)) = .ok () s2)
    (hl : lowerHolds s2 t ((activeLanes e.mask).flatMap (storedPixels t e)) = false) :
    perfRtst o e s = .ok () (onG (markMade t ((activeLanes e.mask).flatMap (storedPixels t e))) ((activeLanes e.mask).foldl (fun a k =>
      (storedPixels t e k).foldl (fun b p =>
        pixelStore t (laneOf (capV e 2) k) (halfColour (laneOf (capV e 0) k) (laneOf (capV e 1) k)) p b) a) s2)) := by
  unfold flatSpans storedPixels at hc
  unfold storedPixels at hl ⊢
  simp only [perfRtst, if_neg hm, hd, Res.bind, ht, hf, hc, hl, Bool.false_eq_true, if_false]

/-- On a flat one RTLD loads the pixel that each lane names (R293, R397). -/
theorem perfRtld_loads (hc : checkSpans s1 (ropWho s1) s1.g.ctx needR (flatSpans t (activeLanes e.mask) (loadedPixels t e)) = .ok () s2)
    (hl : lowerPlace s2 t ((activeLanes e.mask).flatMap (loadedPixels t e)) = false) :
    perfRtld o e s = .ok () (onG (putRun o.d.toNat (pixelLoads t (capV e 0) (activeLanes e.mask) s2).1)
      (pixelLoads t (capV e 0) (activeLanes e.mask) s2).2) := by
  unfold flatSpans loadedPixels at hc
  unfold loadedPixels at hl
  simp only [perfRtld, if_neg hm, hd, Res.bind, ht, hf, hc, hl, Bool.false_eq_true, if_false]

end Descriptor

theorem performs_rtst {o : Opnd} {s s' : State} (hg : goes (.rtst o) s)
    (hp : perfRtst o (entryOf (.rtst o) s) (begun (.rtst o) s) = .ok () s') : Performs (.rtst o) s s' :=
  performs_by rfl hg rfl (perf := perfRtst o) (fun e n t hd => by rw [performEntry, hd]) hp

theorem performs_rtld {o : Opnd} {s s' : State} (hg : goes (.rtld o) s)
    (hp : perfRtld o (entryOf (.rtld o) s) (begun (.rtld o) s) = .ok () s') : Performs (.rtld o) s s' :=
  performs_by rfl hg rfl (perf := perfRtld o) (fun e n t hd => by rw [performEntry, hd]) hp

/-- Settles O38: each instruction by its descriptor. -/
theorem renderTargetsComplete : Obligations.RenderTargetsComplete := by
  rintro o s s1 i bs _ - hg hm rfl hd
  refine ⟨fun h => ⟨?rtst, ?rtld⟩, fun t s2 ht hf => ⟨fun pix hpix => ?stores, fun pix hpix => ?loads⟩⟩
  case rtst =>
    rintro rfl
    exact performs_rtst hg (perfRtst_idle hm hd h)
  case rtld =>
    rintro rfl
    exact performs_rtld hg (perfRtld_idle hm hd h)
  case stores =>
    rintro rfl hc hl
    obtain rfl : pix = storedPixels t (entryOf (.rtst o) s) := funext hpix
    exact performs_rtst hg (perfRtst_stores hm hd ht hf hc hl)
  case loads =>
    rintro rfl hc hl
    obtain rfl : pix = loadedPixels t (entryOf (.rtld o) s) := funext hpix
    exact performs_rtld hg (perfRtld_loads hm hd ht hf hc hl)

end Sys2Proof.Proofs
end

section
/-! PROOF. Why the completion of RAYQ.BOB fails as it is stated: it has the instruction store nothing, and the load of a descriptor in host
memory first writes back the dirty words that another cluster holds of its lines (R214, R316). -/

namespace Sys2Proof.Proofs

open Sys2Proof.Machine Sys2Proof.Safety Sys2Proof.Laws

/-! What an instruction stores. -/

/-- Two accounts of what an instruction completes with agree on memory. -/
theorem mem_of_completes {i : Instr} {s s' t' : State} {j k : Option W64} (h : Completes i s j s') (h' : Completes i s k t') :
    csetAll zero s.mem s'.wr.reverse = csetAll zero s.mem t'.wr.reverse := by
  obtain ⟨t, hx, -, -, _, _, ht⟩ := h
  obtain ⟨u, hy, -, -, _, _, hu⟩ := h'
  obtain rfl : t = u := Host.Outcome.next.inj (hx.symm.trans hy)
  exact (congrArg State.mem ht).symm.trans (congrArg State.mem hu)

/-- A reservation leaves the journal and the group as they were. -/
theorem reserve_keeps {n : Nat} {es : List W64} {s t : State} {offs : List Nat} (h : reserve n es s = .slots offs t) :
    t.wr = s.wr ∧ t.g = s.g := by
  obtain ⟨-, -, s1, hb, rfl⟩ := reserve_slots h
  exact ⟨hb.storesNothing.2, hb.g_eq⟩

/-- With a well-formed descriptor and room RAYQ.BOB stores what reading the descriptor has stored (R301, R304). -/
theorem rayqBob_completes {o : Opnd} {s s1 s2 : State} {bs : List Byte} {d : List W64} {offs : List Nat} (hr : ready (.rayqBob o) s = true)
    (hact : activeLanes (effMask s) ≠ []) (hd : uniDesc (rdS s o.b.toNat) s = .ok bs s1) (hg : s1.g = s.g) (hw : descWords bs 8 = d)
    (hok : rayDescOk true d = true) (hhit : (d.getD 1 0).toNat % 4 = 0) (hmiss : d.getD 2 0 = 0)
    (hpool : poolSlots s1 (coreDie s1.g.core) ≠ 0) (hq : rayQueue s1 < 16)
    (hres : reserve (activeLanes (effMask s)).length [d.getD 1 0] s1 = .slots offs s2) :
    ∃ s', Completes (.rayqBob o) s none s' ∧ s'.wr = s1.wr := by
  obtain ⟨hwr, hg2⟩ := reserve_keeps hres
  have hb := binsOnly_pressure (coreDie s2.g.core) false (acceptCmd (.ray true d (raysOf o (activeLanes (effMask s)) offs s2)) none s2)
  refine ⟨_, completes_of_body rfl hr (s' := pressure _ _ _) ?_ ?_ rfl, hb.storesNothing.2.trans hwr⟩
  · have hal : [d.getD 1 0].find? (fun e => decide (e.toNat % 4 ≠ 0)) = none := List.find?_eq_none.mpr (by simpa using hhit)
    simp only [rayqBody, List.isEmpty_eq_false_iff.mpr hact, Bool.false_eq_true, if_false, hd, Res.bind, hw, hok, Bool.not_true, if_true,
      rayBob, hmiss, hal, if_neg hpool, if_neg (Nat.not_le.mpr hq), hres]
  · exact (congrArg Group.live (hb.g_eq.trans (hg2.trans hg))).trans (ready_live hr)

/-! The state that refutes. -/

/-- RAYQ.BOB with its descriptor at s4, its rays in v16 to v23 and their user words in v0 to v3. -/
def bobRays : Opnd := ⟨0, 0, 16, 4, .none⟩

/-- A readable page of host memory at address 0, with whether an access has gathered A. -/
def hostPage (a : Bool) : TlbEntry :=
  { core := 0, ctx := 0, base := 0, bits := 30, pte := BitVec.ofNat 64 (0x27 + 2 ^ 60), at_ := 0, a := a, d := false, aDone := false, dDone := false }

/-- The place of its first byte. -/
def hostPlace : Phys := ⟨1, hostKey 0, hostKey 0, 2 ^ 41, false, false, false, 0⟩

/-- The L1 of cluster 1 holds the hit entry of the descriptor at address 0, which a group there has stored and which has not been written
back; a group of one lane on cluster 0 issues `bobRays`, before or after its access to the page has gathered A. -/
def storedElsewhere (a : Bool) : State := { State.reset with
  g := { Group.empty with live := true, resident := true, part := 16 + 3 * 32 + 8 * 128, gmode := 1, exmask := 1, s := [(1, 1)] }
  spnsize := [(0, 1)]
  tlb := [hostPage a]
  l1 := [(l1Key 1 (2 ^ 41) 2, some { val := 0x2000, dirty := true, store := hostKey 8, quota := 0, alloc := 0, acc := 0, poison := false })] }

/-- The descriptor and the state that its load leaves. -/
def descriptorLoad : List Byte × State := loadBytes (storedElsewhere true) (whoOf (storedElsewhere true).g 0) hostPlace 64

theorem bobRays_ready : ready (.rayqBob bobRays) (storedElsewhere false) = true := by decide

theorem uniDesc_storedElsewhere : uniDesc (rdS (storedElsewhere false) bobRays.b.toNat) (storedElsewhere false) =
    .ok descriptorLoad.1 descriptorLoad.2 := by
  have ha : rdS (storedElsewhere false) bobRays.b.toNat = 0 := rfl
  have hc : checkLanes (storedElsewhere false) (whoOf (storedElsewhere false).g 0) (storedElsewhere false).g.ctx 64 64 needR [(0, 0)] =
      .ok [(0, hostPlace)] (storedElsewhere true) := by decide +kernel
  rw [ha, uniDesc, hc]
  rfl

/-- The load finds the word of the other cluster. -/
theorem descriptorLoad_words : descWords descriptorLoad.1 8 = [0, 0x2000, 0, 0, 0, 0, 0, 0] := by decide +kernel

/-- It has written that word back. -/
theorem descriptorLoad_wr : descriptorLoad.2.wr = [(hostKey 11, 0), (hostKey 10, 0), (hostKey 9, 0x20), (hostKey 8, 0)] := by decide

theorem descriptorLoad_g : descriptorLoad.2.g = (storedElsewhere false).g := loadBytes_g (storedElsewhere true) _ hostPlace 64

theorem descriptorLoad_room : poolSlots descriptorLoad.2 0 ≠ 0 ∧ rayQueue descriptorLoad.2 < 16 := by decide +kernel

theorem descriptorLoad_reserves : ∃ offs t, reserve 1 [0x2000] descriptorLoad.2 = .slots offs t := ⟨_, _, rfl⟩

/-- Refutes O48: reading its descriptor, `bobRays` writes a word to host memory that another cluster has stored, and the statement has it
store nothing. -/
theorem not_graphicsCompletes : ¬ Obligations.GraphicsCompletes := by
  intro h
  obtain ⟨-, -, -, -, hray, -⟩ := h bobRays (storedElsewhere false) _ rfl
  obtain ⟨-, hdesc⟩ := hray _ true (.inr ⟨rfl, rfl⟩) bobRays_ready
  obtain ⟨-, -, hbob⟩ := hdesc _ _ _ (by decide) uniDesc_storedElsewhere descriptorLoad_g rfl
  obtain ⟨offs, t, hres⟩ := descriptorLoad_reserves
  obtain ⟨hpool, hq⟩ := descriptorLoad_room
  rw [descriptorLoad_words] at hbob
  obtain ⟨s', hc, -, ⟨-, hwr⟩, -⟩ := hbob offs t (by decide) rfl (by decide) (by decide) hpool hq hres
    ((reserve_keeps hres).2.trans descriptorLoad_g)
  obtain ⟨t', hc', hwr'⟩ := rayqBob_completes bobRays_ready (by decide) uniDesc_storedElsewhere descriptorLoad_g
    descriptorLoad_words (by decide) (by decide) rfl hpool hq hres
  have hmem := mem_of_completes hc hc'
  rw [hwr, hwr', descriptorLoad_wr] at hmem
  exact absurd hmem (by decide)

end Sys2Proof.Proofs
end

section
/-! PROOF. What the management port and the module's own watch write in the window (R312, R325, R329 to R331): fields that are replaced, a
register write by any master, the sparing log, and the settings of links. -/

namespace Sys2Proof.Proofs

open Sys2Proof.Machine Sys2Proof.Safety Sys2Proof.Laws

/-! Fields of words. -/

theorem fld_setFld_same {v : W64} {lo n x : Nat} (h : lo + n ≤ 64) : fld (setFld v lo n x) lo n = x % 2 ^ n := by
  have hlo : v.toNat % 2 ^ lo < 2 ^ lo := Nat.mod_lt _ (Nat.two_pow_pos lo)
  rw [fld, bitsOf, Nat.shiftRight_eq_div_pow, toNat_setFld h, Nat.mul_add_div (Nat.two_pow_pos lo), Nat.div_eq_of_lt hlo, Nat.add_zero,
    Nat.mul_add_mod, Nat.mod_mod]

theorem fld_setFld_above {v : W64} {lo n x m k : Nat} (h : lo + n ≤ 64) (hm : lo + n ≤ m) : fld (setFld v lo n x) m k = fld v m k := by
  refine Nat.eq_of_testBit_eq fun i => ?_
  have hb := bit_setFld (v := v) (x := x) h (m + i)
  rw [if_neg (by omega)] at hb
  simp only [fld, bitsOf, Nat.testBit_mod_two_pow, Nat.testBit_shiftRight]
  exact congrArg (decide (i < k) && ·) hb

/-- A bit that is set stays set under an OR, and the OR sets its own. -/
theorem bit_or_shift {v : W64} {d k : Nat} (hk : k < 64) : bit (v ||| (1#64 <<< d)) k = (bit v k || decide (k = d)) := by
  rw [bit, BitVec.getLsbD_or, BitVec.getLsbD_shiftLeft, BitVec.getLsbD_one, bit]
  congr 1
  rw [Bool.eq_iff_iff]
  simp
  omega

/-! Writes by a master (R311, R312). -/

theorem winWrite_performed {o : Nat} {r : Reg} {m : Master} {v : W64} {s : State} (hr : regAt o = some r) (hw : mayWrite s o m = true)
    (hc : ∀ c, r ≠ .ctx c 0x28) (he : r ≠ .eq 0x28) : winWrite o 8 v m s = wrWin s o (written r (rdWin s o) v) := by
  rw [winWrite, hr]
  exact (if_pos ⟨rfl, hw⟩).trans (writeEffects_plain hc he v _)

theorem winWrite_logged {o n : Nat} {r : Reg} {m : Master} {v : W64} {s : State} (hr : regAt o = some r) (hw : mayWrite s o m = false) :
    winWrite o n v m s = logRefused s o m := by
  rw [winWrite, hr]
  exact if_neg fun h => Bool.false_ne_true (hw.symm.trans h.2)

theorem rdWin_logRefused_other {o x : Nat} {m : Master} (s : State) (h : x ≠ ownlogOff) : rdWin (logRefused s o m) x = rdWin s x :=
  (rdWin_wrWin s ownlogOff x _).trans (if_neg h.symm)

theorem rdWin_complete (code : Nat) (v : W64) (s : State) (x : Nat) : rdWin (complete code v s) x = rdWin s x := rfl

theorem complete_outputs (code : Nat) (v : W64) (s : State) : (complete code v s).outputs = s.outputs ++ [.code code v] := rfl

theorem logRefused_outputs (s : State) (o : Nat) (m : Master) : (logRefused s o m).outputs = s.outputs :=
  wrWin_outputs s ownlogOff _

/-! The commands of the port (Table 10-6). -/

theorem mgmtRead_found {o : Nat} {r : Reg} (hr : regAt o = some r) (s : State) : mgmtRead o s = complete 0 (rdWin s o) s := by
  have h : windowRead o 8 .mgmt s = (rdWin s o, s) := if_pos ⟨rfl, by rw [hr]; rfl⟩
  rw [mgmtRead, h, hr]
  rfl

theorem mgmtRead_unassigned {o : Nat} (hr : regAt o = none) (s : State) : mgmtRead o s = complete 1 0 (logRefused s o .mgmt) := by
  have h : windowRead o 8 .mgmt s = (0, logRefused s o .mgmt) := if_neg fun h => by simp [hr] at h
  rw [mgmtRead, h, hr]
  rfl

theorem mgmtWrite_performed {o : Nat} {r : Reg} {v : W64} {s : State} (hr : regAt o = some r) (hw : mayWrite s o .mgmt = true)
    (hc : ∀ c, r ≠ .ctx c 0x28) (he : r ≠ .eq 0x28) : mgmtWrite o v s = complete 0 0 (wrWin s o (written r (rdWin s o) v)) := by
  rw [mgmtWrite, winWrite_performed hr hw hc he, hr, hw]
  rfl

theorem mgmtWrite_logged {o : Nat} {r : Reg} {v : W64} {s : State} (hr : regAt o = some r) (hw : mayWrite s o .mgmt = false) :
    mgmtWrite o v s = complete 2 0 (logRefused s o .mgmt) := by
  rw [mgmtWrite, winWrite_logged hr hw, hr, hw]
  rfl

theorem setOwner_identity (v : Nat) (s : State) : setOwner 0 v s = complete 2 0 s := if_pos rfl

theorem isBlockBase_ne_zero {o : Nat} (h : isBlockBase o = true) : o ≠ 0 := by
  rintro rfl
  exact absurd h (by decide)

theorem setOwner_block {o v : Nat} {s : State} (h : isBlockBase o = true) :
    setOwner o v s = complete 0 0 (wrWin s (blkctlOff o) (BitVec.ofNat 64 v)) := by
  rw [setOwner, if_neg (isBlockBase_ne_zero h), if_pos h]

theorem setOwner_other {o v : Nat} {s : State} (h : isBlockBase o = false) (h0 : o ≠ 0) : setOwner o v s = complete 1 0 s := by
  rw [setOwner, if_neg h0, h]
  rfl

theorem ownerOf_wrWin {o : Nat} (h : o ≠ 0) (v : W64) (s : State) :
    ownerOf (wrWin s (blkctlOff o) v) o = if bit v 0 then .mgmt else .host := by
  rw [ownerOf, if_neg h, rdWin_wrWin, if_pos rfl]

/-- What TELEM answers: temperatures, powers and clocks of the 42 dies, and EQSTAT (R325). -/
def telemetryOf (s : State) : List W64 :=
  let field (lo n : Nat) := (List.range 42).map (fun d => BitVec.ofNat 64 (fld (rdWin s (pstateReg d)) lo n))
  field 24 8 ++ field 32 32 ++ field 0 16 ++ [rdWin s eqStat]

theorem telemetry_eq (s : State) : telemetry s = { s with outputs := s.outputs ++ [.telem (telemetryOf s), .code 0 0] } := by
  have h : telemetry s = complete 0 0 (emit (.telem (telemetryOf s)) s) := rfl
  simp [h, complete, emit]

theorem length_telemetryOf (s : State) : (telemetryOf s).length = 127 := by simp [telemetryOf]

theorem telemetryOf_die (s : State) {d : Nat} (hd : d < 42) :
    (telemetryOf s).getD d 0 = BitVec.ofNat 64 (fld (rdWin s (pstateReg d)) 24 8) ∧
    (telemetryOf s).getD (42 + d) 0 = BitVec.ofNat 64 (fld (rdWin s (pstateReg d)) 32 32) ∧
    (telemetryOf s).getD (84 + d) 0 = BitVec.ofNat 64 (fld (rdWin s (pstateReg d)) 0 16) := by
  have h1 : 42 + d - 42 = d := by omega
  have h2 : 84 + d - 42 - 42 = d := by omega
  refine ⟨?_, ?_, ?_⟩ <;>
    simp (disch := grind) only [telemetryOf, List.getD_eq_getElem?_getD, List.append_assoc, List.getElem?_append_left,
      List.getElem?_append_right, List.length_map, List.length_range, h1, h2, List.getElem?_map, List.getElem?_range hd, Option.map_some,
      Option.getD_some]

theorem telemetryOf_eqStat (s : State) : (telemetryOf s).getD 126 0 = rdWin s eqStat := by
  simp [telemetryOf, List.getD_eq_getElem?_getD]

/-! Sparing (R329, R330, Table 10-8). -/

theorem spheadOff_ne_splogReg (i : Nat) : spheadOff ≠ splogReg i := by unfold spheadOff splogReg; omega

theorem rdWin_logSpare (unit action place : Nat) (s : State) (x : Nat) : rdWin (logSpare unit action place s) x =
    let n := (rdWin s spheadOff).toNat
    if spheadOff = x then BitVec.ofNat 64 (n + 1)
    else if splogReg (2 * (n % 256) + 1) = x then BitVec.ofNat 64 place
    else if splogReg (2 * (n % 256)) = x then BitVec.ofNat 64 (unit + action * 2 ^ 32) else rdWin s x := by
  simp only [logSpare, rdWin_wrWin]

theorem logSpare_rowCopies (unit action place : Nat) (s : State) : (logSpare unit action place s).rowCopies = s.rowCopies := by
  rw [logSpare, wrWin_rowCopies, wrWin_rowCopies, wrWin_rowCopies]

theorem logSpare_lostWays (unit action place : Nat) (s : State) : (logSpare unit action place s).lostWays = s.lostWays := by
  rw [logSpare, wrWin_lostWays, wrWin_lostWays, wrWin_lostWays]

/-- A register outside the sparing log stays as it is. -/
theorem rdWin_logSpare_other {x : Nat} (h : x < splogReg 0 ∨ splogReg 512 ≤ x) (hx : spheadOff ≠ x) (unit action place : Nat) (s : State) :
    rdWin (logSpare unit action place s) x = rdWin s x := by
  have hn := Nat.mod_lt (rdWin s spheadOff).toNat (show 0 < 256 by decide)
  unfold splogReg at h
  rw [rdWin_logSpare]
  dsimp only
  rw [if_neg hx, if_neg (by unfold splogReg; omega), if_neg (by unfold splogReg; omega)]

/-- The entry that is appended to the log. -/
theorem logSpare_entry (unit action place : Nat) (s : State) :
    let n := (rdWin s spheadOff).toNat % 256
    rdWin (logSpare unit action place s) spheadOff = rdWin s spheadOff + 1 ∧
    rdWin (logSpare unit action place s) (splogReg (2 * n)) = BitVec.ofNat 64 (unit + action * 2 ^ 32) ∧
    rdWin (logSpare unit action place s) (splogReg (2 * n + 1)) = BitVec.ofNat 64 place := by
  refine ⟨?_, ?_, ?_⟩
  · rw [rdWin_logSpare, if_pos rfl, BitVec.ofNat_add, BitVec.ofNat_toNat, BitVec.setWidth_eq]
    rfl
  · rw [rdWin_logSpare]
    dsimp only
    rw [if_neg (spheadOff_ne_splogReg _), if_neg (by unfold splogReg; omega), if_pos rfl]
  · rw [rdWin_logSpare]
    dsimp only
    rw [if_neg (spheadOff_ne_splogReg _), if_pos rfl]

theorem rdWin_fenceCore (core : Nat) (s : State) (x : Nat) : rdWin (fenceCore core s) x =
    if cfenceReg (core / 48) = x then rdWin s (cfenceReg (core / 48)) ||| (1#64 <<< (core % 48)) else rdWin s x :=
  rdWin_wrWin s _ x _

theorem evictLine_lostWays (s : State) (h : HomeLine) : (evictLine s h).lostWays = s.lostWays := by
  simp only [evictLine, dropTags, putMarks]
  repeat' split
  all_goals rfl

/-- The frame is added to those that are disabled. -/
theorem loseWay_lostWays (md line : Nat) (s : State) : (loseWay md line s).lostWays = s.lostWays ++ [(md, line % 32768)] := by
  unfold loseWay
  dsimp only
  split
  · rw [bump, evictLine_lostWays]
  · rfl

/-- LAST of a unit is set (R329). -/
def lastSet (unit : Nat) (s : State) : State := wrWin s (cecReg unit) (setFld (rdWin s (cecReg unit)) 48 1 1)

theorem rdWin_lastSet_other {unit x : Nat} (h : cecReg unit ≠ x) (s : State) : rdWin (lastSet unit s) x = rdWin s x := by
  rw [lastSet, rdWin_wrWin, if_neg h]

theorem bit_lastSet (unit : Nat) (s : State) : bit (rdWin (lastSet unit s) (cecReg unit)) 48 = true := by
  rw [lastSet, rdWin_wrWin, if_pos rfl, bit_setFld (by decide)]
  rfl

theorem spareUnit_eq (u place : Nat) (s : State) : spareUnit u place s = spareAction u place (lastSet u s) := rfl

theorem spareUnit_core {u : Nat} (h : u < 384) (place : Nat) (s : State) :
    spareUnit u place s = logSpare u 0 place (fenceCore u (lastSet u s)) := by
  rw [spareUnit_eq, spareAction, if_pos h]

/-- The core is fenced, and the action logged. -/
theorem spareUnit_core_fences {u : Nat} (h : u < 384) (place : Nat) (s : State) :
    fenced (spareUnit u place s) u = true ∧ bit (rdWin (spareUnit u place s) (cecReg u)) 48 = true ∧
    rdWin (spareUnit u place s) spheadOff = rdWin s spheadOff + 1 ∧
    rdWin (spareUnit u place s) (splogReg (2 * ((rdWin s spheadOff).toNat % 256))) = BitVec.ofNat 64 u ∧
    rdWin (spareUnit u place s) (splogReg (2 * ((rdWin s spheadOff).toNat % 256) + 1)) = BitVec.ofNat 64 place := by
  have hcec : cfenceReg (u / 48) ≠ cecReg u := by unfold cfenceReg cecReg; omega
  have hhead : rdWin (fenceCore u (lastSet u s)) spheadOff = rdWin s spheadOff := by
    rw [rdWin_fenceCore, if_neg (by unfold cfenceReg spheadOff; omega), rdWin_lastSet_other (by unfold cecReg spheadOff; omega)]
  have hlog := logSpare_entry u 0 place (fenceCore u (lastSet u s))
  rw [hhead, Nat.zero_mul, Nat.add_zero] at hlog
  rw [spareUnit_core h]
  refine ⟨?_, ?_, hlog⟩
  · rw [fenced, rdWin_logSpare_other (.inl (by unfold cfenceReg splogReg; omega)) (by unfold cfenceReg spheadOff; omega), rdWin_fenceCore,
      if_pos rfl, bit_or_shift (by omega), decide_eq_true rfl, Bool.or_true]
  · rw [rdWin_logSpare_other (.inl (by unfold cecReg splogReg; omega)) (by unfold cecReg spheadOff; omega), rdWin_fenceCore, if_neg hcec,
      bit_lastSet]

theorem spareUnit_row {u place : Nat} {s : State} (h : 384 ≤ u) (h' : u < 416)
    (hn : cget (fun _ => 0) s.spareRows ((u - 384) * 2 ^ 20 + place / 2 ^ 20) < 8) :
    (spareUnit u place s).rowCopies = s.rowCopies ++ [(u - 384, place)] := by
  have hrows : (lastSet u s).spareRows = s.spareRows := wrWin_spareRows s (cecReg u) _
  have hcopies : (lastSet u s).rowCopies = s.rowCopies := wrWin_rowCopies s (cecReg u) _
  rw [spareUnit_eq, spareAction, if_neg (by omega), if_pos h']
  dsimp only
  rw [hrows, hcopies, if_pos hn, logSpare_rowCopies]

theorem spareUnit_frame {u : Nat} (h : 416 ≤ u) (h' : u < 448) (place : Nat) (s : State) :
    (spareUnit u place s).lostWays = s.lostWays ++ [(u - 416, place % 32768)] := by
  rw [spareUnit_eq, spareAction, if_neg (by omega), if_neg (by omega), if_pos h', logSpare_lostWays, loseWay_lostWays, lastSet, wrWin_lostWays]

theorem fld_degradePort (p : Nat) (s : State) : fld (rdWin (degradePort p s) (pstatReg p)) 0 2 =
    if fld (rdWin s (pstatReg p)) 0 2 = 2 then 1 else 0 := by
  rw [degradePort, rdWin_wrWin, if_pos rfl, fld_setFld_same (by decide)]
  split <;> rfl

theorem spareUnit_port {u : Nat} (h : 448 ≤ u) (h' : u < 576) (place : Nat) (s : State) :
    fld (rdWin (spareUnit u place s) (pstatReg (u - 448))) 0 2 = if fld (rdWin s (pstatReg (u - 448))) 0 2 = 2 then 1 else 0 := by
  have hs : spareUnit u place s = logSpare u 3 place (degradePort (u - 448) (lastSet u s)) := by
    rw [spareUnit_eq, spareAction, if_neg (by omega), if_neg (by omega), if_neg (by omega)]
  rw [hs, rdWin_logSpare_other (.inl (by unfold pstatReg fabBase splogReg relBase; omega)) (by unfold spheadOff relBase pstatReg fabBase; omega),
    fld_degradePort, rdWin_lastSet_other (by unfold cecReg relBase pstatReg fabBase; omega)]

theorem actionOf_core {u : Nat} (h : u < 384) : actionOf u = 0 := if_pos h

theorem actionOf_row {u : Nat} (h : 384 ≤ u) (h' : u < 416) : actionOf u = 1 := by
  rw [actionOf, if_neg (by omega), if_pos h']

theorem actionOf_frame {u : Nat} (h : 416 ≤ u) (h' : u < 448) : actionOf u = 2 := by
  rw [actionOf, if_neg (by omega), if_neg (by omega), if_pos h']

theorem actionOf_port {u : Nat} (h : 448 ≤ u) : actionOf u = 3 := by
  rw [actionOf, if_neg (by omega), if_neg (by omega), if_neg (by omega)]

/-- A forced action that is the unit's runs at the place of its last correction (R325). -/
theorem spare_happens {u a : Nat} (h : u < 576) (ha : actionOf u = a) (s : State) :
    Happens (.spare u a) s (complete 0 0 (spareUnit u (cget (fun _ => 0) s.lastFix u) s)) :=
  happens_of_event rfl (if_pos ⟨h, ha.symm⟩)

theorem rdWin_endWindow_other {u x : Nat} (h : x ≠ cecReg u) (s : State) : rdWin (endWindow u s) x = rdWin s x := by
  rw [endWindow, rdWin_wrWin, if_neg h.symm]

theorem rdWin_endWindow (u : Nat) (s : State) : rdWin (endWindow u s) (cecReg u) = setFld (rdWin s (cecReg u)) 0 32 0 := by
  rw [endWindow, rdWin_wrWin, if_pos rfl]

/-! Links (R315, R330). -/

/-- Of a list in falling order the greatest setting within a limit is taken. -/
theorem bestOf_greatest {l : List Nat} {limit x : Nat} (hl : l.Pairwise (· > ·)) (hx : x ∈ l) (hle : x ≤ limit) :
    bestOf l limit ∈ l ∧ bestOf l limit ≤ limit ∧ ∀ y ∈ l, y ≤ limit → y ≤ bestOf l limit := by
  induction l with
  | nil => exact absurd hx List.not_mem_nil
  | cons a r ih =>
    obtain ⟨ha, hr⟩ := List.pairwise_cons.mp hl
    by_cases h : a ≤ limit
    · have hb : bestOf (a :: r) limit = a := by rw [bestOf, List.find?_cons_of_pos (by simpa using h), Option.getD_some]
      rw [hb]
      refine ⟨List.mem_cons_self, h, fun y hy _ => ?_⟩
      rcases List.mem_cons.mp hy with rfl | hy
      · exact le_refl _
      · exact (ha y hy).le
    · have hb : bestOf (a :: r) limit = bestOf r limit := by rw [bestOf, List.find?_cons_of_neg (by simpa using h), bestOf]
      have hxr : x ∈ r := (List.mem_cons.mp hx).resolve_left fun e => h (e ▸ hle)
      obtain ⟨hm, hlim, hbest⟩ := ih hr hxr
      rw [hb]
      refine ⟨List.mem_cons_of_mem a hm, hlim, fun y hy hyl => ?_⟩
      rcases List.mem_cons.mp hy with rfl | hy
      · exact absurd hyl h
      · exact hbest y hy hyl

theorem bestOf_none {l : List Nat} {limit : Nat} (h : ∀ x ∈ l, limit < x) : bestOf l limit = 0 := by
  rw [bestOf, List.find?_eq_none.mpr fun x hx => by simpa using h x hx, Option.getD_none]

/-- The link trains to the best common width and rate. -/
theorem trainHost_common {w r : Nat} (hw : 4 ≤ w) (hr : 32 ≤ r) (s : State) :
    trainHost w r s = { s with hostLink := (bestOf [16, 8, 4] w, bestOf [128, 64, 32] r) } := by
  have ha : 4 ≤ bestOf [16, 8, 4] w := (bestOf_greatest (by decide) (by decide) hw).2.2 4 (by decide) hw
  have hb : 32 ≤ bestOf [128, 64, 32] r := (bestOf_greatest (by decide) (by decide) hr).2.2 32 (by decide) hr
  simp only [trainHost, if_neg (show ¬ (bestOf [16, 8, 4] w = 0 ∨ bestOf [128, 64, 32] r = 0) by omega)]

/-- Without a common width or rate it does not train. -/
theorem trainHost_none {w r : Nat} (h : w < 4 ∨ r < 32) (s : State) : trainHost w r s = { s with hostLink := (0, 0) } := by
  have hz : bestOf [16, 8, 4] w = 0 ∨ bestOf [128, 64, 32] r = 0 :=
    h.imp (fun hw => bestOf_none (by simp; omega)) (fun hr => bestOf_none (by simp; omega))
  simp only [trainHost, if_pos hz]

end Sys2Proof.Proofs
end

section
/-! PROOF. What a reset of dies leaves (R326): the reset of one die brings nothing back that another has cleared, so each die of the mask is
found empty at the end. -/

namespace Sys2Proof.Proofs

open Sys2Proof.Machine Sys2Proof.Safety Sys2Proof.Laws

/-! Resets bring nothing back. -/

/-- From `s` to `t` translations, passes, bins, home-cache lines, counters, cached words and the contexts of live groups only go, and the power
block of the window stays as it is. -/
structure Quiets (s t : State) : Prop where
  tlb : ∀ e ∈ t.tlb, e ∈ s.tlb
  passes : ∀ p ∈ t.passes, p ∈ s.passes
  bins : ∀ b ∈ t.bins, b ∈ s.bins
  lines : ∀ h ∈ t.lines, h ∈ s.lines
  cyc : ∀ c, cget zero s.cyc c = 0 → cget zero t.cyc c = 0
  l1 : ∀ k, cget (fun _ => none) s.l1 k = none → cget (fun _ => none) t.l1 k = none
  icache : ∀ k, cget (fun _ => none) s.icache k = none → cget (fun _ => none) t.icache k = none
  groups : ∀ g ∈ allGroups t, g.live = true → ∃ h ∈ allGroups s, h.live = true ∧ h.ctx = g.ctx
  power : ∀ x, powBase ≤ x → rdWin t x = rdWin s x

/-- The fields that a reset of dies empties or keeps. -/
def watched (s : State) : List TlbEntry × List Pass × List Bin × List HomeLine × Cells W64 × Cells (Option L1Word) × Cells (Option W32) ×
    List Group × Cells W64 :=
  (s.tlb, s.passes, s.bins, s.lines, s.cyc, s.l1, s.icache, allGroups s, s.win)

/-- What changes none of these fields brings nothing back. -/
theorem quiets_of_watched {s t : State} (h : watched t = watched s) : Quiets s t := by
  simp only [watched, Prod.mk.injEq] at h
  obtain ⟨htlb, hpass, hbin, hline, hcyc, hl1, hic, hgroups, hwin⟩ := h
  exact ⟨fun _ he => htlb ▸ he, fun _ hp => hpass ▸ hp, fun _ hb => hbin ▸ hb, fun _ hx => hline ▸ hx, fun _ hc => hcyc ▸ hc,
    fun _ hk => hl1 ▸ hk, fun _ hk => hic ▸ hk, fun g hg hl => ⟨g, hgroups ▸ hg, hl, rfl⟩, fun x _ => rdWin_congr hwin x⟩

theorem quiets_refl (s : State) : Quiets s s := quiets_of_watched rfl

theorem quiets_trans {a b c : State} (h : Quiets a b) (k : Quiets b c) : Quiets a c where
  tlb := fun e he => h.tlb e (k.tlb e he)
  passes := fun p hp => h.passes p (k.passes p hp)
  bins := fun b hb => h.bins b (k.bins b hb)
  lines := fun x hx => h.lines x (k.lines x hx)
  cyc := fun n hn => k.cyc n (h.cyc n hn)
  l1 := fun n hn => k.l1 n (h.l1 n hn)
  icache := fun n hn => k.icache n (h.icache n hn)
  groups := fun g hg hl => by
    obtain ⟨x, hx, hxl, hxc⟩ := k.groups g hg hl
    obtain ⟨y, hy, hyl, hyc⟩ := h.groups x hx hxl
    exact ⟨y, hy, hyl, hyc.trans hxc⟩
  power := fun x hx => (k.power x hx).trans (h.power x hx)

theorem quiets_foldl {α : Type} {f : State → α → State} {l : List α} (h : ∀ a, ∀ x ∈ l, Quiets a (f a x)) (s : State) :
    Quiets s (l.foldl f s) := by
  induction l generalizing s with
  | nil => exact quiets_refl s
  | cons x r ih =>
    exact quiets_trans (h s x List.mem_cons_self) (ih (fun a y hy => h a y (List.mem_cons_of_mem x hy)) (f s x))

theorem quiets_ite {s a b : State} {p : Prop} [Decidable p] (ha : p → Quiets s a) (hb : ¬ p → Quiets s b) : Quiets s (if p then a else b) := by
  split
  · exact ha ‹_›
  · exact hb ‹_›

theorem quiets_wrWin {o : Nat} (h : o < powBase) (v : W64) (s : State) : Quiets s (wrWin s o v) :=
  ⟨fun _ => id, fun _ => id, fun _ => id, fun _ => id, fun _ => id, fun _ => id, fun _ => id,
    fun g hg hl => ⟨g, hg, hl, rfl⟩, fun x hx => (rdWin_wrWin s o x v).trans (if_neg (by omega))⟩

theorem quiets_mapGroups {f : Group → Group} (hl : ∀ g, (f g).live = g.live) (hc : ∀ g, (f g).ctx = g.ctx) (s : State) :
    Quiets s (mapGroups f s) where
  tlb := fun _ => id
  passes := fun _ => id
  bins := fun _ => id
  lines := fun _ => id
  cyc := fun _ => id
  l1 := fun _ => id
  icache := fun _ => id
  groups := fun g hg hlive => by
    obtain ⟨h, hh, rfl⟩ := mem_mapGroups.mp hg
    exact ⟨h, hh, (hl h).symm.trans hlive, (hc h).symm⟩
  power := fun _ _ => rfl

/-! Kills. -/

theorem quiets_disableQueues (c : Nat) (s : State) : Quiets s (disableQueues s c) := by
  rw [disableQueues_eq]
  refine quiets_foldl (fun a n hn => ?_) s
  have hn := List.mem_range.mp hn
  exact quiets_ite (fun _ => quiets_wrWin (by unfold queueReg schedBase powBase; omega) _ a) (fun _ => quiets_refl a)

theorem quiets_killWork (c : Nat) (s : State) : Quiets s (killWork c s) where
  tlb := fun _ he => killPanels_keeps (·.tlb) (fun _ _ => rfl) (ctxPanels c s) s ▸ he
  passes := fun _ hp => List.mem_of_mem_filter (killWork_passes c s ▸ hp)
  bins := fun _ hb => killPanels_bins_sub (mem_killWork_bins.mp hb).1
  lines := fun _ hx => killPanels_keeps (·.lines) (fun _ _ => rfl) (ctxPanels c s) s ▸ hx
  cyc := fun n hn => (congrArg (fun m => cget zero m n) (killPanels_keeps (·.cyc) (fun _ _ => rfl) (ctxPanels c s) s)).trans hn
  l1 := fun k hk => (congrArg (fun m => cget (fun _ => none) m k) (killPanels_keeps (·.l1) (fun _ _ => rfl) (ctxPanels c s) s)).trans hk
  icache := fun k hk =>
    (congrArg (fun m => cget (fun _ => none) m k) (killPanels_keeps (·.icache) (fun _ _ => rfl) (ctxPanels c s) s)).trans hk
  groups := fun g hg hl => ⟨g, ((killWork_allGroups hl).mp hg).1, hl, rfl⟩
  power := fun x _ => rdWin_congr (killPanels_keeps (·.win) (fun _ _ => rfl) (ctxPanels c s) s) x

theorem quiets_killCtx (c : Nat) (s : State) : Quiets s (killCtx c s) :=
  killCtx_eq c s ▸ quiets_trans (quiets_killWork c s) (quiets_disableQueues c _)

theorem quiets_ctxKillNow {c : Nat} (hc : c < 16) (s : State) : Quiets s (ctxKillNow c s) := by
  have hs : Quiets s { s with snapped := s.snapped.filter (fun x => x != c) } := quiets_of_watched rfl
  refine quiets_trans (quiets_trans hs (quiets_killCtx c _)) (quiets_wrWin ?_ _ _)
  unfold ctxReg schedBase powBase
  omega

theorem mem_workers {c d : Nat} {s : State} : c ∈ (List.range 16).filter (fun c => worksOn s c d) ↔ c < 16 ∧ worksOn s c d = true := by
  rw [List.mem_filter, List.mem_range]

theorem quiets_killWorkers (d : Nat) (s : State) : Quiets s (killWorkers d s) :=
  quiets_foldl (fun a _ hc => quiets_ctxKillNow (mem_workers.mp hc).1 a) s

/-! The reset of a die. -/

theorem quiets_clearCounts {l : List Nat} (h : ∀ u ∈ l, u < 576) (s : State) : Quiets s (clearCounts l s) := by
  refine quiets_foldl (fun a u hu => quiets_wrWin ?_ _ a) s
  have hu := h u hu
  unfold cecReg relBase powBase
  omega

/-- A compute die once its contexts are killed and its counts cleared (R326). -/
def haltedDie (d : Nat) (s : State) : State := clearCounts ((List.range 48).map (fun j => 48 * d + j)) (killWorkers d s)

theorem quiets_haltedDie {d : Nat} (hd : d < 8) (s : State) : Quiets s (haltedDie d s) := by
  refine quiets_trans (quiets_killWorkers d s) (quiets_clearCounts (fun u hu => ?_) _)
  obtain ⟨j, hj, rfl⟩ := List.mem_map.mp hu
  have hj := List.mem_range.mp hj
  omega

/-- A key that reads as unlisted reads so when entries have been dropped. -/
theorem cget_ckeep_default {α : Type} {d : Nat → α} {m : Cells α} {k : Nat} (p : Nat → Bool) (h : cget d m k = d k) :
    cget d (ckeep p m) k = d k := by
  rw [cget_ckeep, h, ite_self]

theorem cget_ckeep_dropped {α : Type} {d : Nat → α} {p : Nat → Bool} {k : Nat} (m : Cells α) (h : p k = false) :
    cget d (ckeep p m) k = d k := by
  rw [cget_ckeep, h]
  rfl

/-- A compute die whose translations, cached words, bins and passes are gone, before reservations elsewhere of its slots go (R326, log 112). -/
def clearedDie (d : Nat) (t : State) : State :=
  { t with
    cyc := ckeep (fun c => !(c / 48 == d)) t.cyc
    l1 := ckeep (fun k => !(l1Cluster k * 4 / 48 == d)) t.l1
    tlb := t.tlb.filter (fun e => !(e.core / 48 == d))
    icache := ckeep (fun k => !(k / 2 ^ 62 / 48 == d)) t.icache
    bins := t.bins.filter (fun b => b.die != d)
    formed := t.formed.filter (fun f => f.die != d)
    passes := t.passes.filter (fun p => p.die != d)
    spnbase := ckeep (fun x => x != d) t.spnbase
    spnsize := ckeep (fun x => x != d) t.spnsize
    spntmo := ckeep (fun x => x != d) t.spntmo }

/-- A group without its reservations on a die. -/
def withoutDie (d : Nat) (g : Group) : Group := { g with reserved := g.reserved.filter (fun r => r.die != d) }

theorem resetCompute_eq (d : Nat) (s : State) : resetCompute d s = mapGroups (withoutDie d) (clearedDie d (haltedDie d s)) := rfl

theorem quiets_clearedDie (d : Nat) (t : State) : Quiets t (clearedDie d t) :=
  ⟨fun _ => List.mem_of_mem_filter, fun _ => List.mem_of_mem_filter, fun _ => List.mem_of_mem_filter, fun _ => id,
    fun _ => cget_ckeep_default (d := zero) _, fun _ => cget_ckeep_default (d := fun _ => none) _,
    fun _ => cget_ckeep_default (d := fun _ => none) _,
    fun g hg hl => ⟨g, hg, hl, rfl⟩, fun _ _ => rfl⟩

theorem quiets_withoutDie (d : Nat) (t : State) : Quiets t (mapGroups (withoutDie d) t) :=
  quiets_mapGroups (f := withoutDie d) (fun _ => rfl) (fun _ => rfl) t

theorem quiets_resetCompute {d : Nat} (hd : d < 8) (s : State) : Quiets s (resetCompute d s) :=
  resetCompute_eq d s ▸ quiets_trans (quiets_haltedDie hd s) (quiets_trans (quiets_clearedDie d _) (quiets_withoutDie d _))

theorem quiets_wbs (s : State) (k : Nat) (bs : List Byte) : Quiets s (wbs s k bs) := by
  induction bs generalizing s k with
  | nil => exact quiets_refl s
  | cons b r ih => exact quiets_trans (b := wb s k b) (quiets_of_watched rfl) (ih _ _)

theorem quiets_putMarks (s : State) (md off : Nat) (l : List Nat) : Quiets s (putMarks s md off l) :=
  quiets_ite (fun _ => quiets_refl s) (fun _ => quiets_of_watched rfl)

theorem quiets_dropTags (s : State) (md off : Nat) : Quiets s (dropTags s md off) :=
  quiets_of_watched rfl

theorem quiets_loseAsker (a : Asker) (s : State) : Quiets s (loseAsker a s) :=
  quiets_ite (fun _ => quiets_refl s) (fun _ => quiets_of_watched rfl)

/-- Requests of groups and of engine commands are marked as lost. -/
theorem quiets_lost {f : Group → Group} (hl : ∀ g, (f g).live = g.live) (hc : ∀ g, (f g).ctx = g.ctx) (cmds : List Cmd) (s : State) :
    Quiets s (bump (mapGroups f { s with cmds := cmds })) := by
  have hs : Quiets s { s with cmds := cmds } := quiets_of_watched rfl
  exact quiets_trans (quiets_trans hs (quiets_mapGroups hl hc _)) (quiets_of_watched rfl)

theorem quiets_loseToward (md : Nat) (s : State) : Quiets s (loseToward md s) := by
  unfold loseToward
  extract_lets at_ chance toward gone scans s1
  have h1 : Quiets s s1 := quiets_foldl (fun a g _ => quiets_loseAsker (.arrays g.id) a) s
  exact quiets_trans h1 (quiets_lost (by exact fun _ => rfl) (by exact fun _ => rfl) _ s1)

/-- The HBM copy beneath a line that a reset discards, with its own poison and no owner tags (R326, R460). -/
def discardLine (md : Nat) (s : State) (h : HomeLine) : State :=
  dropTags (putMarks (match h.old with | some bs => wbs s (hbmKey md (h.off * 128)) bs | none => s) md h.off h.marks) md h.off

theorem quiets_discardLine (md : Nat) (s : State) (h : HomeLine) : Quiets s (discardLine md s h) := by
  refine quiets_trans (quiets_trans ?_ (quiets_putMarks _ md h.off h.marks)) (quiets_dropTags _ md h.off)
  split
  · exact quiets_wbs s _ _
  · exact quiets_refl s

/-- A memory-side die whose lines are discarded, before they leave the list. -/
def discardedDie (md : Nat) (s : State) : State :=
  let t := clearCounts [384 + md, 416 + md] (loseToward md s)
  (t.lines.filter (fun h => h.md == md)).foldl (discardLine md) t

theorem resetMemory_eq (md : Nat) (s : State) :
    resetMemory md s = { discardedDie md s with lines := (discardedDie md s).lines.filter (fun h => h.md != md) } := rfl

theorem quiets_resetMemory {md : Nat} (h : md < 32) (s : State) : Quiets s (resetMemory md s) := by
  have hu : ∀ u ∈ [384 + md, 416 + md], u < 576 := by simp; omega
  refine quiets_trans (b := discardedDie md s) ?_ ?_
  · exact quiets_trans (quiets_trans (quiets_loseToward md s) (quiets_clearCounts hu _)) (quiets_foldl (fun a x _ => quiets_discardLine md a x) _)
  · rw [resetMemory_eq]
    exact ⟨fun _ => id, fun _ => id, fun _ => id, fun _ => List.mem_of_mem_filter, fun _ => id, fun _ => id, fun _ => id,
      fun g hg hl => ⟨g, hg, hl, rfl⟩, fun _ _ => rfl⟩

theorem quiets_dropTlb (p : TlbEntry → Bool) (s : State) : Quiets s { s with tlb := s.tlb.filter p } :=
  ⟨fun _ => List.mem_of_mem_filter, fun _ => id, fun _ => id, fun _ => id, fun _ => id, fun _ => id, fun _ => id,
    fun g hg hl => ⟨g, hg, hl, rfl⟩, fun _ _ => rfl⟩

theorem quiets_resetIod1 (s : State) : Quiets s (resetIod1 s) := by
  refine quiets_trans (quiets_trans (quiets_dropTlb _ s) (quiets_clearCounts (fun u hu => ?_) _))
    (quiets_foldl (fun a p hp => quiets_wrWin ?_ 0 a) _)
  · obtain ⟨p, hp, rfl⟩ := List.mem_map.mp hu
    have hp := List.mem_range.mp hp
    omega
  · have hp := List.mem_range.mp hp
    unfold pstatReg fabBase powBase
    omega

theorem quiets_resetDie (d : Nat) (s : State) : Quiets s (resetDie d s) :=
  quiets_ite (fun h => quiets_resetCompute h s) fun h => quiets_ite (fun _ => quiets_resetMemory (by omega) s) fun _ =>
    quiets_ite (fun _ => quiets_resetIod1 s) (fun _ => quiets_refl s)

/-! What is empty after a reset stays so. -/

/-- Nothing of a compute die is left in translations, passes, bins, counters, L1s and instruction caches. -/
def DieEmpty (d : Nat) (t : State) : Prop :=
  (∀ e ∈ t.tlb, e.core / 48 ≠ d) ∧ (∀ p ∈ t.passes, p.die ≠ d) ∧ (∀ b ∈ t.bins, b.die ≠ d) ∧ (∀ c, c / 48 = d → cget zero t.cyc c = 0) ∧
  (∀ cl line i, cl / 12 = d → line < 2 ^ 48 → i < 32 → l1Get t cl line i = none) ∧
  (∀ core k, core / 48 = d → k < 2 ^ 64 → cget (fun _ => none) t.icache (icKey core k) = none)

/-- No line of a home cache is left. -/
def HomeEmpty (n : Nat) (t : State) : Prop := ∀ h ∈ t.lines, h.md ≠ n

/-- No live group of a context is left. -/
def CtxGone (c : Nat) (t : State) : Prop := ∀ g ∈ allGroups t, g.live = true → g.ctx ≠ c

section Quiet

variable {s t : State} (h : Quiets s t)
include h

theorem dieEmpty_of_quiets {d : Nat} (hs : DieEmpty d s) : DieEmpty d t := by
  obtain ⟨htlb, hpass, hbin, hcyc, hl1, hic⟩ := hs
  exact ⟨fun e he => htlb e (h.tlb e he), fun p hp => hpass p (h.passes p hp), fun b hb => hbin b (h.bins b hb), fun c hc => h.cyc c (hcyc c hc),
    fun cl line i hcl hline hi => h.l1 _ (hl1 cl line i hcl hline hi), fun core k hcore hk => h.icache _ (hic core k hcore hk)⟩

theorem homeEmpty_of_quiets {n : Nat} (hs : HomeEmpty n s) : HomeEmpty n t := fun x hx => hs x (h.lines x hx)

theorem ctxGone_of_quiets {c : Nat} (hs : CtxGone c s) : CtxGone c t := fun g hg hl => by
  obtain ⟨x, hx, hxl, hxc⟩ := h.groups g hg hl
  exact hxc ▸ hs x hx hxl

end Quiet

theorem l1Cluster_l1Key {cl line i : Nat} (hl : line < 2 ^ 48) (hi : i < 32) : l1Cluster (l1Key cl line i) = cl := by
  unfold l1Cluster l1Key
  omega

theorem icKey_core {core k : Nat} (hk : k < 2 ^ 64) : icKey core k / 2 ^ 62 = core := by
  unfold icKey
  omega

theorem dieEmpty_resetCompute (d : Nat) (s : State) : DieEmpty d (resetCompute d s) := by
  refine ⟨fun e he => ?_, fun p hp => ?_, fun b hb => ?_, fun c hc => ?_, fun cl line i hcl hline hi => ?_, fun core k hcore hk => ?_⟩
  · simpa using (List.mem_filter.mp he).2
  · simpa using (List.mem_filter.mp hp).2
  · simpa using (List.mem_filter.mp hb).2
  · exact cget_ckeep_dropped (d := zero) (haltedDie d s).cyc (by simp [hc])
  · refine cget_ckeep_dropped (d := fun _ => none) (haltedDie d s).l1 ?_
    have hd : cl * 4 / 48 = d := by omega
    simp [l1Cluster_l1Key hline hi, hd]
  · refine cget_ckeep_dropped (d := fun _ => none) (haltedDie d s).icache ?_
    rw [icKey_core hk]
    simp [hcore]

theorem homeEmpty_resetMemory (n : Nat) (s : State) : HomeEmpty n (resetMemory n s) := fun h hh => by
  rw [resetMemory_eq] at hh
  simpa using (List.mem_filter.mp hh).2

/-- A property that every step keeps, and one step of the run makes true, holds at the end. -/
theorem foldl_establishes {α β : Type} {f : β → α → β} {P : β → Prop} {l : List α} {x : α} (hx : x ∈ l)
    (hk : ∀ a, ∀ y ∈ l, P a → P (f a y)) (he : ∀ a, P (f a x)) (b : β) : P (l.foldl f b) := by
  obtain ⟨l1, l2, rfl⟩ := List.append_of_mem hx
  rw [List.foldl_append, List.foldl_cons]
  exact List.foldlRecOn l2 f (he _) (fun a ha y hy => hk a y (List.mem_append_right l1 (List.mem_cons_of_mem x hy)) ha)

/-- The contexts that work on a compute die are killed with its reset (R326). -/
theorem ctxGone_resetCompute {d c : Nat} (hd : d < 8) (hc : c < 16) {s : State} (hw : worksOn s c d = true) : CtxGone c (resetCompute d s) := by
  have hk : CtxGone c (killWorkers d s) := foldl_establishes (P := CtxGone c) (mem_workers.mpr ⟨hc, hw⟩)
    (fun a _ hy => ctxGone_of_quiets (quiets_ctxKillNow (mem_workers.mp hy).1 a)) (fun a => (ctxKillNow_leaves c a).1) s
  have hu : ∀ u ∈ (List.range 48).map (fun j => 48 * d + j), u < 576 := by simp; omega
  rw [resetCompute_eq]
  exact ctxGone_of_quiets (quiets_trans (quiets_clearCounts hu _) (quiets_trans (quiets_clearedDie d _) (quiets_withoutDie d _))) hk

/-! RESET. -/

/-- The die of R332 that bit `i` of a mask stands for. -/
def maskDie (i : Nat) : Nat := if i = 40 then 41 else i

/-- One bit of the mask of RESET. -/
def resetBit (mask : BitVec 41) (s : State) (i : Nat) : State := if mask.getLsbD i then resetDie (maskDie i) s else s

theorem resetDies_eq (mask : BitVec 41) (s : State) : resetDies mask s = (List.range 41).foldl (resetBit mask) s := rfl

theorem quiets_resetBit (mask : BitVec 41) (s : State) (i : Nat) : Quiets s (resetBit mask s i) :=
  quiets_ite (fun _ => quiets_resetDie _ s) (fun _ => quiets_refl s)

theorem resetBit_of_set {mask : BitVec 41} {i : Nat} (h : mask.getLsbD i = true) (s : State) :
    resetBit mask s i = resetDie (maskDie i) s := if_pos h

theorem resetBit_of_clear {mask : BitVec 41} {i : Nat} (h : mask.getLsbD i = false) (s : State) : resetBit mask s i = s := by
  rw [resetBit, h]
  rfl

theorem resetDie_compute {d : Nat} (h : d < 8) (s : State) : resetDie d s = resetCompute d s := if_pos h

theorem resetDie_memory {n : Nat} (h : n < 32) (s : State) : resetDie (8 + n) s = resetMemory n s := by
  rw [resetDie, if_neg (by omega), if_pos (by omega), Nat.add_sub_cancel_left]

theorem maskDie_of_lt {i : Nat} (h : i < 40) : maskDie i = i := if_neg (by omega)

theorem dieEmpty_resetDies {mask : BitVec 41} {d : Nat} (hd : d < 8) (hm : mask.getLsbD d = true) (s : State) : DieEmpty d (resetDies mask s) := by
  refine foldl_establishes (P := DieEmpty d) (List.mem_range.mpr (show d < 41 by omega))
    (fun a i _ => dieEmpty_of_quiets (quiets_resetBit mask a i)) (fun a => ?_) s
  rw [resetBit_of_set hm, maskDie_of_lt (by omega), resetDie_compute hd]
  exact dieEmpty_resetCompute d a

theorem homeEmpty_resetDies {mask : BitVec 41} {n : Nat} (hn : n < 32) (hm : mask.getLsbD (8 + n) = true) (s : State) :
    HomeEmpty n (resetDies mask s) := by
  refine foldl_establishes (P := HomeEmpty n) (List.mem_range.mpr (show 8 + n < 41 by omega))
    (fun a i _ => homeEmpty_of_quiets (quiets_resetBit mask a i)) (fun a => ?_) s
  rw [resetBit_of_set hm, maskDie_of_lt (by omega), resetDie_memory hn]
  exact homeEmpty_resetMemory n a

/-- A mask of one bit resets one die. -/
theorem resetDies_single {d : Nat} (hd : d < 40) (s : State) : resetDies (1#41 <<< d) s = resetDie d s := by
  have hbit : ∀ i, i < 41 → (1#41 <<< d).getLsbD i = decide (i = d) := fun i hi => by
    rw [BitVec.getLsbD_shiftLeft, BitVec.getLsbD_one, Bool.eq_iff_iff]
    simp
    omega
  rw [resetDies_eq]
  refine foldl_once (obs := id) (f := resetDie d) List.nodup_range (List.mem_range.mpr (show d < 41 by omega)) (fun a i hi hne => ?_)
    (fun a => ?_) s
  · exact resetBit_of_clear ((hbit i (List.mem_range.mp hi)).trans (decide_eq_false hne)) a
  · exact (resetBit_of_set ((hbit d (by omega)).trans (decide_eq_true rfl)) a).trans (by rw [maskDie_of_lt hd]; rfl)

theorem ctxGone_resetDies {mask : BitVec 41} {d c : Nat} (hd : d < 8) (hc : c < 16) (hm : mask = 1#41 <<< d) {s : State}
    (hw : worksOn s c d = true) : CtxGone c (resetDies mask s) := by
  rw [hm, resetDies_single (by omega), resetDie_compute hd]
  exact ctxGone_resetCompute hd hc hw

/-- The completion code answers, and changes nothing else. -/
theorem quiets_complete (code : Nat) (v : W64) (s : State) : Quiets s (complete code v s) := quiets_of_watched rfl

theorem reset_happens (mask : BitVec 41) (s : State) : Happens (.reset mask) s (complete 0 0 (resetDies mask s)) :=
  happens_of_event (f := fun a => complete 0 0 (resetDies mask a)) rfl rfl

end Sys2Proof.Proofs
end

section
/-! PROOF. The end of a power window (R331 to R333), the state after a power-on reset (R326), and the obligation. -/

namespace Sys2Proof.Proofs

open Sys2Proof.Machine Sys2Proof.Safety Sys2Proof.Laws

/-! PSTATE at the end of a window (Table 10-10). -/

/-- The module is over its limit, which lowers the compute dies (R331). -/
def overModule (s : State) (total d : Nat) : Bool := decide (1000 * moduleCap s < total) && decide (d < 8)

/-- A die is over its cap or hot (R331, R333). -/
def overOrHot (s : State) (mw tj d : Nat) : Bool := decide (1000 * dieCap s d < mw) || decide (95 ≤ tj)

/-- The steps of 100 MHz by which the clock of a die goes down (R331). -/
def stepsDown (s : State) (total dies mw tj d : Nat) : Nat :=
  (if overOrHot s mw tj d then 1 else 0) + (if overModule s total d then shareSteps s mw dies else 0)

/-- The clock of a die after a window. -/
def newMhz (s : State) (total dies mw tj d : Nat) : Nat :=
  let mhz := fld (rdWin s (pstateReg d)) 0 16
  if 40 ≤ d then mhz
  else if 0 < stepsDown s total dies mw tj d then max (lowestMhz d) (mhz - 100 * stepsDown s total dies mw tj d)
  else if mw * 100 < 95 * (1000 * dieCap s d) ∧ overModule s total d = false then min (nominalMhz d) (mhz + 100)
  else mhz

/-- PSTATE is made of the clock, two flags, the temperature and the power. -/
theorem powerStep_parts (s : State) (total dies mw tj d : Nat) : ∃ p t : Bool, powerStep s total dies mw tj d = BitVec.ofNat 64
    (newMhz s total dies mw tj d + (if p then 2 ^ 16 else 0) + (if t then 2 ^ 17 else 0) + min tj 255 * 2 ^ 24 + mw % 2 ^ 32 * 2 ^ 32) :=
  ⟨_, _, rfl⟩

theorem nominalMhz_le (d : Nat) : nominalMhz d ≤ 1600 := by
  unfold nominalMhz
  split
  · omega
  · split <;> omega

theorem lowestMhz_le (d : Nat) : lowestMhz d ≤ 800 := by
  unfold lowestMhz
  split <;> omega

theorem newMhz_lt (s : State) (total dies mw tj d : Nat) : newMhz s total dies mw tj d < 2 ^ 16 := by
  have hold : fld (rdWin s (pstateReg d)) 0 16 < 2 ^ 16 := Nat.mod_lt _ (Nat.two_pow_pos 16)
  have hnom := nominalMhz_le d
  have hlow := lowestMhz_le d
  unfold newMhz
  dsimp only
  split
  · exact hold
  split
  · omega
  split
  · omega
  · exact hold

theorem fld_pstate {mhz tj mw : Nat} (p t : Bool) (hm : mhz < 2 ^ 16) (ht : tj < 2 ^ 8) (hw : mw < 2 ^ 32) {v : W64}
    (hv : v = BitVec.ofNat 64 (mhz + (if p then 2 ^ 16 else 0) + (if t then 2 ^ 17 else 0) + tj * 2 ^ 24 + mw * 2 ^ 32)) :
    fld v 0 16 = mhz ∧ fld v 24 8 = tj ∧ fld v 32 32 = mw := by
  subst hv
  simp only [fld, bitsOf, BitVec.toNat_ofNat, Nat.shiftRight_eq_div_pow]
  cases p <;> cases t <;> simp only [if_true, Bool.false_eq_true, if_false] <;> omega

theorem fld_powerStep (s : State) (total dies mw tj d : Nat) :
    fld (powerStep s total dies mw tj d) 0 16 = newMhz s total dies mw tj d ∧ fld (powerStep s total dies mw tj d) 24 8 = min tj 255 ∧
    fld (powerStep s total dies mw tj d) 32 32 = mw % 2 ^ 32 := by
  obtain ⟨p, t, h⟩ := powerStep_parts s total dies mw tj d
  exact fld_pstate p t (newMhz_lt s total dies mw tj d) (by omega) (Nat.mod_lt _ (Nat.two_pow_pos 32)) h

section Clock

variable {s : State} {total dies mw tj d : Nat}

theorem newMhz_ioDie (h : 40 ≤ d) : newMhz s total dies mw tj d = fld (rdWin s (pstateReg d)) 0 16 := if_pos h

theorem newMhz_lowered (hd : d < 40) (h : 0 < stepsDown s total dies mw tj d) : newMhz s total dies mw tj d =
    max (lowestMhz d) (fld (rdWin s (pstateReg d)) 0 16 - 100 * stepsDown s total dies mw tj d) :=
  (if_neg (by omega)).trans (if_pos h)

/-- Within the limit of the module a die that is over its cap or hot goes down by one step. -/
theorem stepsDown_own (ht : total ≤ 1000 * moduleCap s) (h : 1000 * dieCap s d < mw ∨ 95 ≤ tj) : stepsDown s total dies mw tj d = 1 := by
  have ho : overOrHot s mw tj d = true := by simpa [overOrHot] using h
  have hm : overModule s total d = false := by simp [overModule, ht]
  simp [stepsDown, ho, hm]

/-- Above it a compute die that is neither goes down by its share. -/
theorem stepsDown_share (hd : d < 8) (ht : 1000 * moduleCap s < total) (hw : mw ≤ 1000 * dieCap s d) (hj : tj < 95) :
    stepsDown s total dies mw tj d = shareSteps s mw dies := by
  have ho : overOrHot s mw tj d = false := by simp [overOrHot, hw, hj]
  have hm : overModule s total d = true := by simp [overModule, ht, hd]
  simp [stepsDown, ho, hm]

end Clock

/-- The factor of the shares, which the manual leaves open (R331, log 21). -/
def shareFactor (s : State) : Nat := Config.choose s.free 0 % 64 + 1

theorem shareSteps_eq {dies : Nat} (h : dies ≠ 0) (s : State) (mw : Nat) :
    shareSteps s mw dies = (mw * shareFactor s + dies - 1) / dies := if_neg h

theorem shareSteps_pos {mw dies : Nat} (hw : mw ≠ 0) (hd : dies ≠ 0) (s : State) : 0 < shareSteps s mw dies := by
  have hp : 0 < mw * shareFactor s := Nat.mul_pos (by omega) (Nat.succ_pos _)
  rw [shareSteps_eq hd]
  exact Nat.div_pos (by omega) (by omega)

/-- A summand is at most the sum. -/
theorem getD_le_foldl_add (l : List Nat) (d : Nat) : l.getD d 0 ≤ l.foldl (· + ·) 0 := by
  rw [← List.sum_eq_foldl, List.getD_eq_getElem?_getD]
  by_cases h : d < l.length
  · rw [List.getElem?_eq_getElem h]
    exact List.single_le_sum (fun _ _ => Nat.zero_le _) _ (List.getElem_mem h)
  · rw [List.getElem?_eq_none (by omega)]
    exact Nat.zero_le _

/-- The power of the compute dies is not 0 where one of them has some. -/
theorem computePower_ne_zero {mw : List Nat} {d : Nat} (hd : d < 8) (h : mw.getD d 0 ≠ 0) : (mw.take 8).foldl (· + ·) 0 ≠ 0 := by
  have hle := getD_le_foldl_add (mw.take 8) d
  rw [List.getD_eq_getElem?_getD, List.getElem?_take_of_lt hd, ← List.getD_eq_getElem?_getD] at hle
  omega

/-! The registers after a window. -/

/-- PSTATE of a die as the power and temperature of a window give it. -/
def pstateAfter (mw tj : List Nat) (s : State) (d : Nat) : W64 :=
  powerStep s (mw.foldl (· + ·) 0) ((mw.take 8).foldl (· + ·) 0) (mw.getD d 0) (tj.getD d 0) d

/-- The state once every PSTATE has been written. -/
def measured (mw tj : List Nat) (s : State) : State :=
  (List.range 42).foldl (fun a d => wrWin a (pstateReg d) (pstateAfter mw tj s d)) s

/-- The state once the dies at 115 °C have been latched and reset. -/
def tripped (mw tj : List Nat) (s : State) : State := (List.range 42).foldl (fun a d => thermalTrip d (tj.getD d 0) a) (measured mw tj s)

/-- What a window leaves besides is not of the register window: the caps that the next one starts with, and the counter of free values. -/
theorem endPower_frame (mw tj : List Nat) (s : State) :
    ∃ caps free, endPower mw tj s = { tripped mw tj s with capStart := caps, free := free } := ⟨_, _, rfl⟩

theorem rdWin_endPower (mw tj : List Nat) (s : State) (x : Nat) : rdWin (endPower mw tj s) x = rdWin (tripped mw tj s) x := by
  obtain ⟨caps, free, h⟩ := endPower_frame mw tj s
  rw [h]
  generalize tripped mw tj s = t
  rfl

theorem pstateReg_inj {d e : Nat} : pstateReg d = pstateReg e ↔ d = e := by unfold pstateReg; omega

theorem rdWin_measured {d : Nat} (hd : d < 42) (mw tj : List Nat) (s : State) :
    rdWin (measured mw tj s) (pstateReg d) = pstateAfter mw tj s d := by
  unfold measured
  generalize hf : pstateAfter mw tj s = f
  refine foldl_once (obs := fun a => rdWin a (pstateReg d)) (f := fun _ => f d) List.nodup_range (List.mem_range.mpr hd)
    (fun a e _ hne => ?_) (fun a => ?_) s
  · exact (rdWin_wrWin a (pstateReg e) (pstateReg d) (f e)).trans (if_neg fun h => hne (pstateReg_inj.mp h))
  · exact (rdWin_wrWin a (pstateReg d) (pstateReg d) (f d)).trans (if_pos rfl)

/-- TLATCH with the bit of a die set. -/
def latched (d : Nat) (s : State) : State := wrWin s tlatchOff (rdWin s tlatchOff ||| (1#64 <<< d))

theorem thermalTrip_cool {d tj : Nat} (h : tj < 115) (s : State) : thermalTrip d tj s = s := if_pos h

theorem thermalTrip_hot {d tj : Nat} (h : 115 ≤ tj) (s : State) :
    thermalTrip d tj s = if d = 40 then latched d s else resetDie d (latched d s) := if_neg (by omega)

/-- The reset of a tripped die leaves the power block as its latch left it (R332). -/
theorem rdWin_thermalTrip {d tj x : Nat} (h : 115 ≤ tj) (hx : powBase ≤ x) (s : State) :
    rdWin (thermalTrip d tj s) x = rdWin (latched d s) x := by
  rw [thermalTrip_hot h]
  split
  · rfl
  · exact (quiets_resetDie d (latched d s)).power x hx

theorem rdWin_thermalTrip_other {x : Nat} (hx : powBase ≤ x) (hne : tlatchOff ≠ x) (d tj : Nat) (s : State) :
    rdWin (thermalTrip d tj s) x = rdWin s x := by
  by_cases h : tj < 115
  · rw [thermalTrip_cool h]
  · rw [rdWin_thermalTrip (by omega) hx, latched, rdWin_wrWin, if_neg hne]

theorem bit_latched {k : Nat} (hk : k < 64) (d : Nat) (s : State) :
    bit (rdWin (latched d s) tlatchOff) k = (bit (rdWin s tlatchOff) k || decide (k = d)) := by
  rw [latched, rdWin_wrWin, if_pos rfl, bit_or_shift hk]

/-- A die that is latched stays so. -/
theorem thermalTrip_keeps_latch {k : Nat} (hk : k < 64) (d tj : Nat) {s : State} (h : bit (rdWin s tlatchOff) k = true) :
    bit (rdWin (thermalTrip d tj s) tlatchOff) k = true := by
  by_cases ht : tj < 115
  · rwa [thermalTrip_cool ht]
  · rw [rdWin_thermalTrip (by omega) (by decide), bit_latched hk, h, Bool.true_or]

/-- A die at 115 °C is latched (R332). -/
theorem bit_tlatch_endPower {d : Nat} (hd : d < 42) {tj : List Nat} (ht : 115 ≤ tj.getD d 0) (mw : List Nat) (s : State) :
    bit (rdWin (endPower mw tj s) tlatchOff) d = true := by
  rw [rdWin_endPower]
  refine foldl_establishes (P := fun a => bit (rdWin a tlatchOff) d = true) (List.mem_range.mpr hd)
    (fun a e _ h => thermalTrip_keeps_latch (by omega) e _ h) (fun a => ?_) (measured mw tj s)
  rw [rdWin_thermalTrip ht (by decide), bit_latched (by omega), decide_eq_true rfl, Bool.or_true]

/-- PSTATE of a die after the window. -/
theorem rdWin_pstate_endPower {d : Nat} (hd : d < 42) (mw tj : List Nat) (s : State) : rdWin (endPower mw tj s) (pstateReg d) =
    pstateAfter mw tj s d := by
  rw [rdWin_endPower, ← rdWin_measured hd]
  refine foldl_untouched (obs := fun a => rdWin a (pstateReg d)) (fun a e _ => ?_) (measured mw tj s)
  exact rdWin_thermalTrip_other (by unfold pstateReg; omega) (by unfold pstateReg tlatchOff; omega) e (tj.getD e 0) a

/-- The clock of a die after the window. -/
theorem clock_endPower {d : Nat} (hd : d < 42) (mw tj : List Nat) (s : State) : fld (rdWin (endPower mw tj s) (pstateReg d)) 0 16 =
    newMhz s (mw.foldl (· + ·) 0) ((mw.take 8).foldl (· + ·) 0) (mw.getD d 0) (tj.getD d 0) d := by
  rw [rdWin_pstate_endPower hd]
  exact (fld_powerStep s _ _ _ _ d).1

/-! Power-on (R326). -/

theorem cget_powerOn_mem (s : State) (k : Nat) : cget zero (powerOn s).mem k = if 2 ^ 48 ≤ k then cget zero s.mem k else 0 := by
  refine (cget_ckeep zero (fun k => decide (2 ^ 48 ≤ k)) s.mem k).trans ?_
  simp only [decide_eq_true_eq]
  rfl

/-- Settles O56: each command of the port by the case that answers it, a reset by what each die's reset empties and no other brings back, a
power window by the PSTATE and TLATCH that it writes, and the links by their settings. -/
theorem managementEvents : Obligations.ManagementEvents := by
  refine ⟨fun o v r s hr => ⟨happens_of_event rfl (mgmtRead_found hr s), fun hw => ?refused, fun hw hc he => ?written⟩,
    fun o s hr => ⟨_, happens_of_event rfl (mgmtRead_unassigned hr s), ?unassigned⟩,
    fun o s => ⟨fun hb => ?owner, fun hb h0 => ⟨happens_of_event rfl (setOwner_other hb h0), happens_of_event rfl (setOwner_other hb h0)⟩⟩,
    fun s => ⟨happens_of_event rfl (setOwner_identity 1 s), happens_of_event rfl (setOwner_identity 0 s), ?telem, ?clrfovf⟩,
    fun mask s => ?reset,
    fun u place n s hp hn => ?spare,
    fun md e s he => happens_of_event rfl (by rw [rowCopied, he]),
    fun mw tj s => ?power,
    fun s => ?powerOn,
    fun p lanes s => ?port,
    fun w r s => ?host⟩
  case refused =>
    refine ⟨_, happens_of_event rfl (mgmtWrite_logged hr hw), ?_, fun x hx => ?_⟩
    · rw [complete_outputs, logRefused_outputs]
    · rw [rdWin_complete, rdWin_logRefused_other s hx]
  case written =>
    refine ⟨complete 0 0 (wrWin s o (written r (rdWin s o) v)), happens_of_event rfl (mgmtWrite_performed hr hw hc he), rfl, fun k hk => ?_,
      fun x hx => ?_, rfl, rfl⟩
    · rw [rdWin_complete, rdWin_wrWin, if_pos rfl, getLsbD_written r _ v hk]
    · rw [rdWin_complete, rdWin_wrWin, if_neg hx.symm]
  case unassigned => rw [complete_outputs, logRefused_outputs]
  case owner =>
    have hown (v : Nat) : ownerOf (complete 0 0 (wrWin s (blkctlOff o) (BitVec.ofNat 64 v))) o =
        if bit (BitVec.ofNat 64 v) 0 then .mgmt else .host := ownerOf_wrWin (isBlockBase_ne_zero hb) _ s
    exact ⟨⟨_, happens_of_event rfl (setOwner_block hb), hown 1, rfl⟩, ⟨_, happens_of_event rfl (setOwner_block hb), hown 0, rfl⟩⟩
  case telem =>
    exact ⟨telemetryOf s, happens_of_event rfl (telemetry_eq s), length_telemetryOf s, fun d hd => telemetryOf_die s hd, telemetryOf_eqStat s⟩
  case clrfovf =>
    have hset : rdWin (clearOverflow s) eqStat = setFld (rdWin s eqStat) 1 1 0 := (rdWin_wrWin s eqStat eqStat _).trans (if_pos rfl)
    refine ⟨clearOverflow s, happens_of_event rfl rfl, ?_, ?_, rfl⟩
    · rw [hset, bit_setFld (by decide)]
      rfl
    · rw [hset, bit_setFld (by decide)]
      rfl
  case reset =>
    have hq := quiets_complete 0 0 (resetDies mask s)
    refine ⟨_, reset_happens mask s, ?_, fun d hd hm => dieEmpty_of_quiets hq (dieEmpty_resetDies hd hm s),
      fun n hn hm => homeEmpty_of_quiets hq (homeEmpty_resetDies hn hm s),
      fun d c hd hc hmask hw => ctxGone_of_quiets hq (ctxGone_resetDies hd hc hmask hw)⟩
    rw [complete_outputs, List.getLast?_concat]
  case spare =>
    subst hp hn
    refine ⟨fun h => ?_, fun h h' hrows => ?_, fun h h' => ?_, fun h h' => ?_, fun a ha => ?_, ?_⟩
    · exact ⟨_, spare_happens (by omega) (actionOf_core h) s, spareUnit_core_fences h _ s⟩
    · exact ⟨_, spare_happens (by omega) (actionOf_row h h') s, spareUnit_row h h' hrows⟩
    · exact ⟨_, spare_happens (by omega) (actionOf_frame h h') s, spareUnit_frame h h' _ s⟩
    · exact ⟨_, spare_happens h' (actionOf_port h) s, spareUnit_port h h' _ s⟩
    · exact happens_of_event rfl (if_neg (by omega))
    · refine ⟨endWindow u s, happens_of_event rfl rfl, ?_, ?_, fun x hx => rdWin_endWindow_other hx s⟩
      · rw [rdWin_endWindow, fld_setFld_same (by decide)]
        rfl
      · rw [rdWin_endWindow, fld_setFld_above (by decide) (by decide)]
  case power =>
    refine ⟨endPower mw tj s, happens_of_event (f := endPower mw tj) rfl rfl, fun d hd ht => bit_tlatch_endPower hd ht mw s, fun d hd => ?_, fun d hd hall hown => ?_,
      ⟨shareFactor s, Nat.succ_pos _, fun d hd hall hcap hcool h0 => ?_⟩, fun d hlo hd => ?_⟩
    · rw [rdWin_pstate_endPower hd]
      exact (fld_powerStep s _ _ _ _ d).2
    · have hdown := stepsDown_own (dies := (mw.take 8).foldl (· + ·) 0) hall hown
      rw [clock_endPower (by omega), newMhz_lowered hd (by omega), hdown]
    · have hdies := computePower_ne_zero hd h0
      have hdown := stepsDown_share (dies := (mw.take 8).foldl (· + ·) 0) hd hall hcap hcool
      rw [clock_endPower (by omega), newMhz_lowered (by omega) (hdown ▸ shareSteps_pos h0 hdies s), hdown, shareSteps_eq hdies]
    · rw [clock_endPower hd, newMhz_ioDie hlo]
  case powerOn =>
    refine ⟨powerOn s, rfl, rfl, rfl, rfl, rfl, rfl, rfl, fun k hk => ?_, fun k hk => ?_⟩
    · rw [cget_powerOn_mem, if_neg (by omega)]
    · rw [cget_powerOn_mem, if_pos hk]
  case port =>
    refine ⟨trainPort p lanes s, happens_of_event rfl rfl, ?_, fun x hx => ?_⟩
    · rw [trainPort, rdWin_wrWin, if_pos rfl, fld_setFld_same (by decide), Nat.mod_eq_of_lt (by omega)]
    · rw [trainPort, rdWin_wrWin, if_neg hx.symm]
  case host =>
    by_cases h : 4 ≤ w ∧ 32 ≤ r
    · obtain ⟨haw, hal, hab⟩ := bestOf_greatest (l := [16, 8, 4]) (by decide) (by decide) h.1
      obtain ⟨hbr, hbl, hbb⟩ := bestOf_greatest (l := [128, 64, 32]) (by decide) (by decide) h.2
      refine ⟨_, _, happens_of_event rfl (trainHost_common h.1 h.2 s), fun _ _ => ⟨List.mem_reverse.mpr haw, hal, fun x hx => ?_,
        List.mem_reverse.mpr hbr, hbl, fun x hx => ?_⟩, fun hn => by omega⟩
      · exact hab x (List.mem_reverse.mp hx)
      · exact hbb x (List.mem_reverse.mp hx)
    · exact ⟨0, 0, happens_of_event rfl (trainHost_none (by omega) s), fun hw hr => absurd ⟨hw, hr⟩ h, fun _ => ⟨rfl, rfl⟩⟩

end Sys2Proof.Proofs
end

section
/-! PROOF. Control flow (R345, R346, R352, R383, R384, R387, R394): the branches by their conditions, and the fields of GMODE that MODE replaces. -/

namespace Sys2Proof.Proofs

open Sys2Proof.Machine Sys2Proof.Safety Sys2Proof.Laws

/-! Branches. -/

/-- BRA's offset counts words (R345). -/
theorem braOff_eq (o : Opnd) : braOff o = w64 (4 * (o.d ++ o.a ++ o.b : BitVec 21).toInt) := by
  rw [braOff, w64, mul_comm, BitVec.ofInt_mul]
  rfl

/-- The conditions of BRC, each of the signed value (Table 11-4). -/
theorem brcTest_eq (c : Nat) (x : W64) : brcTest c x =
    if c = 0 then decide (x.toInt = 0) else if c = 1 then decide (x.toInt ≠ 0) else if c = 2 then decide (x.toInt < 0)
    else if c = 3 then decide (0 ≤ x.toInt) else if c = 4 then decide (0 < x.toInt) else decide (x.toInt ≤ 0) := by
  have hzero : (x == 0) = decide (x.toInt = 0) := decide_eq_decide.mpr BitVec.toInt_inj.symm
  match c with
  | 0 => exact hzero
  | 1 => exact (congrArg not hzero).trans (decide_not ..).symm
  | 2 | 4 => rfl
  | 3 | _ + 5 => exact (decide_not ..).symm.trans (decide_eq_decide.mpr not_lt)

/-- A mask leaves no lane when no bit of it is set with the lane's (R346). -/
theorem and_eq_zero_iff (m e : W64) : m &&& e = 0 ↔ ∀ k, k < 64 → ¬ (m.getLsbD k = true ∧ e.getLsbD k = true) := by
  simp [BitVec.eq_of_getLsbD_eq_iff]

/-! The fields that MODE replaces. -/

/-- A word with its bits [lo+n-1:lo] replaced where `c` holds. -/
def setFldIf (c : Bool) (lo n x : Nat) (w : W64) : W64 := if c then setFld w lo n x else w

theorem fld_setFld_below {v : W64} {lo n x m k : Nat} (h : lo + n ≤ 64) (hm : m + k ≤ lo) : fld (setFld v lo n x) m k = fld v m k := by
  refine Nat.eq_of_testBit_eq fun i => ?_
  simp only [fld, bitsOf, Nat.testBit_mod_two_pow, Nat.testBit_shiftRight]
  by_cases hi : i < k
  · have hb := bit_setFld (v := v) (x := x) h (m + i)
    rw [if_neg (by omega)] at hb
    exact congrArg (decide (i < k) && ·) hb
  · simp [hi]

section Fields

variable {c : Bool} {lo n x : Nat} {w : W64}

theorem fld_setFldIf_same (h : lo + n ≤ 64) : fld (setFldIf c lo n x w) lo n = if c then x % 2 ^ n else fld w lo n := by
  cases c
  · rfl
  · exact fld_setFld_same h

theorem fld_setFldIf_apart {m k : Nat} (h : lo + n ≤ 64) (hm : lo + n ≤ m ∨ m + k ≤ lo) :
    fld (setFldIf c lo n x w) m k = fld w m k := by
  cases c
  · rfl
  · exact hm.elim (fld_setFld_above h) (fld_setFld_below h)

theorem bit_setFldIf_same (h : lo + 1 ≤ 64) : bit (setFldIf c lo 1 x w) lo = if c then x.testBit 0 else bit w lo := by
  cases c
  · rfl
  · exact (bit_setFld h lo).trans (by simp)

theorem bit_setFldIf_apart {b : Nat} (h : lo + n ≤ 64) (hb : lo + n ≤ b ∨ b < lo) : bit (setFldIf c lo n x w) b = bit w b := by
  cases c
  · rfl
  · exact (bit_setFld h b).trans (if_neg (by omega))

end Fields

/-- MODE replaces five fields of GMODE, each where its D bit is set (R384). -/
theorem modeNew_imm {o : Opnd} {v : BitVec 30} (h : o.x = .imm v) (w : W64) : modeNew o w =
    setFldIf (o.d.getLsbD 4) 14 1 (bitsOf v.toNat 14 1) (setFldIf (o.d.getLsbD 3) 13 1 (bitsOf v.toNat 13 1)
      (setFldIf (o.d.getLsbD 2) 10 3 (bitsOf v.toNat 10 3) (setFldIf (o.d.getLsbD 1) 6 4 (bitsOf v.toNat 6 4)
        (setFldIf (o.d.getLsbD 0) 0 6 (bitsOf v.toNat 0 6) w)))) := by
  simp only [modeNew, h, setFldIf]

theorem bitsOf_mod_self (x lo n : Nat) : bitsOf x lo n % 2 ^ n = x / 2 ^ lo % 2 ^ n := by
  rw [bitsOf, Nat.mod_mod, Nat.shiftRight_eq_div_pow]

theorem testBit_bitsOf_one {k : Nat} (v : BitVec k) (lo : Nat) : (bitsOf v.toNat lo 1).testBit 0 = v.getLsbD lo := by
  simp [bitsOf, BitVec.getLsbD]

/-- Settles O16: each instruction is its body, the branches by their conditions, and GMODE field by field. -/
theorem controlFlow : Obligations.ControlFlow := by
  refine ⟨fun o s => ⟨?nop, ?bra, ?brc, ?bzm, ?call, ?ret, ?mode⟩, fun o v w h => ?fields⟩
  case nop => exact fun hr => completes_of_body rfl hr rfl (ready_live hr) rfl
  case bra =>
    rw [← braOff_eq]
    exact fun hr => completes_of_body rfl hr rfl (ready_live hr) rfl
  case brc =>
    refine fun hr => completes_of_body rfl hr (congrArg (fun b : Bool => Res.ok (if b then _ else none) s) ?_) (ready_live hr) rfl
    rw [brcTest_eq]
    generalize o.d.toNat = c
    match c with
    | 0 | 1 | 2 | 3 | 4 | _ + 5 => rfl
  case bzm =>
    exact fun hr => completes_of_body rfl hr (congrArg (Res.ok · s) (if_congr (and_eq_zero_iff _ _) rfl rfl)) (ready_live hr) rfl
  case call => exact fun hr => completes_of_body rfl hr rfl ((post_live _ _ _).trans (ready_live hr)) rfl
  case ret => exact fun hr => completes_of_body rfl hr rfl (ready_live hr) rfl
  case mode => exact fun hr => completes_of_body rfl hr rfl ((post_live _ _ _).trans (ready_live hr)) rfl
  case fields =>
    rw [modeNew_imm h]
    simp (disch := decide) only [gmMS, gmET, gmSAT, gmSCB, fld_setFldIf_same, fld_setFldIf_apart, bit_setFldIf_same, bit_setFldIf_apart,
      bitsOf_mod_self, testBit_bitsOf_one]
    simp

end Sys2Proof.Proofs
end

section
/-! PROOF. Compares (R423, R426, R356, Table 11-7): the mask of the lanes for which a test holds, and VCMP's predicates on elements without
modifiers. -/

namespace Sys2Proof.Proofs

open Sys2Proof.Machine Sys2Proof.Safety Sys2Proof.Laws

/-! The mask of a test. -/

theorem getLsbD_maskOf (l : List Nat) {i : Nat} (hi : i < 64) : (maskOf l).getLsbD i = decide (i ∈ l) := by
  have hfold : ∀ (l : List Nat) (m : W64), (l.foldl (fun m i => m ||| (1#64 <<< i)) m).getLsbD i = (m.getLsbD i || decide (i ∈ l)) := by
    intro l
    induction l with
    | nil => simp
    | cons j r ih =>
      intro m
      rw [List.foldl_cons, ih, ← bit, bit_or_shift hi, bit, Bool.or_assoc, ← Bool.decide_or]
      exact congrArg _ (decide_eq_decide.mpr List.mem_cons.symm)
  exact (hfold l 0).trans (by simp)

/-- One bit for every active lane, set where the lane's test holds (R423, R356). -/
theorem getLsbD_testMask {α : Type} (m : W64) (r : Nat → α) (test : α → Bool) {i : Nat} (hi : i < 64) :
    (maskOf ((((activeLanes m).map (fun j => (j, r j))).filter (fun e => test e.2)).map (·.1))).getLsbD i =
      (m.getLsbD i && test (r i)) := by
  rw [getLsbD_maskOf _ hi, Bool.eq_iff_iff]
  simp [activeLanes, laneIdx, hi]

/-- What VCMP and FCMP post leaves the group live. -/
theorem compare_live {s : State} (h : s.g.live = true) (f : Fl) (d : Nat) (m : W64) :
    (onG (fun g => postFlags 3 f (post 3 (.sca d m) g)) s).g.live = true :=
  (postFlags_live _ _ _).trans ((post_live _ _ _).trans h)

/-! Saturation. -/

theorem modInt_unsaturated (w : Nat) (sg : Bool) (m : Mods) (x : Nat) : (modInt w sg false m x).2 = false := by
  unfold modInt settleInt
  simp only [narrow_wraps]
  split_ifs <;> rfl

theorem vcmpLane_unsaturated {s : State} (h : gmSAT s.g.gmode = false) (o : Opnd) (sel i : Nat) : (vcmpLane s o sel i).2 = false := by
  simp [vcmpLane, h, modInt_unsaturated]

theorem flIf_cases (c : Bool) (f : Fl) : flIf c f = 0 ∨ flIf c f = f := by
  cases c
  · exact .inl rfl
  · exact .inr rfl

/-! VCMP on elements without modifiers. -/

/-- An element's value under either signedness has the bits of the element. -/
theorem intVal_bits (w : Nat) (sg : Bool) (x : Nat) : (intVal w sg x % (2 ^ w : Nat)).toNat = x % 2 ^ w := by
  have hmod : (((x % 2 ^ w : Nat) : Int) % (2 ^ w : Nat)).toNat = x % 2 ^ w := by
    rw [← Int.natCast_mod, Int.toNat_natCast, Nat.mod_mod]
  cases sg
  · exact hmod
  · rw [intVal, if_pos rfl, sextNat]
    split_ifs
    · exact hmod
    · rw [Int.sub_emod_right, hmod]

theorem vcmpLane_plain {s : State} {o : Opnd} (ha : modsA o = ⟨false, false⟩) (hb : modsB o = ⟨false, false⟩) (p i : Nat) :
    (vcmpLane s o p i).1 = (elems3 (regElems s (etOf s) o.a.toNat i) (elemsB s (etOf s) o i) []).all (fun e =>
      cmpPred (elemBits (etOf s)) p (e.1 % 2 ^ elemBits (etOf s)) (e.2.1 % 2 ^ elemBits (etOf s))) := by
  simp only [vcmpLane, ha, hb, modInt_plain, intVal_bits, List.all_map]
  rfl

/-- The predicates of Table 3-7 on two elements: .EQ to .GE read them as signed, .LTU to .GEU as unsigned. -/
theorem cmpPred_eq {w p x y : Nat} {P : Nat → Nat → Bool} {S : Nat → Int} (hp : p < 10) (hx : x < 2 ^ w) (hy : y < 2 ^ w)
    (hS : ∀ x, S x = if x < 2 ^ (w - 1) then (x : Int) else (x : Int) - 2 ^ w)
    (hP : ∀ x y, P x y = (if p = 0 then decide (x = y) else if p = 1 then decide (x ≠ y) else if p = 2 then decide (S x < S y)
      else if p = 3 then decide (S x ≤ S y) else if p = 4 then decide (S y < S x) else if p = 5 then decide (S y ≤ S x)
      else if p = 6 then decide (x < y) else if p = 7 then decide (x ≤ y) else if p = 8 then decide (y < x) else decide (y ≤ x))) :
    cmpPred w p (x % 2 ^ w) (y % 2 ^ w) = P x y := by
  have hsx : sextNat w x = S x := (sextNat_eq hx).trans (hS x).symm
  have hsy : sextNat w y = S y := (sextNat_eq hy).trans (hS y).symm
  rw [hP]
  unfold cmpPred
  simp only [Nat.mod_eq_of_lt hx, Nat.mod_eq_of_lt hy, hsx, hsy]
  match p, hp with
  | 1, _ => exact (decide_not ..).symm
  | 0, _ | 2, _ | 3, _ | 4, _ | 5, _ | 6, _ | 7, _ | 8, _ | 9, _ => rfl

/-- The elements of a register are those of one 32-bit word, but under FP64. -/
theorem regElems_split (s : State) {et : Nat} (h : et ≤ 3) (n i : Nat) : regElems s et n i = splitWord et (laneOf (rdV s n) i) :=
  if_neg (by omega)

/-- So are those of the B operand, whatever names it. -/
theorem elemsB_split (s : State) {et : Nat} (h : et ≤ 3) (o : Opnd) (i : Nat) : ∃ v, elemsB s et o i = splitWord et v := by
  have hreg : ∃ v, regElems s et o.b.toNat i = splitWord et v := ⟨_, regElems_split s h _ i⟩
  unfold elemsB
  cases o.x with
  | none | par => exact hreg
  | imm v => exact ⟨_, if_neg (by omega)⟩
  | bro k =>
    dsimp only
    split
    · exact ⟨_, if_neg (by omega)⟩
    · exact hreg

theorem splitWord_word {et : Nat} (h : et ≤ 1) (x : W32) : splitWord et x = [x.toNat] := by
  interval_cases et <;> rfl

theorem splitWord_halves {et : Nat} (h : et = 2 ∨ et = 3) (x : W32) : splitWord et x = [x.toNat % 2 ^ 16, x.toNat / 2 ^ 16] := by
  rcases h with rfl | rfl <;> rfl

theorem elemBits_word {et : Nat} (h : et ≤ 1) : elemBits et = 32 := by
  interval_cases et <;> rfl

theorem elemBits_halves {et : Nat} (h : et = 2 ∨ et = 3) : elemBits et = 16 := by
  rcases h with rfl | rfl <;> rfl

theorem half_lt (x : W32) : x.toNat / 2 ^ 16 < 2 ^ 16 := by
  have := x.isLt
  omega

/-- Settles O27: VCMP and FCMP by the mask of their lanes' tests, and VCMP's test element by element. -/
theorem compares : Obligations.Compares := by
  refine ⟨fun o s hr => ⟨_, _, completes_of_body rfl hr rfl (compare_live (ready_live hr) _ _ _) rfl, ?bits, flIf_cases _ _, ?unsaturated⟩,
    ?predicates, fun s n i => ⟨fun h => ?word, fun h => ?halves, fun o k h => ?operandB⟩,
    fun o s hr => ⟨_, _, completes_of_body rfl hr rfl (compare_live (ready_live hr) _ _ _) rfl, ?floatBits, ?floatFlags⟩⟩
  case bits => exact fun i hi => getLsbD_testMask _ _ Prod.fst hi
  case unsaturated =>
    intro h
    simp [vcmpLane_unsaturated h, flIf]
  case predicates =>
    rintro o s p i w P S xs ys het hp ha hb rfl rfl rfl hS hP
    obtain ⟨v, hv⟩ := elemsB_split s het o i
    rw [vcmpLane_plain ha hb, regElems_split s het, hv]
    refine ⟨fun h => ?_, fun h => ?_⟩
    · rw [if_pos h] at hS
      rw [splitWord_word h, splitWord_word h, elemBits_word h]
      exact (Bool.and_true _).trans (cmpPred_eq hp (laneOf (rdV s o.a.toNat) i).isLt v.isLt hS hP)
    · rw [if_neg (by omega)] at hS
      rw [splitWord_halves (by omega), splitWord_halves (by omega), elemBits_halves (by omega)]
      have hlo := cmpPred_eq hp (Nat.mod_lt (laneOf (rdV s o.a.toNat) i).toNat (Nat.two_pow_pos 16)) (Nat.mod_lt v.toNat (Nat.two_pow_pos 16)) hS hP
      have hhi := cmpPred_eq hp (half_lt (laneOf (rdV s o.a.toNat) i)) (half_lt v) hS hP
      exact congrArg₂ and hlo ((Bool.and_true _).trans hhi)
  case word => exact (regElems_split s (by omega) n i).trans (splitWord_word h _)
  case halves => exact (regElems_split s (by omega) n i).trans (splitWord_halves h _)
  case operandB => rw [elemsB, h]
  case floatBits => exact fun i hi => getLsbD_testMask _ _ Prod.fst hi
  case floatFlags => rw [List.map_map]; rfl

end Sys2Proof.Proofs
end

section
/-! PROOF. What every step keeps (06, 95): each way that a step can end stores the journal into a canonical memory, or lets only clocks
pass, or keeps a part of memory. -/

namespace Sys2Proof.Proofs

open Sys2Proof.Machine Sys2Proof.Safety Sys2Proof.Laws

/-! The ways that a step ends. -/

/-- A step that stores its journal ends in a steady state, whatever else it did. -/
theorem steady_commit {o : State} (h : o.mem.wf = true) (n : State) : Steady (commit o n) :=
  ⟨cwf_csetAll zero _ h, rfl⟩

theorem steady_of_stores_nothing {s t : State} (h : Steady s) (hk : t.mem = s.mem ∧ t.wr = s.wr) : Steady t :=
  ⟨hk.1 ▸ h.1, hk.2.trans h.2⟩

theorem steady_passClocks {s : State} (h : Steady s) (core n : Nat) : Steady (passClocks core n s) := h

/-- POWER_ON_RESET keeps the host's and the peers' part of memory, and starts with no journal (R326). -/
theorem steady_powerOn {s : State} (h : s.mem.wf = true) : Steady (powerOn s) := ⟨cwf_ckeep zero _ h, rfl⟩

theorem steady_exec {i : Instr} {s t : State} (h : s.mem.wf = true) (hx : exec i s = .next t) : Steady t := by
  rcases exec_commits i s with ⟨n, hc⟩ | hp
  · cases hc.symm.trans hx
    exact steady_commit h n
  · cases hp.symm.trans hx
    exact steady_powerOn h

/-! The turn of a group. -/

/-- A fetch changes no memory, so what is fetched starts from a canonical one. -/
theorem steady_issueWord {s t : State} (h : s.mem.wf = true) (hx : issueWord s = .next t) : Steady t := by
  unfold issueWord at hx
  split at hx
  case h_1 s1 hf =>
    split at hx
    · exact steady_exec ((fetchInstr_mem hf).symm ▸ h) hx
    · cases hx
      exact steady_commit h _
  all_goals
    cases hx
    exact steady_commit h _

theorem steady_boundary {s t : State} (h : s.mem.wf = true) (hx : boundary s = .next t) : Steady t := by
  unfold boundary at hx
  split at hx
  · cases hx
    exact steady_commit h _
  · exact steady_issueWord h hx

theorem steady_groupStep {s t : State} (h : Steady s) (hx : groupStep s = .next t) : Steady t := by
  have hm := h.1
  unfold groupStep at hx
  split at hx
  case h_1 => cases hx; exact steady_commit hm _
  case h_2 =>
    split at hx
    case h_1 => cases hx; exact steady_commit hm _
    case h_2 =>
      split at hx
      case h_1 => cases hx; exact steady_commit hm _
      case h_2 =>
        split at hx
        case h_1 => cases hx; exact steady_of_stores_nothing h (idleClock_mem s)
        case h_2 ht => cases hx; exact steady_passClocks (steady_of_stores_nothing h (nextTurn_tick ht)) _ _
        case h_3 ht => exact steady_boundary ((nextTurn_issue ht).1.symm ▸ hm) hx

/-- Settles O5: by what the step is, work that is due, an event, or the turn of a group. -/
theorem stepKeepsSteady : Obligations.StepKeepsSteady := by
  intro s t h hx
  unfold step nextStep at hx
  split at hx
  · cases hx
    exact steady_commit h.1 _
  · split at hx
    next i rest _ =>
      split at hx
      · cases hx
      · exact steady_exec (s := { s with inputs := rest }) h.1 hx
    next => exact steady_groupStep h hx

end Sys2Proof.Proofs
end

section
/-! PROOF. Words whose row takes no extension word and no B field (R82, R84, Table 3-6): which words decode to them, and that a nonzero B
field is illegal. -/

namespace Sys2Proof.Proofs

open Sys2Proof.Machine Sys2Proof.Laws

/-- Without an extension word the second word does not matter. -/
theorem decode_short {w0 : W32} (h : hasExt w0 = false) (w1 w2 : W32) : decode w0 w1 = decode w0 w2 := by
  simp only [decode, h, Bool.false_eq_true, if_false]

/-- The first word of an instruction without extension word decodes to it, whatever stands behind it. -/
theorem decode_encodeFirst {i : Instr} (ha : opAssigned (opcode i) = true)
    (hx : extAccepted (opForm (opcode i)) (opnd i).x = true) (hd : decodeOp (opcode i) (opnd i) = some i)
    (hn : extPresent (opnd i).x = false) (w1 : W32) : decode (encodeFirst i) w1 = .instr i 4 := by
  have h : decode (encodeFirst i) (encode i).2 = .instr i 4 := by
    rw [show 4 = instrLen i by rw [instrLen, hn]; rfl]
    exact decode_encode (assigned_lt ha) ha hx hd
  obtain ⟨-, -, -, -, he⟩ := encode_of_decode h
  exact (decode_short (he rfl) _ _).trans h

/-- What decodes to an instruction whose row takes no extension word has its opcode and carries none (R82). -/
theorem decode_bare {w0 w1 : W32} {i : Instr} {n : Nat} (h : decode w0 w1 = .instr i n)
    (hf : ∀ x, extPresent x = true → extAccepted (opForm (opcode i)) x = false) :
    w0.extractLsb' 21 7 = BitVec.ofNat 7 (opcode i) ∧ w0.getLsbD 28 = false ∧ (opnd i).x = .none ∧ n = 4 := by
  obtain ⟨x, ha, hx, hd, hn⟩ := decode_instr h
  obtain ⟨hop, ho⟩ := decodeOp_word hd
  have he : hasExt w0 = false := by
    by_contra hne
    have hp := (ext_carried hx).1.trans (Bool.not_eq_false _ ▸ hne)
    have h0 : w0 ≠ 0 := by rintro rfl; cases h
    rw [decode_refusedExt h0 ha hx (hop ▸ hf x hp)] at h
    cases h
  rw [he] at hx hn
  cases hx
  refine ⟨?_, he, by rw [ho]; rfl, hn⟩
  rw [hop, wordOp, BitVec.ofNat_toNat, BitVec.setWidth_eq]

/-- A row without B field and without broadcast has B zero in every legal word. -/
theorem fieldB_zero {s : State} {i : Instr} (h : illegalSub s i = none) (hz : (form i).b = .z) (hs : (form i).bsc = false) :
    (opnd i).b = 0 := by
  have h5 := ok05_of_legal h
  have hc : bClass i = .z := by
    unfold bClass
    split
    next k hx => rw [bsc_of_ok05 h5 hx hs]; exact hz
    next => rw [hz, ite_self]
    next => exact hz
  have hb := fieldB_of_ok05 h5
  rw [hc] at hb
  exact of_decide_eq_true hb

end Sys2Proof.Proofs
end

section
/-! PROOF. Lane moves, VOTE, RFAL and VIOTA (R395, R403, R426): votes as bits of a mask, the lowest active lane, and the number of active
lanes below one. -/

namespace Sys2Proof.Proofs

open Sys2Proof.Machine Sys2Proof.Safety Sys2Proof.Laws

/-! Lane moves. -/

theorem hi32_toNat (x : W64) : (hi32 x).toNat = x.toNat / 2 ^ 32 := by
  have h := x.isLt
  rw [hi32, BitVec.toNat_setWidth, BitVec.toNat_ushiftRight, Nat.shiftRight_eq_div_pow]
  omega

theorem lo32_toNat (x : W64) : (lo32 x).toNat = x.toNat % 2 ^ 32 := BitVec.toNat_setWidth ..

/-- An instruction whose body moves lanes (R403). -/
theorem movesLanes_of_body {i : Instr} {s : State} {o : Opnd} {f : State → Nat → Nat} {src : Nat → Nat}
    (hx : exec i s = runI i s (shuffle o f)) (hr : ready i s = true) (hp : settles i = false) (hf : ∀ k, f s k = src k) :
    MovesLanes i s o src := by
  obtain rfl : f s = src := funext hf
  refine completes_of_body hx hr rfl ?_ hp
  dsimp only [onG]
  split
  · rw [put_live, put_live, ready_live hr]
  · rw [put_live, ready_live hr]

/-! Votes. -/

/-- The mask of the active lanes that satisfy a test. -/
theorem getLsbD_maskOf_filter (m : W64) (p : Nat → Bool) {k : Nat} (hk : k < 64) :
    (maskOf ((activeLanes m).filter p)).getLsbD k = (m.getLsbD k && p k) := by
  rw [getLsbD_maskOf _ hk, Bool.eq_iff_iff]
  simp [activeLanes, laneIdx, hk, and_comm]

/-- Some active lane satisfies the test. -/
theorem maskOf_filter_ne_zero (m : W64) (p : Nat → Bool) :
    maskOf ((activeLanes m).filter p) ≠ 0 ↔ ∃ k, k < 64 ∧ m.getLsbD k = true ∧ p k = true := by
  have hz : maskOf ((activeLanes m).filter p) = 0 ↔ ∀ k, k < 64 → (m.getLsbD k && p k) = false :=
    ⟨fun h k hk => by rw [← getLsbD_maskOf_filter m p hk, h]; exact BitVec.getLsbD_zero,
      fun h => BitVec.eq_of_getLsbD_eq fun k hk => by rw [getLsbD_maskOf_filter m p hk, h k hk]; exact BitVec.getLsbD_zero.symm⟩
  rw [Ne, hz]
  simp

/-- Every active lane satisfies the test. -/
theorem maskOf_filter_eq_self (m : W64) (p : Nat → Bool) :
    maskOf ((activeLanes m).filter p) = m ↔ ∀ k, k < 64 → m.getLsbD k = true → p k = true := by
  refine ⟨fun h k hk hm => ?_, fun h => BitVec.eq_of_getLsbD_eq fun k hk => ?_⟩
  · have hb := getLsbD_maskOf_filter m p hk
    rw [h, hm] at hb
    exact hb.symm
  · rw [getLsbD_maskOf_filter m p hk]
    cases hm : m.getLsbD k
    · rfl
    · exact h k hk hm

/-- A bit as a word is 1 where the bit's condition holds, and else 0. -/
theorem boolW_iff {b : Bool} {P : Prop} (h : b = true ↔ P) : (boolW b = 1 ∨ boolW b = 0) ∧ (boolW b = 1 ↔ P) := by
  rw [← h]
  cases b <;> decide

/-- What VOTE writes (R426). -/
def voteValue (b : BitVec 7) (m : W64) (v : Nat → W32) : W64 :=
  let bal := maskOf ((activeLanes m).filter (fun k => v k != 0))
  if b = 0 then boolW (bal != 0) else if b = 1 then boolW (bal == m) else bal

theorem vote_puts {o : Opnd} {s : State} (hr : ready (.vote o) s = true) :
    Puts (.vote o) s (.sca o.d.toNat (voteValue o.b (effMask s) (laneOf (rdV s o.a.toNat)))) :=
  completes_of_body rfl hr rfl ((put_live _ _).trans (ready_live hr)) rfl

theorem voteValue_any (m : W64) (v : Nat → W32) : (voteValue 0 m v = 1 ∨ voteValue 0 m v = 0) ∧
    (voteValue 0 m v = 1 ↔ ∃ k, k < 64 ∧ m.getLsbD k = true ∧ v k ≠ 0) := by
  have h := maskOf_filter_ne_zero m (fun k => v k != 0)
  simp only [bne_iff_ne] at h
  exact boolW_iff (bne_iff_ne.trans h)

theorem voteValue_all (m : W64) (v : Nat → W32) : (voteValue 1 m v = 1 ∨ voteValue 1 m v = 0) ∧
    (voteValue 1 m v = 1 ↔ ∀ k, k < 64 → m.getLsbD k = true → v k ≠ 0) := by
  have h := maskOf_filter_eq_self m (fun k => v k != 0)
  simp only [bne_iff_ne] at h
  exact boolW_iff (beq_iff_eq.trans h)

theorem voteValue_ballot (m : W64) (v : Nat → W32) {k : Nat} (hk : k < 64) :
    (voteValue 2 m v).getLsbD k = (m.getLsbD k && decide (v k ≠ 0)) := by
  refine (getLsbD_maskOf_filter m (fun k => v k != 0) hk).trans ?_
  simp [bne, BEq.beq]

/-! The lowest active lane. -/

/-- The value of the lowest active lane, and zero for an empty mask (R395). -/
def lowestLane (m : W64) (v : Nat → W32) : W64 :=
  match activeLanes m with
  | [] => 0
  | i :: _ => (v i).setWidth 64

theorem rfal_puts {o : Opnd} {s : State} (hr : ready (.rfal o) s = true) :
    Puts (.rfal o) s (.sca o.d.toNat (lowestLane (effMask s) (laneOf (rdV s o.a.toNat)))) :=
  completes_of_body rfl hr rfl ((put_live _ _).trans (ready_live hr)) rfl

theorem lowestLane_zero {m : W64} (h : m = 0) (v : Nat → W32) : lowestLane m v = 0 := by
  subst h
  rfl

/-- An active lane below which none is active stands first. -/
theorem lowestLane_eq {m : W64} {i : Nat} (hi : i < 64) (hm : m.getLsbD i = true) (hlow : ∀ j, j < i → m.getLsbD j = false)
    (v : Nat → W32) : lowestLane m v = (v i).setWidth 64 := by
  obtain ⟨pre, post, hs, -, hlt, -⟩ := activeLanes_split (List.mem_filter.mpr ⟨List.mem_range.mpr hi, hm⟩)
  have hpre : pre = [] := by
    rw [← hlt, List.filter_eq_nil_iff]
    intro j hj hji
    have hj1 : m.getLsbD j = true := (List.mem_filter.mp hj).2
    rw [hlow j (of_decide_eq_true hji)] at hj1
    cases hj1
  rw [lowestLane, hs, hpre]
  rfl

/-! Lanes below a lane. -/

/-- The active lanes below one of them. -/
theorem activeLanes_below (m : W64) {k : Nat} (hk : k ≤ 64) : (activeLanes m).filter (fun j => decide (j < k)) =
    (List.range k).filter (fun j => decide (j < 64) && m.getLsbD j) := by
  obtain ⟨n, hn⟩ := Nat.exists_eq_add_of_le hk
  have hlow : (List.range k).filter (fun j => decide (j < k) && m.getLsbD j) =
      (List.range k).filter (fun j => decide (j < 64) && m.getLsbD j) :=
    List.filter_congr fun j hj => by
      have hj := List.mem_range.mp hj
      rw [decide_eq_true hj, decide_eq_true (hj.trans_le hk)]
  have hhigh : ((List.range n).map (k + ·)).filter (fun j => decide (j < k) && m.getLsbD j) = [] := by
    simp [List.filter_eq_nil_iff]
  have hall : List.range 64 = List.range k ++ (List.range n).map (k + ·) := by rw [hn, List.range_add]
  rw [activeLanes, laneIdx, List.filter_filter, hall, List.filter_append, hlow, hhigh, List.append_nil]

/-- Settles O32: each instruction writes its body's value, and the value by the bits of the mask. -/
theorem crossLane : Obligations.CrossLane := by
  refine ⟨fun o s => ⟨fun hr => movesLanes_of_body rfl hr rfl fun _ => rfl, fun e hr hx => movesLanes_of_body rfl hr rfl fun _ => ?scalar,
    fun hr hb => movesLanes_of_body rfl hr rfl fun k => ?xor⟩, fun o s => ⟨fun hr => ⟨_, vote_puts hr, ?any, ?all, ?ballot⟩,
    fun hr => ⟨_, rfal_puts hr, fun hm => lowestLane_zero hm _, fun k hk hm hlow => ?lowest⟩, fun hr hb => ?index, fun hr hb => ?below⟩⟩
  case scalar =>
    simp only [hx, apply_ite BitVec.toNat, hi32_toNat, lo32_toNat]
  case xor => rw [Nat.mod_eq_of_lt hb]
  case any => exact fun hb => hb ▸ voteValue_any _ _
  case all => exact fun hb => hb ▸ voteValue_all _ _
  case ballot => exact fun hb k hk => hb ▸ voteValue_ballot _ _ hk
  case lowest =>
    rw [lowestLane_eq hk hm hlow]
    exact (BitVec.ofNat_toNat ..).symm
  case index =>
    refine completes_of_body rfl hr ?_ ((put_live _ _).trans (ready_live hr)) rfl
    simp only [hb, if_true]
  case below =>
    rw [masked_congr (fun k hk => by rw [← activeLanes_below (effMask s) (mem_activeLanes_lt hk).le])]
    refine completes_of_body rfl hr ?_ ((put_live _ _).trans (ready_live hr)) rfl
    simp only [hb, if_false]

/-- Settles O59: the words of RFAL as those of a row without extension word, and its value by the mask. -/
theorem readFirstActiveLane : Obligations.ReadFirstActiveLane := by
  have hlane : ∀ (o : Opnd) (s : State), ready (.rfal o) s = true → ∀ i, i < 64 → (effMask s).getLsbD i = true →
      (∀ j, j < i → (effMask s).getLsbD j = false) → Puts (.rfal o) s (.sca o.d.toNat ((laneOf (rdV s o.a.toNat) i).setWidth 64)) :=
    fun o s hr i hi hm hlow => lowestLane_eq hi hm hlow _ ▸ rfal_puts hr
  refine ⟨fun st d a w1 => decode_encodeFirst (i := .rfal ⟨st, d, a, 0, .none⟩) rfl rfl rfl rfl w1,
    fun w0 w1 o n h => decode_bare h fun x hx => extAccepted_bare rfl rfl rfl hx, by decide,
    fun o s hb h => hb (fieldB_zero h rfl rfl), fun o s hr => ⟨fun hm => lowestLane_zero hm _ ▸ rfal_puts hr, hlane o s hr⟩,
    fun s hr hm hv => ?manual⟩
  case manual =>
    have h8 := hlane _ s hr 8 (by decide) (by rw [hm]; decide) (by rw [hm]; decide)
    rwa [show laneOf (rdV s (3 : BitVec 7).toNat) 8 = BitVec.ofNat 32 (5 * 8) from hv 8 (by decide)] at h8

end Sys2Proof.Proofs
end

section
/-! PROOF. Scalar selects, comparisons, immediates and counts (R399 to R401, Table 3-7): the reading that SEL names, the halves of SLI, and
the counts of set, leading and trailing bits. -/

namespace Sys2Proof.Proofs

open Sys2Proof.Machine Sys2Proof.Safety Sys2Proof.Laws

/-! Selects and comparisons. -/

/-- A choice by the reading that SEL names is one by the order of that reading. -/
theorem select_by_reading {o : Opnd} {lt : W64 → W64 → Prop}
    (hlt : ∀ x y, lt x y ↔ if (parOf o).sel = 1 then x.toNat < y.toNat else x.toInt < y.toInt) (x y u v : W64) :
    (lt x y → (if selU o then (if x.ult y then u else v) else (if x.slt y then u else v)) = u) ∧
    (¬ lt x y → (if selU o then (if x.ult y then u else v) else (if x.slt y then u else v)) = v) := by
  by_cases h : selU o = true
  · simp only [hlt, (selU_iff o).mp h, h, if_true, BitVec.ult, decide_eq_true_eq]
    exact ⟨fun hxy => if_pos hxy, fun hxy => if_neg hxy⟩
  · simp only [hlt, mt (selU_iff o).mpr h, h, if_false, BitVec.slt, decide_eq_true_eq]
    exact ⟨fun hxy => if_pos hxy, fun hxy => if_neg hxy⟩

theorem sextNat_double (x : W64) : sextNat 64 x.toNat = x.toInt := by
  rw [sextNat_eq x.isLt, BitVec.toInt_eq_toNat_cond]
  exact if_congr (by omega) rfl rfl

/-- The predicates of SCMP on two 64-bit values (Table 3-7). -/
theorem cmpPred_double (p : Nat) (a b : W64) : cmpPred 64 p a.toNat b.toNat =
    match p with
    | 0 => decide (a = b)
    | 1 => decide (a ≠ b)
    | 2 => decide (a.toInt < b.toInt)
    | 3 => decide (a.toInt ≤ b.toInt)
    | 4 => decide (b.toInt < a.toInt)
    | 5 => decide (b.toInt ≤ a.toInt)
    | 6 => decide (a.toNat < b.toNat)
    | 7 => decide (a.toNat ≤ b.toNat)
    | 8 => decide (b.toNat < a.toNat)
    | _ => decide (b.toNat ≤ a.toNat) := by
  have heq : (a.toNat == b.toNat) = decide (a = b) := decide_eq_decide.mpr BitVec.toNat_inj
  have hne : (a.toNat != b.toNat) = decide (a ≠ b) := (congrArg not heq).trans (decide_not ..).symm
  unfold cmpPred
  simp only [sextNat_double, Nat.mod_eq_of_lt a.isLt, Nat.mod_eq_of_lt b.isLt, heq, hne] <;> rfl

/-! Immediates. -/

theorem setWidth_double (v : BitVec 30) : v.setWidth 64 = BitVec.ofNat 64 v.toNat := (BitVec.ofNat_toNat ..).symm

/-- An immediate over the low half of a register (Table 3-7). -/
theorem high_half (k : W64) (v : BitVec 30) :
    pair64 (lo32 k) (v.signExtend 32) = BitVec.ofInt 64 (v.toInt * 2 ^ 32 + (k.toNat % 2 ^ 32 : Nat)) := by
  apply BitVec.eq_of_toNat_eq
  have hv : (v.signExtend 32).toNat = (v.toInt % (2 ^ 32 : Nat)).toNat := BitVec.toNat_ofInt ..
  rw [toNat_pair64, lo32_toNat, hv, BitVec.toNat_ofInt]
  omega

/-! Counts. -/

/-- The set bits below `n` in number. -/
theorem popNat_eq (n x : Nat) : popNat n x = ((List.range n).filter (fun k => x.testBit k)).length := by
  induction n generalizing x with
  | zero => rfl
  | succ n ih =>
    have hshift : ((List.range n).map Nat.succ).filter (fun k => x.testBit k) =
        ((List.range n).filter (fun k => (x / 2).testBit k)).map Nat.succ := by
      rw [List.filter_map]
      exact congrArg _ (List.filter_congr fun k _ => Nat.testBit_succ x k)
    rw [popNat, ih, List.range_succ_eq_map, List.filter_cons, hshift, Nat.testBit_zero]
    rcases Nat.mod_two_eq_zero_or_one x with h | h <;> simp [h, Nat.add_comm]

/-- The zero bits above the highest set one, and all of them where none is set. -/
theorem leadingZeros_spec {w x : Nat} (hx : x < 2 ^ w) : leadingZeros w x ≤ w ∧ x < 2 ^ (w - leadingZeros w x) ∧
    (leadingZeros w x < w → 2 ^ (w - 1 - leadingZeros w x) ≤ x) := by
  unfold leadingZeros
  split
  case isTrue h => exact ⟨le_rfl, by simp [h], fun hw => absurd hw (lt_irrefl w)⟩
  case isFalse h =>
    have hlog : Nat.log2 x < w := (Nat.log2_lt h).mpr hx
    refine ⟨by omega, ?_, fun _ => ?_⟩
    · rw [show w - (w - 1 - Nat.log2 x) = Nat.log2 x + 1 by omega]
      exact Nat.lt_log2_self
    · rw [show w - 1 - (w - 1 - Nat.log2 x) = Nat.log2 x by omega]
      exact Nat.log2_self_le h

/-- The zero bits below the lowest set one, and all of them where none is set. -/
theorem lowestSet_spec (n i x : Nat) : ∃ k, (lowestSet n i x).getD (i + n) = i + k ∧ k ≤ n ∧ (∀ j, j < k → x.testBit j = false) ∧
    (k < n → x.testBit k = true) := by
  induction n generalizing i x with
  | zero => exact ⟨0, rfl, le_rfl, fun j hj => absurd hj (Nat.not_lt_zero j), fun h => absurd h (lt_irrefl 0)⟩
  | succ n ih =>
    by_cases h : x % 2 = 1
    · exact ⟨0, by rw [lowestSet, if_pos h]; rfl, Nat.zero_le _, fun j hj => absurd hj (Nat.not_lt_zero j), fun _ => by simp [h]⟩
    · obtain ⟨k, hk, hle, hlow, hset⟩ := ih (i + 1) (x / 2)
      refine ⟨k + 1, ?_, by omega, fun j hj => ?_, fun hlt => ?_⟩
      · rw [lowestSet, if_neg h, show i + (n + 1) = i + 1 + n by omega, hk]
        omega
      · cases j with
        | zero => simp [h]
        | succ j => rw [Nat.testBit_succ]; exact hlow j (by omega)
      · rw [Nat.testBit_succ]
        exact hset (by omega)

/-- Settles O24: each instruction posts one value, which is the operand, the bit or the count that the statement names. -/
theorem scalarSelect : Obligations.ScalarSelect := by
  refine ⟨?_, ?_⟩
  · rintro o s _ _ lt rfl rfl hlt
    refine ⟨fun hr => ⟨fun h => posts_scalar2 rfl hr rfl ((select_by_reading hlt _ _ _ _).1 h),
        fun h => posts_scalar2 rfl hr rfl ((select_by_reading hlt _ _ _ _).2 h)⟩,
      fun hr => ⟨fun h => posts_scalar2 rfl hr rfl ((select_by_reading hlt _ _ _ _).1 h),
        fun h => posts_scalar2 rfl hr rfl ((select_by_reading hlt _ _ _ _).2 h)⟩,
      fun hr => ⟨_, posts_scalar2 rfl hr rfl rfl, ?_⟩, fun hr => posts_scalar rfl hr rfl ?select,
      fun hr => posts_scalar rfl hr rfl rfl, fun v hr hx => ⟨fun ha => posts_scalar rfl hr rfl ?sign,
        fun ha => posts_scalar rfl hr rfl ?zero, fun ha => posts_scalar rfl hr rfl ?high⟩⟩
    case select => rw [ite_not]
    case sign => simp only [hx, ha, if_true]; rfl
    case zero => simp only [hx, ha, setWidth_double]; rfl
    case high => simp only [hx, ha, high_half]; rfl
    rw [cmpPred_double]
    refine ⟨?_, ?_, ?_, ?_, ?_, ?_, ?_, ?_, ?_, ?_⟩
    all_goals
      intro h
      rw [h]
      exact decide_eq_true_iff
  · rintro o s _ rfl
    refine ⟨fun hr => posts_scalar rfl hr rfl (congrArg _ (popNat_eq _ _)),
      fun hr => ⟨_, posts_scalar rfl hr rfl rfl, leadingZeros_spec (BitVec.isLt _)⟩, fun hr => ?_⟩
    obtain ⟨n, hn, hle, hlow, hset⟩ := lowestSet_spec 64 0 (rdS s o.a.toNat).toNat
    rw [Nat.zero_add, Nat.zero_add] at hn
    exact ⟨n, posts_scalar rfl hr rfl (congrArg _ hn), hle, hlow, hset⟩

end Sys2Proof.Proofs
end

section
/-! PROOF. Vector logic, shifts, selects, counts and bit fields (R421, R422, R424, R425): each posts its lanes' results without a flag, and
the shifts and fields in numbers. -/

namespace Sys2Proof.Proofs

open Sys2Proof.Machine Sys2Proof.Safety Sys2Proof.Laws

/-- An instruction whose body is an operation on raw elements posts it. -/
theorem postsLanes_raw {i : Instr} {s : State} {o : Opnd} {f f' : Nat → Nat → Nat → Nat → Nat} {body : State → Res (Option W64)}
    (hx : exec i s = runI i s body) (hr : ready i s = true) (hp : settles i = false) (hb : body s = rawOp 2 o f s)
    (hf : ∀ w a b c, f w a b c = f' w a b c) : PostsLanes i s 2 o.d.toNat (rawLane s o f') := by
  obtain rfl : f = f' := funext fun w => funext fun a => funext fun b => funext fun c => hf w a b c
  exact postsLanes_of_body hx hr hp hb

theorem indexed_map_snd {α : Type} (k : Nat) (l : List α) : (indexed k l).map (·.2) = l := by
  induction l generalizing k with
  | nil => rfl
  | cons x r ih => rw [indexed, List.map_cons, ih]

/-- An operation on one source maps its elements. -/
theorem rawLane_unary (s : State) (o : Opnd) (f : Nat → Nat → Nat) (i : Nat) : rawLane s o (fun w a _ _ => f w a) i =
    ((regElems s (etOf s) o.a.toNat i).map (f (elemBits (etOf s))), 0) := by
  conv_rhs => rw [← indexed_map_snd 0 (regElems s (etOf s) o.a.toNat i)]
  simp only [rawLane, elems3, List.map_map]
  rfl

/-- A shift of a signed element divides with floor (R422). -/
theorem floor_shift (w a n : Nat) : ((sextNat w a / (2 ^ n : Nat)) % (2 ^ w : Nat)).toNat = (BitVec.ofInt w (sextNat w a / 2 ^ n)).toNat := by
  rw [BitVec.toNat_ofInt]
  norm_cast

/-- The field that B names (R425). -/
theorem bfield_eq {p u : Nat → Nat} (hp : ∀ b, p b = b % 32) (hu : ∀ b, u b = min (b / 256 % 64) (32 - b % 32)) (b : Nat) :
    bfield b = (p b, u b) := by
  rw [hp, hu]
  simp [bfield, bitsOf, Nat.shiftRight_eq_div_pow]

theorem bitsOf_eq (x lo n : Nat) : bitsOf x lo n = x / 2 ^ lo % 2 ^ n := by
  rw [bitsOf, Nat.shiftRight_eq_div_pow]

/-- Settles O26: each instruction posts its lanes' results, and a lane is its operation on the elements. -/
theorem vectorLogicShift : Obligations.VectorLogicShift := by
  refine ⟨fun o s => ⟨fun hr => postsLanes_of_body rfl hr rfl rfl, fun hr => postsLanes_of_body rfl hr rfl rfl,
    fun hr => postsLanes_of_body rfl hr rfl rfl, fun hr => postsLanes_raw rfl hr rfl rfl fun w a b _ => ?left,
    fun hr => postsLanes_raw rfl hr rfl rfl fun w a b _ => ?right, fun hr => postsLanes_raw rfl hr rfl rfl fun w a b _ => floor_shift w a _,
    fun hr => postsLanes_of_body rfl hr rfl rfl, fun hr => postsLanes_of_body rfl hr rfl rfl,
    fun v hr hx => postsLanes_of_body rfl hr rfl ?immediate, fun k hr hx hb => postsLanes_of_body rfl hr rfl ?broadcast,
    fun hr => ?population, fun hr => ?leading⟩, fun o s p u _ hp hu =>
      ⟨fun hr => postsLanes_raw rfl hr rfl rfl fun w a b _ => ?extract, fun hr => postsLanes_raw rfl hr rfl rfl fun w a b c => ?insert⟩⟩
  case left => rw [Nat.shiftLeft_eq]
  case right => rw [Nat.shiftRight_eq_div_pow]
  case immediate => simp only [vectorTo, elemsB, hx]
  case broadcast => simp only [vectorTo, elemsB, hx, hb, if_true]
  case population =>
    simp only [← popNat_eq, ← rawLane_unary s o popNat]
    exact postsLanes_of_body rfl hr rfl rfl
  case leading =>
    simp only [← rawLane_unary s o leadingZeros]
    exact postsLanes_of_body rfl hr rfl rfl
  case extract =>
    rw [bfield_eq hp hu]
    simp only [bitsOf_eq, BitVec.toNat_ofInt]
  case insert =>
    rw [bfield_eq hp hu]
    simp only [bitsOf_eq, pow_zero, Nat.div_one]

end Sys2Proof.Proofs
end

section
/-! PROOF. TCFG (R67, R415, Tables 2-3 and 2-4): its words, the values that TCTL takes, and the trap of any other. -/

namespace Sys2Proof.Proofs

open Sys2Proof.Machine Sys2Proof.Safety Sys2Proof.Laws

/-- Sub-code 0x05 is the first that is looked for (R94). -/
theorem illegalSub_eq_05 (s : State) (i : Instr) : illegalSub s i = some 0x05 ↔ (!ok05 i || bad05 s i) = true := by
  unfold illegalSub
  split_ifs <;> simp_all

/-- A TCFG that Table 3-6 accepts is refused for its value only (R67). -/
theorem bad05_tcfg {o : Opnd} {s : State} (h : ok05 (.tcfg o) = true) (ha : regExists s.g.part .s o.a.toNat = true) :
    bad05 s (.tcfg o) = !tctlOk (rdS s o.a.toNat) := by
  cases hx : o.x with
  | bro k => simp [bad05, opnd, hx, ha, bsc_of_ok05 h hx rfl]
  | none | imm | par => simp [bad05, opnd, hx, ha]

/-- The fields of a TCTL value and their limits in numbers (Tables 2-3 and 2-4). -/
theorem tctlOk_iff (w : W64) : tctlOk w = true ↔ w.toNat % 16 ≤ 9 ∧ 1 ≤ w.toNat / 16 % 128 ∧ w.toNat / 16 % 128 ≤ 64 ∧
    1 ≤ w.toNat / 2048 % 256 ∧ w.toNat / 2048 % 256 ≤ (if w.toNat % 16 ≤ 3 then 64 else if w.toNat % 16 ≤ 5 then 128
      else if w.toNat % 16 ≤ 7 then 32 else if w.toNat % 16 = 8 then 16 else 8) ∧ w.toNat < 2 ^ 19 := by
  have htt : tcTT w = w.toNat % 16 := by simp [tcTT, fld, bitsOf_eq]
  have hrows : tcRows w = w.toNat / 16 % 128 := by simp [tcRows, fld, bitsOf_eq]
  have hcols : tcCols w = w.toNat / 2048 % 256 := by simp [tcCols, fld, bitsOf_eq]
  rw [tctlOk, decide_eq_true_eq, htt, hrows, hcols, colsLimit]

/-- A posted result changes no tile byte. -/
theorem post_tiles (l : Nat) (e : Effect) (g : Group) : (post l e g).t = g.t := by
  obtain ⟨v, s, gm, tc, fp, h⟩ := foldEff_frame (g.pend.filter (fun p => sameTarget p.eff e)) g
  simp only [post, flushTarget, h]

/-- The handler of an illegal word finds the tiles and the settled TCTL of the group (R264). -/
theorem illegal_keeps_tctl {i : Instr} {s : State} {n : Nat} (hw : isWord i = true) (hi : s.g.inflight = []) (hp : s.g.priv = false)
    (hv : bit s.g.tvec 63 = true) (hr : partSR s.g.part = 3) (hn : n < 256) (h : illegalSub s i = some n) : ∃ s', Ends i s s' ∧
      s'.g.tcause = BitVec.ofNat 64 (1 + n * 256) ∧ s'.g.tctl = (completeAll s.g).tctl ∧ s'.g.t = s.g.t := by
  obtain ⟨v, sc, gm, tc, fp, hc, ht⟩ := trapped_eq (illegalTrap n s) s
  have hcause := tcause_illegal n s
  rw [Nat.mod_eq_of_lt hn] at hcause
  refine ⟨_, illegal_handled hw hi hp hv hr h, ?_⟩
  rw [hc, ht]
  exact ⟨hcause, rfl, rfl⟩

/-- Settles O60: the words of TCFG as those of a row without extension word, and the check of its value. -/
theorem tileControl : Obligations.TileControl := by
  refine ⟨fun st d a w1 => decode_encodeFirst (i := .tcfg ⟨st, d, a, 0, .none⟩) rfl rfl rfl rfl w1,
    fun w0 w1 o n h => decode_bare h fun x hx => extAccepted_bare rfl rfl rfl hx, by decide, ?_⟩
  rintro o s _ _ _ _ _ rfl rfl rfl rfl rfl
  refine ⟨fun hb h => hb (fieldB_zero h rfl rfl),
    fun hr => ⟨completes_of_body rfl hr rfl ((post_live _ _ _).trans (ready_live hr)) rfl, post_tiles _ _ _⟩, fun h5 ha => ?_,
    fun h _ hi hp hv hsr => illegal_keeps_tctl rfl hi hp hv hsr (by decide) h⟩
  rw [illegalSub_eq_05, h5, bad05_tcfg h5 ha, ← tctlOk_iff]
  simp

end Sys2Proof.Proofs
end
